-- ==== Sys2Proof/Word.lean ====
section
/-! DEFINITION. Words of the GZ4 and the plainest arithmetic on them (R5, R84). -/
namespace Sys2Proof

/-- One byte. -/
abbrev Byte := BitVec 8
/-- A parcel, a vector register of one lane (R83, R93). -/
abbrev W32 := BitVec 32
/-- A scalar register, a mask over 64 lanes, an address (R87, R136). -/
abbrev W64 := BitVec 64

/-- A map by number, held as a list in rising key order that never lists the default. -/
abbrev Sparse (α : Type) := List (Nat × α)

end Sys2Proof
end

