-- ==== Sys2Proof/Config.lean ====
section
/-! DEFINITION. The fixed figures of the part (R4, R14) and the free values: constants with no body, so that no proof
can lean on what they are. Each free value has a row in notes/assumptions. -/
namespace Sys2Proof.Config

/-- Extra latency in cc above the least of R353, for the n-th choice (R353, R356). -/
opaque freeDelay : Nat → Nat
/-- A byte the spec calls undefined (R54, R256, R312). -/
opaque freeByte : Nat → Byte
/-- A yes or no the spec leaves to the device (R196, R307). -/
opaque freeBit : Nat → Bool
/-- Where manufacturing test placed the spares: a number per die and spare (R19). -/
opaque freeSpare : Nat → Nat → Nat
/-- The planned supply offset, its limit and the slack that test measured for a unit (R315). -/
opaque freeVstep : Nat → Nat
opaque freeVmax : Nat → Nat
opaque freeMargin : Nat → Nat
/-- The fitted change of MARGIN per 30 days from the readings of the last 180 days (R316). -/
opaque freeTrend : List (Nat × Int) → Int
/-- The page pool, in frames, of a context made in basic form (R281, R336). -/
opaque freePool : Nat
/-- The slack in ps that a unit's monitors measure at a supply offset on a day (R316). -/
opaque freeSlack (unit vstep day : Nat) : Nat
/-- The 64-byte physical block that a line of an array holds, and a team-memory line's place: resident team and block (R322). -/
opaque freeLineBlock : Nat → Nat → Nat
opaque freeTeamBlock : Nat → Nat → Nat × Nat
/-- The register of a core's register file behind a line: resident team, group slot, and v or s register as `Regs.bad` numbers them (R324). -/
opaque freeRegister : Nat → Nat → Nat × Nat × Nat
/-- The row of a bank's line, and the 4 KiB frames of a row (R326). -/
opaque freeRowOf : Nat → Nat → Nat
opaque freeRowFrames : Nat → Nat → List Nat
/-- Where firmware looks for its n-th free frame (R338). -/
opaque freeFrame : Nat → Nat
/-- Firmware's n-th choice in building a group's trees on this device, from the home switch, the group, the EPOCH and the other ranks (R285,
R343): which switches and ports the tree takes, and whether its root is here. -/
opaque freeTree (home cgrp epoch : Nat) (others : List Nat) (n : Nat) : Nat
/-- The network outside routes an Ultra Ethernet port toward an endpoint (R285, R343). -/
opaque routed (port endpoint : Nat) : Bool
/-- A byte of the nonce of the n-th session (R334). -/
opaque freeNonce : Nat → Nat → Byte
/-- The 32-byte nonce of the n-th session (R334). -/
def nonce (n : Nat) : List Byte := (List.range 32).map (freeNonce n)

def cores : Nat := 192
/-- COORD values of the 48 tiles of a die (R10, R12). -/
def dieCoords (d : Nat) : List Nat :=
  (List.range 6).flatMap fun r => (List.range 8).map fun c => d * 64 + r * 8 + c
def allCoords : List Nat := (List.range 4).flatMap dieCoords
/-- A COORD names a tile when ROW is at most 5 (R12). -/
def coordOk (c : Nat) : Bool := c < 256 && (c / 8) % 8 < 6
def coordDie (c : Nat) : Nat := c / 64 % 4
def coordRow (c : Nat) : Nat := c / 8 % 8
def coordCol (c : Nat) : Nat := c % 8
def mkCoord (d r c : Nat) : Nat := d * 64 + r * 8 + c

/-- cc in one millisecond, second, day at 1.3 GHz (R4, R278). -/
def ccPerMs : Nat := 1300000
def ccPerSec : Nat := 1300000000
def ccPerDay : Nat := ccPerSec * 86400
/-- The default time slice and PARKMAX (R233). -/
def defaultSlice : Nat := 5200000
def defaultParkMax : Nat := 75
/-- The patterns of an ember pass (R317). -/
def emberCc : Nat := 52000
/-- 4 KiB frames of the package and of a die: 192 GiB (R4, R10). -/
def framesPerDie : Nat := 48 * 262144
def frameCount : Nat := 4 * framesPerDie
/-- The vigil reserve (R234). -/
def vigil : Nat := 4
/-- mesh clocks to cc, rounded up: 2.0 GHz against 1.3 GHz (R4). -/
def meshCc (m : Nat) : Nat := (m * 13 + 19) / 20

/-- The least mesh clocks from one tile to another (R10, R11, R353): 2 for each router crossed, 24 for each bridge. Dies 0 and 1 are the
northern ones, 0 and 2 the western (R17). -/
def meshWay (a b : Nat) : Nat :=
  let x (c : Nat) : Nat := coordCol c + 8 * (coordDie c % 2)
  let y (c : Nat) : Nat := coordRow c + 6 * (coordDie c / 2)
  let gap (m n : Nat) : Nat := max m n - min m n
  let bridges := (if coordDie a % 2 = coordDie b % 2 then 0 else 1) + (if coordDie a / 2 = coordDie b / 2 then 0 else 1)
  2 * (gap (x a) (x b) + gap (y a) (y b) - bridges) + 24 * bridges

/-- The n-th element left after removing those already taken. -/
def pickNth (n : Nat) (l : List Nat) : Nat := l.getD (n % (if l.length = 0 then 1 else l.length)) 0
/-- Four distinct tiles of a die, wherever manufacturing test put them (R19). -/
def spares (d : Nat) : List Nat :=
  (List.range 4).foldl (fun acc j =>
    acc ++ [pickNth (freeSpare d j) ((dieCoords d).filter fun c => !acc.contains c)]) []

end Sys2Proof.Config
end

