-- ==== Sys2Proof/Syntax.lean ====
section
/-! DEFINITION. The steps of the machine as data: one constructor of Instr per row of the opcode table. The full forms
carry the fields of R84, the short forms those of R97, the pair slots the whole pair word of R99, the events and commands
what the spec says they act on. -/
namespace Sys2Proof

/-- The type codes of R102, in the order of TY. -/
inductive Ty where
  | i32 | n32 | i16 | n16 | i8 | n8 | i64 | n64 | f32 | bf16 | f16 | f8e4 | f8e5 | ob8 | ob4 | cb2
  deriving DecidableEq, Repr

/-- A decoded operand field (R87). An immediate holds its value in two's complement (R88). -/
inductive Opnd where
  | v (n : Fin 248) | qi (n : Fin 4) | qo (n : Fin 4)
  | s (n : Fin 64) | k (n : Fin 8) | m (n : Fin 8)
  | lane | pcv | live | act
  | lit | imm (x : BitVec 7)
  deriving DecidableEq, Repr

/-- The fields of a full-form word, F64 when `lit` is none and L96 otherwise (R84, R86). -/
structure Full where
  sub : BitVec 4
  ty : Ty
  d : Opnd
  a : Opnd
  b : Opnd
  c : Opnd
  wa : Bool
  wb : Bool
  wc : Bool
  gap : BitVec 3
  yld : Bool
  grd : Fin 8
  lit : Option W32
  deriving DecidableEq, Repr

/-- The major opcodes of R103, in the order of the map. -/
inductive Op where
  | sadd | ssub | smul | smulh | sand | sor | sxor | sshl | sshr | smin | smax | smov | ssel | scmp | slea | sget | sset | spopc | sclz | iadd | isub
  | imul | imulh | imad | imin | imax | iabs | ineg | andI | orI | xorI | andn | shl | shr | sra | rol | popc | clz | brev | bfe | bfi | icmp | sel |
  mov | movk | idot4 | fadd | fsub | fmul | ffma | fmin | fmax | fabs | fneg | fcmp | fclass | frnd | fscale | fdot2 | frcp | frsq | fsqrt | fexp2 |
  flog2 | fsin | fcos | ftanh | cvt | cbdec | obdec | perm | shfl | bcast | vote | matchI | scan | lred | elect | mclr | macc | maccw | mmerge | mlane
  | mget | mput | mnorm | ld | st | ldacq | strel | atom | red | fence | pref | probe | ldstrm | ststrm | bra | jmpi | call | ret | exit | nop | pause
  | bar | barc | waitge | trap | tryOpen | tryClose | throwI | rethrow | spawn | setmode | getmode | bkpt | cpy | cpyt | cpycan | ctradd | qpush |
  qpop | qsteal | tsubmit | rget | rput | rfree | rsv | rls | mzero | mma | mmap | mmas | mdrain | mfence
  deriving DecidableEq, Repr

/-- The pair opcodes of R101. -/
inductive PairOp where
  | mov | iadd | isub | imin | imax | andP | orP | xorP | fadd | fmul | fmin | fmax
  deriving DecidableEq, Repr

/-- One slot of a pair word without its opcode (R99). -/
structure PairSlot where
  d : BitVec 8
  a : BitVec 8
  immf : Bool
  grd : Fin 8
  deriving DecidableEq, Repr

/-- A pair word less the opcode of slot X, which the constructor names (R99). -/
structure PairWord where
  x : PairSlot
  gap : BitVec 3
  yld : Bool
  yop : PairOp
  y : PairSlot
  deriving DecidableEq, Repr

/-- A group: the resident team's number and the group slot. -/
structure GRef where
  team : Nat
  slot : Nat
  deriving DecidableEq, Repr

/-- A region instance that can be thrown into (R49 to R52). -/
inductive RegionId where
  | group (team slot uid : Nat)
  | team (team inst : Nat)
  | grid (launch : Nat)
  deriving DecidableEq, Repr

/-- A unit with an almanac record (R315). -/
inductive UnitId where
  | core (coord : Nat) | slice (coord : Nat) | teamMem (coord : Nat)
  | bank (coord layer bank : Nat)
  | port (n : Nat) | bridge (n : Nat) | quadrant (die q : Nat) | mgmt (die : Nat)
  deriving DecidableEq, Repr

/-- What a scrub finds (R322). -/
inductive ScrubOutcome where
  | clean | corrected | uncorrectable
  deriving DecidableEq, Repr

/-- A link with lanes (R327). -/
inductive LinkId where
  | port (n : Nat) | bridge (n : Nat)
  deriving DecidableEq, Repr

/-- The header of a command (R333): its session, LEN, FORM, TAG and CTX. -/
structure Hdr where
  session : Nat
  len : Nat
  form : Nat
  tag : Nat
  ctx : Nat
  /-- Bytes 3 and 18 to 23, which are zero. -/
  zeros : Nat := 0
  /-- CODE, of a message whose CODE names no command. -/
  unknown : Option Nat := none
  /-- Whose session it came from: the model's own, kept with a command that is not over (R335). -/
  principal : Option Nat := none
  deriving DecidableEq, Repr

/-- The settings of CTX_CREATE, the expert ones among them (R336). -/
structure CtxParams where
  urgent : Bool
  ring : Nat
  serviceTimeout : Option Nat
  faultLimit : Nat
  parkMax : Nat
  slice : Nat
  pool : Nat
  hold : Bool
  cancelOnFail : Bool
  /-- The context's own vigil reserve (R330). -/
  vigil : Option Nat := none
  deriving DecidableEq, Repr

/-- The body of MAP (R338). -/
structure MapBody where
  va : Nat
  len : Nat
  page : Nat
  rd : Bool
  wr : Bool
  code : Bool
  key : Nat
  home : Nat
  remap : Bool
  deriving DecidableEq, Repr

/-- The body of IMG_LOAD (R340). -/
structure ImgBody where
  image : Nat
  final : Bool
  offset : Nat
  codeBase : Nat
  dataVa : Nat
  codeSize : Nat
  dataSize : Nat
  kSize : Nat
  rCount : Nat
  bytes : List Byte
  deriving DecidableEq, Repr

/-- The body of LAUNCH (R341). -/
structure LaunchBody where
  image : Nat
  kernel : Nat
  lanes : Nat
  clusters : Nat
  args : Nat
  mode : W64
  abuf : Nat
  wbuf : Nat
  cbuf : Nat
  srCap : Nat
  srBase : Nat
  qBase : List Nat
  cgrp : Nat
  rbase : Nat
  memb : BitVec 16
  flags : BitVec 16
  catchOff : Nat
  cteam : Nat
  cpos : Nat
  deriving DecidableEq, Repr

/-- What SPARE spares: a DRAM row, a team-memory line or a link lane (R330). -/
inductive SpareBody where
  | row (coord layer bank row : Nat) | line (coord line : Nat) | lane (l : LinkId)
  deriving DecidableEq, Repr

/-- What RETIRE retires (R328, R329). -/
inductive RetireBody where
  | core (coord : Nat) | quadrant (die q : Nat)
  deriving DecidableEq, Repr

/-- The body of RANKMAP: the own rank, an endpoint per rank, and a collective group to establish with its members (R343). -/
structure RankBody where
  rank : Nat
  endpoints : List (Nat × Nat)
  group : Option (Nat × List Nat)
  deriving DecidableEq, Repr

/-- A switch tree entry with the fields of R286. -/
structure TreeEntry where
  cgrp : Nat
  v : Bool
  root : Bool
  parent : Nat
  child : BitVec 8
  epoch : Nat
  down : BitVec 8
  deriving DecidableEq, Repr

/-- What a debug command names (R344). -/
inductive HaltTarget where
  | group (g : GRef) | team (t : Nat) | context
  deriving DecidableEq, Repr

/-- The signature of a reducing call (R255) with the code offset of its word (R287). -/
structure CollSig where
  count : Nat
  ty : Nat
  op : Nat
  memb : Nat
  repl : Nat
  rbase : Nat
  codeOff : Nat
  deriving DecidableEq, Repr

/-- A contribution on its way to a reduction slot (R287): switch, port, slot name, signature, elements (f32 bit patterns, integers or
triples of 32-bit words, as the operator has them), or a mismatch mark. -/
structure Contribution where
  sw : Nat
  port : Nat
  cgrp : Nat
  seq : Nat
  chunk : Nat
  sig : CollSig
  elems : List Nat
  mismatch : Bool
  /-- Where the chunk goes on a destination rank: space, tile counter, the address of each element, bytes an element. -/
  space : Nat
  tileCtr : Nat
  dsts : List Nat
  z : Nat
  deriving DecidableEq, Repr

/-- A chunk that arrives to be written on this rank (R314, R255): context, launch, die, call, the destination space with its
addresses and bytes, the tile counter, and the number of this rank's own call and of the chunk in it (0 when the rank is no
member or has none). -/
structure ReducedChunk where
  ctx : Nat
  launch : Nat
  die : Nat
  cgrp : Nat
  seq : Nat
  tileCtr : Nat
  space : Nat
  writes : List (Nat × Byte)
  size : Nat
  op : Nat
  chunk : Nat
  mismatch : Bool
  /-- A chunk of a peer's CPYT without a reduce operator. -/
  plain : Bool
  deriving DecidableEq, Repr

/-- Every step of the opcode table, one constructor per row. -/
inductive Instr where
  /-- SADD (R136): Scalar 64-bit add, executed once for the group. -/
  | sadd (w : Full)
  /-- SSUB (R136): Scalar 64-bit subtract. -/
  | ssub (w : Full)
  /-- SMUL (R136): Scalar multiply, low 64 bits of the product. -/
  | smul (w : Full)
  /-- SMULH (R136): Scalar multiply, high 64 bits of the exact 128-bit product. -/
  | smulh (w : Full)
  /-- SAND (R136): Scalar bitwise and. -/
  | sand (w : Full)
  /-- SOR (R136): Scalar bitwise or. -/
  | sor (w : Full)
  /-- SXOR (R136): Scalar bitwise exclusive or. -/
  | sxor (w : Full)
  /-- SSHL (R136): Scalar shift left by B mod 64. -/
  | sshl (w : Full)
  /-- SSHR (R136): Scalar shift right, arithmetic for i64 and logical for n64. -/
  | sshr (w : Full)
  /-- SMIN (R136): Scalar minimum. -/
  | smin (w : Full)
  /-- SMAX (R136): Scalar maximum. -/
  | smax (w : Full)
  /-- SMOV (R136): Scalar move. -/
  | smov (w : Full)
  /-- SSEL (R136): Scalar select of A or B by C. -/
  | ssel (w : Full)
  /-- SCMP (R136): Scalar compare writing a uniform k register. -/
  | scmp (w : Full)
  /-- SLEA (R136): Scalar A plus B shifted left by the SUB scale. -/
  | slea (w : Full)
  /-- SGET (R137): Reads a special register such as GROUPID, CLOCK or ARGS into an s register. -/
  | sget (w : Full)
  /-- SSET (R138): Writes MODE (.mode) or pauses the group (.pause). -/
  | sset (w : Full)
  /-- SPOPC (R136): Scalar population count. -/
  | spopc (w : Full)
  /-- SCLZ (R136): Scalar count of leading zeros. -/
  | sclz (w : Full)
  /-- IADD (R139): Vector integer add, wrapping or saturating (full form). -/
  | iadd (w : Full)
  /-- ISUB (R139): Vector integer subtract (full form). -/
  | isub (w : Full)
  /-- IMUL (R139): Vector integer multiply. -/
  | imul (w : Full)
  /-- IMULH (R139): Vector integer multiply, high half. -/
  | imulh (w : Full)
  /-- IMAD (R139): Vector integer multiply-add. -/
  | imad (w : Full)
  /-- IMIN (R139): Vector integer minimum (full form). -/
  | imin (w : Full)
  /-- IMAX (R139): Vector integer maximum (full form). -/
  | imax (w : Full)
  /-- IABS (R139): Vector integer absolute value. -/
  | iabs (w : Full)
  /-- INEG (R139): Vector integer negate. -/
  | ineg (w : Full)
  /-- AND (R139): Vector bitwise and (full form). -/
  | andI (w : Full)
  /-- OR (R139): Vector bitwise or (full form). -/
  | orI (w : Full)
  /-- XOR (R139): Vector bitwise exclusive or (full form). -/
  | xorI (w : Full)
  /-- ANDN (R139): Vector a and not b. -/
  | andn (w : Full)
  /-- SHL (R139): Vector shift left (full form). -/
  | shl (w : Full)
  /-- SHR (R139): Vector logical shift right (full form). -/
  | shr (w : Full)
  /-- SRA (R139): Vector arithmetic shift right. -/
  | sra (w : Full)
  /-- ROL (R139): Vector rotate left. -/
  | rol (w : Full)
  /-- POPC (R139): Vector population count. -/
  | popc (w : Full)
  /-- CLZ (R139): Vector count of leading zeros. -/
  | clz (w : Full)
  /-- BREV (R139): Vector bit reversal. -/
  | brev (w : Full)
  /-- BFE (R140): Vector bit-field extract. -/
  | bfe (w : Full)
  /-- BFI (R140): Vector bit-field insert. -/
  | bfi (w : Full)
  /-- ICMP (R139): Vector integer compare writing a k bit per lane. -/
  | icmp (w : Full)
  /-- SEL (R139): Vector select of A or B by a k register. -/
  | sel (w : Full)
  /-- MOV (R139): Vector move (full form). -/
  | mov (w : Full)
  /-- MOVK (R140): Moves between k bits and vector values (.v, .k, .lane). -/
  | movk (w : Full)
  /-- IDOT4 (R140): Four-way byte dot product with accumulate. -/
  | idot4 (w : Full)
  /-- FADD (R141): f32 add under MODE (full form). -/
  | fadd (w : Full)
  /-- FSUB (R141): f32 subtract under MODE. -/
  | fsub (w : Full)
  /-- FMUL (R141): f32 multiply under MODE (full form). -/
  | fmul (w : Full)
  /-- FFMA (R141): f32 fused multiply-add rounded once. -/
  | ffma (w : Full)
  /-- FMIN (R142): f32 minimum with NaN rules (full form). -/
  | fmin (w : Full)
  /-- FMAX (R142): f32 maximum with NaN rules (full form). -/
  | fmax (w : Full)
  /-- FABS (R142): Clears the sign bit. -/
  | fabs (w : Full)
  /-- FNEG (R142): Flips the sign bit. -/
  | fneg (w : Full)
  /-- FCMP (R142): f32 compare writing a k bit per lane. -/
  | fcmp (w : Full)
  /-- FCLASS (R143): Classifies an f32 into a one-hot n32. -/
  | fclass (w : Full)
  /-- FRND (R143): Rounds an f32 to an integral value. -/
  | frnd (w : Full)
  /-- FSCALE (R141): Multiplies by 2 to the power B, rounded once. -/
  | fscale (w : Full)
  /-- FDOT2 (R144): Two-element bf16 or f16 dot product plus f32, rounded once. -/
  | fdot2 (w : Full)
  /-- FRCP (R145): Correctly rounded reciprocal. -/
  | frcp (w : Full)
  /-- FRSQ (R145): Correctly rounded reciprocal square root. -/
  | frsq (w : Full)
  /-- FSQRT (R145): Correctly rounded square root. -/
  | fsqrt (w : Full)
  /-- FEXP2 (R145): Correctly rounded base-2 exponential. -/
  | fexp2 (w : Full)
  /-- FLOG2 (R145): Correctly rounded base-2 logarithm. -/
  | flog2 (w : Full)
  /-- FSIN (R145): Correctly rounded sine. -/
  | fsin (w : Full)
  /-- FCOS (R145): Correctly rounded cosine. -/
  | fcos (w : Full)
  /-- FTANH (R145): Correctly rounded hyperbolic tangent. -/
  | ftanh (w : Full)
  /-- CVT (R146): Converts between float and integer types with part selection. -/
  | cvt (w : Full)
  /-- CBDEC (R148): Decodes one cb2 codebook index into eight bf16 values. -/
  | cbdec (w : Full)
  /-- OBDEC (R149): Decodes ob8 or ob4 elements into bf16 values. -/
  | obdec (w : Full)
  /-- PERM (R151): Each lane reads A from a lane it names. -/
  | perm (w : Full)
  /-- SHFL (R151): Shuffle up, down or xor across lanes. -/
  | shfl (w : Full)
  /-- BCAST (R151): Broadcasts one lane's value. -/
  | bcast (w : Full)
  /-- VOTE (R151): All, any, ballot or count over participating lanes. -/
  | vote (w : Full)
  /-- MATCH (R151): Finds lanes with equal values. -/
  | matchI (w : Full)
  /-- SCAN (R152): Inclusive or exclusive prefix scan in lane order. -/
  | scan (w : Full)
  /-- LRED (R152): Tree reduction across lanes. -/
  | lred (w : Full)
  /-- ELECT (R151): Selects the lowest participating lane. -/
  | elect (w : Full)
  /-- MCLR (R153): Writes the empty statistics triple. -/
  | mclr (w : Full)
  /-- MACC (R127): Accumulates a value into a statistics triple. -/
  | macc (w : Full)
  /-- MACCW (R127): Accumulates a weighted value into a statistics triple. -/
  | maccw (w : Full)
  /-- MMERGE (R128): Merges two statistics triples. -/
  | mmerge (w : Full)
  /-- MLANE (R154): Merges every lane's triple into lane 0 by a fixed tree. -/
  | mlane (w : Full)
  /-- MGET (R155): Reads count, mean, M2, variance or rstd of a triple. -/
  | mget (w : Full)
  /-- MPUT (R153): Builds a triple from three values. -/
  | mput (w : Full)
  /-- MNORM (R155): Normalises a value by a triple's mean and rstd. -/
  | mnorm (w : Full)
  /-- LD (R165): Issues a per-lane load from a space, marking destinations empty. -/
  | ld (w : Full)
  /-- ST (R165): Issues a per-lane store into the store path or space. -/
  | st (w : Full)
  /-- LDACQ (R167): Load with acquire at a scope. -/
  | ldacq (w : Full)
  /-- STREL (R167): Store with release at a scope. -/
  | strel (w : Full)
  /-- ATOM (R170): Sends a returning atomic per lane to the owner. -/
  | atom (w : Full)
  /-- RED (R171): Sends a non-returning reduction per lane to the owner. -/
  | red (w : Full)
  /-- FENCE (R169): Acquire, release or both at a scope for the group. -/
  | fence (w : Full)
  /-- PREF (R172): Prefetches a line into the L1 or L2. -/
  | pref (w : Full)
  /-- PROBE (R173): Reads the presence state of a team or abuf line. -/
  | probe (w : Full)
  /-- LDSTRM (R175): Queues a stream load descriptor on an input queue. -/
  | ldstrm (w : Full)
  /-- STSTRM (R176): Queues a stream store descriptor on an output queue. -/
  | ststrm (w : Full)
  /-- BRA (R201): Relative branch (full form). -/
  | bra (w : Full)
  /-- JMPI (R202): Indirect jump per lane. -/
  | jmpi (w : Full)
  /-- CALL (R203): Stores the return offset in team memory and jumps. -/
  | call (w : Full)
  /-- RET (R203): Loads a return offset from team memory and jumps to it. -/
  | ret (w : Full)
  /-- EXIT (R204): Ends the guarded lanes of Exec (full form). -/
  | exit (w : Full)
  /-- NOP (R205): Advances the PCs only (full form). -/
  | nop (w : Full)
  /-- PAUSE (R31): Lowers group priority (PAUSE n) or defers lanes (PAUSE.DEFER n). -/
  | pause (w : Full)
  /-- BAR (R206): Arrives at a team barrier instance and parks. -/
  | bar (w : Full)
  /-- BARC (R207): Arrives at a cluster barrier instance and parks. -/
  | barc (w : Full)
  /-- WAITGE (R209): Parks until a 64-bit counter reaches a target, with optional timeout. -/
  | waitge (w : Full)
  /-- TRAP (R210): Requests host service, one block per lane, and parks. -/
  | trap (w : Full)
  /-- TRY (R212): Opens a group or team try region. -/
  | tryOpen (w : Full)
  /-- ENDTRY (R213): Closes a group or team try region. -/
  | tryClose (w : Full)
  /-- THROW (R214): Throws a user code into each thrower's innermost region. -/
  | throwI (w : Full)
  /-- RETHROW (R215): Raises the caught record in the enclosing region. -/
  | rethrow (w : Full)
  /-- SPAWN (R220): Makes spawn records per lane and writes the acceptance mask. -/
  | spawn (w : Full)
  /-- SETMODE (R221): Writes, sets, clears or sets RM of MODE. -/
  | setmode (w : Full)
  /-- GETMODE (R221): Reads MODE into a register. -/
  | getmode (w : Full)
  /-- BKPT (R222): Halts the group after issue when a debug session enabled it. -/
  | bkpt (w : Full)
  /-- CPY (R250): Supplies a group's slice to the team's CPY instance and registers locks. -/
  | cpy (w : Full)
  /-- CPYT (R256): Starts a shaped tensor transfer or reduction from a shape record. -/
  | cpyt (w : Full)
  /-- CPYCAN (R257): Cancels copies and streams of the team naming a target. -/
  | cpycan (w : Full)
  /-- CTRADD (R258): Adds to a counter with release at a scope. -/
  | ctradd (w : Full)
  /-- QPUSH (R260): Places one record per lane in a hardware queue. -/
  | qpush (w : Full)
  /-- QPOP (R261): Takes records from a hardware queue, parking or non-blocking. -/
  | qpop (w : Full)
  /-- QSTEAL (R263): Sends steal requests to another core's queue. -/
  | qsteal (w : Full)
  /-- TSUBMIT (R264): Submits a task descriptor to the die's dependence table. -/
  | tsubmit (w : Full)
  /-- RGET (R267): Waits for a ring stage to be full or empty at a phase. -/
  | rget (w : Full)
  /-- RPUT (R268): Adds bytes to a ring stage with release. -/
  | rput (w : Full)
  /-- RFREE (R268): Empties a full stage and flips its phase. -/
  | rfree (w : Full)
  /-- RSV (R297): Copies a reservation record into a slot. -/
  | rsv (w : Full)
  /-- RLS (R297): Frees a reservation slot. -/
  | rls (w : Full)
  /-- MZERO (R301): Queues zeroing of a C-buffer tile. -/
  | mzero (w : Full)
  /-- MMA (R302): Queues a matrix multiply-accumulate into a tile. -/
  | mma (w : Full)
  /-- MMAP (R304): Queues a pair-wide multiply on leader and follower arrays. -/
  | mmap (w : Full)
  /-- MMAS (R303): Queues a 2:4 sparse multiply-accumulate. -/
  | mmas (w : Full)
  /-- MDRAIN (R308): Queues a tile drain to registers or a buffer. -/
  | mdrain (w : Full)
  /-- MFENCE (R310): Holds the group until earlier matrix operations retire. -/
  | mfence (w : Full)
  /-- MOV_S32 (R98): Short-form vector move. -/
  | movS32 (d a : BitVec 8)
  /-- IADD_S32 (R98): Short-form vector add. -/
  | iaddS32 (d a b : BitVec 8)
  /-- ISUB_S32 (R98): Short-form vector subtract. -/
  | isubS32 (d a b : BitVec 8)
  /-- AND_S32 (R98): Short-form bitwise and. -/
  | andS32 (d a b : BitVec 8)
  /-- OR_S32 (R98): Short-form bitwise or. -/
  | orS32 (d a b : BitVec 8)
  /-- XOR_S32 (R98): Short-form bitwise exclusive or. -/
  | xorS32 (d a b : BitVec 8)
  /-- SHL_S32 (R98): Short-form shift left by an immediate count. -/
  | shlS32 (d a n : BitVec 8)
  /-- SHR_S32 (R98): Short-form logical shift right by an immediate count. -/
  | shrS32 (d a n : BitVec 8)
  /-- FADD_S32 (R98): Short-form f32 add. -/
  | faddS32 (d a b : BitVec 8)
  /-- FMUL_S32 (R98): Short-form f32 multiply. -/
  | fmulS32 (d a b : BitVec 8)
  /-- IADD_IMM_S32 (R98): Short-form add of an 8-bit immediate. -/
  | iaddImmS32 (d a imm : BitVec 8)
  /-- MOV_IMM_S32 (R98): Short-form move of an 8-bit immediate. -/
  | movImmS32 (d imm : BitVec 8)
  /-- NOP_S32 (R98): Short-form no-operation. -/
  | nopS32
  /-- EXIT_S32 (R98): Short-form exit. -/
  | exitS32
  /-- BRA_S32 (R98): Short-form unconditional relative branch. -/
  | braS32 (off : BitVec 24)
  /-- PAUSE_S32 (R98): Short-form PAUSE with an 8-bit count. -/
  | pauseS32 (n : BitVec 8)
  /-- MOV_PAIR (R101): Pair slot move. -/
  | movPair (w : PairWord)
  /-- IADD_PAIR (R101): Pair slot add D := D + A. -/
  | iaddPair (w : PairWord)
  /-- ISUB_PAIR (R101): Pair slot subtract. -/
  | isubPair (w : PairWord)
  /-- IMIN_PAIR (R101): Pair slot signed minimum. -/
  | iminPair (w : PairWord)
  /-- IMAX_PAIR (R101): Pair slot signed maximum. -/
  | imaxPair (w : PairWord)
  /-- AND_PAIR (R101): Pair slot bitwise and. -/
  | andPair (w : PairWord)
  /-- OR_PAIR (R101): Pair slot bitwise or. -/
  | orPair (w : PairWord)
  /-- XOR_PAIR (R101): Pair slot bitwise exclusive or. -/
  | xorPair (w : PairWord)
  /-- FADD_PAIR (R101): Pair slot f32 add. -/
  | faddPair (w : PairWord)
  /-- FMUL_PAIR (R101): Pair slot f32 multiply. -/
  | fmulPair (w : PairWord)
  /-- FMIN_PAIR (R101): Pair slot f32 minimum. -/
  | fminPair (w : PairWord)
  /-- FMAX_PAIR (R101): Pair slot f32 maximum. -/
  | fmaxPair (w : PairWord)
  /-- ISSUE_SELECT (R228): Each cc a quarter picks one candidate group and computes its IssuePC and Exec. -/
  | issueSelect (coord q : Nat) (kaMiss : Bool)
  /-- AGE_PROMOTION (R35): A group's age reaches 64 and it is promoted above every class for one issue. -/
  | agePromotion (g : GRef)
  /-- PAUSE_END (R31): A PAUSE count runs out and the group regains its issue priority. -/
  | pauseEnd (g : GRef)
  /-- DEFER_END (R28): A lane's Defer count reaches zero and it rejoins the candidates. -/
  | deferEnd (g : GRef) (lane : Nat)
  /-- STEERING_END (R218): Every member is stopped, the merged record is written to every slot and members are steered to the catch. -/
  | steeringEnd (r : RegionId)
  /-- CATCH_TEAM_DISPATCH (R52): A catch team is dispatched afresh once its rectangle's cores are free. -/
  | catchTeamDispatch (launch : Nat)
  /-- LOAD_LANDING (R165): Load or remote-load data arrives, is written and marked full, waking waiters. -/
  | loadLanding (id : Nat)
  /-- STORE_ACK (R165): A store is performed at its point of coherence and acknowledged. -/
  | storeAck (id : Nat)
  /-- STORE_PATH_RELEASE (R167): A release-ordered access waiting in the store path is performed once its conditions hold. -/
  | storePathRelease (id : Nat)
  /-- ATOM_AT_OWNER (R170): The owner applies an atomic or reduction indivisibly and replies. -/
  | atomAtOwner (id : Nat)
  /-- ATOM_REPLY (R170): An atomic's old value lands in the lane's destination. -/
  | atomReply (id : Nat)
  /-- CTM_ARRIVAL (R166): A ctm access arrives at the target team memory and is checked for generation, presence and locks. -/
  | ctmArrival (id : Nat)
  /-- TABLE_WALK_COMPLETE (R242): A table walk finishes and installs a translation or raises a fault. -/
  | tableWalkComplete (id : Nat)
  /-- FAULT_SERVED (R238): A fault is served by a mapping and the access walks again. -/
  | faultServed (rec : Nat)
  /-- FAULT_LIMIT_EXPIRE (R238): No answer within the fault limit ends the fault as unresolvable. -/
  | faultLimitExpire (rec : Nat)
  /-- SHOOTDOWN_ACK (R243): A core removes matching TLB entries and acknowledges a shoot-down. -/
  | shootdownAck (id coord : Nat)
  /-- STREAM_LOAD_ELEMENT (R175): A stream load engine reads one element and pushes it to its input queue. -/
  | streamLoadElement (coord q : Nat)
  /-- STREAM_STORE_ELEMENT (R176): A stream store engine takes one entry and writes it. -/
  | streamStoreElement (coord q : Nat)
  /-- STREAM_COMPLETE (R176): A stream's last element is acknowledged and its counter receives 1. -/
  | streamComplete (id : Nat)
  /-- ENGINE_OP_START (R195): An engine operation starts once earlier stores are acknowledged. -/
  | engineOpStart (op : Nat)
  /-- CHUNK_START (R272): Deficit round robin starts a chunk's read on an engine. -/
  | chunkStart (engine : Nat)
  /-- CHUNK_COMPLETE (R251): A chunk's bytes are performed, presence bits set and its target counted. -/
  | chunkComplete (op chunk : Nat)
  /-- WAITGE_TIMEOUT (R209): A WAITGE deadline passes and E_TIMEOUT is raised. -/
  | waitgeTimeout (g : GRef)
  /-- MULTICAST_DROP (R277): A target drops a multicast packet on generation mismatch and the engine poisons the target. -/
  | multicastDrop (op chunk coord : Nat)
  /-- QUEUE_SPILL_START (R270): A spill of ring-bound queue records starts when a lock entry is free. -/
  | queueSpillStart (op : Nat)
  /-- QUEUE_SPILL_PERFORMED (R270): A spill's records are performed in the ring. -/
  | queueSpillPerformed (op : Nat)
  /-- QUEUE_REFILL_START (R270): A refill reserves on-chip entries and reads performed ring records. -/
  | queueRefillStart (team q : Nat)
  /-- QUEUE_REFILL_LANDING (R270): Refilled records land on chip together and H advances. -/
  | queueRefillLanding (op : Nat)
  /-- STEAL_REQUEST_SERVE (R263): A victim lends its oldest unlent record or answers none. -/
  | stealRequestServe (id : Nat)
  /-- STEAL_REPLY_LANDING (R263): A stolen record lands at the thief and it acknowledges. -/
  | stealReplyLanding (id : Nat)
  /-- STEAL_ACK (R263): The victim removes a lent record on acknowledgement. -/
  | stealAck (id : Nat)
  /-- SPAWN_RING_SPILL (R46): Spawn records are written to the team's spawn ring. -/
  | spawnRingSpill (team : Nat)
  /-- SPAWN_RING_REFILL (R46): Spawn records are read back from the ring into the spawn queue. -/
  | spawnRingRefill (team : Nat)
  /-- GATHER_TIMEOUT (R43): A partial spawned group is issued 256 cc after its first record. -/
  | gatherTimeout (id : Nat)
  /-- SPAWN_GROUP_DISPATCH (R44): A gathered group takes a free group slot and starts. -/
  | spawnGroupDispatch (id : Nat)
  /-- TEAM_END (R41): A team's groups, matrix work, copies and spawn records are done and its resources are released. -/
  | teamEnd (team : Nat)
  /-- LAUNCH_COMPLETE (R227): A launch's last team ends and COMPLETION is sent. -/
  | launchComplete (launch : Nat)
  /-- CLUSTER_ASSIGN (R225): The leader assigns a waiting cluster to a die. -/
  | clusterAssign
  /-- CLUSTER_DISPATCH (R226): A die dispatches all teams of a cluster onto a fitting rectangle. -/
  | clusterDispatch (die : Nat)
  /-- GROUP_EVICT (R231): A parked group is evicted and its state saved. -/
  | groupEvict (g : GRef)
  /-- TEAM_LEAVE (R232): A team whose groups are all evicted or exited leaves the core with its state saved. -/
  | teamLeave (team : Nat)
  /-- TEAM_RESTORE (R235): An evicted team is restored, possibly to a re-patched rectangle. -/
  | teamRestore (team : Nat)
  /-- TIME_SLICE_EXPIRE (R233): A context's time slice expires and its team is narrowed. -/
  | timeSliceExpire (coord ctx : Nat)
  /-- TRAP_BLOCKS_WRITTEN (R211): A TRAP's blocks are written once the request ring has room. -/
  | trapBlocksWritten (g : GRef)
  /-- SERVICE_CALL_FORWARD (R236): Firmware forwards a request-ring block to the host. -/
  | serviceCallForward (ctx : Nat)
  /-- SERVICE_TIMEOUT (R236): An unanswered service call is answered with E_CANCELLED. -/
  | serviceTimeout (ctx seq : Nat)
  /-- TRAP_RESUME (R237): A fully answered trap group is restored to its core. -/
  | trapResume (g : GRef)
  /-- MATRIX_OP_START (R306): A queued array operation starts its busy period. -/
  | matrixOpStart (coord : Nat)
  /-- MATRIX_OP_RETIRE (R306): An array operation retires and its locks lift. -/
  | matrixOpRetire (id : Nat)
  /-- MDRAIN_START (R306): A queued drain starts on the drain port. -/
  | mdrainStart (coord : Nat)
  /-- MDRAIN_RETIRE (R308): A drain retires and its registers or lines become full or present. -/
  | mdrainRetire (id : Nat)
  /-- RPUT_EFFECT (R268): An RPUT's addition is made once its release condition holds. -/
  | rputEffect (id : Nat)
  /-- RFREE_EFFECT (R268): An RFREE empties the stage and flips its phase once its release holds. -/
  | rfreeEffect (id : Nat)
  /-- TASK_START (R281): A ready task is dispatched with its written tiles renamed. -/
  | taskStart (die id : Nat)
  /-- TASK_COMMIT (R282): A finished task's staged tiles become the committed mapping and JOIN receives 1. -/
  | taskCommit (die id : Nat)
  /-- SWITCH_CONTRIBUTION (R287): A contribution arrives at a switch reduction slot. -/
  | switchContribution (x : Contribution)
  /-- REDUCED_CHUNK_WRITE (R314): A reduced or peer chunk is written on a destination rank and its tile counter updated. -/
  | reducedChunkWrite (x : ReducedChunk)
  /-- RANK_LOST (R343): A peer stops answering; firmware marks it lost, rebuilds trees and sends a notice. -/
  | rankLost (ctx rank : Nat)
  /-- PACKET_RECEIVE (R332): A packet arrives at an Ultra Ethernet port or is dropped when the buffer is full. -/
  | packetReceive (port : Nat) (bytes : Nat) (drain : Bool)
  /-- LEADER_TAKEOVER (R335): A new management core becomes package leader from replicated state. -/
  | leaderTakeover
  /-- MARGIN_READING (R316): The daily ring-oscillator reading updates MARGIN and may retire a core. -/
  | marginReading (coord : Nat) (margin : Nat) (powerDomain : Bool)
  /-- REPLAN (R316): The re-plan period expires and VSTEP, TREND and EXHAUST are set. -/
  | replan
  /-- EMBER_VISIT (R317): The ember pass reaches a core and starts draining it. -/
  | emberVisit (die : Nat)
  /-- EMBER_PATTERNS_START (R317): A drained core starts its self-test patterns. -/
  | emberPatternsStart (coord : Nat)
  /-- EMBER_PASS_END (R317): The 52,000 cc of patterns end and the core passes or fails. -/
  | emberPassEnd (coord : Nat) (failed : Option Nat)
  /-- DRAIN_TIMEOUT (R278): A core not evictable 1 ms after a drain request is reset and its launches fail. -/
  | drainTimeout (coord : Nat)
  /-- SCRUB_READ (R322): A scrub reads a line, corrects it or poisons the block. -/
  | scrubRead (u : UnitId) (line : Nat) (outcome : ScrubOutcome)
  /-- ECC_REENCODE (R322): The sweeper re-encodes a line toward DEC-TED. -/
  | eccReencode (u : UnitId)
  /-- CEC_WINDOW_END (R315): The 30-day corrected-error window ends. -/
  | cecWindowEnd
  /-- LANE_SPARE (R327): A lane's error rate exceeds the limit and the spare lane is trained in. -/
  | laneSpare (l : LinkId)
  /-- LINK_RETRAIN_COMPLETE (R327): A link's retraining ends and traffic resumes. -/
  | linkRetrainComplete (l : LinkId)
  /-- THERMAL_ROW_CHANGE (R349): A sensor crosses a threshold, changing refresh, issue rate or powering off. -/
  | thermalRowChange (die : Nat) (junction : Bool) (layer : Nat) (temp : Int)
  /-- POWER_ON (R350): Rails rise and bring-up runs to accepting OPEN. -/
  | powerOn (fails : List Nat)
  /-- POWER_LOSS (R350): Power is lost and all but flash contents are lost. -/
  | powerLoss
  /-- FORCED_END (R346): A launch not ended 1 ms after CTX_DESTROY's cancel is ended by core reset. -/
  | forcedEnd (launch : Nat)
  /-- REPAIR_ROW_COPY_COMPLETE (R326): The copy of a failing DRAM row to its repair row ends, the row is remapped and the accesses that waited on it proceed. -/
  | repairRowCopyComplete (u : UnitId) (row : Nat)
  /-- SLICE_REHOME_COMPLETE (R180): The move of a retired L2 slice's pages to their new home slices completes, and accesses to the moved pages are performed. -/
  | sliceRehomeComplete (coord : Nat)
  /-- OPEN (R334): Opens a session and returns a nonce. -/
  | openS (h : Hdr) (port : Nat)
  /-- AUTH (R334): Authenticates a session under a principal key. -/
  | authS (h : Hdr) (principal : Nat) (mac : List Byte) (newKey : Option (Nat × List Byte))
  /-- CLOSE (R334): Closes a session. -/
  | closeS (h : Hdr)
  /-- CTX_CREATE (R336): Creates a context of a class with its settings. -/
  | ctxCreate (h : Hdr) (x : CtxParams)
  /-- CTX_DESTROY (R346): Cancels a context's launches and frees it. -/
  | ctxDestroy (h : Hdr)
  /-- MAP (R338): Maps fresh zeroed frames at a virtual range. -/
  | mapVa (h : Hdr) (x : MapBody)
  /-- UNMAP (R338): Shoots down a mapping and returns its frames. -/
  | unmap (h : Hdr) (va len : Nat)
  /-- MEM_READ (R336): Reads up to 1 MiB through the context's translation. -/
  | memRead (h : Hdr) (va len : Nat)
  /-- MEM_WRITE (R336): Writes up to 1 MiB through the context's translation. -/
  | memWrite (h : Hdr) (va : Nat) (bytes : List Byte)
  /-- KEY_SET (R339): Writes AES-256-XTS key material into a slot. -/
  | keySet (h : Hdr) (slot : Nat) (material : List Byte)
  /-- KEY_CLEAR (R339): Clears a key slot. -/
  | keyClear (h : Hdr) (slot : Nat)
  /-- IMG_LOAD (R340): Carries part of an image stream and checks it on FINAL. -/
  | imgLoad (h : Hdr) (x : ImgBody)
  /-- IMG_DROP (R340): Drops a loaded image. -/
  | imgDrop (h : Hdr) (image : Nat)
  /-- LAUNCH (R341): Checks and accepts a launch, returning its GRIDID. -/
  | launch (h : Hdr) (x : LaunchBody)
  /-- CANCEL (R342): Raises E_CANCELLED in every resident group of a launch. -/
  | cancel (h : Hdr) (grid : Nat)
  /-- RING_STATE (R336): Returns the request ring's head, tail and counts. -/
  | ringState (h : Hdr)
  /-- QUEUE_STATE (R336): Returns a team queue's head, tail and counts. -/
  | queueState (h : Hdr) (grid cluster pos q : Nat)
  /-- REPLY (R211): Answers a service call with value and status. -/
  | reply (h : Hdr) (seq : Nat) (value : W64) (status : Nat)
  /-- FAULT_REFUSE (R238): Refuses a fault record, making it unresolvable. -/
  | faultRefuse (h : Hdr) (rec : Nat)
  /-- ALM_READ (R315): Reads almanac records. -/
  | almRead (h : Hdr) (u : UnitId)
  /-- ALM_WRITE (R315): Writes the RW fields of an almanac record. -/
  | almWrite (h : Hdr) (u : UnitId) (floor : Nat)
  /-- ALM_WRITE_ECC (R322): Writing ECC 1 starts a re-encode toward DEC-TED. -/
  | almWriteEcc (h : Hdr) (u : UnitId) (ecc : Nat)
  /-- HEALTH (R336): Reads offered counts. -/
  | health (h : Hdr) (replanDays : Option Nat)
  /-- SPARE (R330): Spares a row, line or lane by command. -/
  | spare (h : Hdr) (x : SpareBody)
  /-- RETIRE (R328): Retires a core or quadrant by command. -/
  | retire (h : Hdr) (x : RetireBody)
  /-- RANKMAP (R343): Sets a context's rank table and collective groups. -/
  | rankmap (h : Hdr) (x : RankBody)
  /-- TREE (R285): Returns, or in expert form writes, switch tree entries. -/
  | tree (h : Hdr) (cgrp : Nat) (write : Option (Nat × TreeEntry))
  /-- ENGINE_Q (R272): Sets the deficit round-robin quanta of a die's engines. -/
  | engineQ (h : Hdr) (die : Nat) (quanta : List Nat)
  /-- ATTACH (R345): Opens a debug session, optionally freezing the context. -/
  | attach (h : Hdr) (freeze : Bool)
  /-- HALT (R344): Marks named groups Halted at their next issue boundary. -/
  | haltG (h : Hdr) (x : HaltTarget) (offCore : Bool)
  /-- RESUME (R344): Clears the Halted mark. -/
  | resume (h : Hdr) (x : HaltTarget)
  /-- STEP (R344): Lets one word issue and halts again. -/
  | step (h : Hdr) (g : GRef)
  /-- BREAK (R344): Sets or clears an address breakpoint. -/
  | breakSet (h : Hdr) (n : Nat) (addr : Option Nat)
  /-- STATE_READ (R344): Returns the state of a Halted or Evicted group. -/
  | stateRead (h : Hdr) (g : GRef)
  /-- SESSION_LOSS (R346): A Briwell session is lost without CLOSE, leaving its context running with its service calls still awaited and its unsolicited messages held. -/
  | sessionLoss (session : Nat)
  deriving DecidableEq, Repr

end Sys2Proof
end

