-- ==== Sys2Proof/WellFormed.lean ====
section
/-! DEFINITION. Which words are instructions: the SUB values, types, operand classes and static register rules of every
entry (R85 to R92, R98, R100, R131, R132, R136, R139, R141, R145 to R149, R151, R153, R156, R199, R247, R296). What
depends on the kernel or the group (n_v, the width, values in registers) is checked at issue, in Machine. -/
namespace Sys2Proof

/-- What a field accepts (R89, R131): register classes, I (an immediate or LIT), an immediate alone, X, queue ports, and whether
it may be unused. -/
structure Cls where
  v : Bool := false
  s : Bool := false
  k : Bool := false
  m : Bool := false
  i : Bool := false
  imm : Bool := false
  x : Bool := false
  q : Bool := false
  none : Bool := false
  dst : Bool := false

def Ty.code : Ty → Nat
  | .i32 => 0 | .n32 => 1 | .i16 => 2 | .n16 => 3 | .i8 => 4 | .n8 => 5 | .i64 => 6 | .n64 => 7
  | .f32 => 8 | .bf16 => 9 | .f16 => 10 | .f8e4 => 11 | .f8e5 => 12 | .ob8 => 13 | .ob4 => 14 | .cb2 => 15

def Ty.all : List Ty :=
  [.i32, .n32, .i16, .n16, .i8, .n8, .i64, .n64, .f32, .bf16, .f16, .f8e4, .f8e5, .ob8, .ob4, .cb2]

/-- Signed types (R102). -/
def Ty.signed : Ty → Bool
  | .i32 | .i16 | .i8 | .i64 => true
  | _ => false

/-- Bits of an element (R102); cb2 holds 16 bits per 8 elements. -/
def Ty.bits : Ty → Nat
  | .i32 | .n32 | .f32 => 32
  | .i16 | .n16 | .bf16 | .f16 => 16
  | .i8 | .n8 | .f8e4 | .f8e5 | .ob8 => 8
  | .i64 | .n64 => 64
  | .ob4 => 4
  | .cb2 => 2

/-- i64 and n64 name register pairs (R92). -/
def Ty.wide : Ty → Bool
  | .i64 | .n64 => true
  | _ => false

def Ty.isInt (t : Ty) : Bool := decide (t.code < 8)
def Ty.isFloat (t : Ty) : Bool := decide (8 ≤ t.code) && decide (t.code ≤ 12)

structure Fmt where
  tys : List Ty
  d : Cls
  a : Cls
  b : Cls
  c : Cls

def cNone : Cls := { none := true }
def cS : Cls := { s := true }
def cSI : Cls := { s := true, i := true }
def cI : Cls := { i := true }
def cV : Cls := { v := true }
def cVSI : Cls := { v := true, s := true, i := true }
def cVSIX : Cls := { v := true, s := true, i := true, x := true }
def cVSIXq : Cls := { v := true, s := true, i := true, x := true, q := true }
def cK : Cls := { k := true }
def cM : Cls := { m := true }
/-- CVT's part fields: unused or an immediate, never LIT (R87, R146). -/
def cPart : Cls := { imm := true, none := true }
def dS : Cls := { s := true, dst := true }
def dV : Cls := { v := true, dst := true }
def dVq : Cls := { v := true, q := true, dst := true }
def dK : Cls := { k := true, dst := true }
def dM : Cls := { m := true, dst := true }
def dVS : Cls := { v := true, s := true, dst := true }
def dVK : Cls := { v := true, k := true, dst := true }

def tScalar : List Ty := [.i64, .n64]
def tNone : List Ty := [.i32]
def tInt : List Ty := [.i32, .n32, .i16, .n16, .i8, .n8, .i64, .n64]
def t32 : List Ty := [.i32, .n32]
def tF : List Ty := [.f32]
def tMove : List Ty := [.i32, .n32, .f32, .i64, .n64]
def tX4 : List Ty := [.i32, .n32, .f32]
def tMem : List Ty := [.i32, .n32, .f32, .i16, .n16, .bf16, .f16, .i8, .n8, .f8e4, .f8e5, .ob8, .i64, .n64]
def tStream : List Ty := [.i32, .n32, .f32, .i16, .n16, .i8, .n8]

def onlySub (l : List Nat) (sub : Nat) (f : Fmt) : Option Fmt := if l.contains sub then some f else none

/-- One destination, then sources. -/
def fmt1 (t : List Ty) (d a : Cls) : Fmt := ⟨t, d, a, cNone, cNone⟩
def fmt2 (t : List Ty) (d a b : Cls) : Fmt := ⟨t, d, a, b, cNone⟩
def fmt3 (t : List Ty) (d a b c : Cls) : Fmt := ⟨t, d, a, b, c⟩

/-- The format of an opcode under a SUB value, none where the SUB is not listed (R85). DESIGN CHOICE (log 79): OBDEC's A, B and C, whose
classes R149 does not list, are V, S, an immediate or a port. -/
def fmt (op : Op) (sub : Nat) : Option Fmt :=
  match op with
  -- scalar range (R136)
  | .sadd | .ssub | .smul | .smulh | .sand | .sor | .sxor | .sshl | .sshr | .smin | .smax =>
    onlySub [0] sub (fmt2 tScalar dS cSI cSI)
  | .smov | .spopc | .sclz => onlySub [0] sub (fmt1 tScalar dS cSI)
  | .ssel => onlySub [0] sub (fmt3 tScalar dS cSI cSI cSI)
  | .scmp => onlySub [0, 1, 2, 3, 4, 5] sub (fmt2 tScalar dK cSI cSI)
  | .slea => some (fmt2 tScalar dS cSI cSI)
  | .sget => onlySub [0] sub (fmt1 tScalar dS cI)
  | .sset => onlySub [0, 1] sub (fmt1 tScalar cNone cSI)
  -- vector integer range (R139, R140)
  | .iadd | .isub | .imul => onlySub [0, 1] sub (fmt2 tInt dVq cVSIXq cVSIXq)
  | .imulh | .imin | .imax | .andI | .orI | .xorI | .andn | .shl | .shr | .sra | .rol =>
    onlySub [0] sub (fmt2 tInt dVq cVSIXq cVSIXq)
  | .imad => onlySub [0, 1] sub (fmt3 tInt dVq cVSIXq cVSIXq cVSIXq)
  | .iabs | .ineg => onlySub [0, 1] sub (fmt1 tInt dVq cVSIXq)
  | .popc | .clz | .brev => onlySub [0] sub (fmt1 tInt dVq cVSIXq)
  | .bfe | .bfi => onlySub [0] sub (fmt3 t32 dVq cVSIXq cVSIXq cVSIXq)
  | .icmp => onlySub [0, 1, 2, 3, 4, 5] sub (fmt2 tInt dK cVSIXq cVSIXq)
  | .sel => onlySub [0] sub (fmt3 (tInt ++ tF) dVq cVSIXq cVSIXq cK)
  | .mov => onlySub [0] sub (fmt1 (tInt ++ tF) dVq cVSIXq)
  | .movk =>
    if sub = 0 then some (fmt1 tNone dVq cK)
    else if sub = 1 then some (fmt1 tNone dK cVSIXq)
    else if sub = 2 then some (fmt1 tNone dK cSI)
    else none
  | .idot4 => onlySub [0, 1] sub (fmt3 [.i8, .n8] dVq cVSIXq cVSIXq cVSIXq)
  -- floating-point range (R141)
  | .fadd | .fsub | .fmul | .fmin | .fmax | .fscale => onlySub [0] sub (fmt2 tF dVq cVSIXq cVSIXq)
  | .ffma => onlySub [0] sub (fmt3 tF dVq cVSIXq cVSIXq cVSIXq)
  | .fabs | .fneg | .fclass => onlySub [0] sub (fmt1 tF dVq cVSIXq)
  | .fcmp => onlySub [0, 1, 2, 3, 4, 5, 6, 7] sub (fmt2 tF dK cVSIXq cVSIXq)
  | .frnd => onlySub [0, 1, 2, 3, 4] sub (fmt1 tF dVq cVSIXq)
  | .fdot2 => onlySub [0] sub (fmt3 [.bf16, .f16] dVq cVSIXq cVSIXq cVSIXq)
  -- special functions and conversions (R145 to R149)
  | .frcp | .frsq | .fsqrt | .fexp2 | .flog2 | .fsin | .fcos | .ftanh => onlySub [0] sub (fmt1 tF dVq cVSIXq)
  | .cvt => if sub ≤ 12 then some (fmt3 (Ty.all.take 13) dVq cVSIXq cPart cPart) else none
  | .cbdec => onlySub [0, 1] sub (fmt2 [.cb2] dV cVSIXq cVSIXq)
  | .obdec => onlySub [0] sub (fmt3 [.ob8, .ob4] dV cVSIXq cVSIXq cVSIXq)
  -- cross-lane range (R151, R152)
  | .perm => onlySub [0] sub (fmt3 tMove dV cV cVSIX cVSI)
  | .shfl => onlySub [0, 1, 2] sub (fmt3 tMove dV cV cVSIX cVSI)
  | .bcast => onlySub [0] sub (fmt3 tMove dVS cV cSI cVSI)
  | .vote =>
    if sub ≤ 1 then some (fmt1 tNone dK cK) else if sub ≤ 3 then some (fmt1 tNone dS cK) else none
  | .matchI =>
    if sub = 0 then some (fmt1 [.i32, .n32, .i64, .n64] dV cVSIX)
    else if sub = 1 then some (fmt1 [.i32, .n32, .i64, .n64] dK cVSIX) else none
  | .scan =>
    if sub % 8 ≤ 2 then some (fmt1 [.i32, .n32, .f32] dV cVSIX)
    else if sub % 8 ≤ 5 then some (fmt1 t32 dV cVSIX) else none
  | .lred =>
    if sub ≤ 2 then some (fmt1 [.i32, .n32, .f32] dVS cVSIX)
    else if sub ≤ 5 then some (fmt1 t32 dVS cVSIX) else none
  | .elect =>
    if sub = 0 then some (fmt1 tNone dK cNone) else if sub = 1 then some (fmt1 tNone dS cNone) else none
  -- statistics range (R153)
  | .mclr => onlySub [0] sub (fmt1 tNone dM cNone)
  | .macc => onlySub [0] sub (fmt1 tF dM cVSIX)
  | .maccw => onlySub [0] sub (fmt2 tF dM cVSIX cVSIX)
  | .mmerge => onlySub [0] sub (fmt2 tNone dM cM cM)
  | .mlane => onlySub [0] sub (fmt1 tNone dM cM)
  | .mget =>
    if sub ≤ 3 then some (fmt1 tF dV cM)
    else if sub = 4 then some (fmt2 tF dV cM { cVSI with none := true }) else none
  | .mput => onlySub [0] sub (fmt3 tF dM cVSIX cVSIX cVSIX)
  | .mnorm => onlySub [0] sub (fmt3 tF dV cVSIX cM { cVSI with none := true })
  -- memory range (R156, R159, R160, R165 to R176)
  | .ld =>
    if sub % 8 ≤ 4 then
      some (fmt3 (if 8 ≤ sub || sub % 8 = 3 then tX4 else tMem) dVS cS cVSI (if sub % 8 = 4 then cVSI else cI))
    else none
  | .st =>
    if sub % 8 ≤ 4 then
      some (fmt3 (if 8 ≤ sub || sub % 8 = 3 then tX4 else tMem) cVSI cS cVSI (if sub % 8 = 4 then cVSI else cI))
    else none
  | .ldacq => if sub % 8 ≤ 5 then some (fmt3 tMem dVS cS cVSI cI) else none
  | .strel => if sub % 8 ≤ 5 then some (fmt3 tMem cVSI cS cVSI cI) else none
  | .atom =>
    some (fmt3 (if sub % 8 = 3 || sub % 8 = 4 || sub % 8 = 5 then [.i32, .n32, .i64, .n64] else tMove)
      dV cS cVSI cVSIX)
  | .red =>
    if sub % 8 ≤ 5 then
      some (fmt3 (if 3 ≤ sub % 8 then [.i32, .n32, .i64, .n64] else tMove) cNone cS cVSI cVSIX)
    else if sub % 8 = 6 then some (fmt3 tNone cNone cS cVSI cM)
    else none
  | .fence => if sub ≤ 14 then some (fmt1 tNone cNone cNone) else none
  | .pref => onlySub [0, 1] sub (fmt3 tNone cNone cS cVSI cI)
  | .probe => onlySub [1, 2] sub (fmt3 tNone dVK cS cVSI cI)
  | .ldstrm | .ststrm => if sub ≤ 7 then some (fmt3 tStream cSI cS cSI cSI) else none
  -- control and system range (R199)
  | .bra => onlySub [0] sub (fmt1 tNone cNone cI)
  | .jmpi => onlySub [0] sub (fmt1 tNone cNone { v := true, s := true })
  | .call =>
    if sub = 0 then some (fmt3 tNone cI cS cVSI cI)
    else if sub = 1 then some (fmt3 tNone { v := true, s := true } cS cVSI cI) else none
  | .ret => onlySub [0] sub (fmt3 tNone cNone cS cVSI cI)
  | .exit | .nop | .rethrow => onlySub [0] sub (fmt1 tNone cNone cNone)
  | .pause =>
    if sub = 0 then some (fmt1 tNone cNone cSI) else if sub = 1 then some (fmt1 tNone cNone cVSI) else none
  | .bar | .barc => onlySub [0] sub (fmt2 tNone cNone cI cSI)
  | .waitge =>
    if 1 ≤ sub % 8 && sub % 8 ≤ 5 then some (fmt3 tNone cNone cS cSI { cSI with none := true }) else none
  | .trap =>
    if sub = 0 then some (fmt1 [.i32, .i64] dV cI)
    else if sub ≤ 4 then some (fmt2 [.i32, .i64] dV cI cV) else none
  | .tryOpen => onlySub [0, 1] sub (fmt1 tNone cNone cI)
  | .tryClose => onlySub [0, 1] sub (fmt1 tNone cNone cNone)
  | .throwI => onlySub [0] sub (fmt2 [.i32, .i64] cNone cVSI cVSIX)
  | .spawn => some (fmt3 tNone dK cVSI cV cS)
  | .setmode => if sub ≤ 3 then some (fmt1 tNone cNone cSI) else none
  | .getmode => onlySub [0] sub (fmt1 tNone dVS cNone)
  | .bkpt => onlySub [0] sub (fmt1 tNone cNone cI)
  -- engine range (R247)
  | .cpy => some (fmt3 tNone cSI cS cS cSI)
  | .cpyt => onlySub [0] sub (fmt1 tNone cSI cS)
  | .cpycan =>
    if sub = 0 then some (fmt1 tNone cNone cS) else if sub = 1 then some (fmt1 tNone cNone cSI) else none
  | .ctradd => if 1 ≤ sub && sub ≤ 5 then some (fmt2 tNone cNone cS cSI) else none
  | .qpush => if sub ≤ 3 then some (fmt1 tNone cV cNone) else none
  | .qpop =>
    if sub ≤ 3 then some (fmt1 tNone dV cNone)
    else if sub ≤ 7 then some (fmt3 tNone dV cNone cNone dK) else none
  | .qsteal => if sub ≤ 3 then some (fmt3 tNone dV cNone cVSI dK) else none
  | .tsubmit => onlySub [0] sub (fmt1 tNone cNone cS)
  | .rget => if 1 ≤ sub % 8 && sub % 8 ≤ 5 then some (fmt3 tNone cNone cSI cSI cSI) else none
  | .rput => onlySub [0] sub (fmt3 tNone cNone cSI cSI cSI)
  | .rfree => onlySub [0] sub (fmt2 tNone cNone cSI cSI)
  -- matrix range (R296)
  | .rsv => onlySub [0] sub (fmt2 tNone cNone cSI cSI)
  | .rls => onlySub [0] sub (fmt1 tNone cNone cSI)
  | .mzero => onlySub [0] sub (fmt1 tNone cSI cNone)
  | .mma | .mmap | .mmas => onlySub [0] sub (fmt3 tNone cSI cSI cSI cSI)
  | .mdrain =>
    let t : List Ty := [.f32, .bf16, .f16, .f8e4, .f8e5]
    if sub = 0 then some (fmt2 t dV cSI cSI)
    else if sub = 1 || sub = 2 then some (fmt2 t cSI cSI cSI)
    else if sub = 5 || sub = 6 || sub = 9 || sub = 10 then some (fmt3 t cSI cSI cSI cSI)
    else none
  | .mfence => onlySub [0, 1] sub (fmt1 tNone cNone cNone)

/-- An operand is of a class the field accepts; a port only in its own direction (R87, R89). -/
def Cls.takes (c : Cls) : Opnd → Bool
  | .v _ => c.v
  | .qi _ => c.v && c.q && !c.dst
  | .qo _ => c.v && c.q && c.dst
  | .s _ => c.s
  | .k _ => c.k
  | .m _ => c.m
  | .lane | .pcv | .live | .act => c.x && !c.dst
  | .lit => c.i && !c.dst
  | .imm _ => (c.i || c.imm) && !c.dst

/-- The field holds 0 with its wait bit 0: unused (R89). -/
def Opnd.unused (o : Opnd) (w : Bool) : Bool := o == .v 0 && !w

/-- A source field with its wait bit. -/
def Cls.accepts (c : Cls) (o : Opnd) (w : Bool) : Bool :=
  if c.none then o.unused w || (c.takes o && !o.unused w) else c.takes o

/-- A field without a wait bit (D): unused fields hold 0 (R89). -/
def Cls.acceptsD (c : Cls) (o : Opnd) : Bool := if c.none then o == .v 0 else c.takes o

/-- Registers of the run a field names and the multiple its number must be: pairs (R92), .x4 (R160), decoded blocks
(R148, R149), queue records (R247), TRAP and SPAWN arguments (R210, R220), drains (R308). -/
structure Run where
  n : Nat
  al : Nat
  deriving DecidableEq, Repr

def one : Run := ⟨1, 1⟩
def pairIf (b : Bool) : Run := if b then ⟨2, 2⟩ else one

/-- The ranges whose V operands are all of the word's type (R132). -/
def Op.vecInt : Op → Bool
  | .iadd | .isub | .imul | .imulh | .imad | .imin | .imax | .iabs | .ineg | .andI | .orI | .xorI | .andn
  | .shl | .shr | .sra | .rol | .popc | .clz | .brev | .bfe | .bfi | .icmp | .sel | .mov => true
  | _ => false

def runD (op : Op) (w : Full) : Run :=
  match op with
  | .ld | .st => if w.sub.toNat ≥ 8 then ⟨4, 4⟩ else pairIf w.ty.wide
  | .ldacq | .strel | .atom | .perm | .shfl | .bcast | .trap => pairIf w.ty.wide
  | .cvt => pairIf w.ty.wide
  | .cbdec => ⟨4, 4⟩
  | .obdec => if w.ty = .ob8 then ⟨2, 2⟩ else ⟨4, 4⟩
  | .qpush | .qpop | .qsteal => ⟨8, 1⟩
  | .mdrain =>
    if w.sub.toNat % 4 ≠ 0 then one
    else if w.ty = .f32 then ⟨8, 1⟩ else if w.ty = .bf16 || w.ty = .f16 then ⟨4, 1⟩ else ⟨2, 1⟩
  | _ => if op.vecInt && !(op == .icmp) then pairIf w.ty.wide else one

def tyOfSub (sub : BitVec 4) : Ty := Ty.all.getD sub.toNat .i32

def runA (op : Op) (w : Full) : Run :=
  match op with
  | .perm | .shfl | .bcast | .matchI => pairIf w.ty.wide
  | .cvt => pairIf (tyOfSub w.sub).wide
  | _ => if op.vecInt then pairIf w.ty.wide else one

def runB (op : Op) (w : Full) : Run :=
  match op with
  | .throwI => pairIf w.ty.wide
  | .trap => if w.sub.toNat = 0 then one else ⟨w.sub.toNat, 1⟩
  | .spawn => if w.sub.toNat = 0 then one else ⟨w.sub.toNat, 1⟩
  | _ => if op.vecInt then pairIf w.ty.wide else one

def runC (op : Op) (w : Full) : Run :=
  match op with
  | .perm | .shfl | .bcast | .atom | .red => pairIf w.ty.wide
  | _ => if op.vecInt && !(op == .sel) then pairIf w.ty.wide else one

/-- A v operand starts a run that is aligned and below `top`; a queue port stands only for one 32-bit value (R132). -/
def Run.ok (r : Run) (o : Opnd) (top : Nat) : Bool :=
  match o with
  | .v n => n.val % r.al = 0 && n.val + r.n ≤ top
  | .qi _ | .qo _ => r.n = 1
  | _ => true

/-- The value of an I operand, sign-extended to 64 bits (R88). -/
def Opnd.constVal (o : Opnd) (lit : Option W32) : Option W64 :=
  match o with
  | .imm x => some (x.signExtend 64)
  | .lit => lit.map fun l => l.signExtend 64
  | _ => none

def constInRange (o : Opnd) (lit : Option W32) (hi : Nat) : Bool :=
  match o.constVal lit with
  | some v => v.toNat ≤ hi
  | none => true

/-- apart and dpart limits (R147). -/
def partOk (t : Ty) (o : Opnd) (lit : Option W32) : Bool :=
  match o.constVal lit with
  | none => true
  | some v => if t.bits = 8 then v.toNat ≤ 3 else if t.bits = 16 then v.toNat ≤ 1 else v.toNat = 0

def Opnd.isV : Opnd → Bool
  | .v _ => true
  | _ => false
def Opnd.isS : Opnd → Bool
  | .s _ => true
  | _ => false
def Opnd.isK : Opnd → Bool
  | .k _ => true
  | _ => false
def Opnd.isPort : Opnd → Bool
  | .qi _ | .qo _ => true
  | _ => false
def Opnd.isImm : Opnd → Bool
  | .imm _ => true
  | _ => false

/-- Static rules of single entries (R132, R136, R147, R156, R160, R165, R167, R175, R247). -/
def extraOk (op : Op) (w : Full) : Bool :=
  match op with
  | .sget => w.a.isImm && constInRange w.a w.lit 15
  -- DESIGN CHOICE (log 101): LD.ctm with an S destination takes no V coordinate in C either, since the load is made once (R165)
  | .ld => (!(w.sub.toNat ≥ 8) || w.d.isV) && (!w.d.isS || (!w.b.isV && !w.c.isV))
  | .st => !(w.sub.toNat ≥ 8) || w.d.isV
  | .ldacq => !w.d.isS || !w.b.isV
  | .ldstrm | .ststrm | .cpyt => w.d.isS || w.d == .imm 0
  | .cvt =>
    (w.b.unused w.wb || partOk (tyOfSub w.sub) w.b w.lit) &&
    -- a part of D is replaced: D is a source too, so no port (R89, R147)
    (w.c.unused w.wc || (w.ty.bits < 32 && partOk w.ty w.c w.lit && !w.d.isPort)) &&
    -- a 64-bit type names no port in any field (R132)
    (!w.ty.wide || !w.a.isPort)
  | _ => true

/-- An F64 word may not name index 127 (R86). -/
def litOk (w : Full) : Bool :=
  w.lit.isSome || !(w.d == .lit || w.a == .lit || w.b == .lit || w.c == .lit)

/-- The registers of every field lie below `top`: 248 for the word alone, n_v at issue (R23, R89). -/
def runsOk (op : Op) (w : Full) (top : Nat) : Bool :=
  match fmt op w.sub.toNat with
  | none => false
  | some f =>
    (f.d.none || (runD op w).ok w.d top) &&
    ((f.a.none && w.a.unused w.wa) || (runA op w).ok w.a top) &&
    ((f.b.none && w.b.unused w.wb) || (runB op w).ok w.b top) &&
    ((f.c.none && w.c.unused w.wc) || (runC op w).ok w.c top)

/-- A full-form word is an instruction (R85 to R92). -/
def Full.wf (op : Op) (w : Full) : Bool :=
  match fmt op w.sub.toNat with
  | none => false
  | some f =>
    f.tys.contains w.ty && f.d.acceptsD w.d && f.a.accepts w.a w.wa && f.b.accepts w.b w.wb &&
    f.c.accepts w.c w.wc && litOk w && extraOk op w && runsOk op w 248

/-- Bank rules of a pair word (R100). -/
def PairWord.wf (w : PairWord) : Bool :=
  w.x.d.toNat < 248 && w.y.d.toNat < 248 &&
  (w.x.immf || w.x.a.toNat < 248) && (w.y.immf || w.y.a.toNat < 248) &&
  w.x.d.toNat % 4 ≠ w.y.d.toNat % 4 &&
  (w.x.immf || w.y.immf || w.x.a.toNat % 4 ≠ w.y.a.toNat % 4)

/-- The operand of a short-form operand number (R97): registers and queue ports. -/
def opndV (n : BitVec 8) : Opnd :=
  if h : n.toNat < 248 then .v ⟨n.toNat, h⟩
  else if n.toNat < 252 then .qi (Fin.ofNat 4 (n.toNat - 248))
  else .qo (Fin.ofNat 4 (n.toNat - 252))

/-- Fields of an expanded short form: SUB 0, GAP 0, YLD 0, GRD 0, waits 1 on used sources (R97). -/
def shortFull (d a b : Opnd) (lit : Option W32) : Full :=
  { sub := 0, ty := .i32, d := d, a := a, b := b, c := .v 0, wa := true, wb := true, wc := false, gap := 0, yld := false, grd := 0, lit := lit }
def shortNone : Full :=
  { shortFull (.v 0) (.v 0) (.v 0) none with wa := false, wb := false }

/-- The full form of an instruction word, the expansion of R97 and R98 for a short form; none for pair words and for events. -/
def Instr.fullForm (i : Instr) : Option (Op × Full) :=
  match i with
  | .sadd w => some (.sadd, w)
  | .ssub w => some (.ssub, w)
  | .smul w => some (.smul, w)
  | .smulh w => some (.smulh, w)
  | .sand w => some (.sand, w)
  | .sor w => some (.sor, w)
  | .sxor w => some (.sxor, w)
  | .sshl w => some (.sshl, w)
  | .sshr w => some (.sshr, w)
  | .smin w => some (.smin, w)
  | .smax w => some (.smax, w)
  | .smov w => some (.smov, w)
  | .ssel w => some (.ssel, w)
  | .scmp w => some (.scmp, w)
  | .slea w => some (.slea, w)
  | .sget w => some (.sget, w)
  | .sset w => some (.sset, w)
  | .spopc w => some (.spopc, w)
  | .sclz w => some (.sclz, w)
  | .iadd w => some (.iadd, w)
  | .isub w => some (.isub, w)
  | .imul w => some (.imul, w)
  | .imulh w => some (.imulh, w)
  | .imad w => some (.imad, w)
  | .imin w => some (.imin, w)
  | .imax w => some (.imax, w)
  | .iabs w => some (.iabs, w)
  | .ineg w => some (.ineg, w)
  | .andI w => some (.andI, w)
  | .orI w => some (.orI, w)
  | .xorI w => some (.xorI, w)
  | .andn w => some (.andn, w)
  | .shl w => some (.shl, w)
  | .shr w => some (.shr, w)
  | .sra w => some (.sra, w)
  | .rol w => some (.rol, w)
  | .popc w => some (.popc, w)
  | .clz w => some (.clz, w)
  | .brev w => some (.brev, w)
  | .bfe w => some (.bfe, w)
  | .bfi w => some (.bfi, w)
  | .icmp w => some (.icmp, w)
  | .sel w => some (.sel, w)
  | .mov w => some (.mov, w)
  | .movk w => some (.movk, w)
  | .idot4 w => some (.idot4, w)
  | .fadd w => some (.fadd, w)
  | .fsub w => some (.fsub, w)
  | .fmul w => some (.fmul, w)
  | .ffma w => some (.ffma, w)
  | .fmin w => some (.fmin, w)
  | .fmax w => some (.fmax, w)
  | .fabs w => some (.fabs, w)
  | .fneg w => some (.fneg, w)
  | .fcmp w => some (.fcmp, w)
  | .fclass w => some (.fclass, w)
  | .frnd w => some (.frnd, w)
  | .fscale w => some (.fscale, w)
  | .fdot2 w => some (.fdot2, w)
  | .frcp w => some (.frcp, w)
  | .frsq w => some (.frsq, w)
  | .fsqrt w => some (.fsqrt, w)
  | .fexp2 w => some (.fexp2, w)
  | .flog2 w => some (.flog2, w)
  | .fsin w => some (.fsin, w)
  | .fcos w => some (.fcos, w)
  | .ftanh w => some (.ftanh, w)
  | .cvt w => some (.cvt, w)
  | .cbdec w => some (.cbdec, w)
  | .obdec w => some (.obdec, w)
  | .perm w => some (.perm, w)
  | .shfl w => some (.shfl, w)
  | .bcast w => some (.bcast, w)
  | .vote w => some (.vote, w)
  | .matchI w => some (.matchI, w)
  | .scan w => some (.scan, w)
  | .lred w => some (.lred, w)
  | .elect w => some (.elect, w)
  | .mclr w => some (.mclr, w)
  | .macc w => some (.macc, w)
  | .maccw w => some (.maccw, w)
  | .mmerge w => some (.mmerge, w)
  | .mlane w => some (.mlane, w)
  | .mget w => some (.mget, w)
  | .mput w => some (.mput, w)
  | .mnorm w => some (.mnorm, w)
  | .ld w => some (.ld, w)
  | .st w => some (.st, w)
  | .ldacq w => some (.ldacq, w)
  | .strel w => some (.strel, w)
  | .atom w => some (.atom, w)
  | .red w => some (.red, w)
  | .fence w => some (.fence, w)
  | .pref w => some (.pref, w)
  | .probe w => some (.probe, w)
  | .ldstrm w => some (.ldstrm, w)
  | .ststrm w => some (.ststrm, w)
  | .bra w => some (.bra, w)
  | .jmpi w => some (.jmpi, w)
  | .call w => some (.call, w)
  | .ret w => some (.ret, w)
  | .exit w => some (.exit, w)
  | .nop w => some (.nop, w)
  | .pause w => some (.pause, w)
  | .bar w => some (.bar, w)
  | .barc w => some (.barc, w)
  | .waitge w => some (.waitge, w)
  | .trap w => some (.trap, w)
  | .tryOpen w => some (.tryOpen, w)
  | .tryClose w => some (.tryClose, w)
  | .throwI w => some (.throwI, w)
  | .rethrow w => some (.rethrow, w)
  | .spawn w => some (.spawn, w)
  | .setmode w => some (.setmode, w)
  | .getmode w => some (.getmode, w)
  | .bkpt w => some (.bkpt, w)
  | .cpy w => some (.cpy, w)
  | .cpyt w => some (.cpyt, w)
  | .cpycan w => some (.cpycan, w)
  | .ctradd w => some (.ctradd, w)
  | .qpush w => some (.qpush, w)
  | .qpop w => some (.qpop, w)
  | .qsteal w => some (.qsteal, w)
  | .tsubmit w => some (.tsubmit, w)
  | .rget w => some (.rget, w)
  | .rput w => some (.rput, w)
  | .rfree w => some (.rfree, w)
  | .rsv w => some (.rsv, w)
  | .rls w => some (.rls, w)
  | .mzero w => some (.mzero, w)
  | .mma w => some (.mma, w)
  | .mmap w => some (.mmap, w)
  | .mmas w => some (.mmas, w)
  | .mdrain w => some (.mdrain, w)
  | .mfence w => some (.mfence, w)
  | .movS32 d a => some (.mov, { shortFull (opndV d) (opndV a) (.v 0) none with wb := false })
  | .iaddS32 d a b => some (.iadd, shortFull (opndV d) (opndV a) (opndV b) none)
  | .isubS32 d a b => some (.isub, shortFull (opndV d) (opndV a) (opndV b) none)
  | .andS32 d a b => some (.andI, shortFull (opndV d) (opndV a) (opndV b) none)
  | .orS32 d a b => some (.orI, shortFull (opndV d) (opndV a) (opndV b) none)
  | .xorS32 d a b => some (.xorI, shortFull (opndV d) (opndV a) (opndV b) none)
  | .shlS32 d a n => some (.shl, shortFull (opndV d) (opndV a) .lit (some (n.zeroExtend 32)))
  | .shrS32 d a n => some (.shr, shortFull (opndV d) (opndV a) .lit (some (n.zeroExtend 32)))
  | .faddS32 d a b => some (.fadd, { shortFull (opndV d) (opndV a) (opndV b) none with ty := .f32 })
  | .fmulS32 d a b => some (.fmul, { shortFull (opndV d) (opndV a) (opndV b) none with ty := .f32 })
  | .iaddImmS32 d a imm => some (.iadd, shortFull (opndV d) (opndV a) .lit (some (imm.signExtend 32)))
  | .movImmS32 d imm => some (.mov, { shortFull (opndV d) .lit (.v 0) (some (imm.signExtend 32)) with wb := false })
  | .nopS32 => some (.nop, shortNone)
  | .exitS32 => some (.exit, shortNone)
  | .braS32 off => some (.bra, { shortNone with a := .lit, wa := true, lit := some (off.signExtend 32) })
  | .pauseS32 n => some (.pause, { shortNone with a := .lit, wa := true, lit := some (n.zeroExtend 32) })
  | _ => none

/-- The pair word of an instruction with the opcode of slot X (R99). -/
def Instr.pairForm (i : Instr) : Option (PairOp × PairWord) :=
  match i with
  | .movPair w => some (.mov, w)
  | .iaddPair w => some (.iadd, w)
  | .isubPair w => some (.isub, w)
  | .iminPair w => some (.imin, w)
  | .imaxPair w => some (.imax, w)
  | .andPair w => some (.andP, w)
  | .orPair w => some (.orP, w)
  | .xorPair w => some (.xorP, w)
  | .faddPair w => some (.fadd, w)
  | .fmulPair w => some (.fmul, w)
  | .fminPair w => some (.fmin, w)
  | .fmaxPair w => some (.fmax, w)
  | _ => none

/-- A short-form vector operand number: a destination is no input port, a source no output port (R89, R97). -/
def sDst (d : BitVec 8) : Bool := d.toNat < 248 || 252 ≤ d.toNat
def sSrc (a : BitVec 8) : Bool := a.toNat < 252

/-- An instruction word obeys the rules of its form that need no kernel or group (R85 to R100); an event is no word. -/
def Instr.wf (i : Instr) : Bool :=
  match i with
  | .movS32 d a => sDst d && sSrc a
  | .iaddS32 d a b | .isubS32 d a b | .andS32 d a b | .orS32 d a b | .xorS32 d a b | .faddS32 d a b | .fmulS32 d a b =>
    sDst d && sSrc a && sSrc b
  | .shlS32 d a n | .shrS32 d a n => sDst d && sSrc a && n.toNat ≤ 31
  | .iaddImmS32 d a _ => sDst d && sSrc a
  | .movImmS32 d _ => sDst d
  | .nopS32 | .exitS32 | .braS32 _ | .pauseS32 _ => true
  | i =>
    match i.fullForm with
    | some (op, w) => w.wf op
    | none =>
      match i.pairForm with
      | some (_, w) => w.wf
      | none => false

end Sys2Proof
end

