-- ==== Sys2Proof/Machine/Float.lean ====
section
/-! DEFINITION. Number formats and arithmetic: values, rounding under MODE, conditions (R108 to R121), and the narrow block
formats (R116 to R119). -/
namespace Sys2Proof.Machine

/-- A floating format of R108: its exponent bits, mantissa bits, bias and whether it has infinities. -/
structure FFmt where
  eb : Nat
  mf : Nat
  bias : Int
  hasInf : Bool

def fF32 : FFmt := ⟨8, 23, 127, true⟩
def fBf16 : FFmt := ⟨8, 7, 127, true⟩
def fF16 : FFmt := ⟨5, 10, 15, true⟩
def fF8e4 : FFmt := ⟨4, 3, 7, false⟩
def fF8e5 : FFmt := ⟨5, 2, 15, true⟩

/-- The format of a floating type; f32 for every other type, which no rule asks for. -/
def ffmtOf (t : Ty) : FFmt :=
  match t with
  | .bf16 => fBf16
  | .f16 => fF16
  | .f8e4 => fF8e4
  | .f8e5 => fF8e5
  | _ => fF32

/-- A value: a NaN, an infinity, or (-1)^neg * m * 2^e exactly. -/
inductive FVal where
  | nan
  | inf (neg : Bool)
  | fin (neg : Bool) (m : Nat) (e : Int)
  deriving DecidableEq, Repr

/-- The fields of MODE that rounding reads (R111). -/
structure RMode where
  rm : Nat
  fi : Bool
  fo : Bool
  sat : Bool
  deriving DecidableEq, Repr

/-- RNE with FO and SAT clear (R113). -/
def rneMode : RMode := ⟨0, false, false, false⟩
def RMode.ofMode (m : W64) : RMode := ⟨m.toNat % 4, m.getLsbD 2, m.getLsbD 3, m.getLsbD 4⟩

/-- Conditions of R115, in the order of their enable bits: V, Z, O, U, X. -/
structure Conds where
  v : Bool := false
  z : Bool := false
  o : Bool := false
  u : Bool := false
  x : Bool := false
  deriving DecidableEq, Repr

def noConds : Conds := {}
/-- Bits 4:0, V lowest: the places of TEV to TEX (R111). -/
def Conds.bits (c : Conds) : Nat := c.v.toNat + 2 * c.z.toNat + 4 * c.o.toNat + 8 * c.u.toNat + 16 * c.x.toNat
def Conds.merge (a b : Conds) : Conds := ⟨a.v || b.v, a.z || b.z, a.o || b.o, a.u || b.u, a.x || b.x⟩

/-- A result pattern with its conditions. -/
structure FRes where
  bits : Nat
  conds : Conds
  deriving DecidableEq, Repr

def FFmt.signBit (f : FFmt) (neg : Bool) : Nat := if neg then 2 ^ (f.eb + f.mf) else 0
/-- The all-ones exponent with mantissa 0: an infinity where the format has one. -/
def FFmt.infBits (f : FFmt) (neg : Bool) : Nat := f.signBit neg + (2 ^ f.eb - 1) * 2 ^ f.mf
/-- The canonical NaN (R109). -/
def FFmt.canonNaN (f : FFmt) : Nat :=
  if f.hasInf then (2 ^ f.eb - 1) * 2 ^ f.mf + 2 ^ (f.mf - 1) else 2 ^ (f.eb + f.mf) - 1
/-- The magnitude pattern of the largest finite value (R109). -/
def FFmt.largestBits (f : FFmt) : Nat := if f.hasInf then f.infBits false - 1 else 2 ^ (f.eb + f.mf) - 2

/-- Value of R109. -/
def FFmt.value (f : FFmt) (bits : Nat) : FVal :=
  let neg := bits / 2 ^ (f.eb + f.mf) % 2 == 1
  let ex := bits / 2 ^ f.mf % 2 ^ f.eb
  let m := bits % 2 ^ f.mf
  if f.hasInf && ex = 2 ^ f.eb - 1 then (if m = 0 then .inf neg else .nan)
  else if !f.hasInf && ex = 2 ^ f.eb - 1 && m = 2 ^ f.mf - 1 then .nan
  else if ex = 0 then .fin neg m (1 - f.bias - f.mf)
  else .fin neg (2 ^ f.mf + m) ((ex : Int) - f.bias - f.mf)

/-- Flush-in: a subnormal operand reads as the zero of its sign (R111). DESIGN CHOICE (log 98): it alone raises no condition; the flush that
R115 counts as inexact is the flush of a result (FO). -/
def FFmt.flushIn (f : FFmt) (fi : Bool) (bits : Nat) : Nat :=
  let ex := bits / 2 ^ f.mf % 2 ^ f.eb
  if fi && ex = 0 then bits / 2 ^ (f.eb + f.mf) % 2 * 2 ^ (f.eb + f.mf) else bits % 2 ^ (f.eb + f.mf + 1)

def FFmt.read (f : FFmt) (fi : Bool) (bits : Nat) : FVal := f.value (f.flushIn fi bits)

/-- RoundInt of R113: the quotient q, its remainder against the divisor d, anything below the remainder in `sticky`. -/
def roundInt (rm : Nat) (neg : Bool) (q rem d : Nat) (sticky : Bool) : Nat :=
  let inexact := rem ≠ 0 || sticky
  let up :=
    if rm = 0 then d < 2 * rem || (2 * rem = d && (sticky || q % 2 = 1))
    else if rm = 1 then false
    else if rm = 2 then inexact && !neg
    else inexact && neg
  if up then q + 1 else q

/-- m * 2^e rounded to an integer, e negative or not. -/
def roundScaled (rm : Nat) (neg : Bool) (m : Nat) (e : Int) (sticky : Bool) : Nat × Bool :=
  match e with
  | .ofNat k => (m * 2 ^ k, sticky)
  | .negSucc k =>
    let d := 2 ^ (k + 1)
    (roundInt rm neg (m / d) (m % d) d sticky, m % d ≠ 0 || sticky)

/-- Overflow of R113. -/
def overflowRes (f : FFmt) (md : RMode) (neg : Bool) : FRes :=
  let c : Conds := { o := true, x := true }
  let narrow := f.eb + f.mf = 7
  if narrow && md.sat then ⟨f.signBit neg + f.largestBits, c⟩
  else
    let toInf := md.rm = 0 || (md.rm = 2 && !neg) || (md.rm = 3 && neg)
    if !toInf then ⟨f.signBit neg + f.largestBits, c⟩
    else if f.hasInf then ⟨f.infBits neg, c⟩
    else ⟨f.signBit neg + f.canonNaN, c⟩

/-- Special of R113. -/
def specialRes (f : FFmt) (md : RMode) (neg : Bool) : FRes :=
  if f.hasInf then ⟨f.infBits neg, noConds⟩
  else if md.sat then ⟨f.signBit neg + f.largestBits, noConds⟩
  else ⟨f.signBit neg + f.canonNaN, noConds⟩

/-- Round of R113 of a nonzero value: m * 2^e, or a value strictly between that and (m + 1) * 2^e when `sticky`. -/
def roundFin (f : FFmt) (md : RMode) (neg : Bool) (m : Nat) (e : Int) (sticky : Bool) : FRes :=
  let top : Int := (Nat.log2 m : Int) + e
  let es : Int := max top (1 - f.bias) - f.mf
  let r := roundScaled md.rm neg m (e - es) sticky
  let n := r.1
  let inexact := r.2
  -- the magnitude pattern: es + mf + bias is the exponent field of a normal n
  let mag := (es + f.mf + f.bias - 1).toNat * 2 ^ f.mf + n
  if f.largestBits < mag then overflowRes f md neg
  else
    let tiny := mag < 2 ^ f.mf
    if md.fo && tiny && n ≠ 0 then ⟨f.signBit neg, { u := true, x := true }⟩
    else ⟨f.signBit neg + mag, { u := inexact && tiny, x := inexact }⟩

/-- Round of R113 of any value. -/
def roundVal (f : FFmt) (md : RMode) (x : FVal) : FRes :=
  match x with
  | .nan => ⟨f.canonNaN, noConds⟩
  | .inf s => specialRes f md s
  | .fin s m e => if m = 0 then ⟨f.signBit s, noConds⟩ else roundFin f md s m e false

def nanRes (f : FFmt) (invalid : Bool) : FRes := ⟨f.canonNaN, { v := invalid }⟩

def FVal.isNan : FVal → Bool
  | .nan => true
  | _ => false
def FVal.isInf : FVal → Bool
  | .inf _ => true
  | _ => false
def FVal.isZero : FVal → Bool
  | .fin _ m _ => m = 0
  | _ => false
def FVal.neg : FVal → Bool
  | .nan => false
  | .inf s => s
  | .fin s _ _ => s
def FVal.negate : FVal → FVal
  | .nan => .nan
  | .inf s => .inf !s
  | .fin s m e => .fin (!s) m e

/-- An exact product; NaN for a NaN operand and for zero times infinity (R115, R125). -/
def FVal.mul (a b : FVal) : FVal :=
  match a, b with
  | .nan, _ | _, .nan => .nan
  | .inf s, .inf t => .inf (s != t)
  | .inf s, .fin t m _ => if m = 0 then .nan else .inf (s != t)
  | .fin s m _, .inf t => if m = 0 then .nan else .inf (s != t)
  | .fin s m e, .fin t n g => .fin (s != t) (m * n) (e + g)

/-- A finite value as a signed multiple of 2^base, for base no larger than its exponent. -/
def scaledInt (neg : Bool) (m : Nat) (e base : Int) : Int :=
  let k := m * 2 ^ (e - base).toNat
  if neg then -(k : Int) else k

/-- An exact sum of two values; an exact zero takes the sign of R114 under `rm`; opposite infinities give NaN. -/
def FVal.add (rm : Nat) (a b : FVal) : FVal :=
  match a, b with
  | .nan, _ | _, .nan => .nan
  | .inf s, .inf t => if s = t then .inf s else .nan
  | .inf s, .fin _ _ _ => .inf s
  | .fin _ _ _, .inf t => .inf t
  | .fin s m e, .fin t n g =>
    if m = 0 && n = 0 then .fin ((s && t) || rm = 3) 0 0
    else
      let base := min (if m = 0 then g else e) (if n = 0 then e else g)
      let x := scaledInt s m e base + scaledInt t n g base
      if x = 0 then .fin (rm = 3) 0 0 else .fin (decide (x < 0)) x.natAbs base

/-- Exact order of two values that are not NaN: lt, eq or gt, with -0 = +0. -/
def FVal.cmp (a b : FVal) : Ordering :=
  match a, b with
  | .inf s, .inf t => if s = t then .eq else if s then .lt else .gt
  | .inf s, _ => if s then .lt else .gt
  | _, .inf t => if t then .gt else .lt
  | .fin s m e, .fin t n g =>
    let base := min e g
    compare (scaledInt s m e base) (scaledInt t n g base)
  | _, _ => .eq

/-- Rounds the exact result of an operation; a NaN out of operands none of which is NaN is invalid (R115). -/
def finishOp (f : FFmt) (md : RMode) (ops : List FVal) (r : FVal) : FRes :=
  match r with
  | .nan => nanRes f (!ops.any FVal.isNan)
  | r => roundVal f md r

def f32Read (md : RMode) (x : W32) : FVal := fF32.read md.fi x.toNat

/-- FADD, FSUB, FMUL, FFMA (R141). -/
def fAdd (md : RMode) (a b : W32) : FRes :=
  let x := f32Read md a
  let y := f32Read md b
  finishOp fF32 md [x, y] (FVal.add md.rm x y)
def fSub (md : RMode) (a b : W32) : FRes :=
  let x := f32Read md a
  let y := f32Read md b
  finishOp fF32 md [x, y] (FVal.add md.rm x y.negate)
def fMul (md : RMode) (a b : W32) : FRes :=
  let x := f32Read md a
  let y := f32Read md b
  finishOp fF32 md [x, y] (x.mul y)
def fFma (md : RMode) (a b c : W32) : FRes :=
  let x := f32Read md a
  let y := f32Read md b
  let z := f32Read md c
  finishOp fF32 md [x, y, z] (FVal.add md.rm (x.mul y) z)

/-- A quotient of finite nonzero magnitudes as (q, exponent, sticky), with at least 40 bits. -/
def quotient (m : Nat) (e : Int) (n : Nat) (g : Int) : Nat × Int × Bool :=
  let k := Nat.log2 n + 40
  (m * 2 ^ k / n, e - g - k, m * 2 ^ k % n ≠ 0)

/-- A division, each step of R127, R128, R155 and of FRCP. -/
def fDivVal (f : FFmt) (md : RMode) (x y : FVal) : FRes :=
  match x, y with
  | .nan, _ | _, .nan => nanRes f false
  | .inf _, .inf _ => nanRes f true
  | .inf s, .fin t _ _ => specialRes f md (s != t)
  | .fin s _ _, .inf t => ⟨f.signBit (s != t), noConds⟩
  | .fin s m e, .fin t n g =>
    if n = 0 then
      if m = 0 then nanRes f true
      else { specialRes f md (s != t) with conds := { z := true } }
    else if m = 0 then ⟨f.signBit (s != t), noConds⟩
    else
      let q := quotient m e n g
      roundFin f md (s != t) q.1 q.2.1 q.2.2

/-- FSCALE (R141); the exponent is cut at 700, past which every f32 overflows or rounds as the smallest value does. -/
def fScale (md : RMode) (a b : W32) : FRes :=
  match f32Read md a with
  | .fin s m e =>
    if m = 0 then ⟨fF32.signBit s, noConds⟩
    else roundFin fF32 md s m (e + max (-700) (min 700 b.toInt)) false
  | x => roundVal fF32 md x

/-- FDOT2 (R144). -/
def fDot2 (f : FFmt) (md : RMode) (a b c : W32) : FRes :=
  let el (x : W32) (i : Nat) : FVal := f.read md.fi (x.toNat / 2 ^ (16 * i) % 2 ^ 16)
  let z := f32Read md c
  let p0 := (el a 0).mul (el b 0)
  let p1 := (el a 1).mul (el b 1)
  finishOp fF32 md [el a 0, el a 1, el b 0, el b 1, z] (FVal.add md.rm (FVal.add md.rm p0 p1) z)

/-- FMIN and FMAX (R142): a bit pattern after flush-in, with -0 below +0. -/
def fMinMax (mx : Bool) (md : RMode) (a b : W32) : W32 :=
  let ab := BitVec.ofNat 32 (fF32.flushIn md.fi a.toNat)
  let bb := BitVec.ofNat 32 (fF32.flushIn md.fi b.toNat)
  let x := f32Read md a
  let y := f32Read md b
  if x.isNan then (if y.isNan then BitVec.ofNat 32 fF32.canonNaN else bb)
  else if y.isNan then ab
  else
    let less := match x.cmp y with
      | .lt => true
      | .gt => false
      | .eq => x.neg && !y.neg
    if less != mx then ab else bb

/-- The comparisons of R135 on a pair of values (R142). -/
def fCompare (sub : Nat) (x y : FVal) : Bool :=
  if x.isNan || y.isNan then sub = 1 || sub = 6
  else
    let c := x.cmp y
    match sub with
    | 0 => c == .eq
    | 1 => c != .eq
    | 2 => c == .lt
    | 3 => c != .gt
    | 4 => c == .gt
    | 5 => c != .lt
    | 6 => false
    | _ => true

/-- FCLASS (R143). -/
def fClass (a : W32) : W32 :=
  let neg := a.getLsbD 31
  let ex := a.toNat / 2 ^ 23 % 256
  let m := a.toNat % 2 ^ 23
  let bit : Nat :=
    if ex = 255 then (if m ≠ 0 then 8 else if neg then 0 else 7)
    else if ex = 0 then (if m = 0 then (if neg then 3 else 4) else if neg then 2 else 5)
    else if neg then 1 else 6
  BitVec.ofNat 32 (2 ^ bit)

/-- FRND (R143). -/
def fRnd (sub : Nat) (md : RMode) (a : W32) : W32 :=
  let rm := if sub = 0 then md.rm else sub - 1
  match f32Read md a with
  | .nan => BitVec.ofNat 32 fF32.canonNaN
  | .inf _ => a
  | .fin s m e =>
    let n := if 0 ≤ e then m * 2 ^ e.toNat else (roundScaled rm s m e false).1
    BitVec.ofNat 32 (roundVal fF32 rneMode (.fin s n 0)).bits

/-- Lo and Hi of an integer type (R133). -/
def tyLo (t : Ty) : Int := if t.signed then -(2 ^ (t.bits - 1)) else 0
def tyHi (t : Ty) : Int := if t.signed then 2 ^ (t.bits - 1) - 1 else 2 ^ t.bits - 1
/-- IntRead of R133 on w bits. -/
def intRead (t : Ty) (x : Nat) : Int :=
  let b := x % 2 ^ t.bits
  if t.signed && 2 ^ (t.bits - 1) ≤ b then (b : Int) - 2 ^ t.bits else b
def clampTy (t : Ty) (y : Int) : Int := min (max y (tyLo t)) (tyHi t)

/-- A conversion to an integer (R121): the value and its conditions. -/
def cvtToInt (t : Ty) (rm : Nat) (x : FVal) : Int × Conds :=
  match x with
  | .nan => (0, { v := true })
  | .inf s => (if s then tyLo t else tyHi t, { v := true })
  | .fin s m e =>
    let r := roundScaled rm s m e false
    let y : Int := if s then -(r.1 : Int) else r.1
    let c := clampTy t y
    if c = y then (c, { x := r.2 }) else (c, { v := true })

/-- An integer rounded to a float (R121). -/
def cvtFromInt (f : FFmt) (md : RMode) (y : Int) : FRes :=
  if y = 0 then ⟨0, noConds⟩ else roundFin f md (decide (y < 0)) y.natAbs 0 false

/-- CVT of a source pattern to a result pattern of the destination's width (R146). -/
def cvtBits (dt st : Ty) (md : RMode) (x : Nat) : Nat × Conds :=
  if st.isFloat then
    let v := (ffmtOf st).read md.fi x
    if dt.isFloat then
      let r := roundVal (ffmtOf dt) md v
      (r.bits, r.conds)
    else
      let r := cvtToInt dt md.rm v
      ((r.1 % (2 ^ dt.bits : Int)).toNat, r.2)
  else
    let y := intRead st x
    if dt.isFloat then
      let r := cvtFromInt (ffmtOf dt) md y
      (r.bits, r.conds)
    else ((clampTy dt y % (2 ^ dt.bits : Int)).toNat, noConds)

/-- A block scale: none for 0xFF, whose elements are NaN (R117). -/
def scaleExp (e : Nat) : Option Int := if e % 256 = 255 then none else some ((e % 256 : Nat) - 127 : Int)

/-- A value times a block scale. -/
def FVal.scaled (v : FVal) (e : Nat) : FVal :=
  match scaleExp e, v with
  | none, _ => .nan
  | some k, .fin s m g => .fin s m (g + k)
  | some _, v => v

/-- An offset-binary element (R116). -/
def obValue (b z : Nat) : FVal := .fin (b < z) (if b < z then z - b else b - z) 0

/-- Element i of a cb2 index before its scale (R118). -/
def cbValue (x i : Nat) : FVal :=
  let bit (k : Nat) : Bool := x / 2 ^ k % 2 == 1
  let sgn := if i < 7 then bit (8 + i) else ((List.range 7).filter fun k => bit (8 + k)).length % 2 == 1
  if bit 15 then (if bit i then .fin sgn 1 0 else .fin false 0 0)
  else .fin sgn (if bit i then 3 else 1) (-1)

/-- The bf16 of a decoded element: exact, or the infinity of its sign above the largest finite value (R119). -/
def decodedBf16 (v : FVal) : Nat :=
  match v with
  | .nan => 0x7FC0
  | v => (roundVal fBf16 rneMode v).bits

end Sys2Proof.Machine
end

