-- ==== Sys2Proof/Machine/Trans.lean ====
section
/-! DEFINITION. The special functions of R122 and R123, on fixed-point integers of 640 fraction bits: more than any f32
operand needs for its result to be rounded correctly. -/
namespace Sys2Proof.Machine

def fxP : Nat := 640
def fxOne : Nat := 2 ^ fxP
/-- Fraction bits of pi, enough to reduce 2^128 exactly to fxP bits. -/
def piP : Nat := 960

/-- The sum over k of x^k / k! from the term `t` on. -/
def expLoop : Nat → Nat → Nat → Nat → Nat → Nat
  | 0, _, _, _, acc => acc
  | n + 1, k, x, t, acc =>
    let t' := t * x / fxOne / k
    expLoop n (k + 1) x t' (acc + t')
def fxExp (x : Nat) : Nat := expLoop 160 1 x fxOne fxOne

/-- The terms of the sine (k = 2) or cosine (k = 1) after `t`, alternating. -/
def trigLoop : Nat → Nat → Nat → Nat → Int → Bool → Int
  | 0, _, _, _, acc, _ => acc
  | n + 1, k, x2, t, acc, sub =>
    let t' := t * x2 / fxOne / (k * (k + 1))
    trigLoop n (k + 2) x2 t' (if sub then acc - t' else acc + t') (!sub)
def fxSin (x : Nat) : Nat := (trigLoop 90 2 (x * x / fxOne) x x true).toNat
def fxCos (x : Nat) : Nat := (trigLoop 90 1 (x * x / fxOne) fxOne fxOne true).toNat

/-- The terms z^(2k+1) / (2k+1) with z2 = z * z at `p` fraction bits, alternating for an arctangent. -/
def atanLoop : Nat → Nat → Nat → Nat → Nat → Int → Bool → Bool → Int
  | 0, _, _, _, _, acc, _, _ => acc
  | n + 1, p, k, z2, t, acc, alt, sub =>
    let t' := t * z2 / 2 ^ p
    let q := t' / k
    atanLoop n p (k + 2) z2 t' (if alt && sub then acc - q else acc + q) alt (!sub)
def fxAtanh (z : Nat) : Nat := (atanLoop 215 fxP 3 (z * z / fxOne) z z false true).toNat
def fxAtanInv (p n : Nat) : Nat :=
  let z := 2 ^ p / n
  (atanLoop 230 p 3 (2 ^ p / (n * n)) z z true true).toNat

def fxLn2 : Nat := 2 * fxAtanh (fxOne / 3)
/-- pi / 2 at piP fraction bits, by Machin's formula. -/
def halfPi : Nat := 8 * fxAtanInv piP 5 - 2 * fxAtanInv piP 239

/-- The integer square root: bits from 2^n down. -/
def sqrtLoop : Nat → Nat → Nat → Nat
  | 0, _, r => r
  | n + 1, x, r =>
    let c := r + 2 ^ n
    sqrtLoop n x (if c * c ≤ x then c else r)
def isqrt (x : Nat) : Nat := sqrtLoop (Nat.log2 x / 2 + 1) x 0

/-- FRCP (R122, R123). -/
def fRcp (md : RMode) (a : W32) : FRes :=
  let x := f32Read md a
  match x with
  | .nan => nanRes fF32 false
  | _ => fDivVal fF32 md (.fin false 1 0) x

/-- 1 / sqrt of m * 2^e, m > 0: the exponent made even, then a root of a quotient with 2k fraction bits. -/
def rsqrtRound (md : RMode) (m : Nat) (e : Int) : FRes :=
  let m' := if e % 2 = 0 then m else 2 * m
  let e' := if e % 2 = 0 then e else e - 1
  let k := Nat.log2 m' + 60
  let r := isqrt (2 ^ (2 * k) / m')
  roundFin fF32 md false r (-(e' / 2) - k) (r * r * m' ≠ 2 ^ (2 * k))

def fRsq (md : RMode) (a : W32) : FRes :=
  match f32Read md a with
  | .nan => nanRes fF32 false
  | .inf s => if s then nanRes fF32 true else ⟨0, noConds⟩
  | .fin s m e =>
    if m = 0 then ⟨fF32.infBits s, { z := true }⟩
    else if s then nanRes fF32 true
    else rsqrtRound md m e

def fSqrt (md : RMode) (a : W32) : FRes :=
  match f32Read md a with
  | .nan => nanRes fF32 false
  | .inf s => if s then nanRes fF32 true else ⟨fF32.infBits false, noConds⟩
  | .fin s m e =>
    if m = 0 then ⟨fF32.signBit s, noConds⟩
    else if s then nanRes fF32 true
    else
      let m' := if e % 2 = 0 then m else 2 * m
      let e' := if e % 2 = 0 then e else e - 1
      let x := m' * 2 ^ 80
      let r := isqrt x
      roundFin fF32 md false r (e' / 2 - 40) (r * r ≠ x)

/-- FEXP2; past 1024 the exponent is cut, where every result overflows or is a rounded smallest value. -/
def fExp2 (md : RMode) (a : W32) : FRes :=
  match f32Read md a with
  | .nan => nanRes fF32 false
  | .inf s => if s then ⟨0, noConds⟩ else ⟨fF32.infBits false, noConds⟩
  | .fin s m e =>
    if m = 0 then roundVal fF32 md (.fin false 1 0)
    else if 10 ≤ (Nat.log2 m : Int) + e then roundFin fF32 md false 1 (if s then -1000 else 1000) true
    else
      let x := scaledInt s m e (-(fxP : Int))
      let n := x / (fxOne : Int)
      let f := (x % (fxOne : Int)).toNat
      if f = 0 then roundFin fF32 md false 1 n false
      else roundFin fF32 md false (fxExp (f * fxLn2 / fxOne)) (n - fxP) true

def fLog2 (md : RMode) (a : W32) : FRes :=
  match f32Read md a with
  | .nan => nanRes fF32 false
  | .inf s => if s then nanRes fF32 true else ⟨fF32.infBits false, noConds⟩
  | .fin s m e =>
    if m = 0 then ⟨fF32.infBits true, { z := true }⟩
    else if s then nanRes fF32 true
    else
      let k := Nat.log2 m
      let n : Int := (k : Int) + e
      if m = 2 ^ k then cvtFromInt fF32 md n
      else
        let z := (m - 2 ^ k) * fxOne / (m + 2 ^ k)
        let l := 2 * fxAtanh z * fxOne / fxLn2
        let v : Int := n * fxOne + l
        if v < 0 then roundFin fF32 md true (v.natAbs - 1) (-(fxP : Int)) true
        else roundFin fF32 md false v.toNat (-(fxP : Int)) true

/-- Sine (q = 0) or cosine (q = 1) of a finite nonzero value: reduced by quarter turns, exactly. -/
def trigRound (md : RMode) (s : Bool) (m : Nat) (e : Int) (q : Nat) : FRes :=
  let x := m * 2 ^ (e + piP).toNat
  let k := x / halfPi
  let r := x % halfPi / 2 ^ (piP - fxP)
  let j := (k + q) % 4
  let v := if j % 2 = 0 then fxSin r else fxCos r
  let neg := (2 ≤ j) != (s && q = 0)
  roundFin fF32 md neg v (-(fxP : Int)) true

def fSin (md : RMode) (a : W32) : FRes :=
  match f32Read md a with
  | .nan => nanRes fF32 false
  | .inf _ => nanRes fF32 true
  | .fin s m e => if m = 0 then ⟨fF32.signBit s, noConds⟩ else trigRound md s m e 0

def fCos (md : RMode) (a : W32) : FRes :=
  match f32Read md a with
  | .nan => nanRes fF32 false
  | .inf _ => nanRes fF32 true
  | .fin s m e => if m = 0 then roundVal fF32 md (.fin false 1 0) else trigRound md s m e 1

/-- FTANH: (1 - t) / (1 + t) with t = e^(-2x); where t is below the last place the value lies just under 1. -/
def fTanh (md : RMode) (a : W32) : FRes :=
  match f32Read md a with
  | .nan => nanRes fF32 false
  | .inf s => roundVal fF32 md (.fin s 1 0)
  | .fin s m e =>
    if m = 0 then ⟨fF32.signBit s, noConds⟩
    else
      let x := 2 * m * 2 ^ (e + fxP).toNat
      let n := x / fxLn2
      if fxP ≤ n then roundFin fF32 md s (fxOne - 1) (-(fxP : Int)) true
      else
        let t := fxOne * fxOne / fxExp (x % fxLn2) / 2 ^ n
        roundFin fF32 md s ((fxOne - t) * fxOne / (fxOne + t)) (-(fxP : Int)) true

end Sys2Proof.Machine
end

