-- ==== Sys2Proof/Machine/Stats.lean ====
section
/-! DEFINITION. Statistics triples (R126 to R129, R155): every step a separate rounding to f32, RNE, no flush. -/
namespace Sys2Proof.Machine

/-- A triple of f32 patterns: count, mean, M2 (R126). -/
structure Triple where
  n : W32
  mean : W32
  m2 : W32
  deriving DecidableEq, Repr

/-- What an operation that produces an empty triple writes (R126). -/
def emptyTriple : Triple := ⟨0, 0x7FC00E00, 0x7FC00E00⟩
/-- A count of +0 or -0 (R126). -/
def isZeroF (x : W32) : Bool := x.toNat % 2 ^ 31 = 0
def Triple.isEmpty (t : Triple) : Bool := isZeroF t.n
def isNanF (x : W32) : Bool := (fF32.value x.toNat).isNan

/-- One step of R127: an operation rounded RNE. -/
def sAdd (a b : W32) : W32 := BitVec.ofNat 32 (fAdd rneMode a b).bits
def sSub (a b : W32) : W32 := BitVec.ofNat 32 (fSub rneMode a b).bits
def sMul (a b : W32) : W32 := BitVec.ofNat 32 (fMul rneMode a b).bits
def sDiv (a b : W32) : W32 := BitVec.ofNat 32 (fDivVal fF32 rneMode (f32Read rneMode a) (f32Read rneMode b)).bits
def sCanon : W32 := 0x7FC00000
def sOne : W32 := 0x3F800000

/-- MACC (R127). A count that comes to 0 makes the triple empty, which is written as R126 says (log 99). -/
def maccTriple (t : Triple) (x : W32) : Triple :=
  if t.isEmpty then (if isNanF x then ⟨sOne, sCanon, sCanon⟩ else ⟨sOne, x, 0⟩)
  else
    let n' := sAdd t.n sOne
    let d := sSub x t.mean
    let mean' := sAdd t.mean (sDiv d n')
    if isZeroF n' then emptyTriple else ⟨n', mean', sAdd t.m2 (sMul d (sSub x mean'))⟩

/-- The canonical NaN for any NaN (R110). -/
def canonF (x : W32) : W32 := if isNanF x then sCanon else x
/-- MACCW (R127); a NaN weight that enters an empty triple gives the canonical NaN (R110, log 80). -/
def maccwTriple (t : Triple) (x w : W32) : Triple :=
  if isZeroF w then t
  else if t.isEmpty then (if isNanF x then ⟨canonF w, sCanon, sCanon⟩ else ⟨canonF w, x, 0⟩)
  else
    let w' := sAdd t.n w
    let d := sSub x t.mean
    let mean' := sAdd t.mean (sMul (sDiv w w') d)
    let m2' := sAdd t.m2 (sMul (sMul w d) (sSub x mean'))
    if isZeroF w' then emptyTriple else ⟨w', mean', m2'⟩

/-- MMERGE (R128). -/
def mmerge (a b : Triple) : Triple :=
  if a.isEmpty && b.isEmpty then emptyTriple
  else if a.isEmpty then b
  else if b.isEmpty then a
  else
    let n := sAdd a.n b.n
    if isZeroF n then emptyTriple
    else
      let mean := sDiv (sAdd (sMul a.n a.mean) (sMul b.n b.mean)) n
      let d := sSub b.mean a.mean
      ⟨n, mean, sAdd (sAdd a.m2 b.m2) (sDiv (sMul (sMul d d) (sMul a.n b.n)) n)⟩

/-- A tree over 2^levels leaves from leaf i on: neighbours first, then strides 2, 4, … (R129). -/
def treeFold {α : Type} (op : α → α → α) : Nat → (Nat → α) → Nat → α
  | 0, leaf, i => leaf i
  | k + 1, leaf, i => op (treeFold op k leaf i) (treeFold op k leaf (i + 2 ^ k))

/-- Var and Rstd of R155; an empty triple gives the canonical NaN. -/
def tripleVar (t : Triple) : W32 := if t.isEmpty then sCanon else sDiv t.m2 t.n
/-- 2^-e as an f32, e at most 63. -/
def twoToMinus (e : Nat) : W32 := BitVec.ofNat 32 ((127 - e) * 2 ^ 23)
def tripleRstd (t : Triple) (e : Nat) : W32 :=
  if t.isEmpty then sCanon else BitVec.ofNat 32 (fRsq rneMode (sAdd (tripleVar t) (twoToMinus e))).bits
def tripleNorm (x : W32) (t : Triple) (e : Nat) : W32 :=
  if t.isEmpty then sCanon else sMul (sSub x t.mean) (tripleRstd t e)

end Sys2Proof.Machine
end

