-- ==== Sys2Proof/Machine/State.lean ====
section
/-! DEFINITION. Everything the spec gives the machine, as plain data, and the state after bring-up (R350). The inventory
names the rule of each field. Maps are sorted lists that never list their default. -/
namespace Sys2Proof.Machine

/-- Why the machine stops. -/
inductive Fault where
  /-- An instruction word is executed though no group is issuing: `step` never does this. Safe: it stops where no
  hardware situation exists. Raised by the meanings of instruction words. -/
  | noIssue
  deriving DecidableEq, Repr

/-- Why an instruction has no meaning here. -/
inductive Refusal where
  /-- An instruction still rejected by name in exec's dispatch. Safe: the run stops. -/
  | notModelled (mnemonic : String)
  deriving DecidableEq, Repr

/-- Bytes by address, unlisted bytes 0, with the numbers of poisoned 64-byte blocks (R322, R323). -/
structure Mem where
  cells : Sparse Byte := []
  poison : List Nat := []
  deriving DecidableEq, Repr

/-- Team memory or a typed buffer of a team: contents, allocation size, absent and orphaned 128-byte lines (R193). -/
structure Buf where
  mem : Mem := {}
  size : Nat := 0
  absent : List Nat := []
  orphan : List Nat := []
  deriving DecidableEq, Repr

/-- The full/empty bit and the void bit of a register (R93, R55). -/
structure RegSt where
  full : Bool := true
  void : Bool := false
  deriving DecidableEq, Repr
structure VReg where
  val : W32 := 0
  st : RegSt := {}
  deriving DecidableEq, Repr
structure SReg where
  val : W64 := 0
  st : RegSt := {}
  deriving DecidableEq, Repr

/-- The registers of a group: v and m by lane * 256 + number, s by number, k one bit a lane by number; `bad` lists v (as in
v) and s (from 65536) registers whose check cannot be corrected (R324). -/
structure Regs where
  v : Sparse VReg := []
  s : Sparse SReg := []
  k : Sparse W64 := []
  m : Sparse Triple := []
  bad : List Nat := []
  deriving DecidableEq, Repr

/-- Where a result lands: a k landing writes the bits of `lanes`, a queue landing pushes (R91, R95). -/
inductive LDst where
  | v (lane reg : Nat) | s (reg : Nat) | k (reg : Nat) (lanes : W64) | m (lane reg : Nat) | qo (q : Nat)
  deriving DecidableEq, Repr
/-- A result that lands at a cc, with the issue cc of its word (R95). -/
structure Landing where
  due : Nat
  issue : Nat
  dst : LDst
  val : W64
  tri : Triple
  deriving DecidableEq, Repr

/-- An entry of a try stack (R49). -/
structure TryEntry where
  uid : Nat
  team : Bool
  inst : Nat
  catchPc : Nat
  members : W64
  deriving DecidableEq, Repr

/-- Who started a piece of work: group, lanes, word, and per open entry at the start the members among the lanes (R54). -/
structure Starter where
  g : GRef := ⟨0, 0⟩
  lanes : W64 := 0
  pc : Nat := 0
  tries : List (Nat × W64) := []
  teamTries : List (Nat × W64) := []
  /-- The group's own number, since slots are used again (R44). -/
  uid : Nat := 0
  /-- The issue cc of the word (R95). -/
  cc : Nat := 0
  deriving DecidableEq, Repr

/-- The merged record of R217, with the issue cc that orders its first thrower (R218). -/
structure Rec where
  code : Nat := 0
  level : Nat := 0
  flags : Nat := 0
  count : Nat := 0
  pc : Nat := 0
  lane : Nat := 0
  group : Nat := 0
  pos : Nat := 0
  clus : Nat := 0
  mask : W64 := 0
  codes : W64 := 0
  value : W64 := 0
  steered : Nat := 0
  clock : Nat := 0
  cc : Nat := 0
  deriving DecidableEq, Repr

/-- A wake condition (R229). -/
inductive Wake where
  | bar (id inst : Nat) | barc (id inst : Nat)
  | counter (team : Bool) (addr target scope : Nat) (deadline : Option Nat)
  | ring (r st phase : Nat) (empty : Bool) (scope : Nat)
  | queue (q : Nat) | line | remote | trapSlot | trapReply | fault (rec : Nat)
  deriving DecidableEq, Repr

/-- How a loaded value is written (R160); a RET's lanes take it as their PC, and its word's Exec and length tell what a failed
check takes back (R203). -/
inductive MDst where
  | none | v (reg : Nat) (ty : Ty) (x4 : Bool) | s (reg : Nat) (ty : Ty) | pc (exec : W64) (len : Nat)
  deriving DecidableEq, Repr

/-- What a memory word does once its checks are over. -/
inductive MemAct where
  | ld (acq : Option Nat)
  | st (rel : Option Nat)
  | atom (op : Nat) (ty : Ty)
  | red (op : Nat) (ty : Ty)
  | stat
  | pref (l1 : Bool)
  | waitge (target scope : Nat) (deadline : Option Nat)
  | ctradd (scope x : Nat)
  | spawn (k : Nat)
  | fetch (wr : Bool)
  | code
  deriving DecidableEq, Repr

/-- One lane's access: data and compare value for stores and atomics, the payload of a spawn in `words` (R158, R220). -/
structure Acc where
  lane : Nat
  addr : Nat
  size : Nat
  data : Nat := 0
  cmp : Nat := 0
  words : List W32 := []
  deriving DecidableEq, Repr

/-- A word whose step 4 or 5 of R161 is not over, with what its destinations held. -/
structure MemWord where
  act : MemAct
  byw : Starter
  exec : W64
  space : Nat
  dst : MDst
  accs : List Acc
  saved : List (Nat × VReg)
  savedS : List (Nat × SReg)
  walking : Bool
  /-- The cc of its issue. -/
  t0 : Nat
  /-- The first of the numbers that its store-path entries take, by which the path is in issue order (R183). -/
  id0 : Nat := 0
  deriving DecidableEq, Repr

/-- R38. -/
inductive GPhase where
  | ready | stalled | parked | evicted | exited
  deriving DecidableEq, Repr

/-- The first half of a 64-wide word has issued (R24, R351): its registers are latched where the word reads per lane, and its
results are held until the second half has passed its checks where a fault there takes them back (R107). -/
structure Second where
  pc : Nat
  exec : W64
  len : Nat
  raw : List W32
  t0 : Nat
  latch : Regs
  held : List Landing := []
  deriving DecidableEq, Repr

/-- An exception of R352 that waits for a group's issue boundary: code, value, the cc in which it was raised, the bits of FLAGS that it
sets, and the word's work that failed, where a word started it. -/
structure Owed where
  code : Nat
  value : W64
  cc : Nat
  flags : Nat := 0
  byw : Option Starter := none
  deriving DecidableEq, Repr

/-- A group (R21 to R31, R38, R49, R228). -/
structure Group where
  slot : Nat
  uid : Nat := 0
  quarter : Nat := 0
  role : Nat := 0
  width : Nat := 16
  spawned : Bool := false
  phase : GPhase := .ready
  halted : Bool := false
  launched : W64 := 0
  live : W64 := 0
  pcs : Sparse W32 := []
  defer : Sparse Nat := []
  regs : Regs := {}
  mode : W64 := 0
  land : List Landing := []
  /-- What landed in the present cc, with the issue cc of each: the result of a later-issued word stays (R95). -/
  landed : List (LDst × Nat) := []
  /-- Exceptions that wait for the end of the word whose second half is due (R352). -/
  owed : List Owed := []
  tries : List TryEntry := []
  /-- What lay beneath the caught entry, and the caught instance's number (R215). -/
  caught : Option (List Nat × Nat) := none
  /-- The cc of its last steering to a catch (R219). -/
  catchAt : Nat := 0
  /-- The lanes steered to that catch, until one of them has issued (R219). -/
  catchDue : W64 := 0
  /-- The group's count of CPY words, team TRYs (R51, R249). -/
  cpys : Nat := 0
  tryTs : Nat := 0
  wake : Option Wake := none
  wakeBy : Starter := {}
  wakeMet : Bool := false
  held : Option MemWord := none
  /-- A trap's service number, argument words by lane, and lanes awaiting a reply (R210, R211). -/
  trapBlocks : List (List Byte) := []
  trapLanes : List Nat := []
  trapDst : Nat := 0
  trapWide : Bool := false
  trapStatus : List (Nat × Nat × W64) := []
  lastIssue : Nat := 0
  nextOk : Nat := 0
  yieldPending : Bool := false
  pausedTo : Nat := 0
  /-- The cc in which the group's word last stalled (R36). -/
  stalledAt : Nat := 0
  age : Nat := 0
  promoted : Bool := false
  second : Option Second := none
  fenceAcq : Option Nat := none
  /-- An MFENCE that is held: the group's last issue and last steering before it, and the number from which operations are later (R310). -/
  mfence : Option (Nat × Nat × Nat) := none
  /-- An MMAP that is held because its follower's team is away (R305), with the last issue and the last steering before it. -/
  called : Option (Nat × Nat) := none
  /-- The address breakpoints that halted the group since it last issued: they do not fire for its next issue (R222). -/
  skipBp : List Nat := []
  /-- A halt due at the next issue boundary: its reason, 3 or 4, or 0 (R223, R344). -/
  haltDue : Nat := 0
  haltOff : Bool := false
  /-- Eviction for a TRAP whose blocks are written is due (R231, R237); `haltOff` asks for one by a debug command. -/
  evictNow : Bool := false
  join : Nat := 0
  /-- The request slots that a word keeps which stalls on the walkers' full wait list (R164, R242). -/
  waits : List (List Nat) := []
  deriving DecidableEq, Repr

/-- A stage (R266). -/
structure Stage where
  full : Bool := false
  phase : Bool := false
  count : Nat := 0
  target : Nat := 1
  poison : Bool := false
  deriving DecidableEq, Repr

/-- A reservation record (R298). -/
structure Rsv where
  base : Nat
  space : Nat
  ty : Nat
  flags : Nat
  rstride : Nat
  klen : Nat
  sofs : Nat
  sstride : Nat
  zofs : Nat
  zstride : Nat
  mofs : Nat
  mstride : Nat
  deriving DecidableEq, Repr

/-- A barrier id's current instance: its number, the count its first arrival fixed, the arrived group slots, each with the
number below which its release orders accesses; the earlier instances whose arrivals are complete, while a release of theirs is
not performed or, for BARC, the cluster's instance is open (R206, R207); and the counts fixed for those and for instances that
a withdrawal has emptied (R208). -/
structure BarSt where
  inst : Nat := 0
  count : Option Nat := none
  arrived : List (Nat × Nat) := []
  closed : List (Nat × List (Nat × Nat)) := []
  counts : Sparse (Option Nat) := []
  deriving DecidableEq, Repr

/-- A queue record, lent to a steal or not, with the group and the number that its push's release orders (R259, R260, R263). -/
structure QRec where
  words : List W32
  lent : Option Nat := none
  rel : Option (GRef × Nat) := none
  deriving DecidableEq, Repr
/-- A hardware queue of a team (R259 to R262, R269, R270): `performed` names the records from the head on that are performed in the ring. -/
structure HwQ where
  chip : List QRec := []
  cap : Nat := 0
  base : Nat := 0
  head : Nat := 0
  tail : Nat := 0
  performed : List Nat := []
  /-- Ring records discarded with their failed spill or refill (R271). -/
  gone : List Nat := []
  reserved : Nat := 0
  refill : Option Nat := none
  /-- Groups parked in QPOP, in arrival order, each with its lanes still unserved and their registers (R262). -/
  waiters : List (Nat × List (Nat × Nat)) := []
  deriving DecidableEq, Repr

/-- A spawn record (R42), with the group and the number that its SPAWN's release orders (R190). -/
structure SpawnRec where
  entry : Nat
  n : Nat
  join : Nat
  payload : List W32
  rel : Option (GRef × Nat) := none
  deriving DecidableEq, Repr
/-- Records the gatherer packs into one group; closed when full or timed out (R43). -/
structure Pack where
  id : Nat
  team : Nat
  entry : Nat
  join : Nat
  recs : List SpawnRec
  closed : Bool
  /-- When it is issued though not full, on its context's clock. -/
  due : Nat := 0
  deriving DecidableEq, Repr

/-- A kernel-table entry (R69). -/
structure Kern where
  entry : Nat := 0
  width : Nat := 16
  regs : Nat := 8
  groups : Nat := 1
  spawnSlots : Nat := 0
  teamBytes : Nat := 0
  cw : Nat := 1
  ch : Nat := 1
  flags : Nat := 0
  rings : Nat := 0
  roles : Nat := 0
  qcap : List Nat := []
  stages : List Nat := []
  target : List Nat := []
  deriving DecidableEq, Repr

/-- A stream descriptor (R175, R176). -/
structure StreamDesc where
  id : Nat
  byw : Starter
  out : Bool
  ty : Ty
  team : Bool
  base : Nat
  count : Nat
  stride : Int
  ctr : Nat
  pos : Nat := 0
  fault : Option Nat := none
  first : List Nat := []
  deriving DecidableEq, Repr
structure StreamQ where
  entries : List W32 := []
  descs : List StreamDesc := []
  deriving DecidableEq, Repr

/-- Where a team is: on its core, saved off it, or ended. -/
inductive TPlace where
  | resident | away | ended
  deriving DecidableEq, Repr

/-- A team (R21, R23, R49, R193, R232). A task's team has cluster number 65536 * (task + 1), whose low 16 bits are CLUSTERID 0. -/
structure Team where
  id : Nat
  launch : Nat
  ctx : Nat
  cluster : Nat
  pos : Nat
  coord : Nat
  origin : Nat
  place : TPlace := .resident
  /-- Die and number of its task, for a task team (R264). -/
  task : Option (Nat × Nat) := none
  args : Nat := 0
  isCatch : Bool := false
  order : Nat := 0
  kern : Kern := {}
  groups : List Group := []
  tm : Buf := {}
  abuf : Buf := {}
  wbuf : Buf := {}
  cbuf : Buf := {}
  /-- Its team-memory region on the core and the generation of its allocation, as dispatched (R194). -/
  region : Nat := 0
  gen : Nat := 0
  recs : Sparse Rec := []
  bars : Sparse BarSt := []
  barcs : Sparse BarSt := []
  stages : Sparse Stage := []
  queues : List HwQ := []
  rsvs : Sparse (Option Rsv) := []
  ringHead : Nat := 0
  ringTail : Nat := 0
  /-- Ring records discarded with their failed write (R46). -/
  ringGone : List Nat := []
  /-- Spawn records accepted for the ring that no spill has taken yet, in order (R45, R46). -/
  savedSpawns : List SpawnRec := []
  /-- What is saved of the core's spawn and stream queues while the team is away (R178, R232). -/
  offSpawns : List SpawnRec := []
  offQi : List StreamQ := []
  offQo : List StreamQ := []
  narrowed : Bool := false
  /-- Team region instances: number, label, the record once thrown (R51). -/
  regions : List (Nat × Nat × Option Rec) := []
  /-- The number below which accesses come before its end, or before it last left its core (R190, R235). -/
  endId : Nat := 0
  deriving DecidableEq, Repr

/-- A cluster (R20, R52): its die and origin, the position of every team and the teams that have ended. -/
structure Cluster where
  launch : Nat
  id : Nat
  origin : Nat
  w : Nat
  h : Nat
  ended : List Nat := []
  /-- Per BARC id the instance, and the teams' arrivals as position and instance (R207). -/
  barc : Sparse (Nat × List (Nat × Nat)) := []
  /-- Only its catch team runs; its cores stay reserved (R52). -/
  catchOnly : Bool := false
  deriving DecidableEq, Repr

/-- A cluster that waits, with its pass-over count (R225, R226). -/
structure WaitCl where
  launch : Nat
  cluster : Nat
  die : Nat := 0
  urgent : Bool := false
  passed : Nat := 0
  task : Option (Nat × Nat) := none
  /-- The rectangle that is emptied for an urgent cluster: origin, width, height (R234). -/
  rect : Option (Nat × Nat × Nat) := none
  deriving DecidableEq, Repr

/-- A launch (R225, R227, R341). -/
structure Launch where
  grid : Nat
  ctx : Nat
  body : LaunchBody
  kern : Kern
  /-- Clusters not yet assigned or dispatched. -/
  waiting : Nat
  exceptions : Option Rec := none
  /-- 0 running, 1 failed, 2 in its grid catch, 3 ended by force (R52, R57, R346). -/
  fate : Nat := 0
  cancelled : Bool := false
  caught : Bool := false
  teamsDone : Nat := 0
  completed : Bool := false
  /-- Cores that ran a team with the clock its last team there ended, for clearing (R320). -/
  spans : List (Nat × Nat) := []
  cleared : Bool := false
  /-- A completion that is held until the launch is cleared (R320). -/
  heldBody : Option (List Byte) := none
  /-- Its context's principal, to which its messages go (R334). -/
  principal : Nat := 0
  collSeq : Nat := 0
  /-- Its first team has been dispatched, with which its attached collective starts (R341). -/
  established : Bool := false
  deriving DecidableEq, Repr

/-- A task (R264, R279, R280): state 0 waiting, 1 ready, 2 running, 3 finished, 4 its exception discards it, 5 an error rolls it
back, 6 its commit's shoot-down is under way. -/
structure Task where
  die : Nat
  id : Nat
  launch : Nat
  ctx : Nat
  desc : Nat
  entry : Nat
  join : Nat
  reads : List (Nat × Nat)
  writes : List (Nat × Nat)
  state : Nat := 0
  eccRolls : Nat := 0
  /-- Renamed tiles: number and 16 frames (R281). -/
  staged : List (Nat × List Nat) := []
  team : Option Nat := none
  core : Nat := 0
  finishedAt : Nat := 0
  /-- The TSUBMIT word (R352). -/
  byw : Starter := {}
  deriving DecidableEq, Repr

/-- A range lock (R275). -/
structure Lock where
  op : Nat
  coord : Nat
  space : Nat
  dest : Bool
  gran : Bool
  ctx : Nat
  team : Nat
  len : Nat
  base : Nat
  /-- Saved with its team, which is away: it guards nothing and takes no place (R232, R276). -/
  saved : Bool := false
  deriving DecidableEq, Repr

/-- A completion target (R248). -/
inductive Target where
  | none | counter (va : Nat) | stage (team n : Nat)
  deriving DecidableEq, Repr

/-- One group's slice of a CPY instance (R249, R250). -/
structure Slice where
  slot : Nat
  sub : Nat
  ctr : Nat
  dst : Nat
  src : Nat
  len : Nat
  byw : Starter
  cleared : List Nat
  /-- The word's parcels, the value of E_ILLEGAL (R216). -/
  raw : W64 := 0
  /-- The number below which its group's accesses come before the word (R190, R195). -/
  num : Nat := 0
  deriving DecidableEq, Repr

/-- The shape record of R253. -/
structure Shape where
  src : Nat
  dst : Nat
  ctr : Nat
  dims : List Nat
  strides : List Nat
  box : List Nat
  ty : Nat
  ops : Nat
  memb : Nat
  repl : Nat
  rbase : Nat
  cgrp : Nat
  deriving DecidableEq, Repr

inductive EKind where
  | cpy | cpyt (r : Shape) (seq : Nat) | spill (q first : Nat) | refill (q n : Nat) | fill (die task : Nat)
  | spawnOut (first : Nat) | spawnIn (n : Nat)
  deriving DecidableEq, Repr

/-- An engine operation (R195, R239, R248 to R252): `first` is the id before which accesses must be acknowledged. -/
structure EOp where
  id : Nat
  kind : EKind
  coord : Nat
  team : Nat
  ctx : Nat
  launch : Nat
  cls : Nat
  target : Target
  slices : List Slice := []
  gathering : Bool := false
  inst : Nat := 0
  /-- Store-path entries that must be acknowledged before the start. -/
  first : List Nat := []
  started : Bool := false
  /-- Chunks still to start, started, counted. -/
  todo : List Nat := []
  running : List Nat := []
  counted : List Nat := []
  /-- Running chunks whose bytes have landed and whose count waits for its release (R190). -/
  written : List Nat := []
  /-- Chunks dropped at a target, or never started because one was (R277). -/
  lost : List Nat := []
  /-- Chunks sent to peers that have not acknowledged them yet (R198). -/
  acks : List Nat := []
  /-- The home switch of its collective group as the call is matched (R285). -/
  home : Nat := 2
  /-- Chunks performed at this rank's destination, for a reducing CPYT (R255). -/
  landed : List Nat := []
  /-- Result chunks whose bytes stand at this rank's destination and whose count waits for its release (R190, R314). -/
  placed : List Nat := []
  fault : Option Nat := none
  poisoned : Bool := false
  stopped : Bool := false
  byw : Starter := {}
  recs : List (List W32) := []
  spawns : List SpawnRec := []
  /-- Byte moves of a fill: physical source and destination of each page. -/
  pages : List (Nat × Nat) := []
  /-- Core generation seen at the targets (R252). -/
  gens : List (Nat × Nat) := []
  deriving DecidableEq, Repr

/-- An engine (R272, R273). -/
structure Engine where
  id : Nat
  queues : List (List Nat) := [[], [], [], []]
  deficit : List Nat := [0, 0, 0, 0]
  quantum : List Nat := [8192, 4096, 2048, 2048]
  cls : Nat := 0
  /-- The visit to the class has added its quantum: the loop waits there for the read port and a chunk slot. -/
  visited : Bool := false
  portFree : Nat := 0
  slots : Nat := 0
  deriving DecidableEq, Repr

/-- A load or remote load of the lanes that share a line (R164, R165): `got` is what a ctm target answered. -/
structure LoadReq where
  id : Nat
  coord : Nat
  byw : Starter
  space : Nat
  dst : MDst
  accs : List Acc
  /-- Their physical addresses under the translation at issue (R243). -/
  pas : List Nat := []
  acq : Option Nat
  remote : Bool
  ctm : Option (Nat × Nat) := none
  /-- Answer of a ctm target per lane: value, or a code. -/
  got : Option (List (Nat × Nat × Nat)) := none
  dead : W64 := 0
  deriving DecidableEq, Repr

inductive PKind where
  | st | atom | red | stat | ctradd | fence | ctm | ring
  deriving DecidableEq, Repr

/-- An entry of a core's store path (R183): with `rel`, it waits for what its scope orders before it (R167, R169). -/
structure PathEntry where
  id : Nat
  coord : Nat
  byw : Starter
  lane : Nat
  kind : PKind
  space : Nat
  addr : Nat
  pa : Nat
  size : Nat
  data : Nat
  cmp : Nat
  op : Nat
  ty : Ty
  reg : Nat
  rel : Option Nat
  ctm : Option (Nat × Nat) := none
  deriving DecidableEq, Repr

/-- An atomic's old value on its way (R170). -/
structure AtomRep where
  id : Nat
  coord : Nat
  byw : Starter
  lane : Nat
  reg : Nat
  ty : Ty
  old : Nat
  ecc : Bool
  space : Nat
  addr : Nat
  /-- Its page is homed on another die (R162). -/
  remote : Bool
  dead : Bool := false
  deriving DecidableEq, Repr

structure Walk where
  id : Nat
  coord : Nat
  ctx : Nat
  va : Nat
  deriving DecidableEq, Repr

/-- Who a fault holds up (R238, R239, R354, R314, R177). -/
inductive FUser where
  | group (g : GRef) | op (id : Nat) | add (id : Nat) | stream (coord q : Nat) (out : Bool) | chunk (x : ReducedChunk)
  deriving DecidableEq, Repr
/-- A fault record: state 0 open, 1 served, 2 refused, 3 withdrawn (R238, R292). -/
structure FaultRec where
  id : Nat
  ctx : Nat
  va : Nat
  kind : Nat
  user : FUser
  state : Nat := 0
  deadline : Nat := 0
  deriving DecidableEq, Repr

/-- A counter addition that waits on a fault (R354). -/
structure PendAdd where
  id : Nat
  ctx : Nat
  va : Nat
  amount : Nat
  join : Bool
  byw : List Starter
  launch : Nat
  task : Bool
  fault : Nat
  /-- The engine operation whose counter update it is, or 0 (R195). -/
  op : Nat := 0
  /-- The store-path entry that stays until the addition has been made, or 0 (R184, R190, R258). -/
  entry : Nat := 0
  deriving DecidableEq, Repr

/-- A steal (R263): state 0 asked, 1 answered, 2 landed. -/
structure Steal where
  id : Nat
  byw : Starter
  lane : Nat
  reg : Nat
  kreg : Nat
  q : Nat
  victim : Nat
  state : Nat := 0
  got : Option (List W32) := none
  dead : Bool := false
  deriving DecidableEq, Repr

/-- A matrix operation (R294): kind 0 MZERO, 1 MMA, 2 MMAP, 3 MMAS, 4 MDRAIN; state 0 queued, 1 started, 2 its busy period over and its
tile written. -/
structure MOp where
  id : Nat
  kind : Nat
  coord : Nat
  byw : Starter
  tile : Nat
  left : Option Rsv := none
  right : Option Rsv := none
  k0l : Nat := 0
  k0r : Nat := 0
  k : Nat := 0
  ty : Ty := .f32
  /-- A drain's option, space, destination (or register), stride, e, triple offset, row0, c0 (R308). -/
  opt : Nat := 0
  space : Nat := 0
  dst : Nat := 0
  stride : Nat := 0
  e : Nat := 0
  trip : Nat := 0
  row0 : Nat := 0
  c0 : Nat := 0
  cleared : List (Nat × Nat) := []
  state : Nat := 0
  follower : Option Nat := none
  busyTo : Nat := 0
  /-- Store-path entries that must be acknowledged before the start (R195, R295). -/
  first : List Nat := []
  /-- The A buffer, the W buffer and the follower's operand buffer as they stood at the start of an array operation (R307). -/
  old : List Mem := []
  /-- Lines of an A buffer that a later drain of the queue has written, by core, with that buffer as it stood before (R294). -/
  kept : List (Nat × Mem × List Nat) := []
  /-- Lanes whose register results are discarded (R204, R54). -/
  dead : W64 := 0
  /-- What a started drain read: bytes to write by space and offset, registers to land. -/
  outMem : List (Nat × Nat × Byte) := []
  outRegs : List (Nat × Nat × W32) := []
  deriving DecidableEq, Repr

/-- A TLB entry (R242): log2 of the page size, the leaf, the task it is tagged with. -/
structure TlbEntry where
  ctx : Nat
  page : Nat
  bits : Nat
  leaf : W64
  task : Option (Nat × Nat)
  copy : Nat
  deriving DecidableEq, Repr

/-- A core (R13, R14). -/
structure Core where
  coord : Nat
  l1 : List (Nat × List Byte × List Nat) := []
  tlb : List TlbEntry := []
  busyTo : List Nat := [0, 0, 0, 0]
  qi : List StreamQ := [{}, {}, {}, {}]
  qo : List StreamQ := [{}, {}, {}, {}]
  spawnq : List (Nat × SpawnRec) := []
  packs : List Pack := []
  mq : List MOp := []
  arrayFree : Nat := 0
  drainFree : Nat := 0
  /-- The generation of each team-memory region (R194). -/
  gens : Sparse Nat := []
  idle : List Nat := [0, 0, 0, 0]
  kaMiss : Nat := 0
  kaFirst : Nat := 0
  draining : Bool := false
  drainFrom : Nat := 0
  retireAfter : Option Nat := none
  testing : Bool := false
  lastPass : Nat := 0
  passStart : Nat := 0
  /-- The cc of patterns still to run, as of a cc: a throttled die runs them at half rate (R349). -/
  passLeft : Nat := 0
  passMark : Nat := 0
  visitNext : Bool := false
  launches : List Nat := []
  tasksRun : List (Nat × Nat) := []
  slices : List (Nat × Nat) := []
  /-- The supply offset that stays in effect until the next ember drain, while another is planned (R316). -/
  vstepDue : Option Nat := none
  deriving DecidableEq, Repr

/-- A steering interval (R218): the merged record, the rethrown instances counted, and the groups that threw into it, which are
stopped at once. -/
structure Steering where
  region : RegionId
  acc : Rec
  insts : List Nat
  start : Nat
  threw : List GRef := []
  deriving DecidableEq, Repr

/-- A debug session's data (R344). -/
structure Debug where
  session : Nat
  freeze : Bool
  bps : List (Nat × Nat)
  deriving DecidableEq, Repr

/-- A context (R336, R236, R338, R343). -/
structure Ctx where
  id : Nat
  principal : Nat
  p : CtxParams
  /-- The frame at which the context's root table stands in DRAM (R240). -/
  root : Nat := 0
  ring : List (Nat × List Byte) := []
  forwarded : Nat := 0
  nextSeq : Nat := 0
  /-- Awaited calls: sequence number, group, lane, cc written, forwarded. -/
  calls : List (Nat × GRef × Nat × Nat × Bool) := []
  debug : Option Debug := none
  clockOff : Nat := 0
  rank : Nat := 0
  ranks : List (Nat × Nat) := []
  hasRanks : Bool := false
  lost : List Nat := []
  /-- Collective groups: number, members, next sequence number (R255). -/
  colls : List (Nat × List Nat × Nat) := []
  /-- Calls, by group and number, of which no further chunk is written here (R314). -/
  deadCalls : List (Nat × Nat) := []
  dying : Option Hdr := none
  deriving DecidableEq, Repr

/-- An image (R340), its patched copies as origin and frames. -/
structure Image where
  num : Nat
  ctx : Nat
  body : ImgBody
  got : List Byte := []
  final : Bool := false
  kerns : List Kern := []
  roles : List (Nat × Nat) := []
  relocs : List (Nat × Nat) := []
  copies : List (Nat × List Nat) := []
  deriving DecidableEq, Repr

structure Session where
  id : Nat
  port : Nat
  nonce : List Byte
  principal : Option Nat
  deriving DecidableEq, Repr

/-- A message to the host: session or port, code, form, context, tag and body; LEN is 24 more than the body's bytes (R333); and of an
unsolicited one the principal, whichever context has its number later (R334). -/
structure Msg where
  code : Nat
  form : Nat := 0
  session : Option Nat
  ctx : Nat
  tag : Nat
  body : List Byte
  at_ : Nat
  principal : Option Nat := none
  deriving DecidableEq, Repr

/-- A key slot (R339). -/
structure Key where
  owner : Nat := 0
  used : Bool := false
  material : List Byte := []
  deriving DecidableEq, Repr

/-- An almanac record without KIND and UNIT, which its key gives (R315). -/
structure AlmRec where
  state : Nat := 0
  cause : Nat := 0
  vstep : Nat := 0
  vmax : Nat := 0
  margin : Nat := 0
  floor : Nat := 40
  trend : Int := 0
  exhaust : Nat := 0xFFFF
  passes : Nat := 0
  cec : Nat := 0
  uec : Nat := 0
  spare : Nat := 0
  ecc : Nat := 0
  day : Nat := 0
  deriving DecidableEq, Repr

/-- What flash holds (R315, R316, R325, R326, R334, R349, R350). -/
structure Flash where
  alm : List (UnitId × AlmRec) := []
  keys : Sparse (List Byte) := []
  thermal : List (Nat × Nat × Nat) := []
  failures : List Nat := []
  /-- Disabled L2 lines: slice, line. -/
  l2Lines : List (Nat × Nat) := []
  tmLines : List (Nat × Nat) := []
  rows : List (UnitId × Nat) := []
  lineCec : List (UnitId × Nat × Nat) := []
  margins : List (Nat × Nat × Int) := []
  replanDays : Nat := 30
  /-- Days of service before this power-on. -/
  dayBase : Nat := 0
  deriving DecidableEq, Repr

/-- A switch slot (R287): the first arrival, what arrived by port, the epoch it opened under. -/
structure SwSlot where
  cgrp : Nat
  seq : Nat
  chunk : Nat
  first : Contribution
  mismatch : Bool
  got : List (Nat × List Nat)
  epoch : Nat
  deriving DecidableEq, Repr
structure Switch where
  id : Nat
  entries : List TreeEntry := []
  slots : List SwSlot := []
  waiting : List Contribution := []
  /-- Calls found mismatched, whose later chunks are dropped (R287). -/
  dropped : List (Nat × Nat) := []
  /-- The collective groups whose home switch this is (R285). -/
  homes : List Nat := []
  deriving DecidableEq, Repr

/-- A shoot-down: the cores still to acknowledge and what follows (R243): a reply, or a task's commit. -/
structure Shoot where
  id : Nat
  ctx : Nat
  va : Nat
  len : Nat
  /-- Per core, once the shoot-down has reached it, the number below which its accesses were issued under the old translation. -/
  left : List (Nat × Option Nat)
  reply : Option (Hdr × Nat)
  free : List Nat
  task : Option (Nat × Nat)
  deriving DecidableEq, Repr

structure Link where
  id : LinkId
  spareUsed : Bool := false
  half : Bool := false
  retired : Bool := false
  training : Bool := false
  deriving DecidableEq, Repr

/-- The word now issuing: group, IssuePC, Exec, half, first issue cc, length and parcels (R28, R107). -/
structure Cur where
  g : GRef
  pc : Nat
  exec : W64
  half : Nat
  t0 : Nat
  len : Nat
  raw : List W32
  latch : Option Regs
  fetched : Bool := false
  deriving DecidableEq, Repr

/-- The machine. The fields from `agenda` on are the model's own. -/
structure State where
  clock : Nat
  power : Bool
  leader : Nat
  mgmtOk : List Nat
  dram : Mem
  framesUsed : List Nat
  framesBad : List Nat
  keys : Sparse Key
  contexts : List Ctx
  sessions : List Session
  images : List Image
  launches : List Launch
  clusters : List Cluster
  teams : List Team
  cores : List Core
  leadList : List WaitCl
  dieList : List WaitCl
  vigil : Nat
  tasks : List Task
  loads : List LoadReq
  path : List PathEntry
  atoms : List AtomRep
  walks : List Walk
  faults : List FaultRec
  adds : List PendAdd
  ops : List EOp
  engines : List Engine
  locks : List Lock
  steals : List Steal
  shoots : List Shoot
  steers : List Steering
  switches : List Switch
  links : List Link
  ports : Sparse Nat
  flash : Flash
  refreshRow : Sparse Nat
  issueRow : Sparse Nat
  ember : Sparse Nat
  /-- Rows being copied to a repair row, slices whose pages are being rehomed with the cause (R326, R180). -/
  rowCopies : List (UnitId × Nat)
  rehoming : List (Nat × Nat)
  replies : List (Nat × Nat × Msg)
  /-- Replies that an earlier leader recorded, with which a repeated command is answered (R335). -/
  replayable : List (Nat × Nat × Msg)
  /-- The number of the first session after the last take-over: those below it were closed by it (R335). -/
  era : Nat
  /-- Retirements by command that are not over: the cores still in service (R334, R336). -/
  retiring : List (Hdr × List Nat)
  outbox : List Msg
  heldMsgs : List Msg
  /-- Next numbers: accesses and work, teams, try entries, GRIDID, images, fault records, sessions, tasks. -/
  nextId : Nat
  nextTeam : Nat
  nextUid : Nat
  nextGrid : Nat
  nextImage : Nat
  nextFault : Nat
  nextSession : Nat
  nextTask : Nat
  agenda : List (Nat × Instr)
  inbox : List Instr
  todo : List (Nat × Nat)
  cur : Option Cur
  free : Nat
  deriving DecidableEq, Repr

/-- Right after bring-up step 8 (R350, R315): power up, die 0 leads, memory zeroed, nothing opened. -/
def State.reset : State :=
  { clock := 0, power := true, leader := 0, mgmtOk := [0, 1, 2, 3], dram := {}, framesUsed := [], framesBad := [],
    keys := [], contexts := [], sessions := [], images := [], launches := [], clusters := [], teams := [], cores := [],
    leadList := [], dieList := [], vigil := Config.vigil, tasks := [], loads := [], path := [], atoms := [],
    walks := [], faults := [], adds := [], ops := [], engines := [], locks := [], steals := [], shoots := [],
    steers := [], switches := [], links := [], ports := [], flash := {}, refreshRow := [], issueRow := [], ember := [], rowCopies := [], rehoming := [],
    replies := [], replayable := [], era := 0, retiring := [], outbox := [], heldMsgs := [],
    nextId := 1, nextTeam := 1, nextUid := 1, nextGrid := 1, nextImage := 1, nextFault := 1, nextSession := 1,
    nextTask := 1,
    -- the ember passes of the dies, the re-plan and the corrected-error window (R315, R316, R317)
    agenda := [(1, .emberVisit 0), (1, .emberVisit 1), (1, .emberVisit 2), (1, .emberVisit 3), (30 * Config.ccPerDay, .replan), (30 * Config.ccPerDay, .cecWindowEnd)],
    inbox := [], todo := [], cur := none, free := 0 }

end Sys2Proof.Machine
end

