-- ==== Sys2Proof/Machine/Ops.lean ====
section
/-! DEFINITION. The named operations over memory, registers, groups and messages, and taking an exception: a throw into a
region (R53, R57 to R59, R218), which STEERING_END completes. -/
namespace Sys2Proof.Machine

/-! Sorted maps that never list their default. -/

def spGet {α : Type} (d : α) : Sparse α → Nat → α
  | [], _ => d
  | (k, v) :: t, n => if k = n then v else spGet d t n

def spPut {α : Type} [DecidableEq α] (d : α) : Sparse α → Nat → α → Sparse α
  | [], n, v => if v = d then [] else [(n, v)]
  | (k, x) :: t, n, v =>
    if n < k then (if v = d then (k, x) :: t else (n, v) :: (k, x) :: t)
    else if n = k then (if v = d then t else (n, v) :: t)
    else (k, x) :: spPut d t n v

/-- Keys strictly rise from `lo` and no entry holds the default. -/
def spWfFrom {α : Type} [DecidableEq α] (d : α) : Nat → Sparse α → Bool
  | _, [] => true
  | lo, (k, v) :: t => decide (lo ≤ k) && !decide (v = d) && spWfFrom d (k + 1) t
def spWf {α : Type} [DecidableEq α] (d : α) (l : Sparse α) : Bool := spWfFrom d 0 l

/-! Memory (R5, R350: an unlisted byte reads 0). -/

def Mem.read1 (m : Mem) (a : Nat) : Byte := spGet 0 m.cells a
def Mem.write1 (m : Mem) (a : Nat) (b : Byte) : Mem := { m with cells := spPut 0 m.cells a b }
def Mem.bytes (m : Mem) : Nat → Nat → List Byte
  | _, 0 => []
  | a, n + 1 => m.read1 a :: Mem.bytes m (a + 1) n
def Mem.put (m : Mem) : Nat → List Byte → Mem
  | _, [] => m
  | a, b :: t => Mem.put (m.write1 a b) (a + 1) t
/-- Memory is in its one form: addresses rise, no listed byte is 0. -/
def Mem.wf (m : Mem) : Bool := spWf (0 : Byte) m.cells

def natOfBytes : List Byte → Nat
  | [] => 0
  | b :: t => b.toNat + 256 * natOfBytes t
def bytesOfNat : Nat → Nat → List Byte
  | 0, _ => []
  | n + 1, x => BitVec.ofNat 8 x :: bytesOfNat n (x / 256)

def Mem.readN (m : Mem) (a n : Nat) : Nat := natOfBytes (m.bytes a n)
def Mem.poisoned (m : Mem) (a n : Nat) : Bool := m.poison.any fun b => a < b * 64 + 64 && b * 64 < a + n
/-- A write of whole 64-byte blocks clears their poison (R323). -/
def Mem.writeBytes (m : Mem) (a : Nat) (bs : List Byte) : Mem :=
  let m' := m.put a bs
  { m' with poison := m'.poison.filter fun b => !(a ≤ b * 64 && b * 64 + 64 ≤ a + bs.length) }
/-- Blocks that pieces written together cover whole lose their poison (R323). -/
def Mem.cleanse (m : Mem) (l : List (Nat × Nat)) : Mem :=
  { m with poison := m.poison.filter fun b => !(List.range 64).all fun i => l.any fun p => p.1 ≤ b * 64 + i && b * 64 + i < p.1 + p.2 }
def Mem.writeN (m : Mem) (a n x : Nat) : Mem := m.writeBytes a (bytesOfNat n x)

/-! Lane masks. -/

def lanesOf (m : W64) : List Nat := (List.range 64).filter fun l => m.getLsbD l
def maskOf (l : List Nat) : W64 := l.foldl (fun acc i => acc ||| (1#64 <<< i)) 0
def lowMask (n : Nat) : W64 := BitVec.ofNat 64 (2 ^ n - 1)

/-! Lookups and updates by number. -/

def State.team? (s : State) (t : Nat) : Option Team := s.teams.find? fun x => x.id == t
def State.modTeam (s : State) (t : Nat) (f : Team → Team) : State :=
  { s with teams := s.teams.map fun x => if x.id = t then f x else x }
def Team.group? (t : Team) (slot : Nat) : Option Group := t.groups.find? fun g => g.slot == slot
def Team.modGroup (t : Team) (slot : Nat) (f : Group → Group) : Team :=
  { t with groups := t.groups.map fun g => if g.slot = slot then f g else g }
def State.group? (s : State) (g : GRef) : Option Group := (s.team? g.team).bind fun t => t.group? g.slot
def State.modGroup (s : State) (g : GRef) (f : Group → Group) : State := s.modTeam g.team fun t => t.modGroup g.slot f
def State.core (s : State) (c : Nat) : Core := (s.cores.find? fun x => x.coord == c).getD { coord := c }
def State.modCore (s : State) (c : Nat) (f : Core → Core) : State :=
  { s with cores := f (s.core c) :: s.cores.filter fun x => x.coord != c }
def State.launch? (s : State) (g : Nat) : Option Launch := s.launches.find? fun x => x.grid == g
def State.modLaunch (s : State) (g : Nat) (f : Launch → Launch) : State :=
  { s with launches := s.launches.map fun x => if x.grid = g then f x else x }
def State.ctx? (s : State) (c : Nat) : Option Ctx := s.contexts.find? fun x => x.id == c
def State.modCtx (s : State) (c : Nat) (f : Ctx → Ctx) : State :=
  { s with contexts := s.contexts.map fun x => if x.id = c then f x else x }
def State.cluster? (s : State) (l c : Nat) : Option Cluster := s.clusters.find? fun x => x.launch == l && x.id == c
def State.modCluster (s : State) (l c : Nat) (f : Cluster → Cluster) : State :=
  { s with clusters := s.clusters.map fun x => if x.launch = l ∧ x.id = c then f x else x }
def State.op? (s : State) (i : Nat) : Option EOp := s.ops.find? fun x => x.id == i
def State.modOp (s : State) (i : Nat) (f : EOp → EOp) : State :=
  { s with ops := s.ops.map fun x => if x.id = i then f x else x }
def State.image? (s : State) (n : Nat) : Option Image := s.images.find? fun x => x.num == n
def State.resident (s : State) (c : Nat) : List Team := s.teams.filter fun t => t.coord == c && t.place == .resident
def modNth {α : Type} (l : List α) (i : Nat) (f : α → α) : List α := l.mapIdx fun j x => if j = i then f x else x

/-! Time and free values. -/

/-- A step becomes due at a cc. -/
def State.sched (s : State) (t : Nat) (i : Instr) : State := { s with agenda := s.agenda ++ [(t, i)] }
/-- A step becomes due after its least latency and a free delay (R353). -/
def State.after (s : State) (least : Nat) (i : Instr) : State :=
  { s.sched (s.clock + least + Config.freeDelay s.free) i with free := s.free + 1 }
/-- A step whose condition does not hold yet is asked again in the next cc. -/
def State.again (s : State) (i : Instr) : State := s.sched (s.clock + 1) i
def State.drawByte (s : State) : Byte × State := (Config.freeByte s.free, { s with free := s.free + 1 })
def State.drawBit (s : State) : Bool × State := (Config.freeBit s.free, { s with free := s.free + 1 })
def State.fresh (s : State) : Nat × State := (s.nextId, { s with nextId := s.nextId + 1 })

/-- Bytes that the spec calls undefined. -/
def State.drawBytes (s : State) (n : Nat) : List Byte × State :=
  (List.range n).foldl (fun (y : List Byte × State) _ => let r := y.2.drawByte; (y.1 ++ [r.1], r.2)) ([], s)

/-- CLOCK as a context reads it (R137, R345). -/
def State.ctxClock (s : State) (c : Nat) : Nat :=
  s.clock - match s.ctx? c with
    | some x => x.clockOff
    | none => 0

/-! Registers (R55, R93). -/

def Regs.getV (r : Regs) (lane n : Nat) : VReg := spGet {} r.v (lane * 256 + n)
def Regs.setV (r : Regs) (lane n : Nat) (x : VReg) : Regs := { r with v := spPut {} r.v (lane * 256 + n) x }
def Regs.getS (r : Regs) (n : Nat) : SReg := spGet {} r.s n
def Regs.setS (r : Regs) (n : Nat) (x : SReg) : Regs := { r with s := spPut {} r.s n x }
/-- k0 always reads true (R96). -/
def Regs.getK (r : Regs) (n : Nat) : W64 := if n = 0 then BitVec.allOnes 64 else spGet 0 r.k n
/-- A write of k0 is ignored (R135). -/
def Regs.setK (r : Regs) (n : Nat) (lanes bits : W64) : Regs :=
  if n = 0 then r else { r with k := spPut 0 r.k n ((r.getK n &&& ~~~lanes) ||| (bits &&& lanes)) }
def Regs.getM (r : Regs) (lane n : Nat) : Triple := spGet emptyTriple r.m (lane * 8 + n)
def Regs.setM (r : Regs) (lane n : Nat) (t : Triple) : Regs := { r with m := spPut emptyTriple r.m (lane * 8 + n) t }
/-- A write marks the register full, clears void and the failed check (R93, R324). -/
def Regs.writeV (r : Regs) (lane n : Nat) (x : W32) : Regs :=
  { r.setV lane n ⟨x, {}⟩ with bad := r.bad.filter fun b => b != lane * 256 + n }
def Regs.writeS (r : Regs) (n : Nat) (x : W64) : Regs :=
  { r.setS n ⟨x, {}⟩ with bad := r.bad.filter fun b => b != 65536 + n }
/-- A variable-latency word has issued: the register is empty, void or not (R93). -/
def RegSt.emptied (x : RegSt) : RegSt := { x with full := false }
/-- The value is lost: void takes precedence over empty until a write (R55). -/
def RegSt.voided (x : RegSt) : RegSt := { x with void := true }
def Regs.markV (r : Regs) (f : RegSt → RegSt) (lane n : Nat) : Regs := r.setV lane n { r.getV lane n with st := f (r.getV lane n).st }
def Regs.markS (r : Regs) (f : RegSt → RegSt) (n : Nat) : Regs := r.setS n { r.getS n with st := f (r.getS n).st }

/-- One result lands; pushes to a queue are made by the caller (R91). -/
def Regs.land (r : Regs) (l : Landing) : Regs :=
  match l.dst with
  | .v lane n => r.writeV lane n (l.val.setWidth 32)
  | .s n => r.writeS n l.val
  | .k n lanes => r.setK n lanes l.val
  | .m lane n => r.setM lane n l.tri
  | .qo _ => r

/-- A list in rising order of a key; equal keys keep their order. -/
def insertBy {α : Type} (f : α → Nat) (x : α) : List α → List α
  | [] => [x]
  | y :: t => if f x ≤ f y then x :: y :: t else y :: insertBy f x t
def sortBy {α : Type} (f : α → Nat) (l : List α) : List α := l.foldr (insertBy f) []

/-- Landings due by cc t, the earliest first and in issue order within a cc (R95). -/
def dueLandings (t : Nat) (l : List Landing) : List Landing :=
  let d := l.filter fun x => x.due ≤ t
  sortBy (fun (x : Landing) => x.due) d

/-- What a result of a word issued at cc `issue` still writes: not what a later-issued word wrote in this cc (R95). -/
def Group.mayWrite (g : Group) (issue : Nat) (d : LDst) : Option LDst :=
  match d with
  | .k n lanes =>
    some (.k n (g.landed.foldl (fun m x =>
      match x.1 with
      | .k n' l => if n' = n ∧ issue < x.2 then m &&& ~~~l else m
      | _ => m) lanes))
  | d => if g.landed.any fun x => x.1 == d && issue < x.2 then none else some d
/-- A RESULT LANDS, of fixed or of variable latency (R95): of two in one cc the later-issued word's stays. -/
def Group.put (g : Group) (l : Landing) : Group :=
  match g.mayWrite l.issue l.dst with
  | some d => { g with regs := g.regs.land { l with dst := d }, landed := (d, l.issue) :: g.landed }
  | none => g
/-- Results of one word that land together. -/
def Group.putAll (g : Group) (issue : Nat) (l : List (LDst × W64)) : Group :=
  l.foldl (fun g x => g.put ⟨0, issue, x.1, x.2, emptyTriple⟩) g
/-- The results due by the present cc have landed. -/
def Group.settle (t : Nat) (g : Group) : Group :=
  { (dueLandings t g.land).foldl Group.put { g with landed := [] } with land := g.land.filter fun y => t < y.due }
/-- An entry is pushed to an output queue: the core's, or the saved one of a team that is away (R91, R232). -/
def State.pushQo (s : State) (t : Team) (q : Nat) (x : W32) : State :=
  let add (l : List StreamQ) : List StreamQ := modNth l q fun y => { y with entries := y.entries ++ [x] }
  if t.place = .away then s.modTeam t.id fun u => { u with offQo := add u.offQo } else s.modCore t.coord fun c => { c with qo := add c.qo }
/-- The pushes of a team's groups that are due (R91). DESIGN CHOICE (log 108): one that is still on its way when its team ends is discarded,
as the entries are that the team leaves in its queues (R178). -/
def State.pushDue (s : State) (t : Team) : State :=
  if t.place = .ended then s
  else (t.groups.flatMap fun g => dueLandings s.clock g.land).foldl (fun s l =>
    match l.dst with
    | .qo q => s.pushQo t q (l.val.setWidth 32)
    | _ => s) s
/-- What is due in this cc has landed in every group, resident or not: in its registers and, for queue ports, in the queues
(R91, R95, R230). -/
def State.settle (s : State) : State :=
  let u := s.teams.foldl State.pushDue s
  { u with teams := u.teams.map fun t => { t with groups := t.groups.map (Group.settle s.clock) } }

/-! The lanes of a group (R27, R28). -/

def Group.pc (g : Group) (l : Nat) : W32 := spGet 0 g.pcs l
def Group.setPc (g : Group) (l : Nat) (p : W32) : Group := { g with pcs := spPut 0 g.pcs l p }
def Group.deferOf (g : Group) (l : Nat) : Nat := spGet 0 g.defer l
def Group.setDefer (g : Group) (l n : Nat) : Group := { g with defer := spPut 0 g.defer l n }
/-- The candidates: live lanes without deferral, or all live lanes when every one is deferred (R28). -/
def Group.cand (g : Group) : List Nat :=
  let c := (lanesOf g.live).filter fun l => g.deferOf l = 0
  if c.isEmpty then lanesOf g.live else c
def minPc (g : Group) : List Nat → Nat
  | [] => 0
  | [l] => (g.pc l).toNat
  | l :: t => min (g.pc l).toNat (minPc g t)
def Group.issuePc (g : Group) : Nat := minPc g g.cand
def Group.execSet (g : Group) : W64 := maskOf (g.cand.filter fun l => (g.pc l).toNat = g.issuePc)
/-- Deferral ends when every live lane is deferred (R28). -/
def Group.endDefer (g : Group) : Group :=
  if (lanesOf g.live).all fun l => g.deferOf l ≠ 0 then { g with defer := [] } else g

/-- Who starts work: the open entries with the members among its lanes (R54). -/
def State.starter (s : State) (g : GRef) (lanes : W64) (pc : Nat) : Starter :=
  match s.group? g with
  | none => ⟨g, lanes, pc, [], [], 0, s.clock⟩
  | some gr =>
    ⟨g, lanes, pc, (gr.tries.filter fun e => e.members &&& lanes ≠ 0).map fun e => (e.uid, e.members &&& lanes),
     (gr.tries.filter fun e => e.team && e.members &&& lanes ≠ 0).map fun e => (e.inst, e.members &&& lanes), gr.uid, s.clock⟩
/-- The group that started a piece of work, while it is in its slot. -/
def State.groupBy (s : State) (b : Starter) : Option Group := (s.group? b.g).filter fun g => g.uid == b.uid
/-- The lanes that started a piece of work and are live. -/
def State.liveBy (s : State) (b : Starter) : W64 :=
  match s.groupBy b with
  | some g => g.live &&& b.lanes
  | none => 0

/-- The lanes of a starter that are members inside a region (R54): all of them for the grid level. -/
def State.inside (s : State) (r : RegionId) (b : Starter) : W64 :=
  let look (u : Nat) (l : List (Nat × W64)) : W64 :=
    match l.find? fun x => x.1 == u with
    | some x => x.2
    | none => 0
  match r with
  | .group t sl u =>
    if b.g = ⟨t, sl⟩ then
      match s.groupBy b with
      | some g =>
        match g.tries.find? fun e => e.uid == u with
        | some e => e.members &&& look u b.tries
        | none => 0
      | none => 0
    else 0
  | .team t i =>
    if b.g.team = t then
      match s.groupBy b with
      | some g =>
        match g.tries.find? fun e => e.team && e.inst == i with
        | some e => e.members &&& look i b.teamTries
        | none => 0
      | none => 0
    else 0
  | .grid l =>
    match s.team? b.g.team with
    | some t => if t.launch = l then b.lanes else 0
    | none => 0

/-! Taking an exception. -/

/-- A throw by one lane: code, PC as an image offset, value operand (R59, R216). -/
structure LaneThrow where
  lane : Nat
  code : Nat
  pc : Nat
  value : W64
  deriving DecidableEq, Repr

def eIllegal : Nat := 0x01
def eEmpty : Nat := 0x02
def eVoid : Nat := 0x03
def eRole : Nat := 0x04
def eAlign : Nat := 0x05
def eBounds : Nat := 0x06
def ePage : Nat := 0x07
def eProt : Nat := 0x08
def eRangelock : Nat := 0x09
def eAbsent : Nat := 0x0A
def eCollMismatch : Nat := 0x0B
def eCopyfail : Nat := 0x0C
def eEcc : Nat := 0x0D
def eQueue : Nat := 0x0E
def eSpawn : Nat := 0x0F
def eArith : Nat := 0x10
def eMatrix : Nat := 0x11
def eTrydepth : Nat := 0x12
def eTimeout : Nat := 0x13
def eCancelled : Nat := 0x14

/-- The image base of a team's launch (R27). -/
def State.codeBase (s : State) (t : Team) : Nat :=
  match s.launch? t.launch with
  | none => 0
  | some l =>
    match s.image? l.body.image with
    | none => 0
    | some i => i.body.codeBase

def regionLevel : RegionId → Nat
  | .group _ _ _ => 0
  | .team _ _ => 1
  | .grid _ => 2

/-- The innermost region of a lane: the topmost entry that holds it, else the grid level (R49, R57). -/
def innermost (t : Team) (gr : Group) (lane : Nat) : RegionId :=
  match gr.tries.find? fun e => e.members.getLsbD lane with
  | some e => if e.team then .team t.id e.inst else .group t.id gr.slot e.uid
  | none => .grid t.launch

/-- The record of one throw alone (R217). -/
def throwRec (s : State) (t : Team) (slot cc : Nat) (x : LaneThrow) : Rec :=
  { code := x.code, count := 1, pc := s.codeBase t + x.pc, lane := x.lane, group := slot, pos := t.pos,
    clus := t.cluster % 65536, mask := 1#64 <<< x.lane, codes := 1#64 <<< (x.code % 64), value := x.value, cc := cc }

/-- The order of first throwers (R218). -/
def Rec.key (r : Rec) : List Nat := [r.cc, r.clus, r.pos, r.group, r.lane]
def lexLe : List Nat → List Nat → Bool
  | a :: x, b :: y => if a = b then lexLe x y else decide (a < b)
  | _, _ => true
/-- Merging two records (R218). -/
def Rec.merge (a b : Rec) : Rec :=
  let f := if lexLe a.key b.key then a else b
  let o := if lexLe a.key b.key then b else a
  let codes := a.codes ||| b.codes
  { f with
    mask := if f.clus = o.clus ∧ f.pos = o.pos ∧ f.group = o.group then f.mask ||| o.mask else f.mask
    count := a.count + b.count
    codes := codes
    flags := a.flags ||| b.flags ||| (if 1 < (lanesOf codes).length then 1 else 0) }

/-- A throw reaches a region: it joins the region's steering interval or opens one (R218). A rethrown instance counts once. -/
def State.throwInto (s : State) (r : RegionId) (x : Rec) (inst : Option Nat) : State :=
  match s.steers.find? fun y => y.region == r with
  | some y =>
    let dup := match inst with
      | some i => y.insts.contains i
      | none => false
    if dup then s
    else { s with steers := s.steers.map fun z =>
      if z.region = r then { z with acc := z.acc.merge x, insts := inst.toList ++ z.insts } else z }
  | none =>
    { s.sched (s.clock + 1) (.steeringEnd r) with
      steers := s.steers ++ [{ region := r, acc := x, insts := inst.toList, start := s.clock }] }

/-- An exception of a task team that no region of the team holds discards the task (R280); STEERING_END does it. -/
def State.noteTask (s : State) (t : Team) (r : RegionId) : State :=
  match r, t.task with
  | .grid _, some (d, k) =>
    { s with tasks := s.tasks.map fun x => if x.die = d ∧ x.id = k then { x with state := 4 } else x }
  | _, _ => s

/-- A group that throws into regions is stopped there at once (R53, R218). -/
def State.stopThrower (s : State) (g : GRef) (into : List RegionId) : State :=
  { s with steers := s.steers.map fun z => if into.contains z.region then { z with threw := g :: z.threw.filter fun y => y != g } else z }

/-- TAKING AN EXCEPTION: each lane throws its code into its innermost region, or the grid level (R57, R59), as issued at `cc` (R218). -/
def State.raiseAt (s : State) (g : GRef) (cc : Nat) (throws : List LaneThrow) : State :=
  match s.team? g.team, s.group? g with
  | some t, some gr =>
    let into := throws.map fun x => innermost t gr x.lane
    let s := throws.foldl (fun s x =>
      let r := innermost t gr x.lane
      (s.noteTask t r).throwInto r (throwRec s t g.slot cc x) none) s
    s.stopThrower g into
  | _, _ => s
/-- A throw at the present cc. -/
def State.raise (s : State) (g : GRef) (throws : List LaneThrow) : State := s.raiseAt g s.clock throws
/-- Every live lane of a group throws at its own PC. -/
def State.raiseLive (s : State) (g : GRef) (cc code : Nat) (value : W64) : State :=
  match s.group? g with
  | some y => s.raiseAt g cc ((lanesOf y.live).map fun l => ⟨l, code, (y.pc l).toNat, value⟩)
  | none => s
/-- The group waits for the second half of its word: its issue boundary has not come (R351). -/
def midWord (g : Group) : Bool := g.second.isSome && g.phase != .stalled && g.phase != .exited
/-- A failure after issue of a word's work: thrown by the lanes that started it and are live; if none is, it reaches the grid level with
the fields of the word (R352). `flags` are bits of FLAGS that the failure itself sets (R311). DESIGN CHOICE (log 96): lanes that have
exited while others of the word live take no part. -/
def State.raiseWork (s : State) (b : Starter) (cc code : Nat) (value : W64) (flags : Nat) : State :=
  match s.team? b.g.team with
  | some t =>
    let live := s.liveBy b
    let region (l : Nat) : RegionId :=
      match s.group? b.g with
      | some gr => if live = 0 then .grid t.launch else innermost t gr l
      | none => .grid t.launch
    let ls := lanesOf (if live = 0 then b.lanes else live)
    (ls.foldl (fun (y : State) l =>
      (y.noteTask t (region l)).throwInto (region l) { throwRec s t b.g.slot cc ⟨l, code, b.pc, value⟩ with flags := flags } none) s).stopThrower b.g (ls.map region)
  | none => s
/-- The exceptions that waited for the group's issue boundary are thrown where it has stopped (R352). -/
def State.payOwed (s : State) (g : GRef) : State :=
  match s.group? g with
  | some y => y.owed.foldl (fun s x => match x.byw with
      | some b => s.raiseWork b x.cc x.code x.value x.flags
      | none => s.raiseLive g x.cc x.code x.value) (s.modGroup g fun z => { z with owed := [] })
  | none => s
/-- A group's live lanes throw what no word of a group started, each at its PC where the group is stopped (R352). -/
def State.raiseStopped (s : State) (g : GRef) (code : Nat) (value : W64) : State :=
  match s.group? g with
  | some y => if midWord y then s.modGroup g fun z => { z with owed := z.owed ++ [{ code := code, value := value, cc := s.clock }] } else s.raiseLive g s.clock code value
  | none => s

/-- One code and value thrown by a set of lanes of a word (R352). -/
def State.raiseAll (s : State) (g : GRef) (lanes : W64) (pc code : Nat) (value : W64) : State :=
  s.raise g ((lanesOf lanes).map fun l => ⟨l, code, pc, value⟩)

/-- A failure after issue is thrown at its group's next issue boundary: now, or when the group's word is over (R311, R351, R352). -/
def State.raiseWith (s : State) (b : Starter) (code : Nat) (value : W64) (flags : Nat) : State :=
  if (s.groupBy b).any midWord then
    s.modGroup b.g fun z => { z with owed := z.owed ++ [{ code := code, value := value, cc := s.clock, flags := flags, byw := some b }] }
  else s.raiseWork b s.clock code value flags
def State.raiseStarter (s : State) (b : Starter) (code : Nat) (value : W64) : State := s.raiseWith b code value 0

/-- One exception of several words' work: by every starter that has live lanes; if none has, at the grid level with the fields
of the first (R352). DESIGN CHOICE (log 107): of a CPY instance whose participants have all exited, the word of the slice that was issued
first gives the record's fields and PC. -/
def State.raiseStarters (s : State) (bs : List Starter) (code : Nat) (value : W64) : State :=
  let alive := bs.filter fun b => s.liveBy b ≠ 0
  match alive, bs with
  | [], b :: _ => s.raiseStarter b code value
  | l, _ => l.foldl (fun s b => s.raiseStarter b code value) s

/-- The grid level of a launch takes a failure of work that a word of it started, with that word's fields (R352, R354). -/
def State.raiseGrid (s : State) (launch : Nat) (b : Starter) (code : Nat) (value : W64) : State :=
  match s.team? b.g.team with
  | some t => (lanesOf b.lanes).foldl (fun (y : State) l => y.throwInto (.grid launch) (throwRec s t b.g.slot s.clock ⟨l, code, b.pc, value⟩) none) s
  | none => s.throwInto (.grid launch) { code := code, count := 1, pc := b.pc, group := b.g.slot, mask := b.lanes, codes := 1#64 <<< code, value := value, cc := s.clock } none
/-- The grid level takes what no group of a team can throw and no word started: its lowest group slot and lane 0 (R352). The spec
gives that record no PC: DESIGN CHOICE, image offset 0 (log 63). -/
def State.raiseNobody (s : State) (t : Team) (code : Nat) (value : W64) : State :=
  let low := (t.groups.map fun g => g.slot).foldl min ((t.groups.map fun g => g.slot).headD 0)
  (s.noteTask t (.grid t.launch)).throwInto (.grid t.launch) (throwRec s t low s.clock ⟨0, code, 0, value⟩) none
/-- Every live lane of every group of a team throws (R352). -/
def State.raiseTeam (s : State) (t : Team) (code : Nat) (value : W64) : State :=
  let live := t.groups.filter fun g => g.live ≠ 0
  if live.isEmpty then s.raiseNobody t code value else live.foldl (fun s g => s.raiseStopped ⟨t.id, g.slot⟩ code value) s

/-- A group is a member of a region instance; every group of a launch is one of its grid level (R49, R51). -/
def isMember (r : RegionId) (t : Team) (g : Group) : Bool :=
  match r with
  | .group a b u => a == t.id && b == g.slot && g.tries.any fun e => e.uid == u
  | .team a i => a == t.id && g.tries.any fun e => e.team && e.inst == i
  | .grid l => l == t.launch
/-- A group is held by a steering interval that it threw into or that was opened in an earlier cc: it issues no more until it is
steered (R53, R218). -/
def State.steering (s : State) (t : Team) (g : Group) : Bool :=
  s.steers.any fun x => (x.start < s.clock || x.threw.contains ⟨t.id, g.slot⟩) && isMember x.region t g

/-- A context is frozen while a group of it is halted in a freezing debug session (R345). -/
def State.frozen (s : State) (ctx : Nat) : Bool :=
  match s.ctx? ctx with
  | some c =>
    (match c.debug with
     | some d => d.freeze
     | none => false) && s.teams.any fun t => t.ctx == ctx && t.groups.any fun g => g.halted && g.phase != .exited
  | none => false

/-- The rank of a role: loader, storer, computer (R228). -/
def classRank (role : Nat) : Nat := if role = 1 then 0 else if role = 2 then 1 else 2
def MDst.isPc : MDst → Bool
  | .pc _ _ => true
  | _ => false
/-- A RET of the group has targets on their way. -/
def State.retOut (s : State) (g : GRef) : Bool := s.loads.any fun r => r.byw.g == g && r.dst.isPc && s.liveBy r.byw &&& ~~~r.dead ≠ 0
/-- A group that its quarter may choose in this cc (R228), the quarter's own occupancy apart. -/
def State.candidate (s : State) (t : Team) (g : Group) : Bool :=
  t.place == .resident && g.phase == .ready && !g.halted && g.live ≠ 0 && g.held.isNone &&
  g.nextOk ≤ s.clock && !s.steering t g && !s.frozen t.ctx && !s.retOut ⟨t.id, g.slot⟩
def State.paused (s : State) (t : Team) (g : Group) : Bool := s.ctxClock t.ctx < g.pausedTo
/-- Candidates of lower classes age by 1 when a group of a class issues; at 64 one is promoted (R35, R228). -/
def State.ageOthers (s : State) (coord quarter rank : Nat) (me : GRef) : State :=
  (s.resident coord).foldl (fun s t =>
    (t.groups.filter fun g => g.quarter == quarter && (⟨t.id, g.slot⟩ : GRef) != me && rank < classRank g.role && s.candidate t g && !s.paused t g).foldl
      (fun s g =>
        let s := s.modGroup ⟨t.id, g.slot⟩ fun y => { y with age := y.age + 1 }
        if g.age + 1 = 64 then s.sched s.clock (.agePromotion ⟨t.id, g.slot⟩) else s) s) s

/-! Waking (R39, R229, R230). -/

/-- A wait is over; an eviction for a TRAP that has not come is over with it, one that a debug command asks for (`haltOff`) is not (R231). -/
def Group.woken (g : Group) : Group :=
  { g with phase := if g.phase = .parked then .ready else g.phase, wake := none, wakeMet := g.phase == .evicted || g.wakeMet, evictNow := false }
def State.wakeGroup (s : State) (g : GRef) : State := s.modGroup g Group.woken
def State.park (s : State) (g : GRef) (w : Wake) (b : Starter) : State :=
  s.modGroup g fun x => { x with phase := if x.phase = .evicted then .evicted else .parked, wake := some w, wakeBy := b, wakeMet := false }

/-- The L1 of a core is invalidated whole (R182). -/
def State.dropL1 (s : State) (coord : Nat) : State := s.modCore coord fun c => { c with l1 := [] }
/-- An acquire of a group at a scope code of R167: cluster or wider drops the L1 (R189). -/
def State.acquire (s : State) (g : GRef) (scope : Nat) : State :=
  match s.team? g.team with
  | some t => if 3 ≤ scope then s.dropL1 t.coord else s
  | none => s

/-! Range locks (R168, R275). -/

def Lock.covers (k : Lock) (a n : Nat) : Bool := a < k.base + (if k.gran then k.len * 65536 else k.len) && k.base < a + n
/-- A thread access meets a lock of its core: a load only a destination outside team memory and the A buffer (R168). -/
def State.locked (s : State) (coord : Nat) (t : Team) (space a n : Nat) (load : Bool) : Bool :=
  s.locks.any fun k =>
    !k.saved && k.coord == coord && k.space == space && (if space = 0 then k.ctx == t.ctx else k.team == t.id) && k.covers a n &&
    (if load then k.dest && space ≠ 1 && space ≠ 2 else true)
/-- The entry of a range, over 2^32 - 1 bytes in 64 KiB units; a range of no bytes takes none (R275). -/
def mkLock (op coord space : Nat) (dest : Bool) (ctx team base len : Nat) : List Lock :=
  if len = 0 then []
  else if len < 2 ^ 32 then [⟨op, coord, space, dest, false, ctx, team, len, base, false⟩]
  else
    let b := base / 65536 * 65536
    [⟨op, coord, space, dest, true, ctx, team, (base + len - b + 65535) / 65536, b, false⟩]
def State.lockRoom (s : State) (coord : Nat) (n : Nat) : Bool :=
  (s.locks.filter fun k => k.coord == coord && !k.saved).length + n ≤ 64
def State.unlock (s : State) (op : Nat) : State := { s with locks := s.locks.filter fun k => k.op != op }
/-- Entries of a core's table have come free: a refill that waited for one may start in this cc (R270). -/
def State.askRefills (s : State) (coord : Nat) : State :=
  (s.resident coord).foldl (fun s t =>
    ((t.queues.zip (List.range 4)).filter fun x => !x.1.performed.isEmpty && x.1.refill.isNone).foldl (fun s x => s.sched s.clock (.queueRefillStart t.id x.2)) s) s
/-- An operation's locks lift (R195, R275). -/
def State.endLocks (s : State) (op : Nat) : State :=
  (((s.locks.filter fun k => k.op == op).map fun k => k.coord).eraseDups).foldl State.askRefills (s.unlock op)
/-- The 128-bit record of an entry, with its team's index among the resident teams of the core (R275). -/
def Lock.word (k : Lock) (index : Nat) : Nat :=
  1 + k.space * 2 + k.dest.toNat * 16 + k.gran.toNat * 32 + k.ctx * 2 ^ 8 + index % 256 * 2 ^ 16 + k.len * 2 ^ 32 + k.base * 2 ^ 64

def State.lockRecords (s : State) (coord : Nat) : List Nat :=
  (s.locks.filter fun k => k.coord == coord && !k.saved).map fun k => k.word (((s.resident coord).findIdx? fun t => t.id == k.team).getD 0)

/-! Team memory and typed buffers by the space codes of R159 and R275. -/

def Team.buf (t : Team) (space : Nat) : Buf :=
  if space = 1 then t.tm else if space = 2 then t.abuf else if space = 3 then t.cbuf else t.wbuf
def Team.modBuf (t : Team) (space : Nat) (f : Buf → Buf) : Team :=
  if space = 1 then { t with tm := f t.tm } else if space = 2 then { t with abuf := f t.abuf }
  else if space = 3 then { t with cbuf := f t.cbuf } else { t with wbuf := f t.wbuf }
def linesOf (a n : Nat) : List Nat := if n = 0 then [] else (List.range ((a + n - 1) / 128 + 1 - a / 128)).map fun i => a / 128 + i
def Buf.clearLines (b : Buf) (ls : List Nat) : Buf :=
  { b with absent := (b.absent.filter fun x => !ls.contains x) ++ ls, orphan := b.orphan.filter fun x => !ls.contains x }
def Buf.setLines (b : Buf) (ls : List Nat) : Buf := { b with absent := b.absent.filter fun x => !ls.contains x }
def Buf.orphanLines (b : Buf) (ls : List Nat) : Buf :=
  let l := ls.filter fun x => b.absent.contains x
  { b with orphan := (b.orphan.filter fun x => !l.contains x) ++ l }

/-- The 64 bytes of a record (R217). -/
def Rec.bytes (r : Rec) : List Byte :=
  bytesOfNat 2 r.code ++ bytesOfNat 1 r.level ++ bytesOfNat 1 r.flags ++ bytesOfNat 4 r.count ++ bytesOfNat 8 r.pc ++
  bytesOfNat 2 r.lane ++ bytesOfNat 2 r.group ++ bytesOfNat 2 r.pos ++ bytesOfNat 2 r.clus ++ bytesOfNat 8 r.mask.toNat ++
  bytesOfNat 8 r.codes.toNat ++ bytesOfNat 8 r.value.toNat ++ bytesOfNat 8 r.steered ++ bytesOfNat 8 r.clock

/-- Offset of a group's record slot (R53, R159). -/
def exrecOf (slot : Nat) : Nat := 0x7E800 + 64 * slot
/-- Team memory as a load sees it: the window below .team, then the record slots (R159). -/
def Team.tmBytes (t : Team) (a n : Nat) : List Byte :=
  if a < 0x7E800 then t.tm.mem.bytes a n
  else ((spGet {} t.recs ((a - 0x7E800) / 64)).bytes.drop ((a - 0x7E800) % 64)).take n

/-! Messages (R333, R334, R337). -/

/-- LEN is a multiple of 8 (R333). -/
def pad8 (b : List Byte) : List Byte := b ++ List.replicate ((8 - b.length % 8) % 8) 0
/-- A message's bytes (R333). -/
def Msg.bytes (m : Msg) : List Byte :=
  bytesOfNat 2 m.code ++ bytesOfNat 1 m.form ++ bytesOfNat 1 0 ++ bytesOfNat 4 (24 + m.body.length) ++ bytesOfNat 8 m.tag ++ bytesOfNat 2 m.ctx ++ bytesOfNat 6 0 ++ m.body
/-- The unsolicited messages held for one context of a principal. -/
def Msg.with (m x : Msg) : Bool := x.ctx == m.ctx && x.principal == m.principal
/-- An unsolicited message of a principal: to an open session of it, or held, at most 4096 per context (R334). -/
def State.notifyTo (s : State) (principal : Option Nat) (ctx code : Nat) (body : List Byte) : State :=
  let sess := s.sessions.find? fun x => x.principal.isSome && x.principal == principal
  let m : Msg := { code := code, session := sess.map fun x => x.id, ctx := ctx, tag := 0, body := pad8 body, at_ := s.clock, principal := principal }
  match sess with
  | some _ => { s with outbox := s.outbox ++ [m] }
  | none =>
    let mine := s.heldMsgs.filter m.with
    if mine.length < 4096 then { s with heldMsgs := s.heldMsgs ++ [m] }
    else
      let oldest := (s.heldMsgs.findIdx? m.with).getD 0
      { s with heldMsgs := s.heldMsgs.eraseIdx oldest ++ [m] }
/-- An unsolicited message of a context. -/
def State.notify (s : State) (ctx code : Nat) (body : List Byte) : State := s.notifyTo ((s.ctx? ctx).map fun c => c.principal) ctx code body
/-- A notice with CTX 0xFFFF goes to every authenticated session (R337). -/
def State.notifyAll (s : State) (code : Nat) (body : List Byte) : State :=
  let l := s.sessions.filter fun x => x.principal.isSome
  if l.isEmpty then s.notifyTo none 0xFFFF code body
  else { s with outbox := s.outbox ++ l.map fun x =>
      { code := code, session := some x.id, ctx := 0xFFFF, tag := 0, body := pad8 body, at_ := s.clock, principal := x.principal } }
/-- An uncorrectable error was consumed that lies in no page: in team memory, a buffer or a register (R331). DESIGN CHOICE (log 105): the
notice is R337's KIND 1 with physical page 0 and no mapping, as that layout has no field for such a place. -/
def State.localNotice (s : State) (ctx : Nat) : State := s.notify ctx 0xC007 (bytesOfNat 4 1 ++ List.replicate 20 0)
/-- A debug halt: the Halted mark and the halt record (R40, R223, R344). -/
def State.haltGroup (s : State) (g : GRef) (reason tag : Nat) : State :=
  match s.team? g.team, s.group? g with
  | some t, some gr =>
    if gr.phase = .exited ∨ gr.halted then s
    else
      let rec' := bytesOfNat 1 reason ++ bytesOfNat 1 gr.slot ++ bytesOfNat 2 tag ++ bytesOfNat 4 (t.cluster % 65536) ++
        bytesOfNat 8 (s.codeBase t + gr.issuePc) ++ bytesOfNat 8 gr.execSet.toNat ++ bytesOfNat 8 (s.ctxClock t.ctx)
      (s.modGroup g fun y => { y with halted := true, haltDue := 0 }).notify t.ctx 0xC008 rec'
  | _, _ => s

/-- The CODE of a reply: the command's with bit 15 set (R333). -/
def replyCode (h : Hdr) (code : Nat) : Nat :=
  let n := h.unknown.getD code
  if n < 0x8000 then 0x8000 + n else n
/-- A reply to a command, recorded by principal and TAG (R333, R335); that of a command whose session a take-over closed is only recorded,
for the host to ask for. -/
def State.reply (s : State) (h : Hdr) (code status : Nat) (body : List Byte) : State :=
  let m : Msg := { code := replyCode h code, form := h.form, session := some h.session, ctx := h.ctx, tag := h.tag, body := pad8 (bytesOfNat 4 status ++ body), at_ := s.clock }
  let p := match s.sessions.find? fun x => x.id == h.session with
    | some x => x.principal
    | none => h.principal
  let rs := match p with
    | none => s.replies
    | some q =>
      let mine := s.replies.filter fun x => x.1 == q
      let kept := if 256 ≤ mine.length then s.replies.eraseIdx ((s.replies.findIdx? fun x => x.1 == q).getD 0) else s.replies
      kept ++ [(q, h.tag, m)]
  if h.session < s.era then { s with replies := rs, replayable := s.replayable ++ (p.map fun q => (q, h.tag, m)).toList }
  else { s with outbox := s.outbox ++ [m], replies := rs }

end Sys2Proof.Machine
end

