-- ==== Sys2Proof/Machine/Almanac.lean ====
section
/-! DEFINITION. The almanac's records (R315), the tiles in service (R19, R328) and matrix pairs (R16). -/
namespace Sys2Proof.Machine

/-- A number for each unit. -/
def unitKey : UnitId → Nat
  | .core c => c
  | .slice c => 256 + c
  | .teamMem c => 512 + c
  | .port n => 768 + n
  | .bridge n => 800 + n
  | .quadrant d q => 816 + 4 * d + q
  | .mgmt d => 840 + d
  | .bank c l b => 1024 + (c * 8 + l) * 32 + b
/-- A unit's record at reset (R315): fields that do not apply to its kind read 0. -/
def almDefault (u : UnitId) : AlmRec :=
  let k := unitKey u
  match u with
  | .core c =>
    let sp := (Config.spares (Config.coordDie c)).contains c
    { state := sp.toNat, cause := sp.toNat, vstep := Config.freeVstep k % 256, vmax := Config.freeVmax k % 256, margin := Config.freeMargin k % 65536 }
  | .quadrant _ _ => { vstep := Config.freeVstep k % 256, vmax := Config.freeVmax k % 256, margin := Config.freeMargin k % 65536 }
  | .teamMem _ => { floor := 0, exhaust := 0, spare := 16 }
  | .bank _ _ _ => { floor := 0, exhaust := 0, spare := 16 }
  | .port _ | .bridge _ => { floor := 0, exhaust := 0, spare := 1 }
  | .slice _ | .mgmt _ => { floor := 0, exhaust := 0 }
def State.alm (s : State) (u : UnitId) : AlmRec :=
  match s.flash.alm.find? fun x => x.1 == u with
  | some x => x.2
  | none => almDefault u
def State.setAlm (s : State) (u : UnitId) (f : AlmRec → AlmRec) : State :=
  { s with flash := { s.flash with alm := (u, f (s.alm u)) :: s.flash.alm.filter fun x => x.1 != u } }
/-- The day of service. -/
def State.day (s : State) : Nat := (s.flash.dayBase + s.clock / Config.ccPerDay) % 2 ^ 32
/-- A change of STATE dates the record (R315). -/
def State.setUnit (s : State) (u : UnitId) (state cause : Nat) : State :=
  s.setAlm u fun a => { a with state := state, cause := cause, day := s.day }
/-- An offered core: in service, neither spare nor retired (R19, R328). -/
def State.offered (s : State) (c : Nat) : Bool := Config.coordOk c && (s.alm (.core c)).state = 0
def Config.partner (c : Nat) : Nat := if c % 2 = 0 then c + 1 else c - 1
/-- The team of the issuing team's cluster on the follower core of a usable pair (R16, R304). DESIGN CHOICE (log 94): a team that has ended
follows no more. -/
def State.followerOf (s : State) (t : Team) : Option Team :=
  if t.coord % 2 = 0 && s.offered t.coord && s.offered (t.coord + 1) then
    s.teams.find? fun x => x.launch == t.launch && x.cluster == t.cluster && x.coord == t.coord + 1 && x.place != .ended && x.task == t.task
  else none

end Sys2Proof.Machine
end

