-- ==== Sys2Proof/Decode.lean ====
section
/-! DEFINITION. From parcels to instructions and back (R83 to R103): total on any bytes, rejecting by name, and the encoder
written from the same tables. -/
namespace Sys2Proof

/-- Why bytes are no instruction; each raises E_ILLEGAL (R83, R85, R86, R87, R89, R100, R103). -/
inductive Reject where
  | tooShort | opcode | operand | form
  deriving DecidableEq, Repr

/-- Bits lo + len - 1 : lo of a number. -/
def bitsOf (n lo len : Nat) : Nat := n / 2 ^ lo % 2 ^ len

/-- A little-endian number (R5). -/
def leNat : List Byte → Nat
  | [] => 0
  | b :: t => b.toNat + 256 * leNat t

/-- The n low bytes of a number, lowest first (R5). -/
def natLe : Nat → Nat → List Byte
  | 0, _ => []
  | n + 1, x => BitVec.ofNat 8 x :: natLe n (x / 256)

/-- Parcels of a word from its KIND (R83). -/
def kindParcels (k : Nat) : Nat := if k % 4 = 0 then 1 else if k % 4 = 3 then 3 else 2

/-- The 9-bit operand field (R87). -/
def decodeOpnd (f : Nat) : Option Opnd :=
  let x := f % 256
  if f < 256 then
    if h : x < 248 then some (.v ⟨x, h⟩)
    else if x < 252 then some (.qi (Fin.ofNat 4 (x - 248)))
    else some (.qo (Fin.ofNat 4 (x - 252)))
  else if x < 64 then some (.s (Fin.ofNat 64 x))
  else if x < 72 then some (.k (Fin.ofNat 8 (x - 64)))
  else if x < 80 then some (.m (Fin.ofNat 8 (x - 72)))
  else if x = 80 then some .lane
  else if x = 81 then some .pcv
  else if x = 82 then some .live
  else if x = 83 then some .act
  else if x < 127 then none
  else if x = 127 then some .lit
  else some (.imm (BitVec.ofNat 7 (x + 64)))

def encodeOpnd (o : Opnd) : Nat :=
  match o with
  | .v n => n.val
  | .qi n => 248 + n.val
  | .qo n => 252 + n.val
  | .s n => 256 + n.val
  | .k n => 256 + 64 + n.val
  | .m n => 256 + 72 + n.val
  | .lane => 256 + 80
  | .pcv => 256 + 81
  | .live => 256 + 82
  | .act => 256 + 83
  | .lit => 256 + 127
  | .imm x => 256 + 128 + (x.toNat + 64) % 128

/-- OP of an opcode (R103). -/
def Op.code (op : Op) : Nat :=
  match op with
  | .sadd => 0x0
  | .ssub => 0x1
  | .smul => 0x2
  | .smulh => 0x3
  | .sand => 0x4
  | .sor => 0x5
  | .sxor => 0x6
  | .sshl => 0x7
  | .sshr => 0x8
  | .smin => 0x9
  | .smax => 0xa
  | .smov => 0xb
  | .ssel => 0xc
  | .scmp => 0xd
  | .slea => 0xe
  | .sget => 0xf
  | .sset => 0x10
  | .spopc => 0x11
  | .sclz => 0x12
  | .iadd => 0x20
  | .isub => 0x21
  | .imul => 0x22
  | .imulh => 0x23
  | .imad => 0x24
  | .imin => 0x25
  | .imax => 0x26
  | .iabs => 0x27
  | .ineg => 0x28
  | .andI => 0x29
  | .orI => 0x2a
  | .xorI => 0x2b
  | .andn => 0x2c
  | .shl => 0x2d
  | .shr => 0x2e
  | .sra => 0x2f
  | .rol => 0x30
  | .popc => 0x31
  | .clz => 0x32
  | .brev => 0x33
  | .bfe => 0x34
  | .bfi => 0x35
  | .icmp => 0x36
  | .sel => 0x37
  | .mov => 0x38
  | .movk => 0x39
  | .idot4 => 0x3a
  | .fadd => 0x50
  | .fsub => 0x51
  | .fmul => 0x52
  | .ffma => 0x53
  | .fmin => 0x54
  | .fmax => 0x55
  | .fabs => 0x56
  | .fneg => 0x57
  | .fcmp => 0x58
  | .fclass => 0x59
  | .frnd => 0x5a
  | .fscale => 0x5b
  | .fdot2 => 0x5c
  | .frcp => 0x70
  | .frsq => 0x71
  | .fsqrt => 0x72
  | .fexp2 => 0x73
  | .flog2 => 0x74
  | .fsin => 0x75
  | .fcos => 0x76
  | .ftanh => 0x77
  | .cvt => 0x78
  | .cbdec => 0x79
  | .obdec => 0x7a
  | .perm => 0x80
  | .shfl => 0x81
  | .bcast => 0x82
  | .vote => 0x83
  | .matchI => 0x84
  | .scan => 0x85
  | .lred => 0x86
  | .elect => 0x87
  | .mclr => 0x90
  | .macc => 0x91
  | .maccw => 0x92
  | .mmerge => 0x93
  | .mlane => 0x94
  | .mget => 0x95
  | .mput => 0x96
  | .mnorm => 0x97
  | .ld => 0x98
  | .st => 0x99
  | .ldacq => 0x9a
  | .strel => 0x9b
  | .atom => 0x9c
  | .red => 0x9d
  | .fence => 0x9e
  | .pref => 0x9f
  | .probe => 0xa0
  | .ldstrm => 0xa1
  | .ststrm => 0xa2
  | .bra => 0xc0
  | .jmpi => 0xc1
  | .call => 0xc2
  | .ret => 0xc3
  | .exit => 0xc4
  | .nop => 0xc5
  | .pause => 0xc6
  | .bar => 0xc7
  | .barc => 0xc8
  | .waitge => 0xc9
  | .trap => 0xca
  | .tryOpen => 0xcb
  | .tryClose => 0xcc
  | .throwI => 0xcd
  | .rethrow => 0xce
  | .spawn => 0xcf
  | .setmode => 0xd0
  | .getmode => 0xd1
  | .bkpt => 0xd2
  | .cpy => 0xe0
  | .cpyt => 0xe1
  | .cpycan => 0xe2
  | .ctradd => 0xe3
  | .qpush => 0xe4
  | .qpop => 0xe5
  | .qsteal => 0xe6
  | .tsubmit => 0xe7
  | .rget => 0xe8
  | .rput => 0xe9
  | .rfree => 0xea
  | .rsv => 0xf0
  | .rls => 0xf1
  | .mzero => 0xf2
  | .mma => 0xf3
  | .mmap => 0xf4
  | .mmas => 0xf5
  | .mdrain => 0xf6
  | .mfence => 0xf7

/-- The scalar range of R103 from 0x0. -/
def rangeScalar : List Op :=
  [.sadd, .ssub, .smul, .smulh, .sand, .sor, .sxor, .sshl, .sshr, .smin, .smax, .smov, .ssel, .scmp, .slea,
   .sget, .sset, .spopc, .sclz]

/-- The vector integer range of R103 from 0x20. -/
def rangeVectorInteger : List Op :=
  [.iadd, .isub, .imul, .imulh, .imad, .imin, .imax, .iabs, .ineg, .andI, .orI, .xorI, .andn, .shl, .shr,
   .sra, .rol, .popc, .clz, .brev, .bfe, .bfi, .icmp, .sel, .mov, .movk, .idot4]

/-- The floating point range of R103 from 0x50. -/
def rangeFloatingPoint : List Op :=
  [.fadd, .fsub, .fmul, .ffma, .fmin, .fmax, .fabs, .fneg, .fcmp, .fclass, .frnd, .fscale, .fdot2]

/-- The special function range of R103 from 0x70. -/
def rangeSpecialFunction : List Op :=
  [.frcp, .frsq, .fsqrt, .fexp2, .flog2, .fsin, .fcos, .ftanh, .cvt, .cbdec, .obdec]

/-- The cross-lane range of R103 from 0x80. -/
def rangeCrossLane : List Op :=
  [.perm, .shfl, .bcast, .vote, .matchI, .scan, .lred, .elect]

/-- The statistics and memory range of R103 from 0x90. -/
def rangeStatisticsAndMemory : List Op :=
  [.mclr, .macc, .maccw, .mmerge, .mlane, .mget, .mput, .mnorm, .ld, .st, .ldacq, .strel, .atom, .red,
   .fence, .pref, .probe, .ldstrm, .ststrm]

/-- The control range of R103 from 0xc0. -/
def rangeControl : List Op :=
  [.bra, .jmpi, .call, .ret, .exit, .nop, .pause, .bar, .barc, .waitge, .trap, .tryOpen, .tryClose, .throwI,
   .rethrow, .spawn, .setmode, .getmode, .bkpt]

/-- The engine range of R103 from 0xe0. -/
def rangeEngine : List Op :=
  [.cpy, .cpyt, .cpycan, .ctradd, .qpush, .qpop, .qsteal, .tsubmit, .rget, .rput, .rfree]

/-- The matrix range of R103 from 0xf0. -/
def rangeMatrix : List Op :=
  [.rsv, .rls, .mzero, .mma, .mmap, .mmas, .mdrain, .mfence]

/-- The opcode of an OP value; every other value is no instruction (R103). -/
def Op.ofCode (c : Nat) : Option Op :=
  if 0x0 ≤ c && c < 0x13 then rangeScalar[c - 0x0]?
  else if 0x20 ≤ c && c < 0x3b then rangeVectorInteger[c - 0x20]?
  else if 0x50 ≤ c && c < 0x5d then rangeFloatingPoint[c - 0x50]?
  else if 0x70 ≤ c && c < 0x7b then rangeSpecialFunction[c - 0x70]?
  else if 0x80 ≤ c && c < 0x88 then rangeCrossLane[c - 0x80]?
  else if 0x90 ≤ c && c < 0xa3 then rangeStatisticsAndMemory[c - 0x90]?
  else if 0xc0 ≤ c && c < 0xd3 then rangeControl[c - 0xc0]?
  else if 0xe0 ≤ c && c < 0xeb then rangeEngine[c - 0xe0]?
  else if 0xf0 ≤ c && c < 0xf8 then rangeMatrix[c - 0xf0]?
  else none

/-- The instruction of an opcode and its fields. -/
def Instr.ofFull (op : Op) (w : Full) : Instr :=
  match op with
  | .sadd => .sadd w
  | .ssub => .ssub w
  | .smul => .smul w
  | .smulh => .smulh w
  | .sand => .sand w
  | .sor => .sor w
  | .sxor => .sxor w
  | .sshl => .sshl w
  | .sshr => .sshr w
  | .smin => .smin w
  | .smax => .smax w
  | .smov => .smov w
  | .ssel => .ssel w
  | .scmp => .scmp w
  | .slea => .slea w
  | .sget => .sget w
  | .sset => .sset w
  | .spopc => .spopc w
  | .sclz => .sclz w
  | .iadd => .iadd w
  | .isub => .isub w
  | .imul => .imul w
  | .imulh => .imulh w
  | .imad => .imad w
  | .imin => .imin w
  | .imax => .imax w
  | .iabs => .iabs w
  | .ineg => .ineg w
  | .andI => .andI w
  | .orI => .orI w
  | .xorI => .xorI w
  | .andn => .andn w
  | .shl => .shl w
  | .shr => .shr w
  | .sra => .sra w
  | .rol => .rol w
  | .popc => .popc w
  | .clz => .clz w
  | .brev => .brev w
  | .bfe => .bfe w
  | .bfi => .bfi w
  | .icmp => .icmp w
  | .sel => .sel w
  | .mov => .mov w
  | .movk => .movk w
  | .idot4 => .idot4 w
  | .fadd => .fadd w
  | .fsub => .fsub w
  | .fmul => .fmul w
  | .ffma => .ffma w
  | .fmin => .fmin w
  | .fmax => .fmax w
  | .fabs => .fabs w
  | .fneg => .fneg w
  | .fcmp => .fcmp w
  | .fclass => .fclass w
  | .frnd => .frnd w
  | .fscale => .fscale w
  | .fdot2 => .fdot2 w
  | .frcp => .frcp w
  | .frsq => .frsq w
  | .fsqrt => .fsqrt w
  | .fexp2 => .fexp2 w
  | .flog2 => .flog2 w
  | .fsin => .fsin w
  | .fcos => .fcos w
  | .ftanh => .ftanh w
  | .cvt => .cvt w
  | .cbdec => .cbdec w
  | .obdec => .obdec w
  | .perm => .perm w
  | .shfl => .shfl w
  | .bcast => .bcast w
  | .vote => .vote w
  | .matchI => .matchI w
  | .scan => .scan w
  | .lred => .lred w
  | .elect => .elect w
  | .mclr => .mclr w
  | .macc => .macc w
  | .maccw => .maccw w
  | .mmerge => .mmerge w
  | .mlane => .mlane w
  | .mget => .mget w
  | .mput => .mput w
  | .mnorm => .mnorm w
  | .ld => .ld w
  | .st => .st w
  | .ldacq => .ldacq w
  | .strel => .strel w
  | .atom => .atom w
  | .red => .red w
  | .fence => .fence w
  | .pref => .pref w
  | .probe => .probe w
  | .ldstrm => .ldstrm w
  | .ststrm => .ststrm w
  | .bra => .bra w
  | .jmpi => .jmpi w
  | .call => .call w
  | .ret => .ret w
  | .exit => .exit w
  | .nop => .nop w
  | .pause => .pause w
  | .bar => .bar w
  | .barc => .barc w
  | .waitge => .waitge w
  | .trap => .trap w
  | .tryOpen => .tryOpen w
  | .tryClose => .tryClose w
  | .throwI => .throwI w
  | .rethrow => .rethrow w
  | .spawn => .spawn w
  | .setmode => .setmode w
  | .getmode => .getmode w
  | .bkpt => .bkpt w
  | .cpy => .cpy w
  | .cpyt => .cpyt w
  | .cpycan => .cpycan w
  | .ctradd => .ctradd w
  | .qpush => .qpush w
  | .qpop => .qpop w
  | .qsteal => .qsteal w
  | .tsubmit => .tsubmit w
  | .rget => .rget w
  | .rput => .rput w
  | .rfree => .rfree w
  | .rsv => .rsv w
  | .rls => .rls w
  | .mzero => .mzero w
  | .mma => .mma w
  | .mmap => .mmap w
  | .mmas => .mmas w
  | .mdrain => .mdrain w
  | .mfence => .mfence w

/-- The pair opcodes of R101 in the order of their codes. -/
def pairOps : List PairOp := [.mov, .iadd, .isub, .imin, .imax, .andP, .orP, .xorP, .fadd, .fmul, .fmin, .fmax]

def PairOp.code (p : PairOp) : Nat :=
  match p with
  | .mov => 0 | .iadd => 1 | .isub => 2 | .imin => 3 | .imax => 4 | .andP => 5 | .orP => 6 | .xorP => 7
  | .fadd => 8 | .fmul => 9 | .fmin => 10 | .fmax => 11

def Instr.ofPair (p : PairOp) (w : PairWord) : Instr :=
  match p with
  | .mov => .movPair w | .iadd => .iaddPair w | .isub => .isubPair w | .imin => .iminPair w | .imax => .imaxPair w
  | .andP => .andPair w | .orP => .orPair w | .xorP => .xorPair w
  | .fadd => .faddPair w | .fmul => .fmulPair w | .fmin => .fminPair w | .fmax => .fmaxPair w

/-- The fields of R84 from the number of two or three parcels. -/
def decodeFull (n : Nat) : Except Reject Instr :=
  match Op.ofCode (bitsOf n 2 8) with
  | none => .error .opcode
  | some op =>
    match decodeOpnd (bitsOf n 18 9), decodeOpnd (bitsOf n 27 9), decodeOpnd (bitsOf n 36 9), decodeOpnd (bitsOf n 45 9) with
    | some d, some a, some b, some c =>
      let w : Full :=
        { sub := BitVec.ofNat 4 (bitsOf n 10 4), ty := Ty.all.getD (bitsOf n 14 4) .i32, d := d, a := a, b := b, c := c,
          wa := bitsOf n 54 1 == 1, wb := bitsOf n 55 1 == 1, wc := bitsOf n 56 1 == 1,
          gap := BitVec.ofNat 3 (bitsOf n 57 3), yld := bitsOf n 60 1 == 1, grd := Fin.ofNat 8 (bitsOf n 61 3),
          lit := if n % 4 = 3 then some (BitVec.ofNat 32 (bitsOf n 64 32)) else none }
      if w.wf op then .ok (Instr.ofFull op w) else .error .form
    | _, _, _, _ => .error .operand

def b8 (n : Nat) : BitVec 8 := BitVec.ofNat 8 n

/-- The short form (R97, R98). -/
def decodeShort (n : Nat) : Except Reject Instr :=
  let d := b8 (bitsOf n 8 8)
  let a := b8 (bitsOf n 16 8)
  let b := b8 (bitsOf n 24 8)
  let sop := bitsOf n 2 6
  let i : Option Instr :=
    if sop = 0 then (if b = 0 then some (.movS32 d a) else none)
    else if sop = 1 then some (.iaddS32 d a b)
    else if sop = 2 then some (.isubS32 d a b)
    else if sop = 3 then some (.andS32 d a b)
    else if sop = 4 then some (.orS32 d a b)
    else if sop = 5 then some (.xorS32 d a b)
    else if sop = 6 then some (.shlS32 d a b)
    else if sop = 7 then some (.shrS32 d a b)
    else if sop = 8 then some (.faddS32 d a b)
    else if sop = 9 then some (.fmulS32 d a b)
    else if sop = 10 then some (.iaddImmS32 d a b)
    else if sop = 11 then (if a = 0 then some (.movImmS32 d b) else none)
    else if sop = 12 then (if d = 0 && a = 0 && b = 0 then some .nopS32 else none)
    else if sop = 13 then (if d = 0 && a = 0 && b = 0 then some .exitS32 else none)
    else if sop = 14 then some (.braS32 (BitVec.ofNat 24 (bitsOf n 8 24)))
    else if sop = 15 then (if d = 0 && a = 0 then some (.pauseS32 b) else none)
    else none
  match i with
  | none => .error (if sop < 16 then .form else .opcode)
  | some i => if i.wf then .ok i else .error .form

/-- The pair form (R99, R100). -/
def decodePair (n : Nat) : Except Reject Instr :=
  match pairOps[bitsOf n 2 6]?, pairOps[bitsOf n 33 6]? with
  | some x, some y =>
    let w : PairWord :=
      { x := ⟨b8 (bitsOf n 8 8), b8 (bitsOf n 16 8), bitsOf n 24 1 == 1, Fin.ofNat 8 (bitsOf n 25 3)⟩,
        gap := BitVec.ofNat 3 (bitsOf n 28 3), yld := bitsOf n 31 1 == 1, yop := y,
        y := ⟨b8 (bitsOf n 39 8), b8 (bitsOf n 47 8), bitsOf n 55 1 == 1, Fin.ofNat 8 (bitsOf n 56 3)⟩ }
    if bitsOf n 32 1 = 0 && bitsOf n 59 5 = 0 && w.wf then .ok (Instr.ofPair x w) else .error .form
  | _, _ => .error .opcode

/-- The instruction whose parcels make up the number n, first parcel lowest (R83). -/
def decodeNat (n : Nat) : Except Reject Instr :=
  if n % 4 = 0 then decodeShort n else if n % 4 = 2 then decodePair n else decodeFull n

/-- Decoding from bytes in memory order: the instruction and its length in bytes (R83). -/
def decodeBytes (l : List Byte) : Except Reject (Instr × Nat) :=
  match l with
  | [] => .error .tooShort
  | b :: _ =>
    let len := 4 * kindParcels (b.toNat % 4)
    if l.length < len then .error .tooShort
    else match decodeNat (leNat (l.take len)) with
      | .ok i => .ok (i, len)
      | .error r => .error r

/-- The number of a full-form word (R84, R86). -/
def encodeFull (op : Op) (w : Full) : Nat :=
  (if w.lit.isSome then 3 else 1) + op.code * 2 ^ 2 + w.sub.toNat * 2 ^ 10 + w.ty.code * 2 ^ 14 +
  encodeOpnd w.d * 2 ^ 18 + encodeOpnd w.a * 2 ^ 27 + encodeOpnd w.b * 2 ^ 36 + encodeOpnd w.c * 2 ^ 45 +
  w.wa.toNat * 2 ^ 54 + w.wb.toNat * 2 ^ 55 + w.wc.toNat * 2 ^ 56 + w.gap.toNat * 2 ^ 57 + w.yld.toNat * 2 ^ 60 +
  w.grd.val * 2 ^ 61 +
  (match w.lit with
   | some l => l.toNat * 2 ^ 64
   | none => 0)

/-- The number of a pair word (R99). -/
def encodePair (x : PairOp) (w : PairWord) : Nat :=
  2 + x.code * 2 ^ 2 + w.x.d.toNat * 2 ^ 8 + w.x.a.toNat * 2 ^ 16 + w.x.immf.toNat * 2 ^ 24 + w.x.grd.val * 2 ^ 25 +
  w.gap.toNat * 2 ^ 28 + w.yld.toNat * 2 ^ 31 + w.yop.code * 2 ^ 33 + w.y.d.toNat * 2 ^ 39 + w.y.a.toNat * 2 ^ 47 +
  w.y.immf.toNat * 2 ^ 55 + w.y.grd.val * 2 ^ 56

/-- The number of a short word (R97). -/
def encodeShort (sop d a b : Nat) : Nat := sop * 2 ^ 2 + d * 2 ^ 8 + a * 2 ^ 16 + b * 2 ^ 24

/-- The parcels of an instruction word as one number, first parcel lowest; events have none. -/
def encodeNat (i : Instr) : Option Nat :=
  match i with
  | .movS32 d a => some (encodeShort 0 d.toNat a.toNat 0)
  | .iaddS32 d a b => some (encodeShort 1 d.toNat a.toNat b.toNat)
  | .isubS32 d a b => some (encodeShort 2 d.toNat a.toNat b.toNat)
  | .andS32 d a b => some (encodeShort 3 d.toNat a.toNat b.toNat)
  | .orS32 d a b => some (encodeShort 4 d.toNat a.toNat b.toNat)
  | .xorS32 d a b => some (encodeShort 5 d.toNat a.toNat b.toNat)
  | .shlS32 d a n => some (encodeShort 6 d.toNat a.toNat n.toNat)
  | .shrS32 d a n => some (encodeShort 7 d.toNat a.toNat n.toNat)
  | .faddS32 d a b => some (encodeShort 8 d.toNat a.toNat b.toNat)
  | .fmulS32 d a b => some (encodeShort 9 d.toNat a.toNat b.toNat)
  | .iaddImmS32 d a imm => some (encodeShort 10 d.toNat a.toNat imm.toNat)
  | .movImmS32 d imm => some (encodeShort 11 d.toNat 0 imm.toNat)
  | .nopS32 => some (encodeShort 12 0 0 0)
  | .exitS32 => some (encodeShort 13 0 0 0)
  | .braS32 off => some (14 * 2 ^ 2 + off.toNat * 2 ^ 8)
  | .pauseS32 n => some (encodeShort 15 0 0 n.toNat)
  | i =>
    match i.fullForm with
    | some (op, w) => some (encodeFull op w)
    | none =>
      match i.pairForm with
      | some (x, w) => some (encodePair x w)
      | none => none

/-- The bytes of an instruction word in memory order (R5, R83). -/
def encode (i : Instr) : Option (List Byte) :=
  match encodeNat i with
  | some n => some (natLe (4 * kindParcels (n % 4)) n)
  | none => none

/-- The instruction the decoder reads from the low `nbits` bits of w, the bits above them zero. -/
def decodeTableWord (nbits w : Nat) : Option Instr :=
  match decodeBytes (natLe 12 (w % 2 ^ nbits)) with
  | .ok (i, _) => some i
  | .error _ => none

end Sys2Proof
end

