-- ==== Sys2Proof/Machine/Operands.lean ====
section
/-! DEFINITION. How a word reads its operands, the checks at issue, the halves of a 64-wide word, and what issuing costs
(R24, R87 to R96, R101, R104 to R107, R351). -/
namespace Sys2Proof.Machine

/-- What a meaning sees of its word: group, team, the lanes of Exec whose guard is set, those of the present half among
them, and Exec. -/
structure Iss where
  g : GRef
  t : Team
  gr : Group
  cur : Cur
  op : Op
  w : Full
  lanes : List Nat
  half : List Nat
  pops : List (Nat × Nat × W32) := []
  deriving Repr

/-- What a meaning answers: its next state, throws instead of any effect, a stall of the word, or a hold: the word is not
issued, `f` is made of the state before it, and it is asked again when the hold ends. -/
inductive Body where
  | ok (s : State)
  | throws (l : List LaneThrow)
  | stall
  | hold (f : State → State)

/-- How the halves of a 64-wide word act (R351). -/
inductive IKind where
  | lanewise | cross | perLane | once
  deriving DecidableEq, Repr

/-- Registers as lane l reads them: the latch for the first half's lanes once the second half acts (R351). -/
def Iss.regs (i : Iss) (l : Nat) : Regs :=
  if i.cur.half = 1 ∧ l < 32 then i.cur.latch.getD i.gr.regs else i.gr.regs

/-- The guard bits of a word (R29). -/
def guardOf (c : Cur) (gr : Group) (grd l : Nat) : Bool :=
  (if c.half = 1 ∧ l < 32 then (c.latch.getD gr.regs) else gr.regs).getK grd |>.getLsbD l

/-- An operand of lane l as 64 bits; `wide` reads a v pair (R87, R88, R92). -/
def Iss.rd (i : Iss) (l : Nat) (o : Opnd) (wide : Bool) : W64 :=
  match o with
  | .v n =>
    let lo := ((i.regs l).getV l n.val).val
    if wide then (((i.regs l).getV l (n.val + 1)).val ++ lo).setWidth 64 else lo.setWidth 64
  | .qi q => ((i.pops.find? fun p => p.1 == q.val && p.2.1 == l).map fun p => p.2.2.setWidth 64).getD 0
  | .qo _ | .m _ => 0
  | .s n => ((i.regs l).getS n.val).val
  | .k n => if ((i.regs l).getK n.val).getLsbD l then 1 else 0
  | .lane => BitVec.ofNat 64 l
  | .pcv => (i.gr.pc l).setWidth 64
  | .live => if i.gr.live.getLsbD l then 1 else 0
  | .act => if i.cur.exec.getLsbD l then 1 else 0
  | .lit | .imm _ => (o.constVal i.w.lit).getD 0
def Iss.rd32 (i : Iss) (l : Nat) (o : Opnd) : W32 := (i.rd l o false).setWidth 32
/-- Value of an operand that executes once: lane 0 stands for the group (R134). -/
def Iss.rdOnce (i : Iss) (o : Opnd) : W64 := i.rd 32 o true

/-- A register's state under the checks of R94 and R324. -/
inductive SrcSt where
  | ok | void | empty | bad
  deriving DecidableEq, Repr

/-- Void takes precedence over empty, and empty over a failed check. -/
def RegSt.src (x : RegSt) (bad : Bool) : SrcSt := if x.void then .void else if !x.full then .empty else if bad then .bad else .ok
def srcV (r : Regs) (l n : Nat) : SrcSt := (r.getV l n).st.src (r.bad.contains (l * 256 + n))
def srcS (r : Regs) (n : Nat) : SrcSt := (r.getS n).st.src (r.bad.contains (65536 + n))

/-- A checked source: operand, wait bit, registers of its run. -/
structure Src where
  o : Opnd
  wait : Bool
  run : Nat
  deriving DecidableEq, Repr

/-- The value of a source's field, its wait bit, and the state of each of its registers in a lane: a run's field names its first (R92, R94). -/
def srcStates (r : Regs) (l : Nat) (x : Src) : List (Nat × Bool × SrcSt) :=
  match x.o with
  | .v n => (List.range x.run).map fun j => (n.val, x.wait, srcV r l (n.val + j))
  | .s n => [(256 + n.val, x.wait, srcS r n.val)]
  | _ => []
/-- A source's registers whose check fails, by field value, as `Regs.bad` numbers them (R324). -/
def srcSpoiled (r : Regs) (l : Nat) (x : Src) : List (Nat × Nat) :=
  match x.o with
  | .v n => ((List.range x.run).filter fun j => r.bad.contains (l * 256 + n.val + j)).map fun j => (n.val, l * 256 + n.val + j)
  | .s n => if r.bad.contains (65536 + n.val) then [(256 + n.val, 65536 + n.val)] else []
  | _ => []

/-- Outcome of check 3 for one lane: a throw, a stall, or nothing (R94). -/
inductive SrcOut where
  | fine | stall | fail (code : Nat) (value : Nat)
  deriving DecidableEq, Repr

def srcOutcome (st : List (Nat × Bool × SrcSt)) : SrcOut :=
  match st.find? fun x => x.2.2 == .void with
  | some x => .fail eVoid x.1
  | none =>
    match st.find? fun x => x.2.2 == .empty && !x.2.1 with
    | some x => .fail eEmpty x.1
    | none =>
      match st.find? fun x => x.2.2 == .bad with
      | some x => .fail eEcc x.1
      | none => if st.any fun x => x.2.2 == .empty then .stall else .fine

/-- Check 3 over lanes, given what each lane reads (R94): throws, or whether the word stalls. A fault outranks a stall. -/
def checkSources (reads : Nat → List (Nat × Bool × SrcSt)) (pc : Nat) (lanes : List Nat) : Except (List LaneThrow) Bool :=
  let outs := lanes.map fun l => (l, srcOutcome (reads l))
  let fails := outs.filterMap fun x =>
    match x.2 with
    | .fail c v => some ⟨x.1, c, pc, BitVec.ofNat 64 v⟩
    | _ => none
  if fails.isEmpty then .ok (outs.any fun x => x.2 == .stall) else .error fails

/-- The sources of a full word in the order A, B, C, then D where it is read (R94, R157, R247, R296). DESIGN CHOICE (log 64): where
the spec gives a source no wait bit (CVT's and CALL.i's D), it waits. -/
def srcsOf (op : Op) (w : Full) : List Src :=
  let s (o : Opnd) (wt : Bool) (n : Nat) : Src := ⟨o, wt, n⟩
  let abc := [s w.a w.wa (runA op w).n, s w.b w.wb (runB op w).n, s w.c w.wc (runC op w).n]
  let used (o : Opnd) (wt : Bool) (c : Cls) : Bool := !(c.none && o.unused wt)
  match fmt op w.sub.toNat with
  | none => []
  | some f =>
    let l := (if used w.a w.wa f.a then [abc.getD 0 default] else []) ++ (if used w.b w.wb f.b then [abc.getD 1 default] else []) ++
      (if used w.c w.wc f.c then [abc.getD 2 default] else [])
    let d : List Src :=
      match op with
      | .st | .strel | .cpy | .cpyt | .qpush | .ldstrm | .ststrm | .mzero | .mma | .mmap | .mmas => [s w.d true (runD op w).n]
      | .call => if w.sub = 1 then [s w.d true 1] else []
      | .atom => if w.sub.toNat % 8 = 7 then [s w.d true (runD op w).n] else []
      | .mdrain => if w.sub.toNat % 4 = 0 then [] else [s w.d true 1]
      | .cvt => if w.c.unused w.wc then [] else [s w.d true 1]
      | _ => []
    l ++ d
where default : Src := ⟨.v 0, false, 1⟩

/-- The lane that supplies lane l of PERM, SHFL and BCAST (R151): none when the fill operand does. -/
def supplier (i : Iss) (l : Nat) : Option Nat :=
  let b := if i.op = .bcast ∧ i.w.ty.wide then (i.rd l i.w.b true).toNat else (i.rd32 l i.w.b).toNat
  let j : Int :=
    match i.op with
    | .shfl => if i.w.sub = 0 then (l : Int) - b else if i.w.sub = 1 then (l : Int) + b else (l ^^^ b : Nat)
    | _ => b
  if 0 ≤ j && j < i.gr.width && i.gr.live.getLsbD j.toNat then some j.toNat else none
def selectsLane (op : Op) : Bool := op == .perm || op == .shfl || op == .bcast
/-- The lanes and sources that a lane reads, in the order of check 3: after its own A, the A of the lane that supplies it, once its B can
be read (R94, R150). -/
def Iss.sources (i : Iss) (l : Nat) : List (Nat × Src) :=
  let own := (srcsOf i.op i.w).map fun x => (l, x)
  let known := (srcStates (i.regs l) l ⟨i.w.b, i.w.wb, 1⟩).all fun x => x.2.2 == .ok
  let far := if selectsLane i.op && known then (supplier i l).toList.map fun j => (j, ⟨i.w.a, i.w.wa, (runA i.op i.w).n⟩) else []
  own.take 1 ++ far ++ own.drop 1
def Iss.reads (i : Iss) (l : Nat) : List (Nat × Bool × SrcSt) := (i.sources l).flatMap fun x => srcStates (i.regs x.1) x.1 x.2
/-- The registers, whichever lane's, whose failed checks make lanes throw E_ECC (R324). -/
def Iss.spoiled (i : Iss) (l : List LaneThrow) : List Nat :=
  (l.filter fun x => x.code = eEcc).flatMap fun x =>
    (((i.sources x.lane).flatMap fun y => srcSpoiled (i.regs y.1) y.1 y.2).filter fun y => y.1 = x.value.toNat).map fun y => y.2

/-- A register whose failed check a read has raised is lost: void until it is written, and the host is told (R324, R331). -/
def Regs.lose (r : Regs) (key : Nat) : Regs :=
  let x := if key < 65536 then r.markV RegSt.voided (key / 256) (key % 256) else r.markS RegSt.voided (key - 65536)
  { x with bad := x.bad.filter fun b => b != key }
def State.loseRegs (s : State) (g : GRef) (ctx : Nat) (keys : List Nat) : State :=
  if keys.isEmpty then s else (s.modGroup g fun gr => { gr with regs := keys.foldl Regs.lose gr.regs }).localNotice ctx

/-- Class X of R104. -/
def classX (op : Op) : Bool :=
  match op with
  | .frcp | .frsq | .fsqrt | .fexp2 | .flog2 | .fsin | .fcos | .ftanh | .mget => true
  | _ => false

/-- Occupancy (R106). -/
def occupancy (width : Nat) (x : Bool) : Nat :=
  if x then (if width = 64 then 8 else if width = 32 then 4 else 2) else if width = 64 then 2 else 1

/-- A group of the class issues on the quarter: the class's pending yields end (R228). -/
def Team.clearYield (quarter role : Nat) (t : Team) : Team :=
  { t with groups := t.groups.map fun (y : Group) => if y.quarter = quarter ∧ y.role = role then { y with yieldPending := false } else y }

/-- What a word's issue leaves in the scheduler: last issue, next issue, occupancy, YLD, ages (R96, R106, R228); exceptions that waited
for the group's issue boundary are thrown. The occupancy counts from the first half, or ends that long after the second less one cc (R351). -/
def State.issued (s : State) (g : GRef) (c : Cur) (width quarter role : Nat) (x yld : Bool) (gap : Nat) (coord : Nat) : State :=
  let e := if c.half = 1 then s.clock + occupancy width x - 1 else s.clock + occupancy width x
  -- a 64-wide word's first half has aged the others in its cc (R228)
  let s := if c.half = 1 then s else s.ageOthers coord quarter (classRank role) g
  let s := s.modCore coord fun k => { k with busyTo := modNth k.busyTo quarter fun _ => e }
  let s : State := { s with teams := s.teams.map fun (t : Team) => if t.coord = coord ∧ t.place = .resident then Team.clearYield quarter role t else t }
  let s := s.modGroup g fun (y : Group) =>
      { y with
        lastIssue := c.t0
        nextOk := e + gap
        yieldPending := yld
        age := 0
        promoted := false
        second := none
        skipBp := []
        phase := if y.phase = .stalled then .ready else y.phase }
  let s := match s.group? g with
    | some y => if y.haltDue = 0 then s else s.haltGroup g y.haltDue 0
    | none => s
  { s.payOwed g with cur := none }

/-- A word of lanes that were steered to a catch issues: the catch has begun (R219). -/
def Group.leaveCatch (g : Group) (exec : W64) : Group := { g with catchDue := if g.catchDue &&& exec = 0 then g.catchDue else 0 }
/-- The effect of one issue on deferral: each deferred lane's count falls by 1 (R28). -/
def Group.tickDefer (g : Group) : Group :=
  let e := g.endDefer
  { e with defer := (e.defer.filter fun x => 1 < x.2).map fun x => (x.1, x.2 - 1) }
/-- Every lane of Exec advances past the word (R200). -/
def Group.advance (g : Group) (exec : W64) (len : Nat) : Group :=
  { g.leaveCatch exec with pcs := (lanesOf exec).foldl (fun p l => spPut 0 p l (g.pc l + BitVec.ofNat 32 len)) g.pcs }

/-- Raw parcels as the value operand of E_ILLEGAL (R216): parcel 0 low, parcel 1 high, 0 for a short word. -/
def rawValue (raw : List W32) : W64 :=
  let a := raw.getD 0 0
  if a.toNat % 4 = 0 then a.setWidth 64 else ((raw.getD 1 0) ++ a).setWidth 64

/-- E_ILLEGAL by every lane of Exec, whatever the guard (R107). -/
def illegal (s : State) (c : Cur) : List LaneThrow :=
  let _ := s
  (lanesOf c.exec).map fun l => ⟨l, eIllegal, c.pc, rawValue c.raw⟩

/-- A word has issued, without effect, and throws. -/
def State.issueRaises (s : State) (c : Cur) (gr : Group) (coord : Nat) (x yld : Bool) (gap : Nat) (l : List LaneThrow) : State :=
  ((s.modGroup c.g fun y => y.tickDefer.leaveCatch c.exec).issued c.g c gr.width gr.quarter gr.role x yld gap coord).raise c.g l
/-- A word throws: it has issued, without effect, and its PCs stay (R107); its class, YLD and GAP count as for any issue. DESIGN CHOICE
(log 65): a word whose first half throws is over, and its second half's lanes make no check. -/
def State.issueThrows (s : State) (c : Cur) (gr : Group) (coord : Nat) (x yld : Bool) (gap : Nat) (l : List LaneThrow) : State :=
  s.issueRaises c gr coord x yld gap l

/-- A word stalls: the group is Stalled for this cc and its quarter is asked again (R36, R39). -/
def State.issueStalls (s : State) (c : Cur) (coord q : Nat) : State :=
  { (s.modGroup c.g fun y => { y with phase := if y.phase = .ready then .stalled else y.phase, stalledAt := s.clock }).payOwed c.g with
    cur := none, todo := (coord, q) :: s.todo }

/-- Entries that input ports must supply to the lanes, and the pops; none when a queue lacks them (R91). -/
def popPorts (c : Core) (ports : List (Nat × List Nat)) : Option (List (Nat × Nat × W32) × Core) :=
  ports.foldl (fun acc p =>
    acc.bind fun x =>
      let q := x.2.qi.getD p.1 {}
      if q.entries.length < p.2.length then none
      else some (x.1 ++ (p.2.mapIdx fun j l => (p.1, l, q.entries.getD j 0)),
        { x.2 with qi := modNth x.2.qi p.1 fun y => { y with entries := y.entries.drop p.2.length } })) (some ([], c))

def portsOf (l : List Opnd) : List Nat :=
  (l.filterMap fun o =>
    match o with
    | .qi n => some n.val
    | _ => none).eraseDups

/-- Room for the pushes of a qo destination, counting entries already on their way (R91). -/
def qoRoom (s : State) (coord : Nat) (d : Opnd) (n : Nat) : Bool :=
  match d with
  | .qo q =>
    let onWay := (s.resident coord).flatMap fun t => t.groups.flatMap fun g => g.land.filter fun x => x.dst == .qo q.val
    ((s.core coord).qo.getD q.val {}).entries.length + onWay.length + n ≤ 1024
  | _ => true

/-- The lanes of the present half: all of them below width 64 (R24). -/
def halfLanes (width half : Nat) (l : List Nat) : List Nat :=
  if width = 64 then l.filter fun x => if half = 0 then x < 32 else 32 ≤ x else l

/-- MATCH.mask at width 64 writes a pair (R151). -/
def widthOk (op : Op) (w : Full) (width nv : Nat) : Bool :=
  match op, w.d with
  | .matchI, .v n => w.sub ≠ 0 || width ≠ 64 || (n.val % 2 = 0 && n.val + 2 ≤ nv)
  | _, _ => true

/-- Role restrictions (R34): roles are 0 computer, 1 loader, 2 storer. -/
def roleOk (op : Op) (role : Nat) : Bool :=
  match op with
  | .cpy | .cpyt | .ldstrm => role = 1
  | .rsv | .rls | .mzero | .mma | .mmap | .mmas => role = 0
  | .mdrain | .ststrm => role = 2
  | _ => true

/-- Checks 1 to 3 of R107 and the port reads for the half now issuing: the meaning's view, or why there is none, with the registers that
a failed read loses. -/
inductive Pre where
  | go (i : Iss) (core : Core)
  | throws (l : List LaneThrow) (lost : List Nat)
  | stall

def preIssue (s : State) (c : Cur) (t : Team) (gr : Group) (op : Op) (w : Full) (k : IKind) : Pre :=
  let guard := (lanesOf c.exec).filter fun l => guardOf c gr w.grd.val l
  let half := halfLanes gr.width c.half guard
  -- a once word is checked for all its lanes at its last half, every other word in each half (R107, R351)
  let mine := if k = .once then (if gr.width = 64 ∧ c.half = 0 then [] else guard) else half
  -- only a per-lane word's first half has read its sources already; others read as the registers stand now
  let i : Iss := { g := c.g, t := t, gr := gr, cur := if k = .perLane then c else { c with latch := none }, op := op, w := w, lanes := guard, half := half }
  if !(runsOk op w t.kern.regs && widthOk op w gr.width t.kern.regs) then .throws (illegal s c) []
  else if !roleOk op gr.role && !mine.isEmpty then .throws (mine.map fun l => ⟨l, eRole, c.pc, BitVec.ofNat 64 op.code⟩) []
  else
    -- cross-lane words that read P read all of it in each half
    match checkSources i.reads c.pc (if k = .cross && !selectsLane op then guard else mine) with
    | .error l => .throws l (i.spoiled l)
    | .ok true => .stall
    | .ok false =>
      match popPorts (s.core t.coord) ((portsOf [w.a, w.b, w.c]).map fun q => (q, half)) with
      | none => .stall
      | some (pops, core) => if qoRoom s t.coord w.d half.length then .go { i with pops := pops } core else .stall

/-- The first half of a 64-wide word waits for its second (R351), which decides over the results it holds (R107). The word issues in this
cc, in which the candidates of lower classes age (R228). -/
def State.halfDone (s : State) (c : Cur) (coord quarter : Nat) (latch : Regs) (held : List Landing) : State :=
  let s := match s.group? c.g with
    | some y => s.ageOthers coord quarter (classRank y.role) c.g
    | none => s
  let s := s.modCore coord fun k => { k with busyTo := modNth k.busyTo quarter fun _ => s.clock + 1 }
  { s.modGroup c.g fun y =>
      { y with
        second := some ⟨c.pc, c.exec, c.len, c.raw, c.t0, latch, held⟩
        phase := if y.phase = .stalled then .ready else y.phase } with cur := none }

/-- The results of a cross-lane word's first half are held until its second half has passed its checks: a fault there leaves the word
with no effect for any lane (R107). -/
def State.holdHalf (s : State) (c : Cur) (gr : Group) (coord : Nat) : State :=
  let held := match s.group? c.g with
    | some y => y.land.drop gr.land.length
    | none => []
  (s.modGroup c.g fun y => { y with land := gr.land }).halfDone c coord gr.quarter gr.regs held
/-- Held results are on their way, at their own cc (R95). -/
def Group.joinHeld (g : Group) : Group := { g with land := g.land ++ (g.second.map fun x => x.held).getD [], waits := [] }

/-- ISSUING A FULL WORD. `body` gets the word's view and the state in which Exec has advanced (at the word's last half). DESIGN CHOICE
(log 66): Defer falls before the word's own effect, so that PAUSE.DEFER's issue does not count against the Defer it sets (R28, R31). -/
def issueFull (op : Op) (w : Full) (k : IKind) (body : Iss → State → Body) (c : Cur) (s : State) : State :=
  match s.team? c.g.team, s.group? c.g with
  | some t, some gr =>
    match preIssue s c t gr op w k with
    | .throws l lost => (s.loseRegs c.g t.ctx lost).issueThrows c gr t.coord (classX op) w.yld w.gap.toNat l
    | .stall => s.issueStalls c t.coord gr.quarter
    | .go i core =>
      let first := gr.width = 64 ∧ c.half = 0
      if first ∧ (k = .once ∨ k = .perLane) then s.halfDone c t.coord gr.quarter gr.regs []
      else
        let s1 := s.modCore t.coord fun _ => core
        let s2 := if first then s1 else s1.modGroup c.g fun y => (y.tickDefer.advance c.exec c.len).joinHeld
        match body i s2 with
        | .throws l => s.issueThrows c gr t.coord (classX op) w.yld w.gap.toNat l
        | .stall => s.issueStalls c t.coord gr.quarter
        | .hold f => { f s with cur := none }
        | .ok s3 =>
          if first then (if k = .cross then s3.holdHalf c gr t.coord else s3.halfDone c t.coord gr.quarter gr.regs [])
          else s3.issued c.g c gr.width gr.quarter gr.role (classX op) w.yld w.gap.toNat t.coord
  | _, _ => { s with cur := none }

/-- A fixed-latency result is on its way (R95). -/
def State.land (s : State) (g : GRef) (lat : Nat) (l : List (LDst × W64)) : State :=
  s.modGroup g fun y => { y with land := y.land ++ l.map fun x => ⟨s.clock + lat, s.clock, x.1, x.2, emptyTriple⟩ }
/-- A fixed-latency result of a word that issued at cc t0 and was held until now: it lands at its own cc, or at once when that has passed
(R95, R161). -/
def State.landFrom (s : State) (g : GRef) (t0 lat : Nat) (l : List (LDst × W64)) : State :=
  s.modGroup g fun y =>
    if t0 + lat ≤ s.clock then y.putAll t0 l else { y with land := y.land ++ l.map fun x => ⟨t0 + lat, t0, x.1, x.2, emptyTriple⟩ }
def State.landM (s : State) (g : GRef) (lat : Nat) (l : List (Nat × Nat × Triple)) : State :=
  s.modGroup g fun y => { y with land := y.land ++ l.map fun x => ⟨s.clock + lat, s.clock, .m x.1 x.2.1, 0, x.2.2⟩ }

/-- The landing of a 32-bit or 64-bit value in a D operand of lane l (R92). -/
def dstV (d : Opnd) (l : Nat) (wide : Bool) (x : W64) : List (LDst × W64) :=
  match d with
  | .v n => if wide then [(.v l n.val, x), (.v l (n.val + 1), x >>> 32)] else [(.v l n.val, x)]
  | .qo q => [(.qo q.val, x)]
  | .s n => [(.s n.val, x)]
  | _ => []

end Sys2Proof.Machine
end

