-- ==== Sys2Proof/Machine/Flags.lean ====
section
/-! DEFINITION. Comparisons that write k bits, and the arithmetic conditions that MODE makes into E_ARITH (R115, R135). -/
namespace Sys2Proof.Machine

/-- The comparisons of R135 on integers. -/
def intCompare (sub : Nat) (a b : Int) : Bool :=
  match sub with
  | 0 => a == b
  | 1 => a != b
  | 2 => decide (a < b)
  | 3 => decide (a ≤ b)
  | 4 => decide (b < a)
  | _ => decide (b ≤ a)

/-- Conditions whose enable bit TEV to TEX is set (R111, R115). -/
def trapped (mode : W64) (c : Conds) : Bool := c.bits &&& (mode.toNat / 32 % 32) ≠ 0

/-- Lanes whose conditions trap throw E_ARITH with all their conditions (R115, R216); none when no lane traps. -/
def arithThrows (mode : W64) (pc : Nat) (l : List (Nat × Conds)) : List LaneThrow :=
  (l.filter fun x => trapped mode x.2).map fun x => ⟨x.1, eArith, pc, BitVec.ofNat 64 x.2.bits⟩

/-- A k result of some lanes, one landing (R96). -/
def dstK (d : Opnd) (l : List (Nat × Bool)) : List (LDst × W64) :=
  match d with
  | .k n => [(.k n.val (maskOf (l.map fun x => x.1)), maskOf ((l.filter fun x => x.2).map fun x => x.1))]
  | _ => []

/-- MODE's writable bits (R111). -/
def modeBits : W64 := 0x3F03FF

/-- An instruction word's meaning over the word now issuing. -/
def onIssue (s : State) (f : Cur → State) : Host.Outcome State Fault Refusal :=
  match s.cur with
  | none => .fault .noIssue
  | some c => .next (f c)
def execFull (op : Op) (k : IKind) (body : Iss → State → Body) (w : Full) (s : State) : Host.Outcome State Fault Refusal :=
  onIssue s fun c => issueFull op w k body c s

end Sys2Proof.Machine
end

