-- ==== Sys2Proof/Machine/Mem.lean ====
section
/-! DEFINITION. Translation (R240 to R242), the store path, the L1 and the home slice (R179 to R185, R188), releases and
acquires (R189 to R191), counters (R248, R354) and fault records (R238). -/
namespace Sys2Proof.Machine

/-! Translation. -/

/-- Entries of a table of a level (R240). -/
def tableSize (level : Nat) : Nat := if level = 3 then 262144 else 512
/-- Where the entry for an address stands in a table of a level at frame t (R240). -/
def entryAt (t level va : Nat) : Nat := t * 4096 + 8 * (va / 2 ^ (12 + 9 * level) % tableSize level)
/-- An entry as a walker reads it, at the home slice (R240). -/
def Mem.entry (m : Mem) (t level va : Nat) : W64 := BitVec.ofNat 64 (m.readN (entryAt t level va) 8)
def pteV (w : W64) : Bool := w.getLsbD 0
def pteLeaf (w : W64) : Bool := w.getLsbD 1
def pteRd (w : W64) : Bool := w.getLsbD 2
def pteWr (w : W64) : Bool := w.getLsbD 3
def pteCode (w : W64) : Bool := w.getLsbD 4
def pteS64 (w : W64) : Bool := w.getLsbD 5
def ptePfn (w : W64) : Nat := w.toNat / 2 ^ 12 % 2 ^ 36
def pteKey (w : W64) : Nat := w.toNat / 2 ^ 48 % 2 ^ 13
/-- A leaf of given permissions, frame and key (R241). -/
def mkLeaf (rd wr code s64 pren : Bool) (pfn key : Nat) : W64 :=
  BitVec.ofNat 64 (3 + rd.toNat * 4 + wr.toNat * 8 + code.toNat * 16 + s64.toNat * 32 + pren.toNat * 64 + pfn * 2 ^ 12 + key * 2 ^ 48)
/-- An entry that ends the walk as unresolvable (R241). -/
def pteBad (level : Nat) (w : W64) : Bool :=
  w.toNat / 2 ^ 7 % 32 ≠ 0 || w.toNat / 2 ^ 61 ≠ 0 || (pteLeaf w && level = 3) || (!pteLeaf w && level = 0) ||
  (pteS64 w && level ≠ 0) || (pteLeaf w && ptePfn w % 2 ^ (9 * level) ≠ 0)

inductive Walked where
  | leaf (w : W64) (bits : Nat) | missing | bad

/-- The run of 16 entries of a 64 KiB page agrees in all but consecutive PFNs (R240). -/
def s64Ok (m : Mem) (t va : Nat) : Bool :=
  let b := va / 2 ^ 16 * 2 ^ 16
  let w0 := m.entry t 0 b
  ptePfn w0 % 16 = 0 && (List.range 16).all fun i => m.entry t 0 (b + i * 4096) == w0 + BitVec.ofNat 64 (i * 2 ^ 12)

/-- THE WALK (R240): from the table at frame t, of level n - 1, down to level 0; the leaf with the bits of its page. -/
def walkFrom (m : Mem) (va : Nat) : Nat → Nat → Walked
  | 0, _ => .missing
  | l + 1, t =>
    let w := m.entry t l va
    if !pteV w then .missing
    else if pteBad l w then .bad
    else if pteLeaf w then
      (if pteS64 w then (if s64Ok m t va then .leaf (m.entry t 0 (va / 2 ^ 16 * 2 ^ 16)) 16 else .bad) else .leaf w (12 + 9 * l))
    else walkFrom m va l (ptePfn w)
/-- The levels that a walk reads. -/
def walkReads (m : Mem) (va : Nat) : Nat → Nat → Nat
  | 0, _ => 0
  | l + 1, t =>
    let w := m.entry t l va
    if pteV w && !pteBad l w && !pteLeaf w then walkReads m va l (ptePfn w) + 1 else 1
/-- The entries of a table that are not zero. -/
def Mem.entries (m : Mem) (t n : Nat) : List Nat :=
  ((m.cells.filter fun x => t * 4096 ≤ x.1 && x.1 < t * 4096 + 8 * n).map fun x => (x.1 - t * 4096) / 8).eraseDups
/-- A leaf in a table: where it stands, its level, the address it maps, the entry. -/
structure LeafAt where
  at_ : Nat
  level : Nat
  va : Nat
  w : W64
/-- The valid leaves beneath a table of level n - 1 for addresses from `base` on. -/
def leavesFrom (m : Mem) : Nat → Nat → Nat → List LeafAt
  | 0, _, _ => []
  | l + 1, t, base => (m.entries t (tableSize l)).flatMap fun i =>
    let va := base + i * 2 ^ (12 + 9 * l)
    let w := BitVec.ofNat 64 (m.readN (t * 4096 + 8 * i) 8)
    if !pteV w then [] else if pteLeaf w then [⟨t * 4096 + 8 * i, l, va, w⟩] else leavesFrom m l (ptePfn w) va
/-- The frames of a table of level n - 1 and of those beneath it. -/
def tablesFrom (m : Mem) : Nat → Nat → List Nat
  | 0, _ => []
  | l + 1, t => (List.range (tableSize l / 512)).map (fun j => t + j) ++ (m.entries t (tableSize l)).flatMap fun i =>
    let w := BitVec.ofNat 64 (m.readN (t * 4096 + 8 * i) 8)
    if pteV w && !pteLeaf w then tablesFrom m l (ptePfn w) else []
def LeafAt.bytes (x : LeafAt) : Nat := 4096 * 512 ^ x.level
def LeafAt.frames (x : LeafAt) : List Nat := (List.range (512 ^ x.level)).map fun j => ptePfn x.w + j
/-- A context's leaves. -/
def State.leaves (s : State) (c : Ctx) : List LeafAt := leavesFrom s.dram 4 c.root 0

/-- A translation: physical address, leaf, page bits, the task it is tagged with, the image copy's origin plus 1. -/
structure Trans where
  pa : Nat
  leaf : W64
  bits : Nat
  task : Option (Nat × Nat)
  copy : Nat
inductive Tr where
  | ok (x : Trans) | missing | bad

/-- Bits 63:57 equal bit 56 (R159). -/
def canonical (va : Nat) : Bool := va / 2 ^ 56 = 0 || va / 2 ^ 56 = 255

/-- The staged frames in which a task reads or writes a 64 KiB tile: its own, else, for a read, those of the latest earlier task that
wrote it; a store outside its write ranges goes to the committed mapping (R281). -/
def tileFrames (s : State) (d k tile : Nat) (wr : Bool) : Option (List Nat) :=
  match s.tasks.find? fun x => x.die == d && x.id == k with
  | none => none
  | some me =>
    match me.staged.find? fun y => y.1 == tile with
    | some y => some y.2
    | none =>
      if wr then none else
      let earlier := s.tasks.filter fun x => x.die == d && x.id < k && x.ctx == me.ctx
      ((earlier.filterMap fun x => (x.staged.find? fun y => y.1 == tile).map fun y => y.2).getLast?).filter fun _ =>
        me.reads.any (fun r => r.1 ≤ tile && tile < r.1 + r.2) || me.writes.any fun r => r.1 ≤ tile && tile < r.1 + r.2

/-- The frame of a cluster's patched image copy at a code page (R340). -/
def copyFrame (s : State) (t : Team) (va : Nat) : Option Nat :=
  match s.launch? t.launch with
  | none => none
  | some l =>
    match s.image? l.body.image with
    | none => none
    | some im =>
      let b := im.body.codeBase % 2 ^ 57 / 4096
      if va / 4096 < b then none
      else ((im.copies.find? fun c => c.1 == t.origin).bind fun c => c.2[va / 4096 - b]?)

/-- A full translation of a context's address, through the context alone. -/
def State.walkCtx (s : State) (ctx va : Nat) : Tr :=
  match s.ctx? ctx with
  | none => .missing
  | some c =>
    match walkFrom s.dram (va % 2 ^ 57) 4 c.root with
    | .missing => .missing
    | .bad => .bad
    | .leaf w bits => .ok ⟨ptePfn w * 4096 + va % 2 ^ bits, w, bits, none, 0⟩
/-- The tile in which a team's task reads or writes an address, where it is renamed for it (R281). -/
def State.renamed (s : State) (t : Team) (va : Nat) (wr : Bool) : Option (List Nat) :=
  t.task.bind fun k => tileFrames s k.1 k.2 (va % 2 ^ 57 / 65536) wr
/-- A renamed page's leaf: the committed page's permissions. DESIGN CHOICE (log 72): RD and WR where no page is committed. -/
def renamedLeaf (r : Tr) (f : Nat) (pren : Bool) : W64 :=
  match r with
  | .ok x => mkLeaf (pteRd x.leaf) (pteWr x.leaf) (pteCode x.leaf) false pren f (pteKey x.leaf)
  | _ => mkLeaf true true false false pren f 0
/-- A full translation as a team sees it for a read or a write: its image copy and its task's renamed tiles over the context's mapping. -/
def State.walkTeam (s : State) (t : Team) (va : Nat) (wr : Bool) : Tr :=
  let r := s.walkCtx t.ctx va
  match copyFrame s t (va % 2 ^ 57), r with
  | some f, .ok x => .ok ⟨f * 4096 + va % 4096, mkLeaf (pteRd x.leaf) (pteWr x.leaf) (pteCode x.leaf) false false f 0, 12, none, t.origin + 1⟩
  | _, r =>
    match s.renamed t va wr with
    | none => r
    | some fs =>
      let f := fs.getD (va % 65536 / 4096) 0
      .ok ⟨f * 4096 + va % 4096, renamedLeaf r f true, 12, t.task, 0⟩

/-- A TLB lookup tries every size (R242); a renamed tile's entries are the task's own (R281), a patched copy's those of its origin (R340). -/
def State.tlb? (s : State) (t : Team) (va : Nat) (wr : Bool) : Option Trans :=
  let task := if (s.renamed t va wr).isSome then t.task else none
  let copy := if (copyFrame s t (va % 2 ^ 57)).isSome then t.origin + 1 else 0
  ((s.core t.coord).tlb.find? fun e => e.ctx == t.ctx && e.page == va % 2 ^ 57 / 2 ^ e.bits && e.task == task && e.copy == copy).map fun e =>
    ⟨ptePfn e.leaf * 4096 + va % 2 ^ e.bits, e.leaf, e.bits, e.task, e.copy⟩
/-- A used or new entry is the most recent of its set of 8 (R242). -/
def tlbPut (c : Core) (ctx va : Nat) (x : Trans) : Core :=
  let e : TlbEntry := ⟨ctx, va % 2 ^ 57 / 2 ^ x.bits, x.bits, x.leaf, x.task, x.copy⟩
  let rest := c.tlb.filter fun y => !(y.ctx == ctx && y.page == e.page && y.bits == e.bits && y.task == e.task && y.copy == e.copy)
  let set := rest.filter fun y => y.page % 512 == e.page % 512
  let other := rest.filter fun y => y.page % 512 != e.page % 512
  { c with tlb := e :: set.take 7 ++ other }

/-- The die that a physical address belongs to (R180). -/
def homeDie (pa : Nat) : Nat := pa / 4096 / Config.framesPerDie
/-- The home slice of a physical address: one of its die's in-service slices, chosen by page number (R15, R180). DESIGN CHOICE (log 69):
the page number modulo how many there are. A slice whose pages have been rehomed is out of service. -/
def State.homeSlice (s : State) (pa : Nat) : Nat :=
  Config.pickNth (pa / 4096) ((Config.dieCoords (homeDie pa)).filter fun c => (s.alm (.slice c)).state ≠ 2)
/-- The least latency of an access by a core at the home slice: the way there and back and `work` mesh clocks (R353). -/
def State.sliceLeast (s : State) (coord pa work : Nat) : Nat := Config.meshCc (2 * Config.meshWay coord (s.homeSlice pa) + work)

/-! Fault records. -/

/-- A fault makes a record, is forwarded to the host, and has the context's limit to be answered (R238). -/
def State.newFault (s : State) (ctx va kind : Nat) (u : FUser) : Nat × State :=
  let lim := ((s.ctx? ctx).map fun c => c.p.faultLimit).getD Config.ccPerSec
  let r : FaultRec := { id := s.nextFault, ctx := ctx, va := va, kind := kind, user := u, deadline := s.ctxClock ctx + lim }
  let s := { s with faults := s.faults ++ [r], nextFault := s.nextFault + 1 }
  let s := s.notify ctx 0xC005 (bytesOfNat 8 r.id ++ bytesOfNat 8 va ++ bytesOfNat 4 kind ++ bytesOfNat 4 ctx)
  (r.id, s.sched (s.clock + lim) (.faultLimitExpire r.id))
/-- A cancelled fault is withdrawn (R292). -/
def State.withdrawFault (s : State) (i : Nat) : State :=
  match s.faults.find? fun f => f.id == i && f.state == 0 with
  | none => s
  | some f =>
    let s := { s with faults := s.faults.map fun (y : FaultRec) => if y.id = i then { y with state := 3 } else y }
    s.notify f.ctx 0xC006 (bytesOfNat 8 i)

/-! Counters. -/

/-- The value a waiting group's counter holds at its point of coherence (R209). -/
def counterValue (s : State) (t : Team) (team : Bool) (addr : Nat) : Option Nat :=
  if team then some (natOfBytes (t.tmBytes addr 8))
  else match s.walkTeam t addr false with
    | .ok x => some (s.dram.readN x.pa 8)
    | _ => none
/-- Every waiting WAITGE is evaluated; a met one wakes with its acquire (R209). -/
def State.evalCounters (s : State) : State :=
  s.teams.foldl (fun s t =>
    t.groups.foldl (fun s (g : Group) =>
      match g.wake with
      | some (.counter team addr target scope _) =>
        match counterValue s t team addr with
        | some v => if target ≤ v then (s.wakeGroup ⟨t.id, g.slot⟩).acquire ⟨t.id, g.slot⟩ scope else s
        | none => s
      | _ => s) s) s
/-- A write at a home slice, seen by every waiter on a counter. -/
def State.writePa (s : State) (pa : Nat) (b : List Byte) : State := { s with dram := s.dram.writeBytes pa b }.evalCounters
/-- The counter addition of R248; a join or commit addition is a plain 64-bit one (R48, R264). -/
def addCounter (old x : Nat) (plain : Bool) : Nat :=
  if plain then (old + x) % 2 ^ 64
  else (old + x) % 2 ^ 63 + (if old / 2 ^ 63 % 2 = 1 || x / 2 ^ 63 % 2 = 1 then 2 ^ 63 else 0)
def State.addPa (s : State) (pa x : Nat) (plain : Bool) : State :=
  s.writePa pa (bytesOfNat 8 (addCounter (s.dram.readN pa 8) x plain))

/-! The L1 and the store path. -/

def MemAct.isSt : MemAct → Bool
  | .st _ => true
  | _ => false
/-- What the store path holds (R183). -/
def MemAct.inPath : MemAct → Bool
  | .st _ | .atom _ _ | .red _ _ | .stat | .ctradd _ _ => true
  | _ => false
/-- One lane's store, reduction or atomic as it stands in the path. -/
def entryOf (mw : MemWord) (coord : Nat) (a : Acc) (pa : Nat) : PathEntry :=
  let k : PKind × Nat × Ty × Option Nat :=
    match mw.act with
    | .st rel => (.st, 0, .i32, rel)
    | .atom op ty => (.atom, op, ty, none)
    | .red op ty => (.red, op, ty, none)
    | .stat => (.stat, 0, .i32, none)
    | .ctradd sc _ => (.ctradd, 0, .n64, some sc)
    | _ => (.fence, 0, .i32, none)
  { id := 0, coord := coord, byw := mw.byw, lane := a.lane, kind := k.1, space := mw.space, addr := a.addr, pa := pa, size := a.size,
    data := a.data, cmp := a.cmp, op := k.2.1, ty := k.2.2.1, rel := k.2.2.2
    reg := match mw.dst with
      | .v n _ _ => n
      | _ => 0 }
/-- The entries of a word's accesses, numbered from its own first number: a 16-byte store is four stores (R188). -/
def MemWord.entries (mw : MemWord) (coord : Nat) (pas : List (Acc × Nat)) : List PathEntry :=
  let parts (x : Acc × Nat) : List PathEntry :=
    if mw.act.isSt && x.1.size = 16 then
      (List.range 4).map fun j => entryOf mw coord { x.1 with addr := x.1.addr + 4 * j, size := 4, data := x.1.data / 2 ^ (32 * j) % 2 ^ 32 } (x.2 + 4 * j)
    else [entryOf mw coord x.1 x.2]
  (pas.flatMap parts).mapIdx fun i e => { e with id := mw.id0 + i }
/-- Stores, reductions and atomics of the core's groups that have issued and wait for their pages: each is in the path from its issue
on (R183), as far as its translation lets it be performed at all. -/
def State.heldEntries (s : State) (coord : Nat) : List PathEntry :=
  (s.resident coord).flatMap fun t => t.groups.flatMap fun g =>
    match g.held with
    | some mw =>
      if g.phase = .evicted || mw.space ≠ 0 || !mw.act.inPath then []
      else
        let tr := mw.accs.map fun a => (a, s.walkTeam t a.addr true)
        let pas := tr.filterMap fun x => match x.2 with
          | .ok y => if pteWr y.leaf then some (x.1, y.pa) else none
          | _ => none
        if pas.length = tr.length then mw.entries coord pas else []
    | none => []
/-- The path of a core in issue order, held words included (R183). -/
def State.corePath (s : State) (coord : Nat) : List PathEntry :=
  sortBy (fun (e : PathEntry) => e.id) ((s.path.filter fun e => e.coord == coord) ++ s.heldEntries coord)
/-- The byte of the youngest covering store of a path. -/
def pathByte (path : List PathEntry) (pa : Nat) : Option Byte :=
  match (path.filter fun e => e.kind == .st && e.space == 0 && e.pa ≤ pa && pa < e.pa + e.size).getLast? with
  | some e => some (BitVec.ofNat 8 (e.data / 2 ^ (8 * (pa - e.pa))))
  | none => none
def l1Line (c : Core) (line : Nat) : Option (List Byte × List Nat) := (c.l1.find? fun x => x.1 == line).map fun x => x.2
/-- The byte that a core's global access reads: the youngest covering store of a path, the L1, the home slice (R183). -/
def State.byteBy (s : State) (path : List PathEntry) (coord pa : Nat) (useL1 : Bool) : Byte :=
  match pathByte path pa with
  | some b => b
  | none =>
    match (if useL1 then l1Line (s.core coord) (pa / 128) else none) with
    | some x => x.1.getD (pa % 128) 0
    | none => s.dram.read1 pa
def State.coreByte (s : State) (coord pa : Nat) (useL1 : Bool) : Byte := s.byteBy (s.corePath coord) coord pa useL1
/-- The path as a lane's load of a number sees it: without the lane's own later stores (R185). -/
def pathFor (path : List PathEntry) (b : Starter) (lane id : Nat) : List PathEntry :=
  path.filter fun e => !(id < e.id && e.byw.g == b.g && e.byw.uid == b.uid && e.lane == lane)
/-- A byte of an access comes from the L1 or the home slice, and there from a poisoned block (R163, R183). -/
def State.corePoison (s : State) (path : List PathEntry) (coord pa n : Nat) (useL1 : Bool) : Bool :=
  (List.range n).any fun i => (pathByte path (pa + i)).isNone &&
    match (if useL1 then l1Line (s.core coord) ((pa + i) / 128) else none) with
    | some x => x.2.any fun b => b == (pa + i) / 64
    | none => s.dram.poisoned (pa + i) 1
/-- A line is the most recent of its set of 8 (R181). -/
def l1Put (c : Core) (line : Nat) (x : List Byte × List Nat) : Core :=
  let rest := c.l1.filter fun y => y.1 != line
  let set := rest.filter fun y => y.1 % 1024 == line % 1024
  { c with l1 := (line, x) :: set.take 7 ++ rest.filter fun y => y.1 % 1024 != line % 1024 }
/-- A fill takes the path's bytes (R183); a line that an atomic of the core has yet to change is not filled (R171). -/
def State.fillL1 (s : State) (coord line : Nat) : State :=
  if (s.corePath coord).any fun e => e.space == 0 && e.kind != .st && e.kind != .fence && e.kind != .ring && e.kind != .ctm && e.pa / 128 == line then s
  else
  let b := (List.range 128).map fun i => s.coreByte coord (line * 128 + i) false
  let p := s.dram.poison.filter fun k => k / 2 == line
  s.modCore coord fun c => l1Put c line (b, p)
def State.touchL1 (s : State) (coord line : Nat) : State :=
  s.modCore coord fun c => match l1Line c line with
    | some x => l1Put c line x
    | none => c
def State.dropLine (s : State) (coord line : Nat) : State :=
  s.modCore coord fun c => { c with l1 := c.l1.filter fun y => y.1 != line }
/-- A store uses the line that holds it: the L1's copy is updated, and the line is the most recent of its set; a store allocates none
(R165, R181). -/
def State.storeL1 (s : State) (coord pa : Nat) (b : List Byte) : State :=
  s.modCore coord fun c => match l1Line c (pa / 128) with
    | some y => l1Put c (pa / 128) (y.1.mapIdx (fun i x => if pa % 128 ≤ i ∧ i < pa % 128 + b.length then b.getD (i - pa % 128) 0 else x), y.2)
    | none => c

/-! Releases. -/

def State.loadsOut (s : State) (g : GRef) (before : Nat) : Bool :=
  (s.loads.any fun r => r.byw.g == g && r.id < before) || (s.atoms.any fun r => r.byw.g == g && r.id < before) ||
  s.path.any fun e => e.byw.g == g && e.kind == .atom && e.id < before
/-- Engine work of a group that is not over as far as a peer or the host is concerned (R198): transfers that send to other ranks or write
there, until what they send has been acknowledged. -/
def State.peerWork (s : State) (g : GRef) (before : Nat) : Bool :=
  s.ops.any fun o => o.byw.g == g && o.id < before && !o.stopped && !(o.started && o.todo.isEmpty && o.running.isEmpty && o.acks.isEmpty) &&
    match o.kind with
    | .cpyt r _ => r.repl ≠ 0 || r.ops % 8 ≠ 0
    | _ => false
/-- The condition of a release at a scope (R167, R169, R189, R190, R198): at cluster scope or wider every earlier entry of the core's
path is acknowledged, which covers what the group has read from it. -/
def State.released (s : State) (g : GRef) (coord scope before : Nat) : Bool :=
  !s.loadsOut g before &&
  (if 3 ≤ scope then !((s.corePath coord).any (fun e => e.id < before) || s.path.any fun e => e.byw.g == g && e.id < before)
   else !s.path.any fun e => e.byw.g == g && e.id < before && (e.space ≠ 0 || e.kind == .ctm || e.rel.isSome)) &&
  (scope ≠ 5 || !s.peerWork g before)
/-- The lanes that an entry is an access of: all executing ones for CTRADD and a join addition (R258). -/
def PathEntry.lanes (e : PathEntry) : List Nat := if e.kind == .ctradd then lanesOf e.byw.lanes else [e.lane]
/-- Accesses of one word (R165, R170). -/
def PathEntry.sameWord (x e : PathEntry) : Bool := x.byw.g == e.byw.g && x.byw.uid == e.byw.uid && x.byw.cc == e.byw.cc && x.kind == e.kind
/-- The core whose team memory an entry of a team space goes to: another one for a ctm access (R166). -/
def PathEntry.place (e : PathEntry) : Nat := (e.ctm.map fun x => x.1).getD e.coord
def PathEntry.meets (x e : PathEntry) : Bool :=
  (x.space == 0) == (e.space == 0) && x.place == e.place &&
    (if e.space = 0 then x.pa < e.pa + e.size && e.pa < x.pa + x.size else x.addr < e.addr + e.size && e.addr < x.addr + x.size)
/-- An earlier entry comes first (R184, R165, R167): a release of the group, one of the same lane toward the same memory, one of the same
word that has a byte in common, or one of the core's path on a global byte in common, whose groups have read the younger (R183, R185). -/
def PathEntry.before (x e : PathEntry) : Bool :=
  x.id < e.id &&
    ((x.byw.g == e.byw.g && x.byw.uid == e.byw.uid &&
      (x.rel.isSome || (x.lanes.any (fun l => e.lanes.contains l) && (x.space == 0) == (e.space == 0) && x.place == e.place) ||
       (x.sameWord e && x.meets e))) ||
     (x.coord == e.coord && x.space == 0 && x.meets e))
/-- Ranges of bytes that meet. -/
def rangesMeet (a n b m : Nat) : Bool := a < b + m && b < a + n
/-- The core whose team memory a load of a team space reads. -/
def LoadReq.place (r : LoadReq) : Nat := (r.ctm.map fun x => x.1).getD r.coord
/-- 4 is the ctm space, which is the team space of another core. -/
def LoadReq.mem (r : LoadReq) : Nat := if r.space = 4 then 1 else r.space
/-- Where the accesses of a request read. -/
def LoadReq.reads (r : LoadReq) : List (Acc × Nat) := if r.space = 0 then r.accs.zip r.pas else r.accs.map fun a => (a, a.addr)
def PathEntry.at_ (e : PathEntry) : Nat := if e.space = 0 then e.pa else e.addr
/-- A lane's load that is not performed yet reads a byte that its later store, reduction or atomic is to write (R185). -/
def PathEntry.overtakes (e : PathEntry) (r : LoadReq) : Bool :=
  r.id < e.id && r.got.isNone && r.byw.g == e.byw.g && r.byw.uid == e.byw.uid && r.mem == e.space && r.place == e.place &&
    r.reads.any fun x => e.lanes.contains x.1.lane && rangesMeet x.2 x.1.size e.at_ e.size
/-- Something before an entry waits: in the path, or in a word of its core that is held for its pages (R183). -/
def State.waitsBehind (s : State) (e : PathEntry) (but : List PathEntry) : Bool :=
  (s.path.any fun x => x.before e && !but.contains x) || (s.heldEntries e.coord).any fun x => x.before e
/-- A store-path entry may be performed: nothing before it waits, nor an earlier load of its lane that must not see it. -/
def State.mayPerform (s : State) (e : PathEntry) : Bool := !s.waitsBehind e [] && !s.loads.any e.overtakes
/-- The lanes of one word that reach one location, in ascending order: no other access falls between them (R170, R171). -/
def State.mates (s : State) (e : PathEntry) : List PathEntry :=
  if e.kind == .atom || e.kind == .red || e.kind == .stat then s.path.filter fun x => x.sameWord e && x.meets e else [e]
/-- Everything before any of them, apart from themselves, is performed. -/
def State.mayPerformAll (s : State) (l : List PathEntry) : Bool :=
  l.all fun e => !s.waitsBehind e l && !s.loads.any e.overtakes
/-- A release of the group waits in the path. -/
def State.relWaits (s : State) (g : GRef) : Bool := s.path.any fun e => e.byw.g == g && e.rel.isSome
def State.endEntry (s : State) (id : Nat) : State := { s with path := s.path.filter fun e => e.id != id }

/-- A FENCE.acq whose loads have all landed takes its acquire and lifts (R169). -/
def State.endFence (s : State) (g : GRef) : State :=
  match s.group? g with
  | some gr =>
    match gr.fenceAcq with
    | some sc => if s.loadsOut g s.nextId then s else (s.modGroup g fun y => { y with fenceAcq := none }).acquire g sc
    | none => s
  | none => s

/-! Atomic operations at their owner (R170, R171). -/

/-- RED and ATOM on `n` bytes of a type. -/
def atomNew (op : Nat) (t : Ty) (n old c cmp : Nat) : Nat :=
  let w := 8 * n
  let sg (x : Nat) : Int := if t.signed && 2 ^ (w - 1) ≤ x then (x : Int) - 2 ^ w else x
  match op with
  | 0 => if t = .f32 then (fAdd rneMode (BitVec.ofNat 32 old) (BitVec.ofNat 32 c)).bits else (old + c) % 2 ^ w
  | 1 => if t = .f32 then (fMinMax false rneMode (BitVec.ofNat 32 old) (BitVec.ofNat 32 c)).toNat else if sg old ≤ sg c then old else c
  | 2 => if t = .f32 then (fMinMax true rneMode (BitVec.ofNat 32 old) (BitVec.ofNat 32 c)).toNat else if sg old ≤ sg c then c else old
  | 3 => old &&& c
  | 4 => old ||| c
  | 5 => old ^^^ c
  | 6 => c
  | _ => if old = cmp then c else old
def tripleOfBytes (x : Nat) : Triple := ⟨BitVec.ofNat 32 x, BitVec.ofNat 32 (x / 2 ^ 32), BitVec.ofNat 32 (x / 2 ^ 64)⟩
def natOfTriple (t : Triple) : Nat := t.n.toNat + t.mean.toNat * 2 ^ 32 + t.m2.toNat * 2 ^ 64
/-- What an owner makes of an entry and the old value. -/
def entryNew (e : PathEntry) (old : Nat) : Nat :=
  match e.kind with
  | .st | .ctm => e.data
  | .stat => natOfTriple (mmerge (tripleOfBytes old) (tripleOfBytes e.data))
  | .ctradd => addCounter old e.data false
  | .fence | .ring => old
  | _ => atomNew e.op e.ty e.size old e.data e.cmp

/-! Values in registers (R160). -/

/-- The registers that a loaded value writes in a lane's destination, and what. -/
def loadRegs (lane : Nat) (d : MDst) (x : Nat) : List (LDst × W64) :=
  let ext (t : Ty) : Int := if t.isInt then intRead t x else x
  match d with
  | .none | .pc _ _ => []
  | .v n t x4 =>
    if x4 then (List.range 4).map fun j => (.v lane (n + j), BitVec.ofNat 64 (x / 2 ^ (32 * j)))
    else if t.wide then [(.v lane n, BitVec.ofNat 64 x), (.v lane (n + 1), BitVec.ofNat 64 (x / 2 ^ 32))]
    else [(.v lane n, BitVec.ofInt 64 (ext t))]
  | .s n t => [(.s n, BitVec.ofInt 64 (ext t))]
def dstRun (d : MDst) : List Nat :=
  match d with
  | .v n t x4 => (List.range (if x4 then 4 else if t.wide then 2 else 1)).map fun j => n + j
  | _ => []
/-- Marks a lane's destination. -/
def Regs.markDst (r : Regs) (f : RegSt → RegSt) (lane : Nat) (d : MDst) : Regs :=
  match d with
  | .s n _ => r.markS f n
  | d => (dstRun d).foldl (fun r n => r.markV f lane n) r

/-! Pages by frame, and their notices (R322, R326, R331, R337). -/

def LeafAt.covers (x : LeafAt) (f : Nat) : Bool := ptePfn x.w ≤ f && f < ptePfn x.w + 512 ^ x.level
/-- A 57-bit address in canonical form (R159). -/
def canonVa (v : Nat) : Nat := if v / 2 ^ 56 % 2 = 1 then v % 2 ^ 57 + (2 ^ 64 - 2 ^ 57) else v % 2 ^ 57
/-- The addresses at which a context's tables map a frame. -/
def State.tableVas (s : State) (c : Ctx) (f : Nat) : List Nat :=
  ((s.leaves c).filter fun x => x.covers f).map fun x => canonVa (x.va + (f - ptePfn x.w) * 4096)
/-- Every virtual address at which a context maps a frame: in its tables, as a page of a patched image copy (R340), as a renamed page of
a task (R281). -/
def State.vasOf (s : State) (c : Ctx) (f : Nat) : List Nat :=
  let at_ (fs : List Nat) (va : Nat) : List Nat := (fs.mapIdx fun j g => (g, va + j * 4096)).filterMap fun x => if x.1 = f then some x.2 else none
  (s.tableVas c f ++
    ((s.images.filter fun i => i.ctx == c.id).flatMap fun i => i.copies.flatMap fun y => at_ y.2 (i.body.codeBase / 4096 * 4096)) ++
    (s.tasks.filter fun k => k.ctx == c.id).flatMap fun k => k.staged.flatMap fun y => at_ y.2 (y.1 * 65536)).eraseDups
/-- A notice of kind 1 or 2 goes to every context that maps the frame (R337). -/
def State.pageNotice (s : State) (kind word f : Nat) : State :=
  s.contexts.foldl (fun s c =>
    let v := s.vasOf c f
    if v.isEmpty then s
    else s.notify c.id 0xC007 (bytesOfNat 4 kind ++ bytesOfNat 4 word ++ bytesOfNat 8 (f * (if kind = 1 then 4096 else 1)) ++ bytesOfNat 4 v.length ++ bytesOfNat 4 0 ++ v.flatMap (bytesOfNat 8))) s
/-- An uncorrectable error has been consumed at physical addresses: the host is told of their pages (R331). -/
def State.eccNotice (s : State) (pas : List Nat) : State :=
  ((pas.map fun p => p / 4096).eraseDups).foldl (fun s f => s.pageNotice 1 0 f) s

/-- An addition whose translation is taken now: made, made to wait on a fault, or dropped with a throw (R354); it is atomic as RED is, and a
poisoned counter throws E_ECC (R163, R258, R323). `op` and `entry` name the engine operation or the path entry that waits for it. -/
def State.addAt (s : State) (ctx va x : Nat) (plain : Bool) (b : List Starter) (launch : Nat) (task : Bool) (op : Nat := 0) (entry : Nat := 0) : State :=
  let fail (s : State) (code : Nat) : State :=
    if task then s.raiseGrid launch (b.headD {}) code (BitVec.ofNat 64 va)
    else s.raiseStarters b code (BitVec.ofNat 64 va)
  let wait (s : State) (f : Nat) : State :=
    { s with adds := s.adds ++ [⟨s.nextId, ctx, va, x, plain, b, launch, task, f, op, entry⟩], nextId := s.nextId + 1 }
  match s.adds.find? fun y => y.ctx == ctx && y.va == va with
  | some y => wait s y.fault
  | none =>
    match (match if task then none else b.head?.bind fun x => s.team? x.g.team with
      | some t => s.walkTeam t va true
      | none => s.walkCtx ctx va) with
    | .ok t =>
      if !pteWr t.leaf then fail s eProt
      else if s.dram.poisoned t.pa 8 then fail (s.eccNotice [t.pa]) eEcc
      else s.addPa t.pa x plain
    | .bad => fail s ePage
    | .missing =>
      let r := s.newFault ctx va 1 (.add s.nextId)
      wait r.2 r.1

/-- A task that consumes an uncorrectable error is rolled back (R283): its state asks TASK processing for it. -/
def State.taskEcc (s : State) (t : Team) : State :=
  match t.task with
  | none => s
  | some (d, k) => { s with tasks := s.tasks.map fun (x : Task) => if x.die = d ∧ x.id = k then { x with state := 5 } else x }

end Sys2Proof.Machine
end

