-- ==== Sys2Proof/Machine/MemInstr.lean ====
section
/-! DEFINITION. The memory range (R156 to R176): addresses, checks in the order of R161, and what a word hands to the store
path, to loads under way and to the stream engines. -/
namespace Sys2Proof.Machine

/-! Checks. -/

/-- Step 1 of R161 for the window of a team (R159): a code, or none. -/
def chkTeam (t : Team) (a n : Nat) (load : Bool) : Option Nat :=
  if a + n ≤ t.kern.teamBytes then none
  else if load && 0x7E800 ≤ a && a + n ≤ 0x7E800 + 64 * (t.kern.groups + t.kern.spawnSlots) then none
  else if 0x7E800 ≤ a && a < 0x80000 then some eProt
  else some eBounds
def chkSpace (t : Team) (space a n : Nat) (load : Bool) : Option Nat :=
  if space = 0 then (if canonical a && canonical (a + n - 1) then none else some eProt)
  else if space = 1 then chkTeam t a n load
  else if a + n ≤ (t.buf space).size then none else some eBounds
/-- Cores of a rectangle, by its origin (R20). -/
def rectCores (origin w h : Nat) : List Nat := (List.range h).flatMap fun r => (List.range w).map fun c => origin + 8 * r + c
/-- A core lies in the rectangle of the issuing team's cluster, whether its team has ended or not (R12, R20, R159, R263). -/
def Team.hasCore (t : Team) (coord : Nat) : Bool := Config.coordOk coord && (rectCores t.origin t.kern.cw t.kern.ch).contains coord
/-- The team of the issuing team's cluster on a core that has not ended. -/
def clusterTeam (s : State) (t : Team) (coord : Nat) : Option Team :=
  s.teams.find? fun x => x.launch == t.launch && x.cluster == t.cluster && x.coord == coord && x.task == t.task && x.place != .ended
/-- The generation that an access to a core of the cluster carries (R166, R194). Where no team is left there it is none that an allocation
can have, so that the target finds it stale. -/
def targetGen (s : State) (t : Team) (coord : Nat) : Nat := ((clusterTeam s t coord).map fun x => x.gen).getD 65536

def throwsOf (pc : Nat) (l : List (Nat × Nat × Nat)) : List LaneThrow := l.map fun x => ⟨x.1, x.2.1, pc, BitVec.ofNat 64 x.2.2⟩
/-- A failure of the one access of a word is that of each of its guarded lanes (R134, R161, R165). -/
def spread (lanes : List Nat) (n : Nat) (l : List LaneThrow) : List LaneThrow :=
  match l with
  | [x] => if n = 1 then lanes.map fun k => { x with lane := k } else l
  | _ => l
/-- Steps 1 to 3 of R161: the first step that fails decides. -/
def stepChecks (s : State) (t : Team) (pc space : Nat) (load : Bool) (accs : List Acc) : List LaneThrow :=
  let s1 := accs.filterMap fun a => (chkSpace t space a.addr a.size load).map fun c => (a.lane, c, a.addr)
  let s2 := (accs.filter fun a => a.addr % a.size ≠ 0).map fun a => (a.lane, eAlign, a.addr)
  let s3 := (accs.filter fun a => s.locked t.coord t space a.addr a.size load).map fun a => (a.lane, eRangelock, a.addr)
  throwsOf pc (if !s1.isEmpty then s1 else if !s2.isEmpty then s2 else s3)

/-- A group's memory, engine and WAITGE words are held at issue by an acquire under way (R167, R169): stores only by LDACQ. -/
def State.orderHold (s : State) (g : GRef) (store : Bool) : Bool :=
  (s.loads.any fun r => r.byw.g == g && match r.acq with
    | some sc => decide (1 ≤ sc)
    | none => false) ||
  match s.group? g with
  | some gr => gr.held.isSome || (gr.fenceAcq.isSome && !store)
  | none => false
def MemAct.isLd : MemAct → Bool
  | .ld _ => true
  | _ => false
/-- What tells requests apart (R164): lanes of one word in the same 128-byte line of the same space and core share one. -/
def reqKey (b : Starter) (space core addr : Nat) : List Nat := [b.g.team, b.g.slot, b.uid, b.cc, space, core, addr / 128]
/-- The requests that a team's held and waiting words keep (R164, R242). -/
def Team.keeps (t : Team) : List (List Nat) :=
  t.groups.flatMap fun g => g.waits ++ match g.held with
    | some mw => if mw.act.inPath || mw.act.isLd then mw.accs.map fun a => reqKey mw.byw mw.space 0 a.addr else []
    | none => []
/-- The requests of a core's words that wait for a reply or an acknowledgement, a word that waits for its pages among them (R164). -/
def State.requests (s : State) (coord : Nat) : List (List Nat) :=
  let far (c : Option (Nat × Nat)) : Nat := (c.map fun x => x.1 + 1).getD 0
  (((s.loads.filter fun r => r.coord == coord).flatMap fun r => r.accs.map fun a => reqKey r.byw r.space (far r.ctm) a.addr) ++
    ((s.path.filter fun e => e.coord == coord && e.kind != .fence && e.kind != .ring).map fun e => reqKey e.byw e.space (far e.ctm) e.addr) ++
    ((s.atoms.filter fun r => r.coord == coord).map fun r => reqKey r.byw r.space 0 r.addr) ++
    (s.resident coord).flatMap Team.keeps).eraseDups
/-- Request slots in use on a core (R164). -/
def State.slotsUsed (s : State) (coord : Nat) : Nat := (s.requests coord).length
/-- A word's accesses need more request slots than are free (R164): one for each line, and core, they meet. -/
def State.noSlots (s : State) (coord : Nat) (l : List (Nat × Nat)) : Bool :=
  2048 < s.slotsUsed coord + ((l.map fun x => (x.1, x.2 / 128)).eraseDups).length
def accSlots (l : List Acc) : List (Nat × Nat) := l.map fun a => (0, a.addr)

/-! Performing a word whose checks are over. -/

/-- An entry takes its place in the path, with the step that performs it. -/
def State.insertEntry (s : State) (e : PathEntry) : State :=
  let s1 := { s with path := insertBy (fun (x : PathEntry) => x.id) e s.path }
  -- the home slice of a join counter is found only when the addition is made (R354)
  let least := if e.space ≠ 0 || e.kind == .fence || e.kind == .ring then 1 else if e.pa = 0 then Config.meshCc 24 else s.sliceLeast e.coord e.pa 24
  if e.rel.isSome then s1.after least (.storePathRelease e.id)
  else match e.kind with
    | .atom | .red | .stat => s1.after least (.atomAtOwner e.id)
    | .ctm => s1.after (Config.meshCc (Config.meshWay e.coord ((e.ctm.map fun x => x.1).getD e.coord) + 1)) (.ctmArrival e.id)
    | _ => s1.after least (.storeAck e.id)
/-- A store-path entry enters behind all others. -/
def State.pushEntry (s : State) (e : PathEntry) : State := { s with nextId := s.nextId + 1 }.insertEntry { e with id := s.nextId }
/-- Team-space bytes written at once: the space has no lagging copy (R179, R192). -/
def State.writeTeam (s : State) (t : Nat) (space a : Nat) (b : List Byte) : State :=
  (s.modTeam t fun x => x.modBuf space fun y => { y with mem := y.mem.writeBytes a b }).evalCounters

/-- A poisoned block of an array that an access meets (R163, R323). -/
def State.teamPoison (s : State) (t : Nat) (space a n : Nat) : Bool :=
  match s.team? t with
  | some x => (x.buf space).mem.poisoned a n
  | none => false
/-- Bytes of a lane's team-space access, with the lane's own stores still on their way laid over (R184, R185). -/
def State.teamLoad (s : State) (t : Team) (r : LoadReq) (a : Acc) : List Byte :=
  let base := if r.space = 1 then t.tmBytes a.addr a.size else (t.buf r.space).mem.bytes a.addr a.size
  let mine := s.path.filter fun e => e.byw.g == r.byw.g && e.lane == a.lane && e.kind == .st && e.space == r.space && e.id < r.id
  base.mapIdx fun i b =>
    match (mine.filter fun e => e.addr ≤ a.addr + i && a.addr + i < e.addr + e.size).getLast? with
    | some e => BitVec.ofNat 8 (e.data / 2 ^ (8 * (a.addr + i - e.addr)))
    | none => b
def LoadReq.useL1 (r : LoadReq) : Bool :=
  match r.acq with
  | some sc => sc < 3
  | none => true
/-- What each access of a request brings: a code of an exception, or 0 with the value. -/
def State.loadValues (s : State) (t : Team) (r : LoadReq) : List (Nat × Nat × Nat) :=
  match r.got with
  | some l => l
  | none =>
    let path := s.corePath r.coord
    (r.accs.zip (r.pas ++ List.replicate r.accs.length 0)).map fun x =>
    if r.space = 0 then
      let mine := pathFor path r.byw x.1.lane r.id
      if s.corePoison mine r.coord x.2 x.1.size r.useL1 then (x.1.lane, eEcc, x.1.addr)
      else (x.1.lane, 0, natOfBytes ((List.range x.1.size).map fun i => s.byteBy mine r.coord (x.2 + i) r.useL1))
    else if (t.buf r.space).mem.poisoned x.1.addr x.1.size then (x.1.lane, eEcc, x.1.addr)
    else (x.1.lane, 0, natOfBytes (s.teamLoad t r x.1))
/-- An access that comes first for a load: a lane's earlier load of a common byte, an earlier atomic in the core's path over the bytes,
held words included, or the lane's own earlier ctm store there, or any store of its own behind which its ctm load went (R183, R185). -/
def State.loadWaits (s : State) (r : LoadReq) : Bool :=
  let atomic (e : PathEntry) : Bool := e.kind != .st && e.kind != .fence && e.kind != .ring && e.kind != .ctm
  let path := if r.space = 0 then s.corePath r.coord else s.path
  r.reads.any fun x =>
    (s.loads.any fun q => q.id < r.id && q.got.isNone && q.mem == r.mem && q.place == r.place && q.byw.g == r.byw.g && q.reads.any fun y =>
      y.1.lane == x.1.lane && rangesMeet x.2 x.1.size y.2 y.1.size) ||
    path.any fun e => e.id < r.id && e.space == r.mem &&
      (if r.space = 0 then atomic e && e.coord == r.coord && rangesMeet x.2 x.1.size e.pa e.size
       else (atomic e || e.kind == .ctm || (e.kind == .st && r.ctm.isSome)) && e.place == r.place && e.byw.g == r.byw.g && e.lane == x.1.lane &&
         rangesMeet x.2 x.1.size e.addr e.size)
/-- Loads that a lane's next store would overtake are performed before it, in program order, where nothing keeps them waiting (R185). -/
def State.loadFirst (s : State) (e : PathEntry) : State :=
  (sortBy (fun (r : LoadReq) => r.id) (s.loads.filter fun r => e.overtakes r && r.ctm.isNone)).foldl (fun s r =>
    match s.team? r.byw.g.team with
    | some t => if s.loadWaits r then s
                else { s with loads := s.loads.map fun (x : LoadReq) => if x.id = r.id then { x with got := some (s.loadValues t x) } else x }
    | none => s) s
/-- A store enters the path; one to a team space that nothing keeps waiting is performed at once (R165, R184). -/
def State.doStore (s : State) (t : Team) (e : PathEntry) : State :=
  let s := s.loadFirst e
  if e.space = 0 then
    -- where a younger store of another group stands in the path, its bytes stay the core's (R183)
    let s := s.insertEntry e
    s.storeL1 t.coord e.pa ((List.range e.size).map fun i => (pathByte (s.corePath t.coord) (e.pa + i)).getD 0)
  else if e.rel.isNone && s.mayPerform e && !s.teamPoison t.id e.space e.addr e.size then s.writeTeam t.id e.space e.addr (bytesOfNat e.size e.data)
  else s.insertEntry e

/-- The lanes of one word that share a line share a request (R164); RET's targets arrive together. -/
def groupLines (pas : List (Acc × Nat)) (whole : Bool) : List (List (Acc × Nat)) :=
  if whole then [pas]
  else (pas.map fun x => x.2 / 128).eraseDups.map fun ln => pas.filter fun x => x.2 / 128 == ln

/-- Loads leave; a word with a remote load parks its group (R36, R162). -/
def State.doLoad (s : State) (t : Team) (mw : MemWord) (pas : List (Acc × Nat)) (acq : Option Nat) : State :=
  let c := s.core t.coord
  let l1Ok := match acq with
    | some sc => sc < 3
    | none => true
  let hit (pa : Nat) : Bool := l1Ok && (l1Line c (pa / 128)).isSome
  let isRemote (pa : Nat) : Bool := mw.space = 0 && !hit pa && homeDie pa ≠ Config.coordDie t.coord
  let s := (groupLines pas mw.dst.isPc).foldl (fun s l =>
    let pa := (l.headD (⟨0, 0, 1, 0, 0, []⟩, 0)).2
    let r : LoadReq := { id := s.nextId, coord := t.coord, byw := mw.byw, space := mw.space, dst := mw.dst, accs := l.map fun x => x.1, pas := l.map fun x => x.2, acq := acq, remote := isRemote pa }
    let least := if mw.space ≠ 0 then 8 else if hit pa then 14 else s.sliceLeast t.coord pa 20
    ({ s with loads := s.loads ++ [r], nextId := s.nextId + 1 }).after least (.loadLanding r.id)) s
  if pas.any fun x => isRemote x.2 then s.park mw.byw.g .remote mw.byw else s
/-- An atomic of the word goes to another die: the group parks for its reply (R162). DEDUCED (log 70): an ATOM never hits the L1, whose
line it invalidates. -/
def State.parkAtom (s : State) (t : Team) (mw : MemWord) (pas : List (Acc × Nat)) : State :=
  match mw.act with
  | .atom _ _ => if mw.space = 0 && pas.any fun x => homeDie x.2 ≠ Config.coordDie t.coord then s.park mw.byw.g .remote mw.byw else s
  | _ => s

/-- Places of the core's spawn queue in use: queued, being packed, or kept for a refill under way (R43). -/
def State.spawnHeld (s : State) (coord : Nat) : Nat :=
  let c := s.core coord
  c.spawnq.length + (c.packs.map fun p => p.recs.length).sum +
  (s.ops.map fun o => if o.coord = coord then (match o.kind with
    | .spawnIn n => n
    | _ => 0) else 0).sum
/-- Places of a core's spawn queue have come free: every ring of the core's teams is asked (R45). -/
def State.askRings (s : State) (coord : Nat) : State :=
  (s.resident coord).foldl (fun s t => if t.ringHead = t.ringTail then s else s.sched (s.clock + 1) (.spawnRingRefill t.id)) s
/-- The gatherer packs one record: with the same team, entry and join address, up to the launch's width (R43). -/
def State.packRec (s : State) (t : Team) (r : SpawnRec) : State :=
  let c := s.core t.coord
  match c.packs.find? fun p => p.team == t.id && !p.closed && p.entry == r.entry && p.join == r.join with
  | some p =>
    let full := t.kern.width ≤ p.recs.length + 1
    let s := s.modCore t.coord fun c => { c with packs := c.packs.map fun x => if x.id = p.id then { x with recs := x.recs ++ [r], closed := full } else x }
    if full then s.sched (s.clock + 1) (.spawnGroupDispatch p.id) else s
  | none =>
    let p : Pack := { id := s.nextId, team := t.id, entry := r.entry, join := r.join, recs := [r], closed := false, due := s.ctxClock t.ctx + 256 }
    let s := { s with nextId := s.nextId + 1 }.modCore t.coord fun c => { c with packs := c.packs ++ [p] }
    s.sched (s.clock + 256) (.gatherTimeout p.id)
/-- A team's queued records go to the gatherer in order. -/
def State.gather (s : State) (t : Team) : State :=
  let mine := (s.core t.coord).spawnq.filter fun x => x.1 == t.id
  let s := s.modCore t.coord fun c => { c with spawnq := c.spawnq.filter fun x => x.1 != t.id }
  mine.foldl (fun s x => s.packRec t x.2) s
/-- A spawn record offered to the core's queue or the team's ring (R42, R43, R45): whether it was accepted. DEDUCED (log 116): a full queue
holds no SPAWN. -/
def State.offerSpawn (s : State) (t : Team) (r : SpawnRec) : Bool × State :=
  match s.team? t.id, s.launch? t.launch with
  | some tm, some l =>
    let cap := if t.task.isSome then 0 else l.body.srCap
    let ring := tm.ringTail - tm.ringHead
    if ring = 0 && s.spawnHeld t.coord < 256 then
      (true, (s.modCore t.coord fun c => { c with spawnq := c.spawnq ++ [(t.id, r)] }).gather t)
    else if ring < cap then
      let s := s.modTeam t.id fun x => { x with ringTail := x.ringTail + 1, savedSpawns := x.savedSpawns ++ [r] }
      (true, s.sched (s.clock + 1) (.spawnRingSpill t.id))
    else (false, s)
  | _, _ => (false, s)
/-- SPAWN's effect: the records in ascending lane order, the accepted lanes in the k mask 4 cc after the issue (R220). -/
def State.doSpawn (s : State) (t : Team) (mw : MemWord) (k : Nat) : State :=
  let r := mw.accs.foldl (fun (x : List Nat × State) a =>
    let y := x.2.offerSpawn t ⟨a.data, a.cmp, a.addr, a.words, some (mw.byw.g, mw.id0)⟩
    (if y.1 then x.1 ++ [a.lane] else x.1, y.2)) ([], s)
  r.2.landFrom mw.byw.g mw.t0 4 [(.k k (maskOf (mw.accs.map fun a => a.lane)), maskOf r.1)]

/-- The word acts, every check passed. -/
def State.perform (s : State) (t : Team) (mw : MemWord) (pas : List (Acc × Nat)) : State :=
  match mw.act with
  | .ld acq => s.doLoad t mw pas acq
  | .st _ => (mw.entries t.coord pas).foldl (fun s e => s.doStore t e) s
  | .atom _ _ | .red _ _ | .stat | .ctradd _ _ =>
    ((mw.entries t.coord pas).foldl (fun s e =>
      let s := s.loadFirst e
      (if e.space = 0 then s.dropLine t.coord (e.pa / 128) else s).insertEntry e) s).parkAtom t mw pas
  | .waitge target scope dl =>
    match pas with
    | [] => s
    | (a, _) :: _ =>
      (s.park mw.byw.g (.counter (mw.space == 1) a.addr target scope dl) mw.byw).evalCounters
  | .spawn k => s.doSpawn t mw k
  | .pref _ | .fetch _ | .code => s

/-- What the page of a word's access must permit (R161). -/
def MemAct.needs (a : MemAct) : Bool × Bool :=
  match a with
  | .ld _ | .waitge _ _ _ | .pref _ => (true, false)
  | .atom _ _ => (true, true)
  | .fetch wr => (true, wr)
  | .code => (false, false)
  | _ => (false, true)

/-- The walks of a die, in arrival order; 16 walkers serve the oldest, and up to 256 more may wait (R242). -/
def State.dieWalks (s : State) (die : Nat) : List Walk := s.walks.filter fun w => Config.coordDie w.coord == die
def State.walkOf (s : State) (coord ctx va : Nat) : Option Walk := s.walks.find? fun w => w.coord == coord && w.va / 4096 == va / 4096 && w.ctx == ctx
/-- The wait list has no room for the walks that pages need: the word stalls at issue with its request slots (R164, R242). -/
def State.walksFull (s : State) (coord ctx : Nat) (vas : List Nat) : Bool :=
  let new := ((vas.filter fun va => (s.walkOf coord ctx va).isNone).map fun va => va / 4096).eraseDups
  !new.isEmpty && 272 < (s.dieWalks (Config.coordDie coord)).length + new.length
/-- A walker takes a walk up: one L2 access for each level it reads (R242, R353). -/
def State.runWalk (s : State) (w : Walk) : State :=
  let n := match s.ctx? w.ctx with
    | some c => walkReads s.dram (w.va % 2 ^ 57) 4 c.root
    | none => 1
  s.after (Config.meshCc (20 * n)) (.tableWalkComplete w.id)
/-- A table walk for a page that misses the TLB (R242). -/
def State.startWalk (s : State) (coord ctx va : Nat) : State :=
  if (s.walkOf coord ctx va).isSome then s
  else
    let w : Walk := ⟨s.nextId, coord, ctx, va⟩
    let s1 := { s with walks := s.walks ++ [w], nextId := s.nextId + 1 }
    if (s.dieWalks (Config.coordDie coord)).length < 16 then s1.runWalk w else s1

/-- The lines whose presence an access needs: none in the C buffer and in record slots (R162). -/
def MemWord.lines (mw : MemWord) (a : Acc) : List Nat := if mw.space = 3 || (mw.space = 1 && 0x7E800 ≤ a.addr) then [] else linesOf a.addr a.size
/-- Steps 4 and 5 of R161 for a word: throws, a hold (walk, absent lines), or the word acts. -/
def State.enterWord (s : State) (t : Team) (mw : MemWord) : Except (List LaneThrow) State :=
  let pc := mw.byw.pc
  if mw.space = 0 then
    let tr := mw.accs.map fun a => (a, s.tlb? t a.addr mw.act.needs.2)
    let misses := tr.filter fun x => x.2.isNone
    if !misses.isEmpty then
      -- a word that is taken up again keeps its request slots and waits for room in the wait list (R242)
      .ok ((misses.foldl (fun s x => s.startWalk t.coord t.ctx x.1.addr) s).modGroup mw.byw.g fun y => { y with held := some { mw with walking := true } })
    else
      let need := mw.act.needs
      let prot := tr.filter fun x => match x.2 with
        | some y => (need.1 && !pteRd y.leaf) || (need.2 && !pteWr y.leaf) || (mw.act == .code && !pteCode y.leaf)
        | none => false
      if !prot.isEmpty then .error (throwsOf pc (prot.map fun x => (x.1.lane, eProt, x.1.addr)))
      else
        let s := tr.foldl (fun s x => match x.2 with
          | some y => s.modCore t.coord fun c => tlbPut c t.ctx x.1.addr y
          | none => s) s
        .ok ((s.modGroup mw.byw.g fun y => { y with held := none }).perform t mw (tr.map fun x => (x.1, (x.2.map fun y => y.pa).getD 0)))
  else
    let reads := match mw.act with
      | .ld _ | .atom _ _ => true
      | _ => false
    let b := ((s.team? t.id).getD t).buf mw.space
    let orph := mw.accs.filter fun a => reads && (mw.lines a).any fun l => b.orphan.contains l
    let absent := mw.accs.any fun a => reads && (mw.lines a).any fun l => b.absent.contains l
    if !orph.isEmpty then .error (throwsOf pc (orph.map fun a => (a.lane, eAbsent, a.addr)))
    else if absent then
      .ok ((s.park mw.byw.g .line mw.byw).modGroup mw.byw.g fun y => { y with held := some mw })
    else .ok ((s.modGroup mw.byw.g fun y => { y with held := none }).perform t mw (mw.accs.map fun a => (a, a.addr)))

/-- What a word's destinations hold before they are marked empty (R161). -/
def savedOf (r : Regs) (d : MDst) (lanes : List Nat) : List (Nat × VReg) × List (Nat × SReg) :=
  match d with
  | .s n _ => ([], [(n, r.getS n)])
  | d => (lanes.flatMap fun l => (dstRun d).map fun n => (l * 256 + n, r.getV l n), [])
/-- Each destination that the word marked empty is full again with its previous value; a void one is still void (R55, R161). -/
def Regs.restore (r : Regs) (mw : MemWord) : Regs :=
  let full (x : RegSt) : RegSt := { x with full := true }
  let r1 := mw.saved.foldl (fun (r : Regs) x => { r with v := spPut {} r.v x.1 { x.2 with st := full x.2.st } }) r
  mw.savedS.foldl (fun (r : Regs) x => { r with s := spPut {} r.s x.1 { x.2 with st := full x.2.st } }) r1

/-- The pages of a word's accesses that miss the TLB. -/
def State.missing (s : State) (t : Team) (space : Nat) (wr : Bool) (accs : List Acc) : List Nat :=
  if space = 0 then (accs.filter fun a => (s.tlb? t a.addr wr).isNone).map fun a => a.addr else []
/-- A word that finds the walkers' wait list full: its group stalls at issue, and it keeps its request slots (R164, R242). -/
def waitList (i : Iss) (keys : List (List Nat)) (s : State) : State :=
  (s.modGroup i.g fun y => { y with waits := keys }).issueStalls i.cur i.t.coord i.gr.quarter
/-- A word that passed steps 1 to 3: its destinations are marked empty, then steps 4 and 5. -/
def startWord (i : Iss) (s : State) (act : MemAct) (space : Nat) (dst : MDst) (accs : List Acc) (lanes : List Nat) : Body :=
  let sv := savedOf i.gr.regs dst lanes
  let mw : MemWord := { act := act, byw := s.starter i.g (maskOf i.lanes) i.cur.pc, exec := i.cur.exec, space := space, dst := dst, accs := accs, saved := sv.1, savedS := sv.2, walking := false, t0 := s.clock, id0 := s.nextId }
  let u := { s with nextId := s.nextId + 4 * accs.length }.modGroup i.g fun y => { y with regs := lanes.foldl (fun r l => r.markDst RegSt.emptied l dst) y.regs }
  if u.walksFull i.t.coord i.t.ctx (u.missing i.t space act.needs.2 accs) then .hold (waitList i (accs.map fun a => reqKey mw.byw space 0 a.addr))
  else
    match u.enterWord i.t mw with
    | .ok u => .ok u
    | .error l => .throws (spread i.lanes accs.length l)

/-- A word of an access that must be made before the word can act: a TLB miss holds the group and the word is asked again. -/
def fetchPage (i : Iss) (va size : Nat) (wr : Bool) (s : State) : State :=
  let mw : MemWord := { act := .fetch wr, byw := s.starter i.g (maskOf i.lanes) i.cur.pc, exec := i.cur.exec, space := 0, dst := .none,
                        accs := [{ lane := 0, addr := va, size := size }], saved := [], savedS := [], walking := true, t0 := s.clock }
  (s.startWalk i.t.coord i.t.ctx va).modGroup i.g fun y => { y with held := some mw, second := none }
/-- The same, or a stall while the wait list of the walkers is full (R242). -/
def holdFetch (i : Iss) (va size : Nat) (wr : Bool) (s : State) : Body :=
  .hold (if s.walksFull i.t.coord i.t.ctx [va] then waitList i [reqKey (s.starter i.g (maskOf i.lanes) i.cur.pc) 0 0 va] else fetchPage i va size wr)
/-- A held word fails without effect: its destinations and the PCs are as before it (R161). -/
def State.failHeld (s : State) (g : GRef) (mw : MemWord) (l : List LaneThrow) : State :=
  let s := s.modGroup g fun y =>
    { (if y.phase = .parked ∨ y.phase = .evicted then y.woken else y) with
      held := none
      regs := y.regs.restore mw
      pcs := (lanesOf mw.exec).foldl (fun p k => spPut 0 p k (BitVec.ofNat 32 mw.byw.pc)) y.pcs }
  s.raise g (spread (lanesOf mw.byw.lanes) mw.accs.length l)
/-- A held word is taken up again: it acts, is held once more, or fails without effect (R161, R238). -/
def State.retryHeld (s : State) (g : GRef) : State :=
  match s.team? g.team, s.group? g with
  | some t, some gr =>
    match gr.held with
    | none => s
    | some mw =>
      let s := s.modGroup g fun y => { (if y.phase = .parked ∨ y.phase = .evicted then y.woken else y) with held := none }
      match s.enterWord t { mw with walking := false } with
      | .ok s => s
      | .error l => s.failHeld g mw l
  | _, _ => s
/-- A throw under way steers the group whose word is held: the word is dropped then, and raises nothing (R291). -/
def State.toSteer (s : State) (t : Team) (g : Group) : Bool := s.steers.any fun x => isMember x.region t g
/-- Groups parked on absent lines look again (R162, R229). -/
def State.wakeLines (s : State) (tid : Nat) : State :=
  match s.team? tid with
  | none => s
  | some t => (t.groups.filter fun g => g.wake == some .line && !s.toSteer t g).foldl (fun s g => s.retryHeld ⟨tid, g.slot⟩) s

/-! Addresses. -/

/-- Addr of R158. -/
def addrOf (i : Iss) (l size : Nat) (disp : W64) : Nat :=
  (i.rd l i.w.a true + ((i.rd32 l i.w.b).signExtend 64) * BitVec.ofNat 64 size + disp).toNat
def Iss.disp (i : Iss) : W64 := (i.w.c.constVal i.w.lit).getD 0
/-- The access size of TY (R160). -/
def accSize (t : Ty) (x4 : Bool) : Nat := if x4 then 16 else t.bits / 8
/-- The bytes a store takes from D (R160). -/
def storeData (i : Iss) (l : Nat) (x4 : Bool) (size : Nat) : Nat :=
  match i.w.d with
  | .v n => if x4 then (List.range 4).foldl (fun acc j => acc + ((i.regs l).getV l (n.val + j)).val.toNat * 2 ^ (32 * j)) 0
            else (i.rd l i.w.d i.w.ty.wide).toNat % 2 ^ (8 * size)
  | o => (i.rd l o true).toNat % 2 ^ (8 * size)
def loadDst (i : Iss) (x4 : Bool) : MDst :=
  match i.w.d with
  | .v n => .v n.val i.w.ty x4
  | .s n => .s n.val i.w.ty
  | _ => .none
/-- Lanes that access: once with an s destination (R165). -/
def accLanes (i : Iss) : List Nat := if i.w.d.isS then i.lanes.take 1 else i.lanes

/-- Loads of a plain space. -/
def loadBody (space : Nat) (x4 : Bool) (acq : Option Nat) (i : Iss) (s : State) : Body :=
  let size := accSize i.w.ty x4
  let ls := accLanes i
  let accs := ls.map fun l => ({ lane := l, addr := addrOf i l size i.disp, size := size } : Acc)
  -- an overlapping reduction or atomic in the path holds it, whether the TLB has the page or not (R183)
  let busy := accs.any fun a => space = 0 && match s.walkTeam i.t a.addr false with
    | .ok x => (s.corePath i.t.coord).any fun e => e.space == 0 && e.kind != .st && e.kind != .fence && e.kind != .ring && e.kind != .ctm && rangesMeet x.pa size e.pa e.size
    | _ => false
  if ls.isEmpty then .ok s
  else if s.orderHold i.g false || busy || s.noSlots i.t.coord (accSlots accs) then .stall
  else match stepChecks s i.t i.cur.pc space true accs with
    | [] => startWord i s (.ld acq) space (loadDst i x4) accs ls
    | l => .throws (spread i.lanes accs.length l)
/-- Stores of a plain space. -/
def storeBody (space : Nat) (x4 : Bool) (rel : Option Nat) (i : Iss) (s : State) : Body :=
  let size := accSize i.w.ty x4
  let accs := i.lanes.map fun l => ({ lane := l, addr := addrOf i l size i.disp, size := size, data := storeData i l x4 size } : Acc)
  if accs.isEmpty then .ok s
  else if s.orderHold i.g true || s.noSlots i.t.coord (accSlots accs) then .stall
  else match stepChecks s i.t i.cur.pc space false accs with
    | [] => startWord i s (.st rel) space .none accs []
    | l => .throws l

/-- The ctm space (R159, R166): coordinate, range and alignment here, the rest at the target. Every team of a cluster has the size that
its kernel gives. -/
def ctmBody (load x4 : Bool) (i : Iss) (s : State) : Body :=
  let size := accSize i.w.ty x4
  let ls := if load then accLanes i else i.lanes
  let accs := ls.map fun l => (({ lane := l, addr := addrOf i l size 0, size := size, data := if load then 0 else storeData i l x4 size } : Acc), (i.rd32 l i.w.c).toNat % 256)
  let s1 := accs.filterMap fun x =>
    if !i.t.hasCore x.2 then some (x.1.lane, eBounds, x.2)
    else (chkTeam i.t x.1.addr size load).map fun c => (x.1.lane, c, x.1.addr)
  let s2 := (accs.filter fun x => x.1.addr % size ≠ 0).map fun x => (x.1.lane, eAlign, x.1.addr)
  let bad := if !s1.isEmpty then s1 else s2
  if ls.isEmpty then .ok s
  else if s.orderHold i.g (!load) || s.noSlots i.t.coord (accs.map fun x => (x.2 + 1, x.1.addr)) then .stall
  else if !bad.isEmpty then .throws (spread i.lanes accs.length (throwsOf i.cur.pc bad))
  else
    let b := s.starter i.g (maskOf i.lanes) i.cur.pc
    let dst := if load then loadDst i x4 else .none
    let gen (c : Nat) : Nat := targetGen s i.t c
    if load then
      let s := s.modGroup i.g fun y => { y with regs := ls.foldl (fun r l => r.markDst RegSt.emptied l dst) y.regs }
      .ok (accs.foldl (fun s x =>
        let r : LoadReq := { id := s.nextId, coord := i.t.coord, byw := b, space := 4, dst := dst, accs := [x.1], acq := none, remote := false, ctm := some (x.2, gen x.2) }
        ({ s with loads := s.loads ++ [r], nextId := s.nextId + 1 }).after (Config.meshCc (Config.meshWay i.t.coord x.2 + 1)) (.ctmArrival r.id)) s)
    else
      let mw : MemWord := { act := .st none, byw := b, exec := i.cur.exec, space := 1, dst := .none, accs := accs.map fun x => x.1, saved := [], savedS := [],
                            walking := false, t0 := s.clock }
      .ok (accs.foldl (fun s x => (mw.entries i.t.coord [(x.1, x.1.addr)]).foldl (fun s e =>
        s.pushEntry { e with kind := .ctm, ty := i.w.ty, ctm := some (x.2, gen x.2) }) s) s)

def spaceOf (w : Full) : Nat := w.sub.toNat % 8
def bodyLd (i : Iss) (s : State) : Body :=
  if spaceOf i.w = 4 then ctmBody true (8 ≤ i.w.sub.toNat) i s else loadBody (spaceOf i.w) (8 ≤ i.w.sub.toNat) none i s
def bodySt (i : Iss) (s : State) : Body :=
  if spaceOf i.w = 4 then ctmBody false (8 ≤ i.w.sub.toNat) i s else storeBody (spaceOf i.w) (8 ≤ i.w.sub.toNat) none i s
/-- LDACQ (R167): at lane scope it orders nothing beyond LD. -/
def bodyLdacq (i : Iss) (s : State) : Body := loadBody (i.w.sub.toNat / 8) false (some (spaceOf i.w)) i s
/-- STREL (R167). DEDUCED (log 103): lane scope, for which no meeting point is named, waits as group scope does. -/
def bodyStrel (i : Iss) (s : State) : Body := storeBody (i.w.sub.toNat / 8) false (some (spaceOf i.w)) i s

/-- ATOM and RED (R170, R171). -/
def atomBody (act : MemAct) (size : Nat) (dst : MDst) (data : Nat → Nat) (i : Iss) (s : State) : Body :=
  let space := i.w.sub.toNat / 8
  let accs := i.lanes.map fun l =>
    ({ lane := l, addr := addrOf i l size 0, size := size, data := data l, cmp := (i.rd l i.w.d i.w.ty.wide).toNat % 2 ^ (8 * size) } : Acc)
  let store := dst == .none
  if accs.isEmpty then .ok s
  else if s.orderHold i.g store || s.noSlots i.t.coord (accSlots accs) then .stall
  else match stepChecks s i.t i.cur.pc space false accs with
    | [] => startWord i s act space dst accs (if store then [] else i.lanes)
    | l => .throws l
def bodyAtom (i : Iss) (s : State) : Body :=
  let size := accSize i.w.ty false
  atomBody (.atom (i.w.sub.toNat % 8) i.w.ty) size (loadDst i false) (fun l => (i.rd l i.w.c i.w.ty.wide).toNat % 2 ^ (8 * size)) i s
def Iss.triL (i : Iss) (l : Nat) (o : Opnd) : Triple :=
  match o with
  | .m n => (i.regs l).getM l n.val
  | _ => emptyTriple
def bodyRed (i : Iss) (s : State) : Body :=
  if i.w.sub.toNat % 8 = 6 then atomBody .stat 16 .none (fun l => natOfTriple (i.triL l i.w.c)) i s
  else
    let size := accSize i.w.ty false
    atomBody (.red (i.w.sub.toNat % 8) i.w.ty) size .none (fun l => (i.rd l i.w.c i.w.ty.wide).toNat % 2 ^ (8 * size)) i s

/-- FENCE (R169): SUB is 3 * scope + kind; scopes here are the codes of R167. -/
def bodyFence (i : Iss) (s : State) : Body :=
  let sc := i.w.sub.toNat / 3 + 1
  let k := i.w.sub.toNat % 3
  if i.lanes.isEmpty then .ok s
  else if s.orderHold i.g true then .stall
  else
    let s := if k = 0 then s else s.pushEntry { id := 0, coord := i.t.coord, byw := s.starter i.g (maskOf i.lanes) i.cur.pc, lane := 0, kind := .fence, space := 0, addr := 0, pa := 0, size := 0, data := 0, cmp := 0, op := 0, ty := .i32, reg := 0, rel := some sc }
    .ok (if k = 1 then s else (s.modGroup i.g fun y => { y with fenceAcq := some (max sc (y.fenceAcq.getD 0)) }).endFence i.g)

/-- PREF (R172): dropped wherever it could fault. A line that it asks for takes a request slot, one for all its lanes (R164); as a read it is
locked by destination ranges only (R168). -/
def bodyPref (i : Iss) (s : State) : Body :=
  if !i.lanes.isEmpty && s.orderHold i.g true then .stall
  else
    let free := 2048 - s.slotsUsed i.t.coord
    .ok (i.lanes.foldl (fun (y : List Nat × State) l =>
      let a := addrOf i l 1 i.disp
      let asked := if y.1.contains (a / 128) then y.1 else y.1 ++ [a / 128]
      if !canonical a || y.2.locked i.t.coord i.t 0 a 1 true || free < asked.length then y
      else match y.2.walkTeam i.t a false with
        | .ok x =>
          if !pteRd x.leaf then y
          else (asked, if i.w.sub = 0 && (l1Line (y.2.core i.t.coord) (x.pa / 128)).isNone then y.2.fillL1 i.t.coord (x.pa / 128) else y.2)
        | _ => y) ([], s)).2

/-- PROBE (R173): record slots read as present; an LDACQ under way holds it (R167). -/
def probeState (t : Team) (space a : Nat) : Nat :=
  if space = 1 && 0x7E800 ≤ a then 0
  else
    let b := t.buf space
    if b.orphan.contains (a / 128) then 2 else if b.absent.contains (a / 128) then 1 else 0
def bodyProbe (i : Iss) (s : State) : Body :=
  let sp := i.w.sub.toNat
  let accs := i.lanes.map fun l => (l, addrOf i l 1 i.disp)
  let bad := accs.filterMap fun x => (chkSpace i.t sp x.2 1 true).map fun c => (x.1, c, x.2)
  if !accs.isEmpty && s.orderHold i.g true then .stall
  else if !bad.isEmpty then .throws (throwsOf i.cur.pc bad)
  else
    let r := accs.map fun x => (x.1, probeState i.t sp x.2)
    if r.isEmpty then .ok s
    else match i.w.d with
    | .k _ => .ok (s.land i.g 4 (dstK i.w.d (r.map fun x => (x.1, x.2 = 0))))
    | d => .ok (s.land i.g 4 (r.flatMap fun x => dstV d x.1 false (BitVec.ofNat 64 x.2)))

/-- LDSTRM and STSTRM (R175, R176). DESIGN CHOICE (log 102): a count of 2^32 or more raises E_BOUNDS with the count, before any other check,
and a count of 0 has no element address to check. -/
def bodyStream (out : Bool) (i : Iss) (s : State) : Body :=
  let q := i.w.sub.toNat % 4
  let team := i.w.sub.toNat / 4 % 2 = 1
  let sp := if team then 1 else 0
  let size := i.w.ty.bits / 8
  let base := (i.rdOnce i.w.a).toNat
  let count := (i.rdOnce i.w.b).toNat
  let stride := (i.rdOnce i.w.c).toInt
  let ctr := (i.rdOnce i.w.d).toNat
  let last := ((base : Int) + (count - 1 : Nat) * stride * size) % 2 ^ 64
  let chk (a : Nat) : Option (Nat × Nat) := (chkSpace i.t sp a size (!out)).map fun c => (c, a)
  let bad : Option (Nat × Nat) :=
    if 2 ^ 32 ≤ count then some (eBounds, count)
    else match (if count = 0 then none else chk base), (if count = 0 then none else chk last.toNat) with
      | some x, _ => some x
      | none, some x => some x
      | none, none =>
        if ctr ≠ 0 && !canonical ctr then some (eProt, ctr)
        else if base % size ≠ 0 then some (eAlign, base)
        else if ctr % 8 ≠ 0 then some (eAlign, ctr)
        else none
  let c := s.core i.t.coord
  let qs := if out then c.qo else c.qi
  if i.lanes.isEmpty then .ok s
  else if s.orderHold i.g false then .stall
  else match bad with
    | some (code, v) => .throws (i.lanes.map fun l => ⟨l, code, i.cur.pc, BitVec.ofNat 64 v⟩)
    | none =>
      if 4 ≤ (qs.getD q {}).descs.length then .stall
      else
        let d : StreamDesc := { id := s.nextId, byw := s.starter i.g (maskOf i.lanes) i.cur.pc, out := out, ty := i.w.ty, team := team, base := base, count := count, stride := stride, ctr := ctr, first := (s.path.filter fun e => e.byw.g == i.g).map fun e => e.id }
        let s := s.modCore i.t.coord fun c =>
          if out then { c with qo := modNth c.qo q fun y => { y with descs := y.descs ++ [d] } }
          else { c with qi := modNth c.qi q fun y => { y with descs := y.descs ++ [d] } }
        let s := { s with nextId := s.nextId + 1 }
        .ok (if !(qs.getD q {}).descs.isEmpty then s else s.after 1 (if out then .streamStoreElement i.t.coord q else .streamLoadElement i.t.coord q))

def execLd (w : Full) (s : State) : Host.Outcome State Fault Refusal := execFull .ld .perLane bodyLd w s
def execSt (w : Full) (s : State) : Host.Outcome State Fault Refusal := execFull .st .perLane bodySt w s
def execLdacq (w : Full) (s : State) : Host.Outcome State Fault Refusal := execFull .ldacq .perLane bodyLdacq w s
def execStrel (w : Full) (s : State) : Host.Outcome State Fault Refusal := execFull .strel .perLane bodyStrel w s
def execAtom (w : Full) (s : State) : Host.Outcome State Fault Refusal := execFull .atom .perLane bodyAtom w s
def execRed (w : Full) (s : State) : Host.Outcome State Fault Refusal := execFull .red .perLane bodyRed w s
def execFence (w : Full) (s : State) : Host.Outcome State Fault Refusal := execFull .fence .once bodyFence w s
def execPref (w : Full) (s : State) : Host.Outcome State Fault Refusal := execFull .pref .perLane bodyPref w s
def execProbe (w : Full) (s : State) : Host.Outcome State Fault Refusal := execFull .probe .perLane bodyProbe w s
def execLdstrm (w : Full) (s : State) : Host.Outcome State Fault Refusal := execFull .ldstrm .once (bodyStream false) w s
def execStstrm (w : Full) (s : State) : Host.Outcome State Fault Refusal := execFull .ststrm .once (bodyStream true) w s

end Sys2Proof.Machine
end

