-- ==== Sys2Proof/Machine/Scalar.lean ====
section
/-! DEFINITION. The scalar range (R134 to R138): once for the group, when a lane of Exec has its guard set. -/
namespace Sys2Proof.Machine

/-- A scalar result lands 4 cc after issue; with no lane guarded the word has no effect (R134). -/
def scalarBody (f : Iss → W64) (i : Iss) (s : State) : Body :=
  if i.lanes.isEmpty then .ok s else .ok (s.land i.g 4 (dstV i.w.d 0 false (f i)))
def Iss.a (i : Iss) : W64 := i.rdOnce i.w.a
def Iss.b (i : Iss) : W64 := i.rdOnce i.w.b
def Iss.c (i : Iss) : W64 := i.rdOnce i.w.c
/-- A 64-bit value as the type reads it (R136). -/
def sInt (t : Ty) (x : W64) : Int := if t.signed then x.toInt else x.toNat

def fSadd (i : Iss) : W64 := i.a + i.b
def fSsub (i : Iss) : W64 := i.a - i.b
def fSmul (i : Iss) : W64 := i.a * i.b
def fSmulh (i : Iss) : W64 := BitVec.ofInt 64 (sInt i.w.ty i.a * sInt i.w.ty i.b / 2 ^ 64)
def fSand (i : Iss) : W64 := i.a &&& i.b
def fSor (i : Iss) : W64 := i.a ||| i.b
def fSxor (i : Iss) : W64 := i.a ^^^ i.b
def fSshl (i : Iss) : W64 := i.a <<< (i.b.toNat % 64)
def fSshr (i : Iss) : W64 := if i.w.ty.signed then i.a.sshiftRight (i.b.toNat % 64) else i.a >>> (i.b.toNat % 64)
def fSmin (i : Iss) : W64 := if sInt i.w.ty i.a ≤ sInt i.w.ty i.b then i.a else i.b
def fSmax (i : Iss) : W64 := if sInt i.w.ty i.a ≤ sInt i.w.ty i.b then i.b else i.a
def fSmov (i : Iss) : W64 := i.a
def fSsel (i : Iss) : W64 := if i.c ≠ 0 then i.a else i.b
def fSlea (i : Iss) : W64 := i.a + (i.b <<< i.w.sub.toNat)
def popCount (x : Nat) (w : Nat) : Nat := ((List.range w).filter fun j => x / 2 ^ j % 2 == 1).length
def leadZeros (x : Nat) (w : Nat) : Nat := if x = 0 then w else w - 1 - Nat.log2 x
def fSpopc (i : Iss) : W64 := BitVec.ofNat 64 (popCount i.a.toNat 64)
def fSclz (i : Iss) : W64 := BitVec.ofNat 64 (leadZeros i.a.toNat 64)

def execSadd (w : Full) (s : State) : Host.Outcome State Fault Refusal := execFull .sadd .once (scalarBody fSadd) w s
def execSsub (w : Full) (s : State) : Host.Outcome State Fault Refusal := execFull .ssub .once (scalarBody fSsub) w s
def execSmul (w : Full) (s : State) : Host.Outcome State Fault Refusal := execFull .smul .once (scalarBody fSmul) w s
def execSmulh (w : Full) (s : State) : Host.Outcome State Fault Refusal := execFull .smulh .once (scalarBody fSmulh) w s
def execSand (w : Full) (s : State) : Host.Outcome State Fault Refusal := execFull .sand .once (scalarBody fSand) w s
def execSor (w : Full) (s : State) : Host.Outcome State Fault Refusal := execFull .sor .once (scalarBody fSor) w s
def execSxor (w : Full) (s : State) : Host.Outcome State Fault Refusal := execFull .sxor .once (scalarBody fSxor) w s
def execSshl (w : Full) (s : State) : Host.Outcome State Fault Refusal := execFull .sshl .once (scalarBody fSshl) w s
def execSshr (w : Full) (s : State) : Host.Outcome State Fault Refusal := execFull .sshr .once (scalarBody fSshr) w s
def execSmin (w : Full) (s : State) : Host.Outcome State Fault Refusal := execFull .smin .once (scalarBody fSmin) w s
def execSmax (w : Full) (s : State) : Host.Outcome State Fault Refusal := execFull .smax .once (scalarBody fSmax) w s
def execSmov (w : Full) (s : State) : Host.Outcome State Fault Refusal := execFull .smov .once (scalarBody fSmov) w s
def execSsel (w : Full) (s : State) : Host.Outcome State Fault Refusal := execFull .ssel .once (scalarBody fSsel) w s
def execSlea (w : Full) (s : State) : Host.Outcome State Fault Refusal := execFull .slea .once (scalarBody fSlea) w s
def execSpopc (w : Full) (s : State) : Host.Outcome State Fault Refusal := execFull .spopc .once (scalarBody fSpopc) w s
def execSclz (w : Full) (s : State) : Host.Outcome State Fault Refusal := execFull .sclz .once (scalarBody fSclz) w s

/-- SCMP writes its bit in every lane of the group, live or not (R134). -/
def scmpBody (i : Iss) (s : State) : Body :=
  if i.lanes.isEmpty then .ok s
  else
    let r := intCompare i.w.sub.toNat (sInt i.w.ty i.a) (sInt i.w.ty i.b)
    .ok (s.land i.g 4 (dstK i.w.d ((List.range 64).map fun l => (l, r))))
def execScmp (w : Full) (s : State) : Host.Outcome State Fault Refusal := execFull .scmp .once scmpBody w s

/-- The special registers of R137. -/
def sgetValue (i : Iss) (s : State) (n : Nat) : W64 :=
  let l := s.launch? i.t.launch
  let x : Nat :=
    match n with
    | 0 => i.gr.slot
    | 1 => i.t.pos
    | 2 => i.t.kern.groups + i.t.kern.spawnSlots
    | 3 => i.t.cluster % 65536
    | 4 => i.t.pos
    | 5 => i.t.launch
    | 6 => if i.t.task.isSome then 1 else (l.map fun x => x.body.clusters).getD 0
    | 7 => i.gr.width
    | 8 => i.t.coord
    | 9 => match s.ctx? i.t.ctx with
      | some c => if c.hasRanks then c.rank else 0
      | none => 0
    | 10 => s.ctxClock i.t.ctx
    | 11 => i.gr.mode.toNat
    | 12 => exrecOf i.gr.slot
    | 13 => i.t.args
    | 14 => if i.gr.spawned || i.t.task.isSome then i.gr.join else 0
    | _ => match i.gr.role with
      | 0 => 0
      | 1 => 1
      | _ => 2
  BitVec.ofNat 64 x
def sgetBody (i : Iss) (s : State) : Body :=
  if i.lanes.isEmpty then .ok s
  else .ok (s.land i.g 4 (dstV i.w.d 0 false (sgetValue i s ((i.w.a.constVal i.w.lit).getD 0).toNat)))
def execSget (w : Full) (s : State) : Host.Outcome State Fault Refusal := execFull .sget .once sgetBody w s

/-- PAUSE n: the group's priority falls below every class for n cc (R31). DESIGN CHOICE (log 100): while an earlier one runs, the later one's
end stands, be it sooner, and n = 0 leaves it. -/
def State.pause (s : State) (i : Iss) (n : Nat) : State :=
  let n := min n 65535
  if n = 0 then s
  else (s.modGroup i.g fun y => { y with pausedTo := s.ctxClock i.t.ctx + 1 + n }).sched (s.clock + 1 + n) (.pauseEnd i.g)
/-- MODE := m, reserved bits ignored (R111, R138, R221). -/
def State.setMode (s : State) (g : GRef) (m : W64) : State := s.modGroup g fun y => { y with mode := m &&& modeBits }
def ssetBody (i : Iss) (s : State) : Body :=
  if i.lanes.isEmpty then .ok s
  else if i.w.sub = 0 then .ok (s.setMode i.g i.a)
  else .ok (s.pause i i.a.toNat)
def execSset (w : Full) (s : State) : Host.Outcome State Fault Refusal := execFull .sset .once ssetBody w s

end Sys2Proof.Machine
end

