-- ==== Sys2Proof/Machine/Control.lean ====
section
/-! DEFINITION. The control range (R199 to R222): branches, exits, pauses, barriers, waits, traps, try regions, spawn,
MODE and breakpoints. -/
namespace Sys2Proof.Machine

/-- The size of a team's code image (R201). -/
def State.codeSize (s : State) (t : Team) : Nat :=
  match s.launch? t.launch with
  | none => 0
  | some l =>
    match s.image? l.body.image with
    | none => 0
    | some i => i.body.codeSize
def illegalGuard (i : Iss) : Body := .throws (i.lanes.map fun l => ⟨l, eIllegal, i.cur.pc, rawValue i.cur.raw⟩)
/-- One code and value by every guarded lane. -/
def guardThrow (i : Iss) (code value : Nat) : Body := .throws (i.lanes.map fun l => ⟨l, code, i.cur.pc, BitVec.ofNat 64 value⟩)
/-- A word that meets an uncorrectable error in memory as it issues: E_ECC with the address, and a notice of the page, or of the team's
memory where there is none (R323, R331). -/
def eccThrow (i : Iss) (a : Nat) (pas : List Nat) : Body :=
  .hold fun s => (if pas.isEmpty then s.localNotice i.t.ctx else s.eccNotice pas).issueRaises i.cur i.gr i.t.coord (classX i.op) i.w.yld i.w.gap.toNat
    (i.lanes.map fun l => ⟨l, eEcc, i.cur.pc, BitVec.ofNat 64 a⟩)
def State.setPcs (s : State) (g : GRef) (l : List (Nat × Nat)) : State :=
  s.modGroup g fun y => l.foldl (fun y x => y.setPc x.1 (BitVec.ofNat 32 x.2)) y
/-- (PC + 4 × A) mod 2^32 (R201). -/
def relTarget (i : Iss) (o : Opnd) : Nat := (BitVec.ofNat 32 i.cur.pc + 4 * (i.rdOnce o).setWidth 32).toNat
/-- A target that is not an instruction address of the image (R202). -/
def badTarget (size x : Nat) : Option Nat := if x % 4 ≠ 0 then some eAlign else if size ≤ x then some eBounds else none

/-! Branches, calls and returns. -/

def bodyBra (i : Iss) (s : State) : Body :=
  let x := relTarget i i.w.a
  if i.lanes.isEmpty then .ok s
  else if s.codeSize i.t ≤ x then guardThrow i eBounds x
  else .ok (s.setPcs i.g (i.lanes.map fun l => (l, x)))
def bodyJmpi (i : Iss) (s : State) : Body :=
  let tg := i.lanes.map fun l => (l, (i.rd32 l i.w.a).toNat)
  let bad := tg.filterMap fun x => (badTarget (s.codeSize i.t) x.2).map fun c => (x.1, c, x.2)
  if bad.isEmpty then .ok (s.setPcs i.g tg) else .throws (throwsOf i.cur.pc bad)
/-- CALL (R203): the return offset is stored, then the lanes go to the target. DESIGN CHOICE (log 117): the checks of R161 come before the
check of the target. -/
def bodyCall (i : Iss) (s : State) : Body :=
  let tg := i.lanes.map fun l => (l, if i.w.sub = 0 then relTarget i i.w.d else (i.rd32 l i.w.d).toNat)
  let bad := tg.filterMap fun x => (badTarget (s.codeSize i.t) x.2).map fun c => (x.1, c, x.2)
  let accs := i.lanes.map fun l => ({ lane := l, addr := addrOf i l 4 i.disp, size := 4, data := (i.cur.pc + i.cur.len) % 2 ^ 32 } : Acc)
  if accs.isEmpty then .ok s
  else if s.orderHold i.g true || s.noSlots i.t.coord (accSlots accs) then .stall
  else match stepChecks s i.t i.cur.pc 1 false accs with
    | [] =>
      if !bad.isEmpty then .throws (throwsOf i.cur.pc bad)
      else startWord i (s.setPcs i.g tg) (.st none) 1 .none accs []
    | l => .throws l
/-- RET (R203): the lanes stay at the word until every target has arrived; a target that fails its check then leaves every PC
unchanged, those of Exec's other lanes too. -/
def bodyRet (i : Iss) (s : State) : Body :=
  let accs := i.lanes.map fun l => ({ lane := l, addr := addrOf i l 4 i.disp, size := 4 } : Acc)
  if accs.isEmpty then .ok s
  else if s.orderHold i.g false || s.noSlots i.t.coord (accSlots accs) then .stall
  else match stepChecks s i.t i.cur.pc 1 true accs with
    | [] => startWord i (s.setPcs i.g (i.lanes.map fun l => (l, i.cur.pc))) (.ld none) 1 (.pc i.cur.exec i.cur.len) accs []
    | l => .throws l

/-! Barriers. -/

/-- Parent groups that are not Exited (R206). -/
def Team.parents (t : Team) : Nat := (t.groups.filter fun g => !g.spawned && g.phase != .exited).length
/-- Arrivals reach the required number (R206, R207). -/
def barFull (t : Team) (b : BarSt) : Bool :=
  match b.count with
  | none => false
  | some c => !b.arrived.isEmpty && (if c = 0 then t.parents else c) ≤ b.arrived.length
/-- A complete instance closes, and the id's next instance opens (R206), with its count where arrivals since withdrawn fixed one (R208). -/
def closeBar (t : Team) (b : BarSt) : BarSt :=
  if barFull t b then
    { inst := b.inst + 1, count := spGet none b.counts (b.inst + 1), closed := b.closed ++ [(b.inst, b.arrived)], counts := spPut none b.counts b.inst b.count }
  else b
/-- A closed instance is over. -/
def BarSt.over (b : BarSt) (inst : Nat) : BarSt :=
  { b with closed := b.closed.filter fun z => z.1 ≠ inst, counts := spPut none b.counts inst none }
/-- The release of each arrival is performed (R190). -/
def barReleased (s : State) (t : Team) (scope : Nat) (l : List (Nat × Nat)) : Bool :=
  l.all fun a => s.released ⟨t.id, a.1⟩ t.coord scope a.2
/-- Every group that waits at the instance wakes with its acquire (R206, R207). -/
def State.wakeBar (s : State) (t : Team) (w : Wake) (scope : Nat) : State :=
  (t.groups.filter fun g => g.wake == some w).foldl (fun s g => (s.wakeGroup ⟨t.id, g.slot⟩).acquire ⟨t.id, g.slot⟩ scope) s
/-- A full instance of BAR closes, and every closed one whose releases are performed lets its groups go. -/
def State.evalBarId (s : State) (tid id : Nat) : State :=
  match s.team? tid with
  | none => s
  | some t =>
    let b := closeBar t (spGet {} t.bars id)
    let done := b.closed.filter fun x => barReleased s t 2 x.2
    let s := s.modTeam tid fun x => { x with bars := spPut {} x.bars id (done.foldl (fun b y => b.over y.1) b) }
    done.foldl (fun s x => s.wakeBar t (.bar id x.1) 2) s
/-- A team whose count is reached arrives at the cluster's instance (R207). -/
def State.arriveCluster (s : State) (tid id : Nat) : State :=
  match s.team? tid with
  | none => s
  | some t =>
    let b := closeBar t (spGet {} t.barcs id)
    let s := s.modTeam tid fun x => { x with barcs := spPut {} x.barcs id b }
    s.modCluster t.launch t.cluster fun c =>
      let x := spGet (0, []) c.barc id
      let come := (b.closed.filter fun y => barReleased s t 3 y.2 && !x.2.contains (t.pos, y.1)).map fun y => (t.pos, y.1)
      { c with barc := spPut (0, []) c.barc id (x.1, x.2 ++ come) }
/-- The cluster's instance completes once every team has arrived or ended (R207). -/
def State.evalClusterId (s : State) (l c id : Nat) : State :=
  match s.cluster? l c with
  | none => s
  | some k =>
    let x := spGet (0, []) k.barc id
    if !x.2.isEmpty && (List.range (k.w * k.h)).all fun p => x.2.contains (p, x.1) || k.ended.contains p then
      let s := s.modCluster l c fun k => { k with barc := spPut (0, []) k.barc id (x.1 + 1, x.2.filter fun p => p.2 ≠ x.1) }
      (s.teams.filter fun t => t.launch == l && t.cluster == c && x.2.contains (t.pos, x.1)).foldl (fun s t =>
        let b := spGet {} t.barcs id
        (s.wakeBar t (.barc id x.1) 3).modTeam t.id fun y =>
          { y with barcs := spPut {} y.barcs id (b.over x.1) }) s
    else s
/-- Barriers whose arrivals are complete let their groups go. -/
def State.evalBars (s : State) : State :=
  let s := s.teams.foldl (fun s t => t.bars.foldl (fun s b => s.evalBarId t.id b.1) s) s
  let s := s.teams.foldl (fun s t => t.barcs.foldl (fun s b => s.arriveCluster t.id b.1) s) s
  s.clusters.foldl (fun s c => c.barc.foldl (fun s b =>
    (List.range b.2.2.length).foldl (fun s _ => s.evalClusterId c.launch c.id b.1) s) s) s
def barBody (cl : Bool) (i : Iss) (s : State) : Body :=
  let id := (i.rdOnce i.w.a).toNat
  let cnt := (i.rdOnce i.w.b).toNat
  let st := spGet {} (if cl then i.t.barcs else i.t.bars) id
  let clash := match st.count with
    | some c => c != cnt
    | none => false
  if i.lanes.isEmpty then .ok s
  else if 32 < cnt || (if cl then 7 else 15) < id || (cnt = 0 && i.gr.spawned) || clash then illegalGuard i
  else
    let st' : BarSt := { st with count := some cnt, arrived := st.arrived ++ [(i.gr.slot, s.nextId)] }
    let s := s.modTeam i.t.id fun t => if cl then { t with barcs := spPut {} t.barcs id st' } else { t with bars := spPut {} t.bars id st' }
    .ok (s.park i.g (if cl then .barc id st.inst else .bar id st.inst) (s.starter i.g (maskOf i.lanes) i.cur.pc)).evalBars

/-! Exits and pauses. -/

/-- Variable-latency results that lanes of a group still await are discarded (R204); a load and an atomic's reply find their lane gone, and can
still raise an exception (R163, R352). -/
def State.discardResults (s : State) (g : GRef) (uid : Nat) (m : W64) : State :=
  let mine (b : Starter) : Bool := b.g == g && b.uid == uid
  let s1 : State :=
    { s with
      steals := s.steals.map fun r => if mine r.byw && m.getLsbD r.lane then { r with dead := true } else r }
  match s.team? g.team with
  | some t => s1.modCore t.coord fun c =>
      { c with mq := c.mq.map fun o => if mine o.byw && o.opt = 0 then { o with dead := o.dead ||| m } else o }
  | none => s1
/-- Lanes of a group end: they leave the try stack, and their awaited results are discarded (R204). DESIGN CHOICE (log 109): an entry that
loses its last member so is popped, as ENDTRY pops one (R50). -/
def State.endLanes (s : State) (g : GRef) (m : W64) : State :=
  match s.group? g with
  | none => s
  | some gr =>
    let s := s.discardResults g gr.uid m
    let s := s.modGroup g fun y =>
      let live := y.live &&& ~~~m
      { y with
        live := live
        tries := (y.tries.map fun e => { e with members := e.members &&& ~~~m }).filter fun e => e.members ≠ 0
        phase := if live = 0 then .exited else y.phase }
    match s.group? g with
    | some y =>
      if y.live = 0 then
        -- a loader that has exited takes no part in copies still gathering slices (R249)
        let gath := s.ops.filter fun o => o.team == g.team && o.gathering
        (gath.foldl (fun s o => s.sched (s.clock + 1) (.engineOpStart o.id)) s.evalBars).sched (s.clock + 1) (.teamEnd g.team)
      else s
    | none => s
/-- The join addition of k lanes, a release at team scope (R48, R354). -/
def State.joinAdd (s : State) (coord : Nat) (b : Starter) (join k : Nat) : State :=
  s.pushEntry { id := 0, coord := coord, byw := b, lane := 0, kind := .ctradd, space := 0, addr := join, pa := 0, size := 0, data := k, cmp := 0,
                op := 1, ty := .n64, reg := 256, rel := some 2 }
def bodyExit (i : Iss) (s : State) : Body :=
  if i.lanes.isEmpty then .ok s
  else
    let m := maskOf i.lanes
    -- a join addition is a request of its own (R164, R220)
    if i.gr.spawned && s.noSlots i.t.coord [(0, i.gr.join)] then .stall
    else
      let s := if i.gr.spawned then s.joinAdd i.t.coord (s.starter i.g m i.cur.pc) i.gr.join i.lanes.length else s
      .ok (s.endLanes i.g m)
def bodyNop (_ : Iss) (s : State) : Body := .ok s
/-- PAUSE and PAUSE.DEFER (R31, R205). -/
def pauseCount (i : Iss) (l : Nat) : Nat :=
  if i.w.a.isS then (i.rd l i.w.a true).toNat else (i.rd32 l i.w.a).toNat
def bodyPause (i : Iss) (s : State) : Body :=
  if i.lanes.isEmpty then .ok s
  else if i.w.sub = 0 then .ok (s.pause i (pauseCount i 32))
  else .ok (s.modGroup i.g fun y => i.lanes.foldl (fun y l => if pauseCount i l = 0 then y else y.setDefer l (min (pauseCount i l) 65535)) y)

/-! WAITGE and TRAP. -/

def bodyWaitge (i : Iss) (s : State) : Body :=
  let sp := i.w.sub.toNat / 8
  let a := (i.rdOnce i.w.a).toNat
  let dl := if i.w.c.unused i.w.wc then none else some (s.ctxClock i.t.ctx + (i.rdOnce i.w.c).toNat)
  if i.lanes.isEmpty then .ok s
  else if s.orderHold i.g false then .stall
  else match chkSpace i.t sp a 8 true with
    | some c => guardThrow i c a
    | none =>
      if a % 8 ≠ 0 then guardThrow i eAlign a
      else startWord i s (.waitge (i.rdOnce i.w.b).toNat (i.w.sub.toNat % 8) dl) sp .none [{ lane := 0, addr := a, size := 8 }] []

/-- A TRAP's block of a lane (R210). -/
def trapBlock (i : Iss) (s : State) (l : Nat) : List Byte :=
  let args := match i.w.b with
    | .v n => (List.range i.w.sub.toNat).map fun j => ((i.regs l).getV l (n.val + j)).val.toNat
    | _ => []
  bytesOfNat 2 (i.rdOnce i.w.a).toNat ++ bytesOfNat 1 l ++ bytesOfNat 1 i.gr.slot ++ bytesOfNat 2 i.t.cluster ++ bytesOfNat 1 i.t.pos ++
  bytesOfNat 1 0 ++ bytesOfNat 8 (s.codeBase i.t + i.cur.pc) ++ ((List.range 4).flatMap fun j => bytesOfNat 4 (args.getD j 0))
def bodyTrap (i : Iss) (s : State) : Body :=
  let d := loadDst i false
  if i.lanes.isEmpty then .ok s
  else if 0xFFFF < (i.rdOnce i.w.a).toNat then illegalGuard i
  else
    let b := s.starter i.g (maskOf i.lanes) i.cur.pc
    let s := s.modGroup i.g fun y =>
      { y with
        regs := i.lanes.foldl (fun r l => r.markDst RegSt.emptied l d) y.regs
        trapBlocks := i.lanes.map (trapBlock i s)
        trapLanes := i.lanes
        trapDst := match i.w.d with
          | .v n => n.val
          | _ => 0
        trapWide := i.w.ty.wide
        trapStatus := [] }
    .ok ((s.park i.g .trapSlot b).sched s.clock (.trapBlocksWritten i.g))

/-! Try regions. -/

/-- A number for each region instance, for merging a rethrown instance once (R218). -/
def instKey : RegionId → Nat
  | .group _ _ u => 2 * u
  | .team t i => 2 * (t * 2 ^ 32 + i) + 1
  | .grid _ => 0
/-- A RET's targets no longer concern lanes that are steered: a failed check leaves them where they are (R53, R203). -/
def MDst.without (d : MDst) (m : W64) : MDst :=
  match d with
  | .pc exec len => .pc (exec &&& ~~~m) len
  | d => d
/-- Lanes go to a catch: PC, deferral, the stack beneath, the record in the slot (R51, R53). A word of the group that is still held, or a RET
whose targets are on their way, moves the other lanes only. -/
def State.steerTo (s : State) (g : GRef) (lanes : W64) (pc : Nat) (below : List TryEntry) (r : Rec) (inst : Nat) : State :=
  let s := { s with loads := s.loads.map fun (x : LoadReq) => if x.byw.g = g then { x with dst := x.dst.without lanes } else x }
  let s := s.modGroup g fun y =>
    let z := (lanesOf lanes).foldl (fun (y : Group) l => (y.setPc l (BitVec.ofNat 32 pc)).setDefer l 0) y
    { z with held := z.held.map fun w => { w with exec := w.exec &&& ~~~lanes, dst := w.dst.without lanes }, tries := below, caught := some (below.map fun e => e.uid, inst), catchAt := s.clock, catchDue := lanes }
  s.modTeam g.team fun t => { t with recs := spPut {} t.recs g.slot r }
/-- TRY (R50, R51, R212). DESIGN CHOICE (log 110): a full stack raises E_TRYDEPTH before TRY.t looks whether its instance was thrown. -/
def bodyTry (i : Iss) (s : State) : Body :=
  let x := relTarget i i.w.a
  if i.lanes.isEmpty then .ok s
  else if s.codeSize i.t ≤ x then guardThrow i eBounds x
  else if 8 ≤ i.gr.tries.length then guardThrow i eTrydepth 9
  else
    let m := maskOf i.lanes
    let push (s : State) (team : Bool) (inst : Nat) : State :=
      ({ s with nextUid := s.nextUid + 1 }).modGroup i.g fun y => { y with tries := ⟨s.nextUid, team, inst, x, m⟩ :: y.tries }
    if i.w.sub = 0 then .ok (push s false 0)
    else
      let n := i.gr.tryTs
      let count (s : State) : State := s.modGroup i.g fun y => { y with tryTs := n + 1 }
      match i.t.regions.find? fun r => r.1 == n with
      | none => .ok (push (count (s.modTeam i.t.id fun t => { t with regions := t.regions ++ [(n, x, none)] })) true n)
      | some (_, label, thrown) =>
        if label ≠ x then illegalGuard i
        else match thrown with
          | some r => .ok ((count s).steerTo i.g m x i.gr.tries r (instKey (.team i.t.id n)))
          | none => .ok (push (count s) true n)
/-- ENDTRY (R50, R51, R213). -/
def bodyEndtry (i : Iss) (s : State) : Body :=
  if i.lanes.isEmpty then .ok s
  else if i.w.sub = 1 then
    match i.gr.tries with
    | e :: rest => if e.team then .ok (s.modGroup i.g fun y => { y with tries := rest }) else illegalGuard i
    | [] => illegalGuard i
  else
    let tops := i.lanes.map fun l => (l, i.gr.tries.find? fun e => e.members.getLsbD l)
    let bad := tops.filter fun x => match x.2 with
      | some e => e.team
      | none => true
    if !bad.isEmpty then .throws (bad.map fun x => ⟨x.1, eIllegal, i.cur.pc, rawValue i.cur.raw⟩)
    else
      let out := tops.filterMap fun x => x.2.map fun e => (e.uid, x.1)
      .ok (s.modGroup i.g fun y =>
        { y with tries := (y.tries.map fun e =>
            { e with members := e.members &&& ~~~ maskOf ((out.filter fun o => o.1 == e.uid).map fun o => o.2) }).filter fun e => e.members ≠ 0 })
/-- THROW (R214): its lanes stay at the word, and Exec's other lanes advance past it (R200). -/
def bodyThrow (i : Iss) (s : State) : Body :=
  let x := i.lanes.map fun l =>
    (l, (i.rd32 l i.w.a).toNat, if i.w.ty.wide then i.rd l i.w.b true else (i.rd32 l i.w.b).signExtend 64)
  let bad := x.filter fun y => !(0x100 ≤ y.2.1 && y.2.1 ≤ 0xFFFF)
  if x.isEmpty then .ok s
  else if !bad.isEmpty then .throws (bad.map fun y => ⟨y.1, eIllegal, i.cur.pc, rawValue i.cur.raw⟩)
  else .ok ((s.setPcs i.g (i.lanes.map fun l => (l, i.cur.pc))).raise i.g (x.map fun y => ⟨y.1, y.2.1, i.cur.pc, y.2.2⟩))
/-- RETHROW (R215). -/
def bodyRethrow (i : Iss) (s : State) : Body :=
  if i.lanes.isEmpty then .ok s
  else match i.gr.caught with
    | none => illegalGuard i
    | some (below, inst) =>
      let r := match i.gr.tries.find? fun e => below.contains e.uid with
        | some e => if e.team then RegionId.team i.t.id e.inst else RegionId.group i.t.id i.gr.slot e.uid
        | none => RegionId.grid i.t.launch
      let x := { spGet {} i.t.recs i.gr.slot with cc := s.clock }
      .ok (((s.modGroup i.g fun y => { y with caught := none }).noteTask i.t r).throwInto r x (some inst))

/-! SPAWN, MODE, breakpoints. -/

/-- SPAWN (R42, R220). -/
def bodySpawn (i : Iss) (s : State) : Body :=
  let n := i.w.sub.toNat
  let ent := i.lanes.map fun l => (l, (i.rd32 l i.w.a).toNat)
  let join := (i.rdOnce i.w.c).toNat
  let badE := ent.filter fun x => n = 0 || 4 < n || x.2 % 4 ≠ 0 || s.codeSize i.t ≤ x.2
  if ent.isEmpty then .ok s
  else if !badE.isEmpty then .throws (badE.map fun x => ⟨x.1, eSpawn, i.cur.pc, BitVec.ofNat 64 x.2⟩)
  else if join % 8 ≠ 0 then guardThrow i eAlign join
  else if !canonical join then guardThrow i eProt join
  else
    let words (l : Nat) : List W32 := match i.w.b with
      | .v b => (List.range n).map fun j => ((i.regs l).getV l (b.val + j)).val
      | _ => []
    let accs := ent.map fun x => ({ lane := x.1, addr := join, size := 8, data := x.2, cmp := n, words := words x.1 } : Acc)
    startWord i s (.spawn (match i.w.d with
      | .k k => k.val
      | _ => 0)) 0 .none accs []
/-- SETMODE and GETMODE (R221). -/
def bodySetmode (i : Iss) (s : State) : Body :=
  let m := i.a
  if i.lanes.isEmpty then .ok s
  else
    let old := i.gr.mode
    .ok (s.setMode i.g (match i.w.sub.toNat with
      | 0 => m
      | 1 => old ||| m
      | 2 => old &&& ~~~m
      | _ => (old &&& ~~~3) ||| (m &&& 3)))
def bodyGetmode (i : Iss) (s : State) : Body :=
  if i.w.d.isS then (if i.lanes.isEmpty then .ok s else .ok (s.land i.g 4 (dstV i.w.d 0 false i.gr.mode)))
  else .ok (s.land i.g 4 (i.half.flatMap fun l => dstV i.w.d l false i.gr.mode))
/-- BKPT (R222): a NOP without a debug session. -/
def bodyBkpt (i : Iss) (s : State) : Body :=
  let on := match s.ctx? i.t.ctx with
    | some c => decide (c.debug ≠ none)
    | none => false
  if i.lanes.isEmpty then .ok s
  else if 0xFFFF < (i.rdOnce i.w.a).toNat then illegalGuard i
  else if !on then .ok s
  else .ok (s.haltGroup i.g 2 (i.rdOnce i.w.a).toNat)

def execBra (w : Full) (s : State) : Host.Outcome State Fault Refusal := execFull .bra .perLane bodyBra w s
def execJmpi (w : Full) (s : State) : Host.Outcome State Fault Refusal := execFull .jmpi .perLane bodyJmpi w s
def execCall (w : Full) (s : State) : Host.Outcome State Fault Refusal := execFull .call .perLane bodyCall w s
def execRet (w : Full) (s : State) : Host.Outcome State Fault Refusal := execFull .ret .perLane bodyRet w s
def execExit (w : Full) (s : State) : Host.Outcome State Fault Refusal := execFull .exit .perLane bodyExit w s
def execNop (w : Full) (s : State) : Host.Outcome State Fault Refusal := execFull .nop .lanewise bodyNop w s
def execPause (w : Full) (s : State) : Host.Outcome State Fault Refusal :=
  execFull .pause (if w.sub = 0 then .once else .perLane) bodyPause w s
def execBar (w : Full) (s : State) : Host.Outcome State Fault Refusal := execFull .bar .once (barBody false) w s
def execBarc (w : Full) (s : State) : Host.Outcome State Fault Refusal := execFull .barc .once (barBody true) w s
def execWaitge (w : Full) (s : State) : Host.Outcome State Fault Refusal := execFull .waitge .once bodyWaitge w s
def execTrap (w : Full) (s : State) : Host.Outcome State Fault Refusal := execFull .trap .perLane bodyTrap w s
def execTryOpen (w : Full) (s : State) : Host.Outcome State Fault Refusal := execFull .tryOpen .perLane bodyTry w s
def execTryClose (w : Full) (s : State) : Host.Outcome State Fault Refusal := execFull .tryClose .perLane bodyEndtry w s
def execThrowI (w : Full) (s : State) : Host.Outcome State Fault Refusal := execFull .throwI .perLane bodyThrow w s
def execRethrow (w : Full) (s : State) : Host.Outcome State Fault Refusal := execFull .rethrow .once bodyRethrow w s
def execSpawn (w : Full) (s : State) : Host.Outcome State Fault Refusal := execFull .spawn .perLane bodySpawn w s
def execSetmode (w : Full) (s : State) : Host.Outcome State Fault Refusal := execFull .setmode .once bodySetmode w s
def execGetmode (w : Full) (s : State) : Host.Outcome State Fault Refusal :=
  execFull .getmode (if w.d.isS then .once else .lanewise) bodyGetmode w s
def execBkpt (w : Full) (s : State) : Host.Outcome State Fault Refusal := execFull .bkpt .once bodyBkpt w s

def execNopS32 (s : State) : Host.Outcome State Fault Refusal := execFull .nop .lanewise bodyNop shortNone s
def execExitS32 (s : State) : Host.Outcome State Fault Refusal := execFull .exit .perLane bodyExit shortNone s
def execBraS32 (off : BitVec 24) (s : State) : Host.Outcome State Fault Refusal :=
  execFull .bra .perLane bodyBra { shortNone with a := .lit, wa := true, lit := some (off.signExtend 32) } s
def execPauseS32 (n : BitVec 8) (s : State) : Host.Outcome State Fault Refusal :=
  execFull .pause .once bodyPause { shortNone with a := .lit, wa := true, lit := some (n.zeroExtend 32) } s

end Sys2Proof.Machine
end

