-- ==== Sys2Proof/Machine/Engine.lean ====
section
/-! DEFINITION. What the copy engines, rings and targets share: stages (R266), chunks of every engine operation (R251, R254,
R265, R272), translation for an engine (R239), completion targets (R248), and how an operation ends or is cancelled (R54). -/
namespace Sys2Proof.Machine

def engineOf (coord : Nat) : Nat := Config.coordDie coord * 16 + (Config.coordRow coord * 8 + Config.coordCol coord) % 16
def State.engine (s : State) (e : Nat) : Engine := (s.engines.find? fun x => x.id == e).getD { id := e }
def State.modEngine (s : State) (e : Nat) (f : Engine → Engine) : State :=
  { s with engines := f (s.engine e) :: s.engines.filter fun x => x.id != e }
/-- The engine's loop of R272 goes on at a cc, in a CHUNK_START; at most one is due in a cc. -/
def State.turnEngine (s : State) (e at_ : Nat) : State :=
  if s.agenda.any fun a => a.1 == at_ && a.2 == .chunkStart e then s else s.sched at_ (.chunkStart e)
/-- The engine's loop of R272 looks again in this cc. -/
def State.armEngine (s : State) (e : Nat) : State := s.turnEngine e s.clock

/-! Stages (R266). -/

def Team.hasStage (t : Team) (ring stage : Nat) : Bool := ring < 8 && stage < 16 && stage < t.kern.stages.getD ring 0
/-- A group's RGET is met: it wakes, acquires, and on a poisoned full stage raises E_COPYFAIL (R267). -/
def State.evalRings (s : State) (tid : Nat) : State :=
  match s.team? tid with
  | none => s
  | some t =>
    t.groups.foldl (fun s g =>
      match g.wake with
      | some (.ring r st ph empty sc) =>
        let x := spGet {} t.stages (16 * r + st)
        let met := if empty then !x.full && x.count = 0 && (x.phase.toNat == ph) else x.full && (x.phase.toNat == ph)
        if met then
          let s := (s.wakeGroup ⟨tid, g.slot⟩).acquire ⟨tid, g.slot⟩ sc
          if !empty && x.poison then s.raiseStarter g.wakeBy eCopyfail (BitVec.ofNat 64 (0x100 + 16 * r + st)) else s
        else s
      | _ => s) s
def Stage.add (x : Stage) (b : Nat) : Stage :=
  let c := min (x.count + b) (2 ^ 32 - 1)
  { x with count := c, full := x.full || x.target ≤ c }
def State.stageAdd (s : State) (tid n b : Nat) : State :=
  (s.modTeam tid fun t => { t with stages := spPut {} t.stages n ((spGet {} t.stages n).add b) }).evalRings tid
def State.stagePoison (s : State) (tid n : Nat) : State :=
  (s.modTeam tid fun t => { t with stages := spPut {} t.stages n { spGet {} t.stages n with poison := true, full := true } }).evalRings tid

/-! The shape of a tensor (R253, R254). -/

def prodOf (l : List Nat) : Nat := l.foldl (fun a b => a * b) 1
def Shape.op (r : Shape) : Nat := r.ops % 8
def Shape.space (r : Shape) : Nat := r.ops / 16 % 4
def Shape.type (r : Shape) : Ty := Ty.all.getD (r.ty % 16) .i32
def Shape.z (r : Shape) : Nat := if r.op = 4 then 16 else r.type.bits / 8
def Shape.counts (r : Shape) : List Nat := (List.range 4).map fun k => (r.dims.getD k 1 + r.box.getD k 1 - 1) / r.box.getD k 1
def Shape.tiles (r : Shape) : Nat := prodOf r.counts
/-- A tile's index along each dimension. -/
def Shape.tileAt (r : Shape) (t : Nat) : List Nat := (List.range 4).map fun k => t / prodOf (r.counts.take k) % r.counts.getD k 1
/-- A tile's extents, clipped at a high edge. -/
def Shape.ext (r : Shape) (t : Nat) : List Nat :=
  (List.range 4).map fun k => min (r.box.getD k 1) (r.dims.getD k 1 - (r.tileAt t).getD k 0 * r.box.getD k 1)
def Shape.elems (r : Shape) (t : Nat) : Nat := prodOf (r.ext t)
/-- Element e of a tile in packed order: its place in the tile. -/
def Shape.place (r : Shape) (t e : Nat) : List Nat := (List.range 4).map fun k => e / prodOf ((r.ext t).take k) % (r.ext t).getD k 1
/-- The address of the same element over a base with the record's strides. -/
def Shape.addr (r : Shape) (base t e : Nat) : Nat :=
  let st := 1 :: r.strides
  (base + r.z * ((List.range 4).map fun k =>
    ((r.tileAt t).getD k 0 * r.box.getD k 1 + (r.place t e).getD k 0) * st.getD k 0).sum) % 2 ^ 64
/-- An element's place at the destination: strided, or packed by whole boxes. -/
def Shape.dstAddr (r : Shape) (t e : Nat) : Nat :=
  if r.space = 0 then r.addr r.dst t e
  else r.dst + r.z * (t * prodOf r.box + ((List.range 4).map fun k => (r.place t e).getD k 0 * prodOf (r.box.take k)).sum)
/-- Chunk numbers here are (tile or slice) * 2^32 + index in it. -/
def Shape.chunks (r : Shape) : List Nat :=
  (List.range r.tiles).flatMap fun t => (List.range ((r.elems t * r.z + 2047) / 2048)).map fun j => t * 2 ^ 32 + j
def Shape.chunkElems (r : Shape) (c : Nat) : List Nat :=
  let n := 2048 / r.z
  let e := r.elems (c / 2 ^ 32)
  (List.range (min n (e - c % 2 ^ 32 * n))).map fun i => c % 2 ^ 32 * n + i

/-! Chunks: what they read and write, as (space, address, bytes). -/

def sortSlices (l : List Slice) : List Slice := sortBy (fun (x : Slice) => x.slot) l
/-- The space codes of a CPY word (R247) as those of R275: a W buffer is 4. -/
def cpySpace (x : Nat) : Nat := if x = 3 then 4 else x
def Slice.dstSpace (x : Slice) : Nat := cpySpace (x.sub % 4)
def Slice.srcSpace (x : Slice) : Nat := x.sub / 4 % 2
def Slice.bytes (x : Slice) : Nat := x.len % 2 ^ 32
def Slice.mask (x : Slice) : Nat := if x.sub % 4 = 1 then x.len / 2 ^ 32 % 2 ^ 12 else 0
def State.spawnBase (s : State) (t : Team) : Nat × Nat :=
  match s.launch? t.launch with
  | some l => (l.body.srBase + 32 * l.body.srCap * (t.cluster * t.kern.cw * t.kern.ch + t.pos), l.body.srCap)
  | none => (0, 1)
def ringPieces (base cap first n : Nat) : List (Nat × Nat × Nat) := (List.range n).map fun i => (0, base + 32 * ((first + i) % cap), 32)
/-- The one range that covers ring records: the whole ring when they wrap (R276). -/
def ringLock (o : EOp) (dest : Bool) (base cap first n : Nat) : List Lock :=
  if first % cap + n ≤ cap then mkLock o.id o.coord 0 dest o.ctx o.team (base + 32 * (first % cap)) (32 * n)
  else mkLock o.id o.coord 0 dest o.ctx o.team base (32 * cap)
def EOp.chunks (o : EOp) : List Nat :=
  match o.kind with
  | .cpy => ((sortSlices o.slices).mapIdx fun i x => (List.range ((x.bytes + 2047) / 2048)).map fun j => i * 2 ^ 32 + j).flatten
  | .cpyt r _ => r.chunks
  | .fill _ _ => List.range (2 * o.pages.length)
  | _ => [0]
/-- This rank in a context's rank map (R137). -/
def Ctx.me (c : Ctx) : Nat := if c.hasRanks then c.rank else 0
def State.myRank (s : State) (ctx : Nat) : Nat :=
  match s.ctx? ctx with
  | some c => c.me
  | none => 0
/-- Other ranks than this one have a part in a transfer: they receive it, or are members of its reduction. -/
def State.toPeers (s : State) (ctx : Nat) (r : Shape) : Bool :=
  let me := s.myRank ctx
  (List.range 16).any fun j => r.rbase + j ≠ me && (r.repl / 2 ^ j % 2 = 1 || (r.op ≠ 0 && r.memb / 2 ^ j % 2 = 1))
/-- The home switch that firmware named for a collective group (R285). -/
def State.homeOf (s : State) (cgrp : Nat) : Nat := ((s.switches.find? fun w => w.homes.contains cgrp).map fun w => w.id).getD 2
/-- This rank is a destination of a transfer (R255). -/
def State.isDest (s : State) (ctx : Nat) (r : Shape) : Bool :=
  (r.op = 0 && r.repl = 0) || (r.rbase ≤ s.myRank ctx && s.myRank ctx < r.rbase + 16 && r.repl / 2 ^ (s.myRank ctx - r.rbase) % 2 = 1)
def State.chunkReads (s : State) (o : EOp) (c : Nat) : List (Nat × Nat × Nat) :=
  match o.kind with
  | .cpy =>
    match (sortSlices o.slices)[c / 2 ^ 32]? with
    | some x => [(x.srcSpace, x.src + 2048 * (c % 2 ^ 32), min 2048 (x.bytes - 2048 * (c % 2 ^ 32)))]
    | none => []
  | .cpyt r _ => (r.chunkElems c).map fun e => (0, r.addr r.src (c / 2 ^ 32) e, r.z)
  | .refill q n =>
    match s.team? o.team with
    | some t => let x := t.queues.getD q {}; ringPieces x.base x.cap x.head n
    | none => []
  | .spawnIn n =>
    match s.team? o.team with
    | some t => let x := s.spawnBase t; ringPieces x.1 x.2 t.ringHead n
    | none => []
  | _ => []
def State.chunkWrites (s : State) (o : EOp) (c : Nat) : List (Nat × Nat × Nat) :=
  match o.kind with
  | .cpy =>
    match (sortSlices o.slices)[c / 2 ^ 32]? with
    | some x => [(x.dstSpace, x.dst + 2048 * (c % 2 ^ 32), min 2048 (x.bytes - 2048 * (c % 2 ^ 32)))]
    | none => []
  | .cpyt r _ => if s.isDest o.ctx r then (r.chunkElems c).map fun e => (cpySpace r.space, r.dstAddr (c / 2 ^ 32) e, r.z) else []
  | .spill q first =>
    match s.team? o.team with
    | some t => let x := t.queues.getD q {}; ringPieces x.base x.cap first o.recs.length
    | none => []
  | .spawnOut first =>
    match s.team? o.team with
    | some t => let x := s.spawnBase t; ringPieces x.1 x.2 first o.spawns.length
    | none => []
  | _ => []
def State.chunkSize (s : State) (o : EOp) (c : Nat) : Nat :=
  match o.kind with
  | .fill _ _ => 2048
  | _ => max ((s.chunkReads o c).map fun x => x.2.2).sum ((s.chunkWrites o c).map fun x => x.2.2).sum

/-! Bytes as an engine reads and writes them: at points of coherence (R195). -/

/-- A piece cut where it crosses a 4 KiB frame. -/
def cutPage (x : Nat × Nat × Nat) : List (Nat × Nat × Nat) :=
  let n := 4096 - x.2.1 % 4096
  if x.1 = 0 ∧ n < x.2.2 then [(0, x.2.1, n), (0, x.2.1 + n, x.2.2 - n)] else [x]
def State.engWalk (s : State) (o : EOp) (va : Nat) (wr : Bool) : Tr :=
  match s.team? o.team with
  | some t => s.walkTeam t va wr
  | none => s.walkCtx o.ctx va
/-- Why a piece cannot be accessed: code 0 with the address for a fault that firmware may serve (R238), else E_PAGE or E_PROT. -/
def State.engBad (s : State) (o : EOp) (l : List (Nat × Nat × Nat)) (wr : Bool) : Option (Nat × Nat) :=
  ((l.flatMap cutPage).filter fun x => x.1 = 0).findSome? fun x =>
    match s.engWalk o x.2.1 wr with
    | .ok y => if (if wr then pteWr y.leaf else pteRd y.leaf) then none else some (eProt, x.2.1)
    | .bad => some (ePage, x.2.1)
    | .missing => some (0, x.2.1)
def State.engRead (s : State) (o : EOp) (l : List (Nat × Nat × Nat)) : List Byte :=
  (l.flatMap cutPage).flatMap fun x =>
    if x.1 = 0 then
      match s.engWalk o x.2.1 false with
      | .ok y => s.dram.bytes y.pa x.2.2
      | _ => List.replicate x.2.2 0
    else match s.team? o.team with
      | some t => (t.buf x.1).mem.bytes x.2.1 x.2.2
      | none => List.replicate x.2.2 0
def State.engPoison (s : State) (o : EOp) (l : List (Nat × Nat × Nat)) : Bool :=
  (l.flatMap cutPage).any fun x =>
    if x.1 = 0 then
      match s.engWalk o x.2.1 false with
      | .ok y => s.dram.poisoned y.pa x.2.2
      | _ => false
    else match s.team? o.team with
      | some t => (t.buf x.1).mem.poisoned x.2.1 x.2.2
      | none => false
/-- The host is told of the pages in which an engine met an uncorrectable error (R331). -/
def State.engNotice (s : State) (o : EOp) (l : List (Nat × Nat × Nat)) : State :=
  let s := if s.engPoison o (l.filter fun x => x.1 ≠ 0) then s.localNotice o.ctx else s
  s.eccNotice ((l.flatMap cutPage).filterMap fun x =>
    if x.1 ≠ 0 then none
    else match s.engWalk o x.2.1 false with
      | .ok y => if s.dram.poisoned y.pa x.2.2 then some y.pa else none
      | _ => none)
/-- Writes the bytes over the pieces in order, as one write for the blocks they cover (R323); a team space is that of team `tid`. -/
def State.engWrite (s : State) (o : EOp) (tid : Nat) (l : List (Nat × Nat × Nat)) (b : List Byte) : State :=
  let cut := l.flatMap cutPage
  let s1 := (cut.foldl (fun (x : State × List Byte) p =>
    let s := if p.1 = 0 then
        match x.1.engWalk o p.2.1 true with
        | .ok y => x.1.writePa y.pa (x.2.take p.2.2)
        | _ => x.1
      else x.1.writeTeam tid p.1 p.2.1 (x.2.take p.2.2)
    (s, x.2.drop p.2.2)) (s, b)).1
  let glob := (cut.filter fun p => p.1 = 0).filterMap fun p => match s.engWalk o p.2.1 true with
    | .ok y => some (y.pa, p.2.2)
    | _ => none
  let s2 : State := { s1 with dram := s1.dram.cleanse glob }
  ((cut.map fun p => p.1).eraseDups.filter fun sp => sp ≠ 0).foldl (fun s sp => s.modTeam tid fun t => t.modBuf sp fun y =>
    { y with mem := y.mem.cleanse ((cut.filter fun p => p.1 = sp).map fun p => p.2) }) s2

/-! Teams at positions, lines. -/

def State.teamAt (s : State) (launch cluster pos : Nat) : Option Team :=
  s.teams.find? fun t => t.launch == launch && t.cluster == cluster && t.pos == pos && t.place != .ended
/-- The teams a slice is written to: the own team for mask 0 (R249, R252). -/
def State.sliceTeams (s : State) (o : EOp) (x : Slice) : List Team :=
  if x.mask = 0 then (s.team? o.team).toList
  else match s.team? o.team with
    | some t => ((List.range 12).filter fun j => x.mask / 2 ^ j % 2 = 1).filterMap fun j => s.teamAt t.launch t.cluster j
    | none => []
/-- The positions that an instance's slices name. -/
def EOp.positions (o : EOp) : List Nat := (o.slices.flatMap fun x => (List.range 12).filter fun j => x.mask / 2 ^ j % 2 = 1).eraseDups
/-- The teams whose memory or buffers an operation uses. -/
def State.opTeams (s : State) (o : EOp) : List Team :=
  match o.kind with
  | .cpy =>
    (o.slices.flatMap fun x =>
      (if x.dstSpace = 0 then [] else s.sliceTeams o x) ++ if x.srcSpace = 1 then (s.team? o.team).toList else []).eraseDups
  | .cpyt r _ => if r.space = 0 then [] else (s.team? o.team).toList
  | .refill _ _ | .spawnIn _ => (s.team? o.team).toList
  | _ => []
def linesIn (b : Buf) (a n : Nat) : List Nat := (linesOf a n).filter fun l => l * 128 < b.size
/-- Destination lines of a chunk by space. -/
def State.chunkLines (s : State) (o : EOp) (c : Nat) : List (Nat × Nat) :=
  ((s.chunkWrites o c).filter fun x => x.1 ≠ 0).flatMap fun x => (linesOf x.2.1 x.2.2).map fun l => (x.1, l)
/-- A reducing CPYT (R255). -/
def EOp.reduces (o : EOp) : Bool :=
  match o.kind with
  | .cpyt r _ => r.op ≠ 0
  | _ => false
/-- Chunks not delivered here: a chunk whose bytes stand but whose count waits is not delivered (R257). -/
def EOp.undelivered (o : EOp) : List Nat := (o.todo ++ o.running ++ o.counted ++ o.lost).filter fun c => !o.landed.contains c
/-- Chunks whose bytes have not landed at the destination; of a reducing call the result's bytes, whatever its contribution did (R255). -/
def EOp.notLanded (o : EOp) : List Nat := o.undelivered.filter fun c => !(if o.reduces then o.placed else o.written).contains c
/-- A transfer whose work here is over: a reducing call of a rank that takes no result waits only for a mismatch mark (R255, R287), one
that peers receive for their acknowledgements (R198). -/
def State.sentOnly (s : State) (o : EOp) : Bool :=
  match o.kind with
  | .cpyt r _ => o.started && o.todo.isEmpty && o.running.isEmpty && ((r.op ≠ 0 && !s.isDest o.ctx r) || (!o.acks.isEmpty && o.undelivered.isEmpty))
  | _ => false
/-- The teams a chunk's team-space bytes go to. -/
def State.chunkTeams (s : State) (o : EOp) (c : Nat) : List Team :=
  match o.kind with
  | .cpy =>
    match (sortSlices o.slices)[c / 2 ^ 32]? with
    | some x => s.sliceTeams o x
    | none => []
  | _ => (s.team? o.team).toList
/-- Lines all of whose bytes in the operation have landed in a team become present there (R251). -/
def State.setPresent (s : State) (o : EOp) (c : Nat) (teams : List Team) : State :=
  teams.foldl (fun s t =>
    let rest := ((o.notLanded.filter fun x => x != c).filter fun x => (s.chunkTeams o x).any fun y => y.id == t.id).flatMap fun x => s.chunkLines o x
    let ready := (s.chunkLines o c).filter fun l => !rest.contains l
    if ready.isEmpty then s
    else (s.modTeam t.id fun y => ready.foldl (fun y l => y.modBuf l.1 fun b => b.setLines [l.2]) y).wakeLines t.id) s

/-! Targets and ends. -/

def EOp.throwers (o : EOp) : List Starter := if o.slices.isEmpty then [o.byw] else o.slices.map fun x => x.byw
/-- The value of E_COPYFAIL: the counter address, or the stage (R216). -/
def EOp.failValue (o : EOp) : Nat :=
  match o.target with
  | .none => 0
  | .counter va => va
  | .stage _ n => 0x100 + n
/-- A chunk is counted: bytes are added at the target unless it is poisoned (R248). -/
def State.countBytes (s : State) (o : EOp) (n : Nat) : State :=
  if o.poisoned then s
  else match o.target with
    | .none => s
    | .counter va => s.addAt o.ctx va n false o.throwers o.launch false o.id
    | .stage t k => s.stageAdd t k n
/-- A counter update is a release at device scope of the groups whose words made the operation (R190, R195): what those groups accessed
before their words, and what they had read, is performed. -/
def State.updateReady (s : State) (o : EOp) : Bool :=
  (if o.slices.isEmpty then [(o.byw.g, o.id)] else o.slices.map fun x => (x.byw.g, x.num)).all fun x => s.released x.1 o.coord 4 x.2
/-- The target is poisoned, once an operation (R248). -/
def State.poisonOp (s : State) (id : Nat) : State :=
  match s.op? id with
  | none => s
  | some o =>
    if o.poisoned then s
    else
      let s := s.modOp id fun x => { x with poisoned := true }
      match o.target with
      | .none => s
      | .counter va => if va % 8 = 0 && canonical va then s.addAt o.ctx va (2 ^ 63) false o.throwers o.launch false else s
      | .stage t k => s.stagePoison t k
def State.leaveEngine (s : State) (o : EOp) : State :=
  s.modEngine (engineOf o.coord) fun e => { e with queues := e.queues.map fun q => q.filter fun i => i != o.id }
/-- The operation enters its virtual queue (R265, R272). -/
def State.enterEngine (s : State) (o : EOp) : State :=
  (s.modEngine (engineOf o.coord) fun e => { e with queues := modNth e.queues o.cls fun q => q ++ [o.id] }).armEngine (engineOf o.coord)
/-- The operation is over: its locks lift and it is gone; a fault of its own that is still open is withdrawn (R292). -/
def State.dropOp (s : State) (o : EOp) : State :=
  let s := ((o.fault.map s.withdrawFault).getD s |>.leaveEngine o).endLocks o.id
  let s := s.modEngine (engineOf o.coord) fun e => { e with slots := e.slots - o.running.length }
  { s with ops := s.ops.filter fun x => x.id != o.id }
/-- The bytes of a piece that a team can hold become free values. -/
def State.blurPiece (s : State) (o : EOp) (t : Team) (x : Nat × Nat × Nat) : State :=
  if (if x.1 = 0 then (s.engBad o [x] true).isSome else (t.buf x.1).size < x.2.1 + x.2.2) then s
  else
    let d := s.drawBytes x.2.2
    d.2.engWrite o t.id [x] d.1
/-- Destination bytes that a cancelled copy has not landed are undefined, in every space (R54, R56); a team whose allocation is another by
now keeps its own (R194). -/
def State.blurBytes (s : State) (o : EOp) : State :=
  (if o.gathering then o.chunks else o.notLanded).foldl (fun s c =>
    (s.chunkTeams o c).foldl (fun s t =>
      if o.gens.any (fun g => g.1 == t.pos && g.2 != t.gen) then s
      else (s.chunkWrites o c).foldl (fun s x => s.blurPiece o t x) s) s) s
/-- Lines that the operation left absent become orphans, and loads parked on them look again (R54, R162). -/
def State.orphanOp (s : State) (o : EOp) : State :=
  o.notLanded.foldl (fun s c =>
    let ls := s.chunkLines o c
    if ls.isEmpty then s
    else (s.chunkTeams o c).foldl (fun s t =>
      if o.gens.any (fun g => g.1 == t.pos && g.2 != t.gen) then s
      else (s.modTeam t.id fun y => ls.foldl (fun y l => y.modBuf l.1 fun b => b.orphanLines [l.2]) y).wakeLines t.id) s) s
/-- Tile counters of a CPYT's tiles not yet delivered on this rank are poisoned (R255, R257). -/
def State.poisonTiles (s : State) (o : EOp) : State :=
  match o.kind with
  | .cpyt r _ =>
    if r.ctr = 0 || !s.isDest o.ctx r then s
    else ((o.undelivered.map fun c => c / 2 ^ 32).eraseDups).foldl (fun s t =>
      s.addAt o.ctx (r.ctr + 8 * t) (2 ^ 63) false o.throwers o.launch false) s
  | _ => s
/-- Every presence bit that a refused or not started instance cleared is set again (R251, R312). -/
def State.unclear (s : State) (o : EOp) : State :=
  o.slices.foldl (fun s x =>
    if x.cleared.isEmpty then s
    else (s.modTeam o.team fun y => y.modBuf x.dstSpace fun b => b.setLines x.cleared).wakeLines o.team) s
/-- The operation ends before its last chunk: poisoned target, orphaned lines, lifted locks (R54, R239, R257). `undef` for a
cancellation, whose bytes not landed are undefined. -/
def State.stopOp (s : State) (id : Nat) (undef : Bool) : State :=
  match s.op? id with
  | none => s
  | some o =>
    let s := s.poisonOp id
    let s := if o.gathering || !undef then s else s.poisonTiles o
    let s := match o.fault with
      | some f => s.withdrawFault f
      | none => s
    -- a chunk of the call that is held at the rank's switch goes too (R292)
    let s := (s.faults.filter fun f => f.state = 0 && match f.user with
      | .chunk x => x.op == id
      | _ => false).foldl (fun s f => s.withdrawFault f.id) s
    let s := if undef then s.blurBytes o else s
    if o.gathering then
      -- lines that the slices cleared are absent with nothing to land
      let s := o.slices.foldl (fun s x =>
        if x.cleared.isEmpty then s
        else (s.modTeam o.team fun y => y.modBuf x.dstSpace fun b => b.orphanLines x.cleared).wakeLines o.team) s
      (s.endLocks id).modOp id fun x => { x with stopped := true, fault := none }
    else (s.orphanOp o).dropOp o
/-- The operation fails of itself: the exception of its throwers, whose groups raise nothing else for it (R291), and its end (R239, R352). -/
def State.failOp (s : State) (id code value : Nat) : State :=
  match s.op? id with
  | none => s
  | some o => (s.raiseStarters o.throwers code (BitVec.ofNat 64 value)).stopOp id false

/-- The stream queues that hold a team's entries: those of its core, or the ones saved with it (R178, R232). -/
def State.streamQs (s : State) (t : Team) (out : Bool) : List StreamQ :=
  if t.place = .away then (if out then t.offQo else t.offQi) else if out then (s.core t.coord).qo else (s.core t.coord).qi
def State.setStreamQ (s : State) (t : Team) (q : Nat) (out : Bool) (x : StreamQ) : State :=
  if t.place = .away then
    s.modTeam t.id fun y => if out then { y with offQo := modNth y.offQo q fun _ => x } else { y with offQi := modNth y.offQi q fun _ => x }
  else s.modCore t.coord fun c => if out then { c with qo := modNth c.qo q fun _ => x } else { c with qi := modNth c.qi q fun _ => x }
/-- A team's streams with their queues. -/
def State.teamStreams (s : State) (t : Team) : List (Nat × StreamDesc) :=
  let f (l : List StreamQ) : List (Nat × StreamDesc) := (l.mapIdx fun q y => (y.descs.filter fun d => d.byw.g.team == t.id).map fun d => (q, d)).flatten
  f (s.streamQs t false) ++ f (s.streamQs t true)
/-- A stream of a team stops at an element boundary: the entries of its queue go, with an input queue's pending descriptors, and their
counters get bit 63 (R178; DESIGN CHOICE, log 114: those of the pending descriptors too). -/
def State.stopDesc (s : State) (tid q : Nat) (x : StreamDesc) : State :=
  match s.team? tid with
  | none => s
  | some t =>
    let sq := (s.streamQs t x.out).getD q {}
    let gone := if x.out then sq.descs.filter fun d => d.id == x.id else sq.descs
    if !(sq.descs.any fun d => d.id == x.id) then s
    else
      let new : StreamQ := { entries := [], descs := if x.out then sq.descs.filter fun d => d.id != x.id else [] }
      let s := s.setStreamQ t q x.out new
      let s := if x.out && !new.descs.isEmpty && t.place ≠ .away then s.again (.streamStoreElement t.coord q) else s
      gone.foldl (fun s d =>
        let s := match d.fault with
          | some f => s.withdrawFault f
          | none => s
        match s.team? d.byw.g.team with
        | some t => if d.ctr = 0 then s else s.addAt t.ctx d.ctr (2 ^ 63) false [d.byw] t.launch false
        | none => s) s

end Sys2Proof.Machine
end

