-- ==== Sys2Proof/Machine/EngineInstr.lean ====
section
/-! DEFINITION. The engine range (R247 to R268): copies, tensor transfers, cancels, counters, queues, steals, tasks, rings. -/
namespace Sys2Proof.Machine

/-- An issue-time hold of engine words by an acquire under way (R167, R169). -/
def engHold (i : Iss) (s : State) : Bool := s.orderHold i.g false
/-- Path entries that must be acknowledged before the group's engine work starts (R195, R169). -/
def firstOf (s : State) (g : GRef) : List Nat := (s.path.filter fun e => e.byw.g == g).map fun e => e.id
def isUrgent (s : State) (ctx : Nat) : Bool :=
  match s.ctx? ctx with
  | some c => c.p.urgent
  | none => false

/-! CPY. -/

/-- The participants of a team's copies: its loader parent groups that have not exited (R249). -/
def Team.loaders (t : Team) : List Group := t.groups.filter fun g => !g.spawned && g.role = 1 && g.phase != .exited
def State.hasAllSlices (s : State) (o : EOp) : Bool :=
  match s.team? o.team with
  | some t => t.loaders.all fun g => o.slices.any fun x => x.slot == g.slot
  | none => true
/-- The lines of the own team that a slice clears, those now present among them (R250). -/
def sliceLines (t : Team) (x : Slice) : List Nat :=
  if x.dstSpace = 0 || (x.mask ≠ 0 && x.mask / 2 ^ t.pos % 2 = 0) then []
  else linesIn (t.buf x.dstSpace) x.dst x.bytes
/-- CPY at issue (R249, R250): slice, locks, presence bits. -/
def bodyCpy (i : Iss) (s : State) : Body :=
  let sub := i.w.sub.toNat
  let ctr := (i.rdOnce i.w.d).toNat
  let stage := 8 ≤ sub
  let badStage := stage && !(ctr ≤ 127 && i.t.hasStage (ctr / 16) (ctr % 16))
  let x0 : Slice := { slot := i.gr.slot, sub := sub, ctr := ctr, dst := (i.rdOnce i.w.a).toNat, src := (i.rdOnce i.w.b).toNat,
                      len := (i.rdOnce i.w.c).toNat, byw := s.starter i.g (maskOf i.lanes) i.cur.pc, cleared := [], raw := rawValue i.cur.raw, num := s.nextId }
  let lines := sliceLines i.t x0
  let x : Slice := { x0 with cleared := lines.filter fun l => !(i.t.buf x0.dstSpace).absent.contains l }
  let old := s.ops.find? fun o => o.team == i.t.id && o.kind == .cpy && o.gathering && o.inst == i.gr.cpys
  let id := match old with
    | some o => o.id
    | none => s.nextId
  let own := x.dstSpace = 0 || x.mask = 0 || x.mask / 2 ^ i.t.pos % 2 = 1
  let locks := mkLock id i.t.coord x.srcSpace false i.t.ctx i.t.id x.src x.bytes ++
    if own then mkLock id i.t.coord x.dstSpace true i.t.ctx i.t.id x.dst x.bytes else []
  if i.lanes.isEmpty then .ok s
  else if engHold i s then .stall
  else if i.gr.spawned then illegalGuard i
  else if badStage then guardThrow i eQueue (0x100 + ctr)
  else
    let count (s : State) : State := s.modGroup i.g fun y => { y with cpys := y.cpys + 1 }
    match old with
    | some o =>
      if o.stopped then
        let s := count (s.modOp id fun o => { o with slices := o.slices ++ [{ x with cleared := [] }] })
        .ok (s.sched s.clock (.engineOpStart id))
      else if !s.lockRoom i.t.coord locks.length then .stall
      else
        let s := s.modOp id fun o => { o with slices := o.slices ++ [x], first := o.first ++ firstOf s i.g }
        let s := count ({ s with locks := s.locks ++ locks }.modTeam i.t.id fun t => t.modBuf x.dstSpace fun b => b.clearLines lines)
        .ok (s.sched s.clock (.engineOpStart id))
    | none =>
      if !s.lockRoom i.t.coord locks.length then .stall
      else
        let o : EOp := { id := id, kind := .cpy, coord := i.t.coord, team := i.t.id, ctx := i.t.ctx, launch := i.t.launch, cls := if isUrgent s i.t.ctx then 0 else 1,
                         target := if stage then .stage i.t.id ctr else if ctr = 0 then .none else .counter ctr,
                         slices := [x], gathering := true, inst := i.gr.cpys, first := firstOf s i.g, byw := x.byw }
        let s := count ({ s with locks := s.locks ++ locks, ops := s.ops ++ [o], nextId := s.nextId + 1 }.modTeam i.t.id fun t =>
          t.modBuf x.dstSpace fun b => b.clearLines lines)
        .ok (s.sched s.clock (.engineOpStart id))

/-! CPYT. -/

def le2 (b : List Byte) (o n : Nat) : Nat := natOfBytes ((b.drop o).take n)
/-- The shape record of R253. -/
def parseShape (b : List Byte) : Shape :=
  { src := le2 b 0 8, dst := le2 b 8 8, ctr := le2 b 16 8, dims := (List.range 4).map fun k => le2 b (24 + 2 * k) 2,
    strides := (List.range 3).map fun k => le2 b (32 + 4 * k) 4, box := (List.range 4).map fun k => le2 b (44 + k) 1 + 1,
    ty := le2 b 48 1, ops := le2 b 49 1, memb := le2 b 50 2, repl := le2 b 52 2, rbase := le2 b 54 2, cgrp := le2 b 56 2 }
/-- Operator and type pairs of R255. -/
def reduceTypeOk (op ty : Nat) : Bool :=
  if op = 0 then ty ≤ 13 else if op = 4 then ty = 0
  else op ≤ 3 && (ty = 0 || ty = 1 || ty = 6 || ty = 7 || ty = 8 || ty = 9 || ty = 10)
/-- The next sequence number of an established collective group: the launch's attached one, else the context's (R255, R341). -/
def State.collNext (s : State) (launch ctx cgrp : Nat) : Option Nat :=
  match s.launch? launch with
  | some l =>
    if cgrp ≠ 0 ∧ l.body.cgrp = cgrp then some l.collSeq
    else (s.ctx? ctx).bind fun c => (c.colls.find? fun x => x.1 == cgrp).map fun x => x.2.2
  | none => none
def State.collTake (s : State) (launch ctx cgrp : Nat) : State :=
  match s.launch? launch with
  | some l =>
    if cgrp ≠ 0 ∧ l.body.cgrp = cgrp then s.modLaunch launch fun x => { x with collSeq := x.collSeq + 1 }
    else s.modCtx ctx fun c => { c with colls := c.colls.map fun x => if x.1 = cgrp then (x.1, x.2.1, x.2.2 + 1) else x }
  | none => s
def maskRanks (base m : Nat) : List Nat := ((List.range 16).filter fun j => m / 2 ^ j % 2 = 1).map fun j => base + j
/-- The third row of R256's table. -/
def shapeBad (s : State) (t : Team) (raw : List Byte) (r : Shape) : Bool :=
  let me := s.myRank t.ctx
  let known (k : Nat) : Bool := k = me || match s.ctx? t.ctx with
    | some c => c.ranks.any fun x => x.1 == k
    | none => false
  let size := (t.buf (cpySpace r.space)).size
  !((raw.drop 58).all fun b => b == 0) || r.ty / 16 ≠ 0 || r.ops / 8 % 2 ≠ 0 || 4 < r.op || !reduceTypeOk r.op r.ty ||
  r.dims.any (fun d => d = 0) || (r.op = 0 && r.memb ≠ 0) ||
  !((maskRanks r.rbase r.memb ++ maskRanks r.rbase r.repl).all known) ||
  (r.op ≠ 0 && (!(maskRanks r.rbase r.memb).contains me || (s.collNext t.launch t.ctx r.cgrp).isNone)) ||
  (r.space ≠ 0 && size < r.dst + r.tiles * prodOf r.box * r.z)
def Shape.span (r : Shape) : Nat :=
  r.z * (1 + ((List.range 4).map fun k => (r.dims.getD k 1 - 1) * (1 :: r.strides).getD k 0).sum)
def Shape.dstSpan (r : Shape) : Nat := if r.space = 0 then r.span else r.tiles * prodOf r.box * r.z
/-- Source and destination elements of this rank's tensor have a byte in common (R256). -/
def Shape.overlaps (r : Shape) : Bool :=
  let els := (List.range r.tiles).flatMap fun t => (List.range (r.elems t)).map fun e => (t, e)
  r.space = 0 && r.src < r.dst + r.dstSpan && r.dst < r.src + r.span &&
    els.any fun x => let a := r.addr r.src x.1 x.2; els.any fun y => let b := r.dstAddr y.1 y.2; a < b + r.z && b < a + r.z
def startCpyt (i : Iss) (s : State) (ctr : Nat) (r : Shape) : Body :=
  let dest := s.isDest i.t.ctx r
  let sp := cpySpace r.space
  let locks := mkLock s.nextId i.t.coord 0 false i.t.ctx i.t.id r.src r.span ++
    if dest then mkLock s.nextId i.t.coord sp true i.t.ctx i.t.id r.dst r.dstSpan else []
  if !s.lockRoom i.t.coord locks.length then .stall
  else
    let seq := (s.collNext i.t.launch i.t.ctx r.cgrp).getD 0
    let c := r.ops / 64
    let o : EOp := { id := s.nextId, kind := .cpyt r seq, coord := i.t.coord, team := i.t.id, ctx := i.t.ctx, launch := i.t.launch,
                     cls := if isUrgent s i.t.ctx then 0 else if c ≤ 1 then 1 else c,
                     target := if ctr = 0 then .none else .counter ctr, first := firstOf s i.g, byw := s.starter i.g (maskOf i.lanes) i.cur.pc, todo := r.chunks,
                     home := s.homeOf r.cgrp }
    let lines := if dest && sp ≠ 0 then ((r.chunks.flatMap (s.chunkLines o)).map fun x => x.2).eraseDups else []
    let s := if r.op = 0 then s else s.collTake i.t.launch i.t.ctx r.cgrp
    let s := { s with locks := s.locks ++ locks, ops := s.ops ++ [o], nextId := s.nextId + 1 }
    let s := if lines.isEmpty then s else s.modTeam i.t.id fun t => t.modBuf sp fun b => b.clearLines lines
    .ok (s.sched s.clock (.engineOpStart o.id))
def bodyCpyt (i : Iss) (s : State) : Body :=
  let rec' := (i.rdOnce i.w.a).toNat
  let ctr := (i.rdOnce i.w.d).toNat
  if i.lanes.isEmpty then .ok s
  else if engHold i s then .stall
  else if rec' % 64 ≠ 0 then guardThrow i eAlign rec'
  else if ctr % 8 ≠ 0 then guardThrow i eAlign ctr
  else if !canonical rec' then guardThrow i eProt rec'
  else match s.tlb? i.t rec' false with
    | none => holdFetch i rec' 64 false s
    | some x =>
      if !pteRd x.leaf then guardThrow i eProt rec'
      else if s.dram.poisoned x.pa 64 then eccThrow i rec' [x.pa]
      else
        let raw := s.dram.bytes x.pa 64
        let r := parseShape raw
        if r.ctr % 8 ≠ 0 then guardThrow i eAlign r.ctr
        else if !canonical ctr then guardThrow i eProt ctr
        else if !canonical r.ctr then guardThrow i eProt r.ctr
        else if !canonical r.src then guardThrow i eProt r.src
        else if r.space = 0 && !canonical r.dst then guardThrow i eProt r.dst
        else if shapeBad s i.t raw r then guardThrow i eBounds rec'
        else startCpyt i s ctr r

/-! CPYCAN and CTRADD. -/

/-- Every copy and stream of the team that names the target ends (R257); address 0 is no completion target. -/
def State.cancelTarget (s : State) (t : Team) (x : Target) : State :=
  let s := (s.ops.filter fun o => o.team == t.id && o.target == x && !o.stopped && !s.sentOnly o && match o.kind with
    | .cpy | .cpyt _ _ => true
    | _ => false).foldl (fun s o => s.stopOp o.id true) s
  match x with
  | .counter va =>
    if va = 0 then s else
    ((s.teamStreams t).filter fun d => d.2.ctr == va).foldl (fun s d => s.stopDesc t.id d.1 d.2) s
  | _ => s
def bodyCpycan (i : Iss) (s : State) : Body :=
  let x := (i.rdOnce i.w.a).toNat
  if i.lanes.isEmpty then .ok s
  else if engHold i s then .stall
  else if i.w.sub = 0 then
    if x % 8 ≠ 0 then guardThrow i eAlign x
    else if !canonical x then guardThrow i eProt x
    else .ok (s.cancelTarget i.t (.counter x))
  else if 127 < x then guardThrow i eQueue (0x100 + x)
  else .ok (s.cancelTarget i.t (.stage i.t.id x))
/-- CTRADD (R258): a reduction with release, made when its release holds. -/
def bodyCtradd (i : Iss) (s : State) : Body :=
  let a := (i.rdOnce i.w.a).toNat
  let accs : List Acc := [{ lane := 0, addr := a, size := 8, data := (i.rdOnce i.w.b).toNat }]
  if i.lanes.isEmpty then .ok s
  else if engHold i s || s.noSlots i.t.coord (accSlots accs) then .stall
  else match stepChecks s i.t i.cur.pc 0 false accs with
    | [] => startWord i s (.ctradd i.w.sub.toNat 0) 0 .none accs []
    | l => .throws (spread i.lanes 1 l)

/-! Queues (R259 to R263). -/

def Team.queue (t : Team) (q : Nat) : HwQ := t.queues.getD q {}
def State.modQueue (s : State) (tid q : Nat) (f : HwQ → HwQ) : State := s.modTeam tid fun t => { t with queues := modNth t.queues q f }
def HwQ.free (x : HwQ) : Nat := 32 - x.chip.length - x.reserved
def HwQ.ring (x : HwQ) : Nat := x.tail - x.head
def HwQ.avail (x : HwQ) : List QRec := x.chip.filter fun r => r.lent.isNone
/-- A record's push has been performed as far as its release goes (R190, R260). -/
def State.pushed (s : State) (coord : Nat) (r : QRec) : Bool :=
  match r.rel with
  | some (g, n) => s.released g coord 3 n
  | none => true
/-- The records that a QPOP of a group finds, oldest first: one whose push's release is not performed holds those behind it back (R190,
R261). DEDUCED (log 92): not for the group that pushed it, whose own accesses precede its QPOP in program order. -/
def State.qAvail (s : State) (t : Team) (slot : Nat) (x : HwQ) : List QRec :=
  x.avail.takeWhile fun r => (r.rel.any fun y => y.1 == ⟨t.id, slot⟩) || s.pushed t.coord r
/-- The n oldest records that are not lent leave. -/
def HwQ.take : Nat → List QRec → List (List W32) × List QRec
  | _, [] => ([], [])
  | n, r :: t =>
    if n = 0 then ([], r :: t)
    else if r.lent.isSome then let x := HwQ.take n t; (x.1, r :: x.2)
    else let x := HwQ.take (n - 1) t; (r.words :: x.1, x.2)
def recRegs (lane d : Nat) (w : List W32) : List (LDst × W64) := (List.range 8).map fun j => (.v lane (d + j), (w.getD j 0).setWidth 64)
def writeRec (r : Regs) (lane d : Nat) (w : List W32) : Regs := (List.range 8).foldl (fun r j => r.writeV lane (d + j) (w.getD j 0)) r
/-- Waiting QPOPs are served in issue order (R261); one of an evicted group when its group is back (R271). -/
def State.serveQueue : Nat → State → Nat → Nat → State
  | 0, s, _, _ => s
  | n + 1, s, tid, q =>
    match s.team? tid with
    | none => s
    | some t =>
      let x := t.queue q
      match x.waiters with
      | [] => s
      | (slot, lanes) :: rest =>
        if (s.qAvail t slot x).length < lanes.length then s
        else if (t.group? slot).any fun g => g.phase == .evicted then s.modGroup ⟨tid, slot⟩ fun g => { g with wakeMet := true }
        else
          let r := HwQ.take lanes.length x.chip
          let s := s.modQueue tid q fun y => { y with chip := r.2, waiters := rest }
          let s := s.modGroup ⟨tid, slot⟩ fun g =>
            g.woken.putAll g.wakeBy.cc ((lanes.zip r.1).flatMap fun (p : (Nat × Nat) × List W32) => recRegs p.1.1 p.1.2 p.2)
          State.serveQueue n (s.acquire ⟨tid, slot⟩ 2) tid q
def State.serveNow (s : State) (tid q : Nat) : State :=
  match s.team? tid with
  | some t => s.serveQueue ((t.queue q).waiters.length) tid q
  | none => s
def State.serve (s : State) (tid q : Nat) : State :=
  if (s.team? tid).isSome then (s.serveNow tid q).sched s.clock (.queueRefillStart tid q) else s
/-- A record's release may have been performed: every QPOP that waits is looked at (R190). -/
def State.serveAll (s : State) : State :=
  s.teams.foldl (fun s t => (List.range t.queues.length).foldl (fun s q => if (t.queue q).waiters.isEmpty then s else s.serve t.id q) s) s
def recWords (i : Iss) (l : Nat) : List W32 :=
  match i.w.d with
  | .v n => (List.range 8).map fun j => ((i.regs l).getV l (n.val + j)).val
  | _ => []
def regD (i : Iss) : Nat :=
  match i.w.d with
  | .v n => n.val
  | _ => 0
def bodyQpush (i : Iss) (s : State) : Body :=
  let q := i.w.sub.toNat % 4
  let x := i.t.queue q
  let k := i.lanes.length
  let chipN := if x.ring = 0 then min k x.free else 0
  let ringN := k - chipN
  let recs := i.lanes.map (recWords i)
  if k = 0 then .ok s
  else if engHold i s then .stall
  else if x.cap = 0 && 32 < k then guardThrow i eQueue q
  else if ringN ≠ 0 && (x.cap = 0 || x.cap < x.ring + ringN) then .stall
  else
    let s1 := s.modQueue i.t.id q fun y =>
      { y with
        chip := y.chip ++ (recs.take chipN).map fun w => { words := w, rel := some (i.g, s.nextId) }
        tail := y.tail + ringN }
    let s2 :=
      if ringN = 0 then s1
      else
        let o : EOp := { id := s.nextId, kind := .spill q x.tail, coord := i.t.coord, team := i.t.id, ctx := i.t.ctx, launch := i.t.launch, cls := 2,
                         target := .none, first := firstOf s i.g, byw := s.starter i.g (maskOf i.lanes) i.cur.pc, recs := recs.drop chipN, todo := [0] }
        { s1 with ops := s1.ops ++ [o], nextId := s.nextId + 1 }.sched s.clock (.queueSpillStart o.id)
    .ok (s2.serve i.t.id q)
def emptyRun (r : Regs) (l d : Nat) : Regs := (List.range 8).foldl (fun r j => r.markV RegSt.emptied l (d + j)) r
/-- The landing of popped records, at a free latency (R353). -/
def State.landRecs (s : State) (g : GRef) (d : Nat) (l : List (Nat × List W32)) : State :=
  { s.land g (Config.freeDelay s.free) (l.flatMap fun p => (List.range 8).map fun j => (LDst.v p.1 (d + j), (p.2.getD j 0).setWidth 64)) with free := s.free + 1 }
def bodyQpop (i : Iss) (s : State) : Body :=
  let q := i.w.sub.toNat % 4
  let nb := 4 ≤ i.w.sub.toNat
  let x := i.t.queue q
  let k := i.lanes.length
  let d := regD i
  if k = 0 then .ok s
  else if engHold i s then .stall
  else if nb then
    let n := if x.waiters.isEmpty then min k (s.qAvail i.t i.gr.slot x).length else 0
    let r := HwQ.take n x.chip
    let got := i.lanes.take n
    let s := s.modQueue i.t.id q fun y => { y with chip := r.2 }
    let s := s.modGroup i.g fun y => { y with regs := got.foldl (fun r l => emptyRun r l d) y.regs }
    let s := (s.landRecs i.g d (got.zip r.1)).land i.g 4 (dstK i.w.c (i.lanes.map fun l => (l, got.contains l)))
    .ok (s.sched s.clock (.queueRefillStart i.t.id q))
  else if 32 < k then guardThrow i eQueue q
  else
    let s := s.modGroup i.g fun y => { y with regs := i.lanes.foldl (fun r l => emptyRun r l d) y.regs }
    if !x.waiters.isEmpty || (s.qAvail i.t i.gr.slot x).length < k then
      let s := s.modQueue i.t.id q fun y => { y with waiters := y.waiters ++ [(i.gr.slot, i.lanes.map fun l => (l, d))] }
      .ok ((s.park i.g (.queue q) (s.starter i.g (maskOf i.lanes) i.cur.pc)).sched s.clock (.queueRefillStart i.t.id q))
    else
      let r := HwQ.take k x.chip
      let s := s.modQueue i.t.id q fun y => { y with chip := r.2 }
      .ok (((s.landRecs i.g d (i.lanes.zip r.1)).acquire i.g 2).sched s.clock (.queueRefillStart i.t.id q))
/-- The least time of a steal's message between the thief's core and the victim's (R353). -/
def State.stealLeast (s : State) (st : Steal) : Nat :=
  match s.team? st.byw.g.team, s.team? st.victim with
  | some a, some b => Config.meshCc (Config.meshWay a.coord b.coord + 1)
  | _, _ => Config.meshCc 3
/-- QSTEAL (R263). DESIGN CHOICE (log 93): the victim's COORD is the whole 32-bit value of B. -/
def bodyQsteal (i : Iss) (s : State) : Body :=
  let d := regD i
  let kr := match i.w.c with
    | .k n => n.val
    | _ => 0
  let co := i.lanes.map fun l => (l, (i.rd32 l i.w.b).toNat)
  let bad := co.filter fun x => x.2 = i.t.coord || !i.t.hasCore x.2
  if co.isEmpty then .ok s
  else if engHold i s then .stall
  else if !bad.isEmpty then .throws (bad.map fun x => ⟨x.1, eBounds, i.cur.pc, BitVec.ofNat 64 x.2⟩)
  else
    let b := s.starter i.g (maskOf i.lanes) i.cur.pc
    let s := s.modGroup i.g fun y => { y with regs := co.foldl (fun r x => emptyRun r x.1 d) y.regs }
    .ok (co.foldl (fun s x =>
      let st : Steal := { id := s.nextId, byw := b, lane := x.1, reg := d, kreg := kr, q := i.w.sub.toNat % 4,
                          victim := ((clusterTeam s i.t x.2).map fun t => t.id).getD 0 }
      ({ s with steals := s.steals ++ [st], nextId := s.nextId + 1 }).after (s.stealLeast st) (.stealRequestServe st.id)) s)

/-! Tasks (R264). -/

/-- A range word: first 64 KiB tile and count; none when its limits are broken. -/
def rangeOf (w : Nat) : Option (Nat × Nat) :=
  let b := w % 2 ^ 41
  let n := w / 2 ^ 41 % 2 ^ 16 + 1
  if w / 2 ^ 57 ≠ 0 || (b < 2 ^ 40 && 2 ^ 40 < b + n) || 2 ^ 41 < b + n then none else some (b, n)
def tilesMeet (a b : Nat × Nat) : Bool := a.1 < b.1 + b.2 && b.1 < a.1 + a.2
/-- A later task depends on an earlier one (R279). -/
def Task.after (later earlier : Task) : Bool :=
  later.ctx == earlier.ctx && (later.reads ++ later.writes).any fun r => earlier.writes.any fun w => tilesMeet r w
/-- Earlier tasks of the die that a task depends on. -/
def State.predsOf (s : State) (k : Task) : List Task := s.tasks.filter fun x => x.die == k.die && x.id < k.id && k.after x
/-- A task's team has ended (R280): it waits to commit, or its commit's shoot-down is under way. -/
def Task.finished (k : Task) : Bool := k.state = 3 || k.state = 6
def enterTask (i : Iss) (s : State) (desc pa : Nat) (raw : List Byte) (r w : List (Nat × Nat)) (dataVa : Nat) : State :=
  let die := Config.coordDie i.t.coord
  let k : Task := { die := die, id := s.nextTask, launch := i.t.launch, ctx := i.t.ctx, desc := desc, entry := le2 raw 0 4, join := le2 raw 8 8, reads := r, writes := w, byw := s.starter i.g (maskOf i.lanes) i.cur.pc }
  let k := { k with state := if (s.predsOf k).all Task.finished then 1 else 0 }
  let s := (s.writePa (pa + 64) (bytesOfNat 8 dataVa))
  { s with tasks := s.tasks ++ [k], nextTask := s.nextTask + 1 }.sched (s.clock + 1) (.taskStart die k.id)
def bodyTsubmit (i : Iss) (s : State) : Body :=
  let a := (i.rdOnce i.w.a).toNat
  let im := (s.launch? i.t.launch).bind fun l => s.image? l.body.image
  if i.lanes.isEmpty then .ok s
  else if engHold i s || !s.released i.g i.t.coord 4 s.nextId then .stall
  else if a % 128 ≠ 0 then guardThrow i eAlign a
  else if !canonical a then guardThrow i eProt a
  else match s.tlb? i.t a true with
    | none => holdFetch i a 128 true s
    | some x =>
      if !(pteRd x.leaf && pteWr x.leaf) then guardThrow i eProt a
      else if s.dram.poisoned x.pa 128 then eccThrow i a [x.pa]
      else
        let raw := s.dram.bytes x.pa 128
        let nr := le2 raw 4 1
        let nw := le2 raw 5 1
        let join := le2 raw 8 8
        let ranges := (List.range 6).map fun k => le2 raw (16 + 8 * k) 8
        let rs := (ranges.take nr).map rangeOf
        let ws := ((ranges.drop 4).take nw).map rangeOf
        let unused := ((ranges.take 4).drop nr) ++ (ranges.drop (4 + nw))
        let kern := im.bind fun m => m.kerns.find? fun k => k.entry == le2 raw 0 4
        let kOk := match kern with
          | some k => k.cw = 1 && k.ch = 1 && k.qcap.all fun c => c = 0
          | none => false
        if join % 8 ≠ 0 then guardThrow i eAlign join
        else if !kOk then guardThrow i eSpawn (le2 raw 0 4)
        else if 4 < nr || 2 < nw || le2 raw 6 2 ≠ 0 || !canonical join || (rs ++ ws).any (fun r => r.isNone) || unused.any fun u => u ≠ 0 then guardThrow i eBounds a
        else if 1024 ≤ (s.tasks.filter fun k => k.die == Config.coordDie i.t.coord).length then .stall
        else .ok (enterTask i s a x.pa raw (rs.filterMap id) (ws.filterMap id) ((im.map fun m => m.body.dataVa).getD 0))

/-! Stage rings (R266 to R268). -/

/-- Ring and stage of a word, and whether the team has them; the value of E_QUEUE otherwise. -/
def stageOf (i : Iss) : Nat × Nat × Bool :=
  let r := (i.rdOnce i.w.a).toNat
  let st := (i.rdOnce i.w.b).toNat
  (r, st, i.t.hasStage r st)
/-- An earlier RPUT or RFREE of the group on the ring has not taken effect. -/
def ringHold (s : State) (g : GRef) (r : Nat) : Bool := s.path.any fun e => e.byw.g == g && e.kind == .ring && e.addr / 16 == r
def bodyRget (i : Iss) (s : State) : Body :=
  let (r, st, ok) := stageOf i
  let empty := 8 ≤ i.w.sub.toNat
  let ph := (i.rdOnce i.w.c).toNat % 2
  let sc := i.w.sub.toNat % 8
  let x := spGet {} i.t.stages (16 * r + st)
  if i.lanes.isEmpty then .ok s
  else if engHold i s then .stall
  else if !ok then guardThrow i eQueue (0x100 + 16 * r + st)
  else if ringHold s i.g r then .stall
  else if (if empty then !x.full && x.count = 0 else x.full) && x.phase.toNat == ph then
    if !empty && x.poison then guardThrow i eCopyfail (0x100 + 16 * r + st) else .ok (s.acquire i.g sc)
  else .ok (s.park i.g (.ring r st ph empty sc) (s.starter i.g (maskOf i.lanes) i.cur.pc))
/-- The effect of RPUT or RFREE waits for its release, without holding issue (R268). -/
def pushRing (i : Iss) (s : State) (free : Bool) (n b : Nat) : State :=
  let e : PathEntry := { id := s.nextId, coord := i.t.coord, byw := s.starter i.g (maskOf i.lanes) i.cur.pc, lane := 64, kind := .ring, space := 1,
                         addr := n, pa := 0, size := 0, data := b, cmp := 0, op := free.toNat, ty := .n32, reg := 256, rel := none }
  { s with path := s.path ++ [e], nextId := s.nextId + 1 }.sched s.clock (if free then .rfreeEffect e.id else .rputEffect e.id)
def bodyRput (i : Iss) (s : State) : Body :=
  let (r, st, ok) := stageOf i
  if i.lanes.isEmpty then .ok s
  else if engHold i s then .stall
  else if !ok then guardThrow i eQueue (0x100 + 16 * r + st)
  else if ringHold s i.g r then .stall
  else .ok (pushRing i s false (16 * r + st) ((i.rdOnce i.w.c).toNat % 2 ^ 32))
def bodyRfree (i : Iss) (s : State) : Body :=
  let (r, st, ok) := stageOf i
  if i.lanes.isEmpty then .ok s
  else if engHold i s then .stall
  else if !ok then guardThrow i eQueue (0x100 + 16 * r + st)
  else if ringHold s i.g r then .stall
  else if !(spGet {} i.t.stages (16 * r + st)).full then guardThrow i eQueue (0x100 + 16 * r + st)
  else .ok (pushRing i s true (16 * r + st) 0)

def execCpy (w : Full) (s : State) : Host.Outcome State Fault Refusal := execFull .cpy .once bodyCpy w s
def execCpyt (w : Full) (s : State) : Host.Outcome State Fault Refusal := execFull .cpyt .once bodyCpyt w s
def execCpycan (w : Full) (s : State) : Host.Outcome State Fault Refusal := execFull .cpycan .once bodyCpycan w s
def execCtradd (w : Full) (s : State) : Host.Outcome State Fault Refusal := execFull .ctradd .once bodyCtradd w s
def execQpush (w : Full) (s : State) : Host.Outcome State Fault Refusal := execFull .qpush .perLane bodyQpush w s
def execQpop (w : Full) (s : State) : Host.Outcome State Fault Refusal := execFull .qpop .perLane bodyQpop w s
def execQsteal (w : Full) (s : State) : Host.Outcome State Fault Refusal := execFull .qsteal .perLane bodyQsteal w s
def execTsubmit (w : Full) (s : State) : Host.Outcome State Fault Refusal := execFull .tsubmit .once bodyTsubmit w s
def execRget (w : Full) (s : State) : Host.Outcome State Fault Refusal := execFull .rget .once bodyRget w s
def execRput (w : Full) (s : State) : Host.Outcome State Fault Refusal := execFull .rput .once bodyRput w s
def execRfree (w : Full) (s : State) : Host.Outcome State Fault Refusal := execFull .rfree .once bodyRfree w s

end Sys2Proof.Machine
end

