-- ==== Sys2Proof/Machine/MatrixInstr.lean ====
section
/-! DEFINITION. The matrix range (R293 to R310): reservations, and words that enter the core's matrix queue. -/
namespace Sys2Proof.Machine

/-! Reservations (R297 to R300). -/

def kBlock (ty : Nat) : Nat := if ty = 9 || ty = 10 then 32 else 64
def rsvSparse (r : Rsv) : Bool := r.flags / 4 % 2 = 1
/-- Stored bits of an element. -/
def zBits (r : Rsv) : Nat :=
  let z := if r.ty = 9 || r.ty = 10 then 16 else if r.ty = 14 then 4 else if r.ty = 15 then 2 else 8
  if rsvSparse r then z / 2 else z
def rsvScaled (r : Rsv) : Bool := r.flags % 2 = 1
def rsvZp (r : Rsv) : Bool := r.flags / 2 % 2 = 1
def rsvSpace (r : Rsv) : Nat := if r.space % 4 = 0 then 2 else 4
def parseRsv (b : List Byte) : Rsv :=
  { base := le2 b 0 4, space := le2 b 4 1, ty := le2 b 5 1, flags := le2 b 6 1, rstride := le2 b 8 4, klen := le2 b 12 4, sofs := le2 b 16 4,
    sstride := le2 b 20 4, zofs := le2 b 24 4, zstride := le2 b 28 4, mofs := le2 b 32 4, mstride := le2 b 36 4 }
/-- A record is valid (R298, R299). -/
def rsvOk (b : List Byte) (r : Rsv) : Bool :=
  r.space ≤ 1 && 9 ≤ r.ty && r.ty ≤ 15 && r.flags < 8 && le2 b 7 1 = 0 && ((b.drop 40).all fun x => x == 0) &&
  r.base % 16 = 0 && r.rstride % 16 = 0 && r.klen % kBlock r.ty = 0 && kBlock r.ty ≤ r.klen && r.klen ≤ 65536 &&
  (!rsvScaled r || 11 ≤ r.ty) && (!rsvZp r || r.ty = 13 || r.ty = 14) && (!rsvSparse r || r.ty ≤ 13) &&
  r.klen * zBits r ≤ r.rstride * 8 &&
  (if rsvScaled r then r.klen ≤ r.sstride * 32 else r.sofs = 0 && r.sstride = 0) &&
  (if rsvZp r then r.klen ≤ r.zstride * 32 else r.zofs = 0 && r.zstride = 0) &&
  (if rsvSparse r then r.klen ≤ r.mstride * 8 else r.mofs = 0 && r.mstride = 0)
/-- The bytes of a record lie in an allocation of `size` bytes. -/
def rsvInside (r : Rsv) (size : Nat) : Bool :=
  r.base + 63 * r.rstride + r.klen * zBits r / 8 ≤ size &&
  (!rsvScaled r || r.sofs + 63 * r.sstride + r.klen / 32 ≤ size) &&
  (!rsvZp r || r.zofs + 63 * r.zstride + r.klen / 32 ≤ size) &&
  (!rsvSparse r || r.mofs + 63 * r.mstride + r.klen / 8 ≤ size)
/-- First data byte and length of an operand's data span (R307). -/
def dataSpan (r : Rsv) (k0 k : Nat) : Nat × Nat :=
  let a := k0 * zBits r / 8
  let b := ((k0 + k) * zBits r + 7) / 8
  (r.base + a, 63 * r.rstride + b - a)

/-! Holds. -/

/-- A follower's matrix words wait for the MMAP that drives its array (R16, R305). -/
def followerHeld (s : State) (coord : Nat) : Bool := (s.core coord).mq.any fun o => o.kind = 2 && o.coord != coord
def matHold (i : Iss) (s : State) : Bool := engHold i s || followerHeld s i.t.coord
/-- RSV reads its record once the group's earlier stores to team memory are performed, and behind a release of the group only when what
that orders has been (R169, R295). -/
def rsvHold (i : Iss) (s : State) : Bool := matHold i s || s.path.any fun e => e.byw.g == i.g && (e.space ≠ 0 || e.rel.isSome)
def mqRoom (s : State) (coord : Nat) : Bool := (s.core coord).mq.length < 8
def matrixThrow (i : Iss) : Body := guardThrow i eMatrix i.op.code

def bodyRsv (i : Iss) (s : State) : Body :=
  let slot := (i.rdOnce i.w.a).toNat
  let a := (i.rdOnce i.w.b).toNat
  let raw := i.t.tmBytes a 64
  let r := parseRsv raw
  if i.lanes.isEmpty then .ok s
  else if rsvHold i s then .stall
  else if 15 < slot || (spGet none i.t.rsvs slot).isSome then matrixThrow i
  else if a % 64 ≠ 0 then guardThrow i eAlign a
  else match chkTeam i.t a 64 true with
    | some c => guardThrow i c a
    | none =>
      if i.t.tm.mem.poisoned a 64 then eccThrow i a []
      else if !rsvOk raw r then matrixThrow i
      else if !rsvInside r (i.t.buf (rsvSpace r)).size then guardThrow i eBounds a
      else .ok (s.modTeam i.t.id fun t => { t with rsvs := spPut none t.rsvs slot (some r) })
/-- RLS frees its slot behind a release of the group only when what that orders has been performed (R169, R295). -/
def bodyRls (i : Iss) (s : State) : Body :=
  let slot := (i.rdOnce i.w.a).toNat
  if i.lanes.isEmpty then .ok s
  else if matHold i s || s.path.any (fun e => e.byw.g == i.g && e.rel.isSome) then .stall
  else if 15 < slot || (spGet none i.t.rsvs slot).isNone then matrixThrow i
  else .ok (s.modTeam i.t.id fun t => { t with rsvs := spPut none t.rsvs slot none })

/-! Array operations. -/

/-- A tile's failure (R293). -/
def tileBad (t : Team) (x : Nat) : Option Nat :=
  if x % 256 ≠ 0 then some eAlign else if t.cbuf.size < x + 16384 then some eBounds else none
/-- An operation enters the queue with its locks; a pair-wide one enters both queues in the same cc (R294, R304, R307). -/
def enterMat (i : Iss) (s : State) (o : MOp) (locks : List Lock) (fol : Option (Team × List Lock)) (ev : Instr) : Body :=
  let all := locks ++ match fol with
    | some f => f.2
    | none => []
  let room := s.lockRoom i.t.coord locks.length && match fol with
    | some f => s.lockRoom f.1.coord f.2.length && mqRoom s f.1.coord
    | none => true
  if !mqRoom s i.t.coord || !room then .stall
  else
    let put (s : State) (c : Nat) : State := s.modCore c fun k => { k with mq := k.mq ++ [o] }
    let s := put { s with locks := s.locks ++ all, nextId := s.nextId + 1 } i.t.coord
    let s := match fol with
      | some f => put s f.1.coord
      | none => s
    .ok (s.sched (s.clock + 1) ev)
def bodyMzero (i : Iss) (s : State) : Body :=
  let x := (i.rdOnce i.w.d).toNat
  if i.lanes.isEmpty then .ok s
  else if matHold i s then .stall
  else match tileBad i.t x with
    | some c => guardThrow i c x
    | none =>
      let o : MOp := { id := s.nextId, kind := 0, coord := i.t.coord, byw := s.starter i.g (maskOf i.lanes) i.cur.pc, tile := x, first := firstOf s i.g }
      enterMat i s o (mkLock o.id i.t.coord 3 true i.t.ctx i.t.id x 16384) none (.matrixOpStart i.t.coord)
/-- MMA, MMAP and MMAS (R301 to R305): kind 1, 2, 3. -/
def mmaBody (kind : Nat) (i : Iss) (s : State) : Body :=
  let x := (i.rdOnce i.w.d).toNat
  let lw := (i.rdOnce i.w.a).toNat % 2 ^ 32
  let rw' := (i.rdOnce i.w.b).toNat % 2 ^ 32
  let k := (i.rdOnce i.w.c).toNat % 2 ^ 32
  if i.lanes.isEmpty then .ok s
  else if matHold i s then .stall
  else match spGet none i.t.rsvs (lw % 16), spGet none i.t.rsvs (rw' % 16) with
    | some l, some r =>
      let kb := kBlock l.ty
      let k0l := lw / 2 ^ 16
      let k0r := rw' / 2 ^ 16
      let narrow (r : Rsv) : Bool := 11 ≤ r.ty
      if lw / 16 % 2 ^ 12 ≠ 0 || rw' / 16 % 2 ^ 12 ≠ 0 || narrow l != narrow r || k % kb ≠ 0 || k < kb || 16384 < k ||
         k0l % kb ≠ 0 || k0r % kb ≠ 0 || l.klen < k0l + k || r.klen < k0r + k then matrixThrow i
      else if rsvSparse l || rsvSparse r != (kind == 3) then matrixThrow i
      else match tileBad i.t x with
        | some c => guardThrow i c x
        | none =>
          let id := s.nextId
          let span (t : Team) (r : Rsv) (k0 : Nat) : List Lock :=
            let d := dataSpan r k0 k
            mkLock id t.coord (rsvSpace r) false t.ctx t.id d.1 d.2
          let own := span i.t l k0l ++ span i.t r k0r ++ mkLock id i.t.coord 3 true i.t.ctx i.t.id x 16384
          let o : MOp := { id := id, kind := kind, coord := i.t.coord, byw := s.starter i.g (maskOf i.lanes) i.cur.pc, tile := x, left := some l, right := some r,
                           k0l := k0l, k0r := k0r, k := k, first := firstOf s i.g }
          if kind ≠ 2 then enterMat i s o own none (.matrixOpStart i.t.coord)
          else match s.followerOf i.t with
            | none => matrixThrow i
            | some f =>
              if !rsvInside r (f.buf (rsvSpace r)).size || (tileBad f x).isSome then guardThrow i eBounds x
              else if f.place = .away then
                .hold fun s => ((s.modGroup i.g fun y => { y with called := some (y.lastIssue, y.catchAt) }).sched s.clock (.teamRestore f.id)).issueStalls i.cur i.t.coord i.gr.quarter
              else enterMat i s { o with follower := some f.coord } own (some (f, span f r k0r ++ mkLock id f.coord 3 true f.ctx f.id x 16384)) (.matrixOpStart i.t.coord)
    | _, _ => matrixThrow i
def bodyMma (i : Iss) (s : State) : Body := mmaBody 1 i s
def bodyMmap (i : Iss) (s : State) : Body := mmaBody 2 i s
def bodyMmas (i : Iss) (s : State) : Body := mmaBody 3 i s

/-! Drains (R308, R309). -/

def drainRegs (t : Ty) : Nat := if t = .f32 then 8 else if t.bits = 16 then 4 else 2
def bodyMdrain (i : Iss) (s : State) : Body :=
  let sub := i.w.sub.toNat
  let space := sub % 4
  let opt := sub / 4
  let x := (i.rdOnce i.w.a).toNat
  let p := (i.rdOnce i.w.b).toNat
  let b := s.starter i.g (maskOf i.lanes) i.cur.pc
  let base : MOp := { id := s.nextId, kind := 4, coord := i.t.coord, byw := b, tile := x, ty := i.w.ty, opt := opt, first := firstOf s i.g }
  let tileLock := mkLock s.nextId i.t.coord 3 false i.t.ctx i.t.id x 16384
  if i.lanes.isEmpty then .ok s
  else if matHold i s then .stall
  else if space = 0 then
    let row0 := p % 64
    let c0 := p / 256 % 64
    let d := regD i
    if p / 64 % 4 ≠ 0 || p / 2 ^ 14 ≠ 0 || c0 % 8 ≠ 0 || d % drainRegs i.w.ty ≠ 0 then matrixThrow i
    else match tileBad i.t x with
      | some c => guardThrow i c x
      | none =>
        let out := i.lanes.filter fun l => 64 ≤ row0 + l
        if !out.isEmpty then .throws (throwsOf i.cur.pc (out.map fun l => (l, eBounds, x)))
        else
          let s' := s.modGroup i.g fun y =>
            { y with regs := i.lanes.foldl (fun r l => (List.range (drainRegs i.w.ty)).foldl (fun r j => r.markV RegSt.emptied l (d + j)) r) y.regs }
          enterMat i s' { base with dst := d, row0 := row0, c0 := c0 } tileLock none (.mdrainStart i.t.coord)
  else
    let sp := if space = 1 then 2 else 1
    let d := (i.rdOnce i.w.d).toNat
    let trip := (i.rdOnce i.w.c).toNat
    let st := p % 2 ^ 16
    let e := p / 2 ^ 16 % 64
    let size := i.w.ty.bits / 8
    let span := 63 * st + 64 * size
    let buf := i.t.buf sp
    let wide := opt ≠ 0
    if p / 2 ^ 22 ≠ 0 || (e ≠ 0 && opt ≠ 2) || st < 64 * size then matrixThrow i
    else if x % 256 ≠ 0 then guardThrow i eAlign x
    else if d % 16 ≠ 0 then guardThrow i eAlign d
    else if st % 16 ≠ 0 then guardThrow i eAlign st
    else if wide && trip % 16 ≠ 0 then guardThrow i eAlign trip
    else if i.t.cbuf.size < x + 16384 then guardThrow i eBounds x
    else if buf.size < d + span then guardThrow i eBounds d
    else if wide && i.t.tm.size < trip + 1024 then guardThrow i eBounds trip
    else
      let lines := ((linesOf d span).map fun l => (sp, l)) ++ if wide then (linesOf trip 1024).map fun l => (1, l) else []
      -- lines that were present, or orphaned with no writer, before the word (R312)
      let fresh := (lines.filter fun l => !(i.t.buf l.1).absent.contains l.2 || (i.t.buf l.1).orphan.contains l.2).eraseDups
      let s' := s.modTeam i.t.id fun t => lines.foldl (fun t l => t.modBuf l.1 fun b => b.clearLines [l.2]) t
      enterMat i s' { base with space := sp, dst := d, stride := st, e := e, trip := trip, cleared := fresh }
        (tileLock ++ mkLock s.nextId i.t.coord sp true i.t.ctx i.t.id d span ++
          if wide then mkLock s.nextId i.t.coord 1 true i.t.ctx i.t.id trip 1024 else []) none (.mdrainStart i.t.coord)
/-- The number from which matrix operations are issued after an MFENCE of the group: it stands while the word is held (R310). -/
def Group.mfenceFrom (g : Group) (now : Nat) : Nat :=
  match g.mfence with
  | some (a, b, n) => if a = g.lastIssue && b = g.catchAt then n else now
  | none => now
/-- MFENCE (R310) holds the group at issue until the operations issued before it have retired; it counts as an engine instruction (R295). -/
def bodyMfence (i : Iss) (s : State) : Body :=
  let n := i.gr.mfenceFrom s.nextId
  let mine (o : MOp) : Bool := o.id < n && if i.w.sub = 0 then o.byw.g == i.g && o.byw.uid == i.gr.uid else o.byw.g.team == i.t.id
  if i.lanes.isEmpty then .ok s
  else if engHold i s then .stall
  else if (s.core i.t.coord).mq.any mine then
    .hold fun s => (s.modGroup i.g fun y => { y with mfence := some (y.lastIssue, y.catchAt, n) }).issueStalls i.cur i.t.coord i.gr.quarter
  else .ok s

def execRsv (w : Full) (s : State) : Host.Outcome State Fault Refusal := execFull .rsv .once bodyRsv w s
def execRls (w : Full) (s : State) : Host.Outcome State Fault Refusal := execFull .rls .once bodyRls w s
def execMzero (w : Full) (s : State) : Host.Outcome State Fault Refusal := execFull .mzero .once bodyMzero w s
def execMma (w : Full) (s : State) : Host.Outcome State Fault Refusal := execFull .mma .once bodyMma w s
def execMmap (w : Full) (s : State) : Host.Outcome State Fault Refusal := execFull .mmap .once bodyMmap w s
def execMmas (w : Full) (s : State) : Host.Outcome State Fault Refusal := execFull .mmas .once bodyMmas w s
def execMdrain (w : Full) (s : State) : Host.Outcome State Fault Refusal := execFull .mdrain .once bodyMdrain w s
def execMfence (w : Full) (s : State) : Host.Outcome State Fault Refusal := execFull .mfence .once bodyMfence w s

end Sys2Proof.Machine
end

