-- ==== Sys2Proof/Machine/Place.lean ====
section
/-! DEFINITION. Frames (R338), patched image copies (R75, R340), what a core can take (R23, R49, R226), fitting rectangles
(R20, R225, R234), and a team as dispatched (R26, R193). -/
namespace Sys2Proof.Machine

/-! Frames. -/

/-- The memory of a range of frames is zeroed: no byte listed, no poison (R338). -/
def Mem.clear (m : Mem) (a n : Nat) : Mem :=
  { cells := m.cells.filter fun x => !(a ≤ x.1 && x.1 < a + n), poison := m.poison.filter fun b => !(a ≤ b * 64 && b * 64 < a + n) }
/-- The first free run of n frames, aligned to n, on a die, from where firmware looks; zeroed. -/
def State.takeRun (s : State) (die n : Nat) : Option (Nat × State) :=
  let k := Config.framesPerDie / n
  let busy := s.framesUsed ++ s.framesBad
  let st := Config.freeFrame s.free
  let at' (i : Nat) : Nat := die * Config.framesPerDie + n * ((st + i) % k)
  let ok (b : Nat) : Bool := !busy.any fun f => b ≤ f && f < b + n
  match (List.range (min k (busy.length + 1))).find? fun i => ok (at' i) with
  | none => none
  | some i =>
    let b := at' i
    some (b, { s with framesUsed := (List.range n).map (fun j => b + j) ++ s.framesUsed, dram := s.dram.clear (b * 4096) (n * 4096), free := s.free + 1 })
/-- A run on a die, or on the next dies in ascending order, wrapping (R338). -/
def State.takeAny (s : State) (die n : Nat) : Option (Nat × State) :=
  (List.range 4).findSome? fun j => s.takeRun ((die + j) % 4) n
def State.takeFrames : Nat → State → Nat → Option (List Nat × State)
  | 0, s, _ => some ([], s)
  | k + 1, s, die =>
    match s.takeAny die 1 with
    | none => none
    | some (f, s1) => (State.takeFrames k s1 die).map fun x => (f :: x.1, x.2)
/-! Tables (R240, R241). DESIGN CHOICE (log 71): a table takes frames of the die of the table above it, or of the next die that has some; one
that is left with no entry stays until its context ends. -/

/-- An entry of a table is written. -/
def State.putEntry (s : State) (t level va : Nat) (w : W64) : State := { s with dram := s.dram.writeN (entryAt t level va) 8 w.toNat }
/-- A frame for a table beneath table t, its entries zero, with the entry that names it. -/
def State.newTable (s : State) (t level va : Nat) : Option (Nat × State) :=
  (s.takeAny (t / Config.framesPerDie) 1).map fun x => (x.1, x.2.putEntry t level va (BitVec.ofNat 64 (1 + x.1 * 4096)))
/-- The table of a level for an address, from table t of level n - 1 down, made where it is missing; none without a frame. -/
def State.tableAt (va level : Nat) : Nat → State → Nat → Option (Nat × State)
  | 0, s, t => some (t, s)
  | l + 1, s, t =>
    if l ≤ level then some (t, s)
    else
      let w := s.dram.entry t l va
      if pteV w && !pteLeaf w then State.tableAt va level l s (ptePfn w)
      else match s.newTable t l va with
        | some (f, s1) => State.tableAt va level l s1 f
        | none => none
def State.freeFrames (s : State) (l : List Nat) : State := { s with framesUsed := s.framesUsed.filter fun f => !l.contains f }
/-- A leaf of a level for an address, with the tables above it; an empty table that stood in its place is given back. -/
def State.setLeaf (s : State) (root va level : Nat) (w : W64) : Option State :=
  (State.tableAt va level 4 s root).map fun x =>
    let old := x.2.dram.entry x.1 level va
    (if pteV old && !pteLeaf old then x.2.freeFrames (tablesFrom x.2.dram level (ptePfn old)) else x.2).putEntry x.1 level va w
/-- The leaf that maps an address is split until it is that of a 4 KiB page (R241). -/
def State.splitPage (va : Nat) : Nat → State → Nat → Option State
  | 0, s, _ => some s
  | l + 1, s, t =>
    let w := s.dram.entry t l va
    if !pteV w then some s
    else if !pteLeaf w then State.splitPage va l s (ptePfn w)
    else if l = 0 then
      let b := va / 2 ^ 16 * 2 ^ 16
      some (if pteS64 w then (List.range 16).foldl (fun s i => s.putEntry t 0 (b + i * 4096) (s.dram.entry t 0 (b + i * 4096) &&& ~~~32#64)) s else s)
    else
      let n := 2 ^ (12 + 9 * (l - 1))
      match s.newTable t l va with
      | none => none
      | some (f, s1) => State.splitPage va l ((List.range 512).foldl (fun s j => s.putEntry f (l - 1) (j * n) (w + BitVec.ofNat 64 (j * n))) s1) f
/-- A 4 KiB page of a context gets another frame, or its first. -/
def State.setFrame (s : State) (root va pfn : Nat) (old : Tr) : Option State :=
  (State.splitPage va 4 s root).bind fun s1 => s1.setLeaf root va 0 (renamedLeaf old pfn false)
/-- Leaves of a range go, large ones that stand out of it split first; with the frames they mapped. -/
def State.dropRange (s : State) (c : Ctx) (va len : Nat) : Option (State × List Nat) :=
  ((State.splitPage va 4 s c.root).bind fun s1 => State.splitPage (va + len - 1) 4 s1 c.root).map fun s2 =>
    let l := (s2.leaves c).filter fun x => va < x.va + x.bytes && x.va < va + len
    (l.foldl (fun s x => { s with dram := s.dram.writeN x.at_ 8 0 }) s2, l.flatMap LeafAt.frames)

/-! Images. -/

/-- A recorded coordinate moved to an origin (R75). -/
def patchByte (o : Nat) (b : Nat) : Nat :=
  Config.mkCoord (Config.coordDie o) ((Config.coordRow b + Config.coordRow o) % 8) ((Config.coordCol b + Config.coordCol o) % 8)
def align8 (x : Nat) : Nat := (x + 7) / 8 * 8
/-- The unpatched code and data of an image stream (R340). -/
def Image.code (im : Image) : List Byte := im.got.take im.body.codeSize
def Image.data (im : Image) : List Byte := (im.got.drop (align8 im.body.codeSize)).take im.body.dataSize
/-- A recorded code byte as patched for an origin, from the unpatched image (R75). -/
def Image.recorded (im : Image) (o at_ : Nat) : Byte := BitVec.ofNat 8 (patchByte o (im.code.getD at_ 0).toNat)
def Image.patched (im : Image) (o : Nat) : List Byte :=
  (im.relocs.filter fun r => r.2 = 0).foldl (fun b r => modNth b r.1 fun _ => im.recorded o r.1) im.code
def putBytes (m : Mem) (l : List (Nat × List Byte)) : Mem := l.foldl (fun m x => m.writeBytes x.1 x.2) m
/-- Bytes of a context's memory through its own mapping, zeros where there is none. -/
def State.ctxBytes (s : State) (ctx va n : Nat) : List Byte :=
  (List.range n).map fun j =>
    match s.walkCtx ctx (va + j) with
    | .ok x => s.dram.read1 x.pa
    | _ => 0
def State.ctxWrite (s : State) (ctx va : Nat) (b : List Byte) : State :=
  { s with dram := (b.mapIdx fun j x => (j, x)).foldl (fun (m : Mem) (p : Nat × Byte) =>
      match s.walkCtx ctx (va + p.1) with
      | .ok x => m.writeBytes x.pa [p.2]
      | _ => m) s.dram }.evalCounters
/-- A code byte of the patched copy at an origin, in the frames of its pages from the page of the code base on. -/
def Image.copyByte (im : Image) (fs : List Nat) (at_ : Nat) : Nat :=
  let a := im.body.codeBase % 4096 + at_
  fs.getD (a / 4096) 0 * 4096 + a % 4096
/-- The patched copy of an image at an origin is there: made in firmware's own frames if it was not (R340), else its recorded bytes are
rewritten (R75). DESIGN CHOICE (log 73): the rest of a code page that the image covers in part is what the context's page holds when the
copy is made, and the origin's teams then see the copy. -/
def State.withCopy (s : State) (num origin : Nat) : Option State :=
  match s.image? num with
  | none => none
  | some im =>
    match im.copies.find? fun c => c.1 == origin with
    | some c => some { s with dram := putBytes s.dram ((im.relocs.filter fun r => r.2 = 0).map fun r => (im.copyByte c.2 r.1, [im.recorded origin r.1])) }
    | none =>
      let b := im.body.codeBase / 4096 * 4096
      let pages := (im.body.codeBase + im.body.codeSize - b + 4095) / 4096
      match State.takeFrames pages s (Config.coordDie origin) with
      | none => none
      | some (fs, s1) =>
        let whole := modBytes (s.ctxBytes im.ctx b (pages * 4096)) (im.body.codeBase - b) (im.patched origin)
        some { s1 with
          dram := putBytes s1.dram (fs.mapIdx fun j f => (f * 4096, (whole.drop (j * 4096)).take 4096))
          images := s1.images.map fun x => if x.num = num then { x with copies := x.copies ++ [(origin, fs)] } else x }
where modBytes (l : List Byte) (o : Nat) (b : List Byte) : List Byte := l.take o ++ b ++ l.drop (o + b.length)
/-- Where the copy of an image at an origin holds a byte of an address, when its page is one of the copy's (R340). -/
def Image.inCopy (im : Image) (origin va : Nat) : Option Nat :=
  let b := im.body.codeBase / 4096
  ((im.copies.find? fun c => c.1 == origin).bind fun c => if va / 4096 < b then none else c.2[va / 4096 - b]?).map fun f => f * 4096 + va % 4096
/-- A data byte as the clusters of an origin see it. -/
def State.dataByte (s : State) (im : Image) (origin va : Nat) : Byte :=
  match im.inCopy origin va with
  | some pa => s.dram.read1 pa
  | none => (s.ctxBytes im.ctx va 1).headD 0
/-- A data byte is rewritten in the data segment, and in the copy where that holds it. -/
def State.setData (s : State) (im : Image) (origin va : Nat) (b : Byte) : State :=
  let s := s.ctxWrite im.ctx va [b]
  match im.inCopy origin va with
  | some pa => { s with dram := s.dram.writeBytes pa [b] }
  | none => s
/-- Recorded data bytes are rewritten from the unpatched image at the origin (R75, R340). -/
def State.patchData (s : State) (num origin : Nat) : State :=
  match s.image? num with
  | none => s
  | some im => (im.relocs.filter fun r => r.2 ≠ 0).foldl (fun s r =>
      s.setData im origin (im.body.dataVa + r.1) (BitVec.ofNat 8 (patchByte origin (im.data.getD r.1 0).toNat))) s

/-! Room on a core. -/

def Kern.slots (k : Kern) : Nat := k.groups + k.spawnSlots
/-- What a team asks of a core. -/
structure Need where
  kern : Kern
  abuf : Nat
  wbuf : Nat
  cbuf : Nat
  launch : Nat
  sep : Bool
  urgent : Bool
  /-- The cluster of a catch team, whose reserved cores it may use (R52). -/
  own : Option (Nat × Nat) := none
  deriving DecidableEq, Repr
/-- The core may be given work: offered, not drained, its die not stopped by heat, not reserved (R52, R317, R328, R349). -/
def State.openCore (s : State) (c : Nat) (own : Option (Nat × Nat)) : Bool :=
  s.offered c && !(s.core c).draining && !(s.core c).testing && spGet 0 s.issueRow (Config.coordDie c) < 2 &&
  !s.clusters.any fun k => k.catchOnly && own != some (k.launch, k.id) && (rectCores k.origin k.w k.h).contains c
def State.coreTakes (s : State) (c : Nat) (n : Need) : Bool :=
  let l := s.resident c
  let sum (f : Team → Nat) : Nat := (l.map f).sum
  s.openCore c n.own &&
  sum (fun t => t.kern.slots * t.kern.width * t.kern.regs * 4) + n.kern.slots * n.kern.width * n.kern.regs * 4 ≤ 524288 &&
  sum (fun t => t.kern.slots * t.kern.width) + n.kern.slots * n.kern.width ≤ 2048 &&
  sum (fun t => t.kern.teamBytes + 6144) + n.kern.teamBytes + 6144 ≤ 524288 &&
  sum (fun t => t.abuf.size) + n.abuf ≤ 1048576 && sum (fun t => t.wbuf.size) + n.wbuf ≤ 2097152 &&
  sum (fun t => t.cbuf.size) + n.cbuf ≤ 524288 &&
  !(n.kern.flags % 2 = 1 && l.any fun t => t.kern.flags % 2 = 1) &&
  !(n.kern.flags / 2 % 2 = 1 && l.any fun t => t.kern.flags / 2 % 2 = 1) &&
  !(n.sep && l.any fun t => t.launch == n.launch)
def State.isFree (s : State) (c : Nat) : Bool := s.offered c && (s.resident c).isEmpty
/-- The vigil reserve stays whole: a normal team takes a free core only while enough others remain (R234); a context may have its own
number (R330). -/
def State.vigilOk (s : State) (die : Nat) (cores : List Nat) (n : Need) : Bool :=
  let used := (cores.filter fun c => s.isFree c).length
  let reserve := (((s.launch? n.launch).bind fun l => s.ctx? l.ctx).bind fun c => c.p.vigil).getD s.vigil
  n.urgent || used = 0 || reserve + used ≤ ((Config.dieCoords die).filter fun c => s.isFree c).length
def origins (die w h : Nat) : List Nat := (List.range (7 - h)).flatMap fun r => (List.range (9 - w)).map fun c => Config.mkCoord die r c
/-- Fitting rectangles of a die, by origin row, then column (R226). -/
def State.fitting (s : State) (die : Nat) (n : Need) : List Nat :=
  (origins die n.kern.cw n.kern.ch).filter fun o =>
    let cs := rectCores o n.kern.cw n.kern.ch
    cs.all (fun c => s.coreTakes c n) && s.vigilOk die cs n
/-- The rectangle a cluster is dispatched onto: an urgent one takes free cores first (R226, R234). -/
def State.rectFor (s : State) (die : Nat) (n : Need) : Option Nat :=
  let l := s.fitting die n
  if n.urgent then
    match l.find? fun o => (rectCores o n.kern.cw n.kern.ch).all fun c => s.isFree c with
    | some o => some o
    | none => l.head?
  else l.head?
/-- The shape fits some rectangle of offered cores of a die (R20). -/
def State.shapeFits (s : State) (die w h : Nat) : Bool :=
  1 ≤ w && w ≤ 8 && 1 ≤ h && h ≤ 6 && w * h ≤ 12 && (origins die w h).any fun o => (rectCores o w h).all fun c => s.offered c
def State.freeCount (s : State) (die : Nat) : Nat := ((Config.dieCoords die).filter fun c => s.isFree c).length

/-! A team as dispatched. -/

/-- MODE as the launch gives it, else the default of R26. -/
def launchMode (b : LaunchBody) : W64 := if b.flags.getLsbD 0 then b.mode &&& modeBits else BitVec.ofNat 64 (16 + 20 * 65536)
def freshGroup (slot quarter role width : Nat) (live : W64) (entry : Nat) (mode : W64) (now : Nat) : Group :=
  { slot := slot, quarter := quarter, role := role, width := width, phase := if live = 0 then .exited else .ready, launched := live, live := live,
    pcs := (lanesOf live).foldl (fun p l => spPut 0 p l (BitVec.ofNat 32 entry)) [], mode := mode, lastIssue := now, nextOk := now }
/-- Lanes of parent group g out of `lanes` (R22). -/
def parentLanes (lanes width g : Nat) : W64 := lowMask (min width (lanes - g * width))
def stagesOf (k : Kern) : Sparse Stage :=
  (List.range 8).foldl (fun l r => (List.range (k.stages.getD r 0)).foldl (fun l st => spPut {} l (16 * r + st) { target := k.target.getD r 1 }) l) []
def Kern.role (k : Kern) (g : Nat) : Nat := k.roles / 4 ^ g % 4
def bodyKern (l : Launch) : Kern := l.kern
/-- The region that a new team takes on a core (R194). DESIGN CHOICE (log 75): the lowest number that no team of the core, on it or away, has. -/
def State.freeRegion (s : State) (coord : Nat) : Nat :=
  let used := (s.teams.filter fun t => t.coord == coord && t.place != .ended).map fun t => t.region
  ((List.range (used.length + 1)).find? fun r => !used.contains r).getD 0
/-- A team with the state of R26 and R193 on a core. -/
def freshTeam (s : State) (l : Launch) (kern : Kern) (lanes : Nat) (cluster pos coord origin entry : Nat) (task : Option (Nat × Nat)) (args join : Nat) : Team :=
  let i := cluster * kern.cw * kern.ch + pos
  let mode := launchMode l.body
  { id := s.nextTeam, launch := l.grid, ctx := l.ctx, cluster := cluster, pos := pos, coord := coord, origin := origin, task := task, args := args,
    order := s.nextTeam, kern := kern,
    groups := (List.range kern.groups).map fun g => { freshGroup g (g % 4) (kern.role g) kern.width (parentLanes lanes kern.width g) entry mode s.clock with join := join },
    tm := { size := kern.teamBytes }, abuf := { size := l.body.abuf }, wbuf := { size := l.body.wbuf }, cbuf := { size := l.body.cbuf },
    region := s.freeRegion coord, gen := spGet 0 (s.core coord).gens (s.freeRegion coord), stages := stagesOf kern,
    queues := (List.range 4).map fun q => { cap := kern.qcap.getD q 0, base := l.body.qBase.getD q 0 + 32 * kern.qcap.getD q 0 * i } }
/-- The context's time slice on the core starts with its first team there (R233). -/
def State.startSlice (s : State) (coord ctx : Nat) : State :=
  if (s.core coord).slices.any fun x => x.1 == ctx then s
  else
    let n := ((s.ctx? ctx).map fun c => c.p.slice).getD Config.defaultSlice
    (s.modCore coord fun c => { c with slices := c.slices ++ [(ctx, s.ctxClock ctx + n)] }).sched (s.clock + n) (.timeSliceExpire coord ctx)
/-- The team is on its core: the L1 is invalidated, the core has run its launch (R182, R227, R319). -/
def State.addTeam (s : State) (t : Team) : State :=
  let s := s.dropL1 t.coord
  let s := s.modCore t.coord fun c =>
    { c with
      launches := if c.launches.contains t.launch then c.launches else c.launches ++ [t.launch]
      tasksRun := match t.task with
        | some k => c.tasksRun ++ [k]
        | none => c.tasksRun }
  { s with teams := s.teams ++ [t], nextTeam := s.nextTeam + 1 }.startSlice t.coord t.ctx
/-- The lists are served after something has freed: the leader's, then each die's (R225, R226). -/
def State.kick (s : State) : State :=
  (List.range 4).foldl (fun s d => s.sched (s.clock + 1) (.clusterDispatch d)) (s.sched (s.clock + 1) .clusterAssign)

end Sys2Proof.Machine
end

