-- ==== Sys2Proof/Machine/Cancel.lean ====
section
/-! DEFINITION. What a throw cancels (R54, R178, R208, R263, R291, R312): the work that members of the region started inside it,
given as the lanes of each starter that are members inside. -/
namespace Sys2Proof.Machine

/-- Everything that a team started, for a team that is stopped whole (R52, R283). -/
def ofTeam (t : Nat) (b : Starter) : W64 := if b.g.team = t then b.lanes else 0
/-- The lanes that a piece of work still stands for. -/
def State.restOf (s : State) (b : Starter) (m : W64) : W64 := s.liveBy b &&& ~~~m

/-- Registers of lanes are made void (R53). -/
def State.voidDst (s : State) (g : GRef) (lanes : List Nat) (d : MDst) : State :=
  s.modGroup g fun y => { y with regs := lanes.foldl (fun r l => r.markDst RegSt.voided l d) y.regs }
def voidRun (r : Regs) (l d n : Nat) : Regs := (List.range n).foldl (fun r j => r.markV RegSt.voided l (d + j)) r
def MDst.isReg : MDst → Bool
  | .v _ _ _ | .s _ _ => true
  | _ => false

/-! Loads, atomics and steals. -/

def State.cancelLoads (s : State) (ins : Starter → W64) : State :=
  s.loads.foldl (fun (s : State) (r : LoadReq) =>
    let m := ins r.byw &&& ~~~r.dead
    if m = 0 then s
    else
      -- the one value of an s destination is the word's: it is lost when no lane is left that waits for it
      let s : State := match r.dst with
        | .s _ _ => if s.restOf r.byw (m ||| r.dead) = 0 then s.voidDst r.byw.g [0] r.dst else s
        | .v _ _ _ => s.voidDst r.byw.g ((r.accs.map fun (a : Acc) => a.lane).filter fun l => m.getLsbD l) r.dst
        | _ => s
      { s with loads := s.loads.map fun x => if x.id = r.id then { x with dead := x.dead ||| m } else x }) s
def State.cancelAtoms (s : State) (ins : Starter → W64) : State :=
  let s := (s.path.filter fun e => e.kind == .atom && e.reg ≠ 256 && (ins e.byw &&& s.liveBy e.byw).getLsbD e.lane).foldl (fun s e =>
    let s := s.voidDst e.byw.g [e.lane] (.v e.reg e.ty false)
    { s with path := s.path.map fun x => if x.id = e.id then { x with reg := 256 } else x }) s
  (s.atoms.filter fun r => !r.dead && (ins r.byw &&& s.liveBy r.byw).getLsbD r.lane).foldl (fun s r =>
    let s := s.voidDst r.byw.g [r.lane] (.v r.reg r.ty false)
    { s with atoms := s.atoms.map fun x => if x.id = r.id then { x with dead := true } else x }) s
def State.cancelSteals (s : State) (ins : Starter → W64) : State :=
  (s.steals.filter fun r => !r.dead && r.state < 2 && (ins r.byw).getLsbD r.lane).foldl (fun s r =>
    let s := s.modGroup r.byw.g fun y => { y with regs := voidRun y.regs r.lane r.reg 8 }
    { s with steals := s.steals.map fun x => if x.id = r.id then { x with dead := true } else x }) s

/-! Waits of a group. -/

/-- A held word loses lanes; none left, it performs no access (R53, R244, R291). -/
def MemWord.without (w : MemWord) (m : W64) : MemWord :=
  let rest := w.byw.lanes &&& ~~~m
  { w with
    byw := { w.byw with lanes := rest }
    exec := w.exec &&& ~~~m
    accs := if w.accs.length = 1 then w.accs.map fun a => { a with lane := (lanesOf rest).headD a.lane } else w.accs.filter fun a => !m.getLsbD a.lane
    saved := w.saved.filter fun x => !m.getLsbD (x.1 / 256) }
/-- A word that waits for a line which the throw itself orphans, as it does in `h`, performs no access for any lane (R291). -/
def Group.heldWhole (h : State) (t : Nat) (g : Group) : Bool :=
  match g.wake, g.held, h.team? t with
  | some .line, some w, some x => w.accs.any fun a => (w.lines a).any fun l => (x.buf w.space).orphan.contains l
  | _, _, _ => false
/-- A held word loses the lanes that are members inside; the rest of it stands for the other lanes (R53), unless its group, a member, waits
for a line that the throw orphans. -/
def State.cancelHeld (s : State) (whole : Bool) (g : GRef) (ins : Starter → W64) : State :=
  match s.group? g with
  | none => s
  | some gr =>
    match gr.held with
    | none => s
    | some w =>
      let m := ins w.byw
      let whole := whole || (m ≠ 0 && s.restOf w.byw m = 0)
      if m = 0 && !whole then s
      else
        let s := match w.dst with
          | .s _ _ => if whole then s.voidDst g [0] w.dst else s
          | _ => s.voidDst g ((w.accs.map fun (a : Acc) => a.lane).filter fun l => whole || m.getLsbD l) w.dst
        s.modGroup g fun y => { y with held := if whole then none else some (w.without m) }
/-- A service call that is abandoned is awaited no more (R54, R236). -/
def State.dropCalls (s : State) (ctx : Nat) (g : GRef) (m : W64) : State :=
  s.modCtx ctx fun c => { c with calls := c.calls.filter fun x => !(x.2.1 == g && m.getLsbD x.2.2.1) }
/-- The codes of a TRAP's replies are thrown as its group resumes (R211). -/
def State.endTrap (s : State) (g : GRef) : State :=
  match s.group? g with
  | some gr =>
    if gr.trapStatus.isEmpty || !gr.trapLanes.isEmpty then s
    else (s.modGroup g fun y => { y with trapStatus := [] }).raise g (gr.trapStatus.map fun x => ⟨x.1, x.2.1, gr.wakeBy.pc, x.2.2⟩)
  | none => s
/-- The group whose every lane is answered wakes, with an acquire at system scope; one that is evicted is restored (R211, R237). -/
def State.answered (s : State) (g : GRef) : State :=
  match s.group? g with
  | none => s
  | some gr =>
    if gr.wake ≠ some .trapReply || !gr.trapLanes.isEmpty then s
    else
      let s := s.wakeGroup g
      if gr.phase = .evicted then s.sched (s.clock + 1) (.trapResume g) else (s.acquire g 5).endTrap g
/-- TRAP's lanes leave; their destinations become void (R54). -/
def State.cancelTrap (s : State) (t : Team) (g : GRef) (m : W64) : State :=
  let s := s.dropCalls t.ctx g m
  s.modGroup g fun y =>
    let gone := y.trapLanes.filter fun l => m.getLsbD l
    { y with
      regs := gone.foldl (fun r l => voidRun r l y.trapDst (if y.trapWide then 2 else 1)) y.regs
      trapBlocks := y.trapBlocks.filter fun b => !m.getLsbD ((b.getD 2 0).toNat)
      trapLanes := y.trapLanes.filter fun l => !m.getLsbD l
      trapStatus := y.trapStatus.filter fun x => !m.getLsbD x.1 }
/-- A barrier arrival is withdrawn; the instance keeps its count (R208). A complete instance keeps its arrivals. -/
def BarSt.without (b : BarSt) (inst slot : Nat) : BarSt := if b.inst = inst then { b with arrived := b.arrived.filter fun a => a.1 ≠ slot } else b
def Team.dropBar (t : Team) (cl : Bool) (id inst slot : Nat) : Team :=
  if cl then { t with barcs := spPut {} t.barcs id ((spGet {} t.barcs id).without inst slot) }
  else { t with bars := spPut {} t.bars id ((spGet {} t.bars id).without inst slot) }
/-- Every arrival of a team at BARC is withdrawn (R208); with the team's own arrival at the cluster's open instance, it counts anew toward
that instance. Each instance keeps the count that its first arrival fixed. -/
def BarSt.withdrawn (b : BarSt) : BarSt :=
  match b.closed with
  | [] => { b with arrived := [] }
  | x :: _ => { inst := x.1, count := spGet none b.counts x.1, counts := spPut none (spPut none b.counts b.inst b.count) x.1 none }
/-- Lanes of a waiting QPOP leave without a record; their registers become void (R54). -/
def State.dropWaiter (s : State) (t : Team) (g : GRef) (q : Nat) (m : W64) : State :=
  let mine := ((t.queue q).waiters.filter fun w => w.1 == g.slot).flatMap fun w => w.2.filter fun p => m.getLsbD p.1
  let cut (w : Nat × List (Nat × Nat)) : Nat × List (Nat × Nat) := if w.1 = g.slot then (w.1, w.2.filter fun p => !m.getLsbD p.1) else w
  let s := s.modQueue t.id q fun x => { x with waiters := (x.waiters.map cut).filter fun w => !w.2.isEmpty }
  (s.modGroup g fun y => { y with regs := mine.foldl (fun r p => voidRun r p.1 p.2 8) y.regs }).serve t.id q
/-- The wait of a group, as far as members inside started it, is abandoned; a barrier arrival is withdrawn (R54, R208). `h` holds the
lines that the throw orphans, `mem` names the groups that it steers (R291). -/
def State.cancelWait (s : State) (h : State) (g : GRef) (ins : Starter → W64) (mem : Team → Group → Bool) : State :=
  match s.team? g.team, s.group? g with
  | some t, some gr =>
    let m := ins gr.wakeBy
    let lost := gr.heldWhole h g.team && mem t gr
    let whole := lost || s.restOf gr.wakeBy m = 0
    let s := s.cancelHeld lost g ins
    match gr.wake with
    | none => s
    | some w =>
      if m = 0 && !lost then s
      else
        let s := match w with
          | .trapSlot | .trapReply => s.cancelTrap t g m
          | .queue q => s.dropWaiter t g q m
          | .fault r => if whole then s.withdrawFault r else s
          | .bar id n => if whole then s.modTeam t.id fun x => x.dropBar false id n gr.slot else s
          | .barc id n => if whole then s.modTeam t.id fun x => x.dropBar true id n gr.slot else s
          | _ => s
        if whole then s.wakeGroup g
        -- the replies of the other lanes may all be written
        else (s.modGroup g fun y => { y with wakeBy := { y.wakeBy with lanes := y.wakeBy.lanes &&& ~~~m } }).answered g
  | _, _ => s
/-- A group whose awaited remote loads are all gone wakes (R162). -/
def State.wakeRemote (s : State) (g : GRef) : State :=
  match s.group? g with
  | some gr =>
    let mine (b : Starter) : Bool := b.g == g && b.uid == gr.uid
    let alive (b : Starter) (l : Nat) : Bool := (s.liveBy b).getLsbD l
    let waits := (s.loads.any fun r => r.remote && mine r.byw && s.restOf r.byw r.dead ≠ 0) ||
      (s.atoms.any fun r => r.remote && !r.dead && mine r.byw && alive r.byw r.lane) ||
      s.path.any fun e => e.kind == .atom && e.reg ≠ 256 && mine e.byw && alive e.byw e.lane && e.space = 0 &&
        homeDie e.pa ≠ Config.coordDie e.coord
    if gr.wake = some .remote && !waits then s.wakeGroup g
    else s
  | none => s

/-! Matrix operations (R312). -/

/-- Bytes that the spec calls undefined: free ones. -/
def State.blurTeam (s : State) (tid space a n : Nat) : State :=
  let d := s.drawBytes n
  d.2.writeTeam tid space a d.1
def MOp.lines (o : MOp) : List (Nat × Nat) :=
  if o.kind ≠ 4 || o.space = 0 then []
  else (linesOf o.dst (63 * o.stride + 64 * (o.ty.bits / 8))).map (fun l => (o.space, l)) ++
    if o.opt ≠ 0 then (linesOf o.trip 1024).map fun l => (1, l) else []
/-- Operations ahead of one in a core's queue. -/
def aheadOf (q : List MOp) (id : Nat) : List MOp := q.takeWhile fun x => x.id != id
def State.modMOp (s : State) (id : Nat) (f : MOp → MOp) : State :=
  { s with cores := s.cores.map fun (c : Core) => { c with mq := c.mq.map fun x => if x.id = id then f x else x } }
/-- The operation leaves the queue of its core, and of its follower. -/
def State.removeMOp (s : State) (o : MOp) : State :=
  let s := s.endLocks o.id
  let s := { s with cores := s.cores.map fun (c : Core) => { c with mq := c.mq.filter fun x => x.id != o.id } }
  (s.sched (s.clock + 1) (.matrixOpStart o.coord)).sched (s.clock + 1) (.mdrainStart o.coord)
/-- The team of the follower core of a pair-wide operation. -/
def State.followerTeam (s : State) (t : Team) (coord : Nat) : Option Team :=
  s.teams.find? fun x => x.launch == t.launch && x.cluster == t.cluster && x.coord == coord && x.place != .ended && x.task == t.task
/-- The tile of a started array operation is undefined, but for what a later MZERO that has started made zero (R294). -/
def State.blurTile (s : State) (o : MOp) (coord tid : Nat) : State :=
  match s.team? tid with
  | none => s
  | some t =>
    let zeros := (((s.core coord).mq.dropWhile fun x => x.id != o.id).filter fun x => x.kind = 0 && x.state ≠ 0 && x.byw.g.team = tid && x.id ≠ o.id).map fun x => x.tile
    let d := s.drawBytes 16384
    d.2.writeTeam tid 3 o.tile (d.1.mapIdx fun j b => if zeros.any fun z => z ≤ o.tile + j && o.tile + j < z + 16384 then t.cbuf.mem.read1 (o.tile + j) else b)
/-- The tiles of a started array operation are undefined, on both cores of a pair-wide one. -/
def State.blurTiles (s : State) (o : MOp) : State :=
  let s := s.blurTile o o.coord o.byw.g.team
  match o.follower, s.team? o.byw.g.team with
  | some f, some t =>
    match s.followerTeam t f with
    | some x => s.blurTile o f x.id
    | none => s
  | _, _ => s
/-- The team on whose tile an operation in a core's queue works there. -/
def State.tileTeam (s : State) (coord : Nat) (o : MOp) : Nat :=
  if o.coord = coord then o.byw.g.team
  else (((s.team? o.byw.g.team).bind fun t => s.followerTeam t coord).map fun t => t.id).getD 0
/-- The array operations of its team ahead of a drain in its queue keep the lines it writes as they stood: they are performed before it (R294). A line
that a copy is still on its way to is no operand of an unstarted one yet (R307). -/
def State.keepOld (s : State) (d : MOp) : State :=
  match s.team? d.byw.g.team with
  | none => s
  | some t =>
    let mine (x : MOp) : Bool := x.kind ≠ 4 && x.state ≤ 1 && s.tileTeam d.coord x = t.id
    let lines (x : MOp) : List Nat := (d.lines.filter fun l => l.1 = 2 && (x.state = 1 || d.cleared.contains l || !t.abuf.absent.contains l.2)).map fun l => l.2
    ((aheadOf (s.core d.coord).mq d.id).filter mine).foldl (fun s x => s.modMOp x.id fun y => { y with kept := y.kept ++ [(d.coord, t.abuf.mem, lines x)] }) s
/-- What a started drain writes is undefined. -/
def State.blurDrain (s : State) (o : MOp) : State :=
  let s := s.keepOld o
  let t := o.byw.g.team
  let s := (List.range 64).foldl (fun s r => s.blurTeam t o.space (o.dst + r * o.stride) (64 * (o.ty.bits / 8))) s
  if o.opt = 0 then s else s.blurTeam t 1 o.trip 1024
def State.presentLines (s : State) (tid : Nat) (l : List (Nat × Nat)) : State :=
  if l.isEmpty then s else (s.modTeam tid fun y => l.foldl (fun y x => y.modBuf x.1 fun b => b.setLines [x.2]) y).wakeLines tid
def State.orphanLines (s : State) (tid : Nat) (l : List (Nat × Nat)) : State :=
  if l.isEmpty then s else (s.modTeam tid fun y => l.foldl (fun y x => y.modBuf x.1 fun b => b.orphanLines [x.2]) y).wakeLines tid
/-- The array of a core that an operation occupies is free again at once. -/
def State.freeArray (s : State) (o : MOp) : State :=
  if o.state ≠ 1 then s
  else (o.coord :: o.follower.toList).foldl (fun s c => (s.modCore c fun x => { x with arrayFree := min x.arrayFree (s.clock + 1) }).sched (s.clock + 1) (.matrixOpStart c)) s
def voidDrain (s : State) (o : MOp) (m : W64) : State :=
  s.modGroup o.byw.g fun y => { y with regs := ((lanesOf m).filter fun l => o.byw.lanes.getLsbD l).foldl (fun r l => voidRun r l o.dst (drainRegs o.ty)) y.regs }
/-- One matrix operation, with the lanes of it that are members inside. -/
def State.cancelMOp (s : State) (o : MOp) (m : W64) : State :=
  let tid := o.byw.g.team
  if o.kind = 0 then s
  else if o.kind ≠ 4 then
    (if o.state = 0 then s else (s.blurTiles o).freeArray o).removeMOp o
  else if o.space ≠ 0 then
    (if o.state = 0 then s.presentLines tid o.cleared else (s.blurDrain o).orphanLines tid o.lines).removeMOp o
  else
    let s := voidDrain s o (m &&& ~~~o.dead)
    if o.state = 0 && s.restOf o.byw (m ||| o.dead) = 0 then s.removeMOp o
    else { s with cores := s.cores.map fun (c : Core) => { c with mq := c.mq.map fun x => if x.id = o.id then { x with dead := x.dead ||| m } else x } }
def State.matrixOps (s : State) : List MOp := s.cores.flatMap fun c => c.mq.filter fun o => o.coord = c.coord
def State.cancelMatrix (s : State) (ins : Starter → W64) : State :=
  (s.matrixOps.filter fun o => ins o.byw ≠ 0).foldl (fun s o => s.cancelMOp o (ins o.byw)) s

/-! Copies and streams. -/

/-- Streams that members started, of teams on their cores or away, with their teams and queues. -/
def State.streamsIn (s : State) (ins : Starter → W64) : List (Nat × Nat × StreamDesc) :=
  s.teams.flatMap fun t => ((s.teamStreams t).filter fun x => ins x.2.byw ≠ 0).map fun x => (t.id, x.1, x.2)
def State.opsIn (s : State) (ins : Starter → W64) : List Nat :=
  (s.ops.filter fun o => !o.stopped && !s.sentOnly o && (match o.kind with
    | .cpy | .cpyt _ _ => true
    | _ => false) && o.throwers.any fun b => ins b ≠ 0).map fun o => o.id

/-! The whole. -/

/-- Bits 1 and 4 of FLAGS: copies, streams and matrix operations that a throw cancels (R54, R217). -/
def State.cancelFlags (s : State) (ins : Starter → W64) : Nat :=
  let copies := !(s.streamsIn ins).isEmpty || !(s.opsIn ins).isEmpty
  let mats := s.matrixOps.any fun o => o.kind ≠ 0 && ins o.byw ≠ 0 && (o.kind ≠ 4 || o.space ≠ 0)
  copies.toNat * 2 + mats.toNat * 16
/-- The registers of live lanes that are void (R55): team, slot and register. -/
def State.voidRegs (s : State) : List (Nat × Nat × Nat) :=
  s.teams.flatMap fun t => t.groups.flatMap fun g =>
    ((g.regs.v.filter fun x => x.2.st.void && g.live.getLsbD (x.1 / 256)).map fun x => (t.id, g.slot, x.1)) ++
      if g.live = 0 then [] else (g.regs.s.filter fun x => x.2.st.void).map fun x => (t.id, g.slot, 65536 + x.1)
/-- The arrivals that stand at barriers (R206, R207): team, BARC or BAR, id, instance, and the group, or the team's own at its cluster's. -/
def State.arrivals (s : State) : List (Nat × Bool × Nat × Nat × Option Nat) :=
  (s.teams.flatMap fun t =>
    let of (cl : Bool) (l : Sparse BarSt) : List (Nat × Bool × Nat × Nat × Option Nat) := l.flatMap fun b =>
      (b.2.arrived.map fun a => (t.id, cl, b.1, b.2.inst, some a.1)) ++ b.2.closed.flatMap fun c => c.2.map fun a => (t.id, cl, b.1, c.1, some a.1)
    of false t.bars ++ of true t.barcs) ++
  s.clusters.flatMap fun c => (s.teams.filter fun t => t.launch == c.launch && t.cluster == c.id).flatMap fun t =>
    c.barc.flatMap fun b => (b.2.2.filter fun a => a.1 == t.pos).map fun a => (t.id, true, b.1, a.2, none)
/-- Bits 2 and 3 of FLAGS: a barrier arrival is gone, a register has become void (R217). -/
def lossFlags (s t : State) : Nat :=
  (s.arrivals.any fun a => !t.arrivals.contains a).toNat * 4 + (t.voidRegs.any fun x => !s.voidRegs.contains x).toNat * 8
/-- The work started inside is cancelled; `mem` names the groups that are members. -/
def State.cancelInside (s : State) (ins : Starter → W64) (whole : Team → Bool) (mem : Team → Group → Bool) : State :=
  -- the work of members is told by the state before anything is removed
  let sts := s.streamsIn ins
  let ops := s.opsIn ins
  let stop (s : State) : State :=
    ops.foldl (fun s o => s.stopOp o true) (sts.foldl (fun s x => s.stopDesc x.1 x.2.1 x.2.2) (s.cancelMatrix ins))
  let h := stop s
  let s := ((s.cancelLoads ins).cancelAtoms ins).cancelSteals ins
  let s := s.teams.foldl (fun s t => t.groups.foldl (fun s g => (s.cancelWait h ⟨t.id, g.slot⟩ ins mem).wakeRemote ⟨t.id, g.slot⟩) s) s
  let s := (s.teams.filter whole).foldl (fun s t =>
    let s := s.modTeam t.id fun x =>
      { x with
        bars := x.bars.foldl (fun l b => spPut {} l b.1 { b.2 with arrived := [] }) []
        barcs := x.barcs.foldl (fun l b => spPut {} l b.1 b.2.withdrawn) [] }
    s.modCluster t.launch t.cluster fun c =>
      { c with barc := c.barc.foldl (fun l b => spPut (0, []) l b.1 (b.2.1, b.2.2.filter fun p => p.1 ≠ t.pos)) [] }) s
  stop s

end Sys2Proof.Machine
end

