-- ==== Sys2Proof/Machine/Tasks.lean ====
section
/-! DEFINITION. Tasks (R279 to R283): start with renaming, commit, finish, rollback and discard; and the forced end of a team. -/
namespace Sys2Proof.Machine

def State.modTask (s : State) (d k : Nat) (f : Task → Task) : State :=
  { s with tasks := s.tasks.map fun x => if x.die = d ∧ x.id = k then f x else x }
def State.task? (s : State) (d k : Nat) : Option Task := s.tasks.find? fun x => x.die == d && x.id == k

/-! A team stopped whole (R52, R57, R283). -/

/-- Spawn records of teams that have not reached a group slot are discarded (R52). -/
def State.dropSpawns (s : State) (mine : Nat → Bool) : State :=
  let gone := s.ops.filter fun o => mine o.team && match o.kind with
    | .spawnOut _ | .spawnIn _ => true
    | _ => false
  let s := gone.foldl (fun s o => s.dropOp o) s
  let s : State := { s with
    cores := s.cores.map fun (c : Core) => { c with spawnq := c.spawnq.filter fun x => !mine x.1, packs := c.packs.filter fun p => !mine p.team }
    teams := s.teams.map fun (t : Team) => if mine t.id then { t with ringHead := t.ringTail, ringGone := [], savedSpawns := [], offSpawns := [] } else t }
  -- the places that came free let other teams' rings refill the queues (R45)
  s.cores.foldl (fun s c => s.askRings c.coord) s
/-- Every group of a team exits, with no join addition. -/
def State.exitTeam (s : State) (t : Team) : State :=
  t.groups.foldl (fun s g => if g.live = 0 then s else s.endLanes ⟨t.id, g.slot⟩ g.live) s
/-- A team is stopped as a grid throw stops it, and is never caught (R283). -/
def State.stopTeam (s : State) (tid : Nat) : State :=
  match s.team? tid with
  | none => s
  | some t =>
    let s := (s.cancelInside (ofTeam tid) (fun x => x.id == tid) fun x _ => x.id == tid).dropSpawns fun i => i == tid
    let s := { s with steers := s.steers.filter fun x => match x.region with
      | .group a _ _ | .team a _ => a != tid
      | .grid _ => true }
    s.exitTeam t

/-! Rollback and discard. -/

/-- Tasks that depend on a given one, directly or through others (R283). -/
def State.dependents (s : State) (k : Task) : List Task :=
  (s.tasks.filter fun x => x.die == k.die && k.id < x.id).foldl (fun acc x =>
    if x.after k || acc.any fun y => x.after y then acc ++ [x] else acc) []
def State.dropTaskTlb (s : State) (d k : Nat) : State :=
  { s with cores := s.cores.map fun (c : Core) => { c with tlb := c.tlb.filter fun e => e.task != some (d, k) } }
/-- Accesses and additions of a task's team to its renamed tiles that are still on their way go with its frames (R283). -/
def State.dropStaged (s : State) (tid : Nat) (k : Task) : State :=
  let mine (va : Nat) : Bool := k.staged.any fun x => x.1 == va % 2 ^ 57 / 65536
  { s with
    path := s.path.filter fun e => !(e.byw.g.team == tid && e.space == 0 && e.kind != .fence && e.kind != .ring && mine e.addr)
    adds := s.adds.filter fun a => !((a.byw.any fun b => b.g.team == tid) && mine a.va) }
/-- What a task holds goes back: its fill copy, its place in the die's list, its team, frames and TLB entries. -/
def State.undoTask (s : State) (k : Task) : State :=
  let fills := s.ops.filter fun o => o.kind == .fill k.die k.id
  let s := fills.foldl (fun s o => s.dropOp o) s
  let s := { s with dieList := s.dieList.filter fun w => w.task != some (k.die, k.id) }
  let s := s.modTask k.die k.id fun x => { x with team := none }
  let s := match k.team with
    | some t => s.stopTeam t
    | none => s
  -- what the teams that ran it, ended or not, still have under way toward its tiles goes with them
  let s := (s.teams.filter fun t => t.task == some (k.die, k.id)).foldl (fun s t => s.dropStaged t.id k) s
  let s := (s.freeFrames (k.staged.flatMap fun x => x.2)).dropTaskTlb k.die k.id
  { s with cores := s.cores.map fun (c : Core) => { c with tasksRun := c.tasksRun.filter fun x => x != (k.die, k.id) } }
/-- Ready tasks may start, finished ones may commit. -/
def State.tryTasks (s : State) : State :=
  s.tasks.foldl (fun s k =>
    if k.state = 1 then s.sched (s.clock + 1) (.taskStart k.die k.id)
    else if k.state = 3 then s.sched (s.clock + 1) (.taskCommit k.die k.id)
    else s) s
/-- Waiting tasks whose predecessors have all finished are ready (R280). -/
def State.readyTasks (s : State) : State :=
  { s with tasks := s.tasks.map fun (k : Task) => if k.state = 0 && (s.predsOf k).all Task.finished then { k with state := 1 } else k }.tryTasks
/-- Tasks and every task that depends on one of them return to Waiting (R283). Their numbers are answered. -/
def State.rollback (s : State) (l : List Task) : List Task × State :=
  let all := ((l ++ l.flatMap fun k => s.dependents k).eraseDups).filter fun k => k.state ≠ 6
  let s := all.foldl (fun s k => (s.undoTask k).modTask k.die k.id fun x => { x with state := 0, staged := [], team := none, finishedAt := 0 }) s
  (all, { s with tasks := s.tasks.map fun (k : Task) =>
    if k.state = 1 && !(s.predsOf k).all Task.finished then { k with state := 0 } else k }.readyTasks)
/-- A task and every task that depends on it are discarded (R283): how many dependents. -/
def State.discard (s : State) (k : Task) : Nat × State :=
  let deps := s.dependents k
  let s := (k :: deps).foldl (fun s x => s.undoTask x) s
  let gone (x : Task) : Bool := (k :: deps).any fun y => y.die == x.die && y.id == x.id
  (deps.length, { s with tasks := s.tasks.filter fun x => !gone x }.readyTasks)
/-- Tasks that consumed an uncorrectable error are rolled back, at the third time discarded with E_ECC (R283). -/
def State.serveEcc (s : State) (r : Rec) : State :=
  (s.tasks.filter fun k => k.state = 5).foldl (fun s k =>
    let s := s.modTask k.die k.id fun x => { x with state := 2, eccRolls := x.eccRolls + 1 }
    if k.eccRolls + 1 < 3 then (s.rollback [{ k with state := 2 }]).2
    else
      let x := s.discard k
      x.2.throwInto (.grid k.launch) { r with count := r.count + x.1, flags := if x.1 = 0 then r.flags else r.flags ||| 2 } none) s

/-! Start (R281). -/

def Task.tiles (k : Task) : List Nat := (k.writes.flatMap fun w => (List.range w.2).map fun i => w.1 + i).eraseDups
/-- Physical pages that a tile reads as before the renaming: a finished predecessor's staged tile, or the committed mapping. -/
def State.tileNow (s : State) (k : Task) (tile : Nat) : List (Option Nat) :=
  match tileFrames s k.die k.id tile false with
  | some fs => fs.map some
  | none => (List.range 16).map fun j =>
    match s.walkCtx k.ctx (tile * 65536 + j * 4096) with
    | .ok x => some (x.pa / 4096)
    | _ => none
/-- Frames for every tile, in tile order. -/
def State.renameTiles : List Nat → State → Nat → Option (List (Nat × List Nat) × State)
  | [], s, _ => some ([], s)
  | t :: rest, s, die =>
    match State.takeFrames 16 s die with
    | none => none
    | some (fs, s1) => (State.renameTiles rest s1 die).map fun x => ((t, fs) :: x.1, x.2)
/-- Frames of the context's page pool that tasks do not hold. -/
def State.poolLeft (s : State) (ctx : Nat) : Nat :=
  match s.ctx? ctx with
  | some c => c.p.pool - 16 * ((s.tasks.filter fun k => k.ctx == ctx).map fun k => k.staged.length).sum
  | none => 0
/-- The task waits in its die's list as a 1 × 1 cluster (R280). -/
def State.queueTask (s : State) (k : Task) : State :=
  if s.dieList.any fun w => w.task == some (k.die, k.id) then s
  else
    let w : WaitCl := { launch := k.launch, cluster := 65536 * (k.id + 1), die := k.die, urgent := isUrgent s k.ctx, task := some (k.die, k.id) }
    { s with dieList := s.dieList ++ [w] }.sched (s.clock + 1) (.clusterDispatch k.die)
def execTaskStart (die id : Nat) (s : State) : Host.Outcome State Fault Refusal :=
  .next <|
    match s.task? die id with
    | none => s
    | some k =>
      if k.state ≠ 1 then s
      else if !k.staged.isEmpty || k.tiles.isEmpty then
        (if s.ops.any fun o => o.kind == .fill die id then s else s.queueTask k)
      else if s.poolLeft k.ctx < 16 * k.tiles.length then s
      else
        match State.renameTiles k.tiles s die with
        | none => s
        | some (st, s1) =>
          let pages := (k.tiles.zip st).flatMap fun x => ((s.tileNow k x.1).zip x.2.2).filterMap fun y => y.1.map fun p => (p * 4096, y.2 * 4096)
          let o : EOp := { id := s1.nextId, kind := .fill die id, coord := die * 64, team := 0, ctx := k.ctx, launch := k.launch, cls := 2, target := .none,
                           pages := pages, started := true, todo := List.range (2 * pages.length) }
          let s2 := s1.modTask die id fun x => { x with staged := st }
          if pages.isEmpty then s2.queueTask k
          else { s2 with ops := s2.ops ++ [o], nextId := s2.nextId + 1 }.enterEngine o

/-! Finish and commit (R280, R282). -/

def State.finishTask (s : State) (d k : Nat) : State :=
  (s.modTask d k fun x => { x with state := 3, finishedAt := s.clock, team := none }).readyTasks
/-- A shoot-down goes to every core (R243). -/
def State.shoot (s : State) (ctx va len : Nat) (reply : Option (Hdr × Nat)) (free : List Nat) (task : Option (Nat × Nat)) : State :=
  let id := s.nextId
  let cs := Config.allCoords
  let s := { s with shoots := s.shoots ++ [(⟨id, ctx, va, len, cs.map fun c => (c, none), reply, free, task⟩ : Shoot)], nextId := s.nextId + 1 }
  cs.foldl (fun s c => s.sched (s.clock + 1) (.shootdownAck id c)) s
/-- A shoot-down meets another on the same pages: that one completes first (R290). -/
def State.shooting (s : State) (ctx tile : Nat) : Bool :=
  s.shoots.any fun x => x.ctx == ctx && x.va < (tile + 1) * 65536 && tile * 65536 < x.va + x.len
/-- Accesses of a task's team that are not performed: its join addition's release waits for them (R190, R264). -/
def State.taskBusy (s : State) (d k : Nat) : Bool :=
  (s.teams.filter fun t => t.task == some (d, k)).any fun t =>
    -- with what its groups had read from their core's path (R190)
    (s.path.any fun e => e.byw.g.team == t.id || (e.coord == t.coord && e.id < t.endId)) || (s.loads.any fun r => r.byw.g.team == t.id) || (s.atoms.any fun r => r.byw.g.team == t.id) ||
    s.ops.any fun o => o.team == t.id
def State.mayCommit (s : State) (k : Task) : Bool :=
  (s.predsOf k).isEmpty &&
  !(s.tasks.any fun x => x.ctx == k.ctx && x.id < k.id && (x.reads ++ x.writes).any fun a => (k.reads ++ k.writes).any fun b => tilesMeet a b) &&
  s.cores.all (fun c => !c.tasksRun.contains (k.die, k.id) || k.finishedAt < c.lastPass) &&
  !k.staged.any fun x => s.shooting k.ctx x.1
/-- The join addition and the end of a committed task (R264, R282). -/
def State.endCommit (s : State) (d k : Nat) : State :=
  match s.task? d k with
  | none => s
  | some x =>
    let s := (s.dropTaskTlb d k)
    let s := { s with tasks := s.tasks.filter fun y => !(y.die == d && y.id == k)
                      cores := s.cores.map fun (c : Core) => { c with tasksRun := c.tasksRun.filter fun y => y != (d, k) } }
    let s := if x.join = 0 then s else s.addAt x.ctx x.join 1 true [x.byw] x.launch true
    s.tryTasks.sched (s.clock + 1) (.launchComplete x.launch)
def execTaskCommit (die id : Nat) (s : State) : Host.Outcome State Fault Refusal :=
  .next <|
    match s.task? die id with
    | none => s
    | some k =>
      if k.state ≠ 3 || !s.mayCommit k then s
      else if s.taskBusy die id then s.again (.taskCommit die id)
      else if k.staged.isEmpty then s.endCommit die id
      else
        let pages := k.staged.flatMap fun x => x.2.mapIdx fun j f => (x.1 * 65536 + j * 4096, f)
        let old := pages.filterMap fun p => match s.walkCtx k.ctx p.1 with
          | .ok x => some (x.pa / 4096)
          | _ => none
        let root := ((s.ctx? k.ctx).map fun c => c.root).getD 0
        match pages.foldl (fun (a : Option State) p => a.bind fun s => s.setFrame root p.1 p.2 (s.walkCtx k.ctx p.1)) (some s) with
        | none => s.again (.taskCommit die id)
        | some s =>
          -- a page that had no frame takes its own out of the pool for good
          let s := s.modCtx k.ctx fun c => { c with p := { c.p with pool := c.p.pool - (pages.length - old.length) } }
          let s := s.modTask die id fun x => { x with state := 6 }
          let lo := (k.staged.map fun x => x.1).foldl min ((k.staged.headD (0, [])).1)
          let hi := (k.staged.map fun x => x.1).foldl max 0
          s.shoot k.ctx (lo * 65536) ((hi + 1 - lo) * 65536) none old (some (die, id))

/-! What a shoot-down completes (R243). -/

/-- The data of a core's accesses under an old translation: none is left when every path entry and load before it is performed. -/
def State.oldAccess (s : State) (coord before : Nat) : Bool :=
  (s.path.any fun e => e.coord == coord && e.id < before && e.space == 0) || (s.loads.any fun r => r.coord == coord && r.id < before && r.space == 0)
/-- A walk under way starts again (R243): it keeps its place under a new number. -/
def State.rewalk (s : State) (w : Walk) : State :=
  let runs := ((s.dieWalks (Config.coordDie w.coord)).take 16).any fun x => x.id == w.id
  let w' := { w with id := s.nextId }
  let s1 : State := { s with walks := s.walks.map fun (y : Walk) => if y.id = w.id then w' else y, nextId := s.nextId + 1 }
  if runs then s1.runWalk w' else s1
/-- The shoot-down reaches a core: its matching TLB entries go, and what it issued so far used the old translation (R243). -/
def State.reachCore (s : State) (x : Shoot) (coord : Nat) : State :=
  let hit (va n : Nat) : Bool := va < x.va + x.len && x.va < va + n
  let s := if (s.cores.any fun c => c.coord == coord) then
      s.modCore coord fun c => { c with tlb := c.tlb.filter fun e => !(e.ctx == x.ctx && hit (e.page * 2 ^ e.bits) (2 ^ e.bits)) }
    else s
  let s := { s with shoots := s.shoots.map fun (y : Shoot) =>
    if y.id = x.id then { y with left := y.left.map fun (l : Nat × Option Nat) => if l.1 = coord then (coord, some s.nextId) else l } else y }
  (s.walks.filter fun w => w.coord == coord && w.ctx == x.ctx && hit (w.va % 2 ^ 57) 1).foldl (fun s w => s.rewalk w) s
def execShootdownAck (id coord : Nat) (s : State) : Host.Outcome State Fault Refusal :=
  .next <|
    match s.shoots.find? fun x => x.id == id && x.left.any fun l => l.1 == coord with
    | none => s
    | some x0 =>
      let s := if x0.left.contains (coord, none) then s.reachCore x0 coord else s
      let x := (s.shoots.find? fun y => y.id == id).getD x0
      let bound := (x.left.find? fun l => l.1 == coord).bind fun l => l.2
      if s.oldAccess coord (bound.getD 0) then s.again (.shootdownAck id coord)
      else
        let left := x.left.filter fun l => l.1 != coord
        if !left.isEmpty then { s with shoots := s.shoots.map fun (y : Shoot) => if y.id = id then { y with left := left } else y }
        else
          let s := { s with shoots := s.shoots.filter fun y => y.id != id }.freeFrames x.free
          let s := match x.reply with
            | some (h, code) => s.reply h code 0 []
            | none => s
          match x.task with
          | some (d, k) => s.endCommit d k
          | none => s.tryTasks

end Sys2Proof.Machine
end

