-- ==== Sys2Proof/Machine/Steering.lean ====
section
/-! DEFINITION. STEERING_END (R53, R58, R218, R219): the end of a steering interval, with the grid region and the failing of a
launch (R52, R57). -/
namespace Sys2Proof.Machine

/-- The member groups of a region instance with their entries (R49, R51). -/
def State.membersOf (s : State) (r : RegionId) : List (Team × Group × TryEntry) :=
  match r with
  | .group t sl u =>
    match s.team? t with
    | some x => (x.groups.filter fun g => g.slot == sl && g.phase != .exited).filterMap fun g => (g.tries.find? fun e => e.uid == u).map fun e => (x, g, e)
    | none => []
  | .team t i =>
    match s.team? t with
    | some x => (x.groups.filter fun g => g.phase != .exited).filterMap fun g => (g.tries.find? fun e => e.team && e.inst == i).map fun e => (x, g, e)
    | none => []
  | .grid _ => []
def entryRegion (t slot : Nat) (e : TryEntry) : RegionId := if e.team then .team t e.inst else .group t slot e.uid
/-- The entries above one in a group's stack that share lanes with it: the regions inside. -/
def innerRegions (t : Nat) (g : Group) (e : TryEntry) : List RegionId :=
  ((g.tries.takeWhile fun x => x.uid != e.uid).filter fun x => x.members &&& e.members ≠ 0).map (entryRegion t g.slot)
/-- The entries above one of which no lane is its member: regions beside it, which handle their own throws (R219). -/
def besideRegions (t : Nat) (g : Group) (e : TryEntry) : List RegionId :=
  ((g.tries.takeWhile fun x => x.uid != e.uid).filter fun x => x.members &&& e.members = 0).map (entryRegion t g.slot)
def belowEntry (g : Group) (e : TryEntry) : List TryEntry := (g.tries.dropWhile fun x => x.uid != e.uid).drop 1
/-- The record of an inner instance whose catch has not issued yet in lanes that a region holds, with its number (R219). -/
def freshCatch (t : Team) (g : Group) (members : W64) : Option (Nat × Rec) :=
  match g.caught with
  | some (_, inst) => if g.catchDue &&& members ≠ 0 then some (inst, spGet {} t.recs g.slot) else none
  | none => none
/-- Records of inner throws join the record of an enclosing region, each instance once. -/
def mergeAll (acc : Rec) (l : List (Nat × Rec)) : Rec :=
  (l.foldl (fun (x : List Nat × Rec) y => if x.1.contains y.1 then x else (y.1 :: x.1, x.2.merge y.2)) ([], acc)).2
def State.dropSteers (s : State) (l : List RegionId) : State := { s with steers := s.steers.filter fun x => !l.contains x.region }
/-- A steered group issues next: a stall is abandoned, with the held half of its word (R53, R219); one that is off its core for
calls no longer awaited comes back (R237). -/
def State.unstall (s : State) (g : GRef) : State :=
  let s : State := match s.group? g with
    | some (y : Group) => if y.phase = .evicted then s.sched (s.clock + 1) (.trapResume g) else s
    | none => s
  s.modGroup g fun y => { y with phase := if y.phase = .stalled then .ready else y.phase, second := none, waits := [], evictNow := y.evictNow && y.wake.isSome }

def regionTeam : RegionId → Option Nat
  | .group t _ _ | .team t _ => some t
  | .grid _ => none
/-- A group or team region is steered (R53). -/
def State.steerRegion (s : State) (x : Steering) : State :=
  let r := x.region
  let ms := s.membersOf r
  match ms with
  | [] =>
    -- every member exited with the word in which it threw: the grid level takes the exception (R352)
    match (regionTeam r).bind s.team? with
    | some t => ((s.noteTask t (.grid t.launch)).throwInto (.grid t.launch) x.acc none).dropSteers [r]
    | none => s.dropSteers [r]
  | (t, _, _) :: _ =>
    -- an enclosing region whose interval is open takes the throws over
    let outer (m : Team × Group × TryEntry) : Option RegionId :=
      ((((belowEntry m.2.1 m.2.2).filter fun e => e.members &&& m.2.2.members ≠ 0).map (entryRegion m.1.id m.2.1.slot)) ++ [RegionId.grid m.1.launch]).find? fun q => s.steers.any fun y => y.region == q
    let beside := (ms.flatMap fun m => besideRegions m.1.id m.2.1 m.2.2).filter fun q => s.steers.any fun y => y.region == q
    if ms.any fun m => midWord m.2.1 then s.again (.steeringEnd r)
    -- a region beside it that stands higher in a stack is steered first, as its entry is popped with this one's (R53, R219)
    else if !beside.isEmpty then
      (if s.agenda.any fun x => x.1 ≤ s.clock && beside.any fun q => x.2 = .steeringEnd q then s.sched s.clock (.steeringEnd r) else s.again (.steeringEnd r))
    else if ms.all fun m => (outer m).isSome then
      match ms.findSome? outer with
      | some q => { s with steers := s.steers.map fun (y : Steering) => if y.region = q then { y with acc := y.acc.merge x.acc } else y }.dropSteers [r]
      | none => s
    else
      let inner := (ms.flatMap fun m => innerRegions m.1.id m.2.1 m.2.2).eraseDups
      let open' := (s.steers.filter fun y => inner.contains y.region).map fun y => (instKey y.region, y.acc)
      let fresh := ms.filterMap fun m => freshCatch m.1 m.2.1 m.2.2.members
      let acc := mergeAll x.acc (open' ++ fresh)
      let ins := s.inside r
      let whole (u : Team) : Bool := match r with
        | .team a _ => u.id == a
        | _ => false
      let after := s.cancelInside ins whole (isMember r)
      let rec' := { acc with level := regionLevel r, flags := acc.flags ||| s.cancelFlags ins ||| lossFlags s after, steered := ms.length, clock := s.ctxClock t.ctx }
      let s := after.dropSteers (r :: inner)
      let s := match r with
        | .team a i => s.modTeam a fun u => { u with regions := u.regions.map fun y => if y.1 = i then (y.1, y.2.1, some rec') else y }
        | _ => s
      ms.foldl (fun s m =>
        let g : GRef := ⟨m.1.id, m.2.1.slot⟩
        (s.steerTo g (m.2.2.members &&& m.2.1.live) m.2.2.catchPc (belowEntry m.2.1 m.2.2) rec' (instKey r)).unstall g) s

/-! The grid level. -/

def Launch.hasCatch (l : Launch) : Bool := l.body.flags.getLsbD 1
/-- Clusters of a launch not yet dispatched never are, its tasks not yet finished are discarded, and its spawn records without a
slot too (R52, R57, R342). -/
def State.stopWaiting (s : State) (lid : Nat) : State :=
  let s := { s with leadList := s.leadList.filter fun w => w.launch != lid, dieList := s.dieList.filter fun w => w.launch != lid }
  let mine (t : Nat) : Bool := match s.team? t with
    | some x => x.launch == lid
    | none => false
  (s.modLaunch lid fun l => { l with waiting := 0 }).dropSpawns mine
/-- Tasks of a launch that is ended are discarded unless their teams have ended. Those whose own exception came here are counted
with their dependents (R283). -/
def State.dropTasks (s : State) (lid : Nat) : Nat × State :=
  let r := (s.tasks.filter fun k => k.launch == lid && k.state = 4).foldl (fun (x : Nat × State) k =>
    let y := x.2.discard k
    (x.1 + y.1, y.2)) (0, s)
  (r.1, (r.2.tasks.filter fun k => k.launch == lid && !k.finished).foldl (fun s k => (s.discard k).2) r.2)
/-- An exception at the grid level (R52, R57): the catch team is steered, or the launch fails. -/
def State.steerGrid (s : State) (x : Steering) (l : Launch) : State :=
  let lid := l.grid
  let mine := s.teams.filter fun t => t.launch == lid && t.place != .ended
  if mine.any fun t => t.groups.any midWord then s.again (.steeringEnd (.grid lid))
  else
    let ofLaunch (r : RegionId) : Bool := match r with
      | .group t _ _ | .team t _ => mine.any fun y => y.id == t
      | .grid a => a == lid
    let open' := (s.steers.filter fun y => ofLaunch y.region && y.region != .grid lid).map fun y => (instKey y.region, y.acc)
    let fresh := mine.flatMap fun t => t.groups.filterMap fun g => freshCatch t g (BitVec.allOnes 64)
    let acc := mergeAll x.acc (open' ++ fresh)
    let catches := l.hasCatch && !l.caught && l.fate = 0
    let isCatch (t : Team) : Bool := catches && t.cluster == l.body.cteam && t.pos == l.body.cpos && t.task.isNone && t.groups.any fun g => g.live ≠ 0
    let ins := s.inside (.grid lid)
    let flags := acc.flags ||| s.cancelFlags ins
    let s := { s with steers := s.steers.filter fun y => !ofLaunch y.region }
    let s := s.stopWaiting lid
    let d := s.dropTasks lid
    let s := d.2.cancelInside ins (fun t => t.launch == lid) (isMember (.grid lid))
    let flags := flags ||| lossFlags d.2 s
    let target := mine.find? isCatch
    let steered := match target with
      | some t => (t.groups.filter fun (g : Group) => g.live ≠ 0).length
      | none => 0
    let rec' := { acc with level := 2, flags := if d.1 = 0 then flags else flags ||| 2, count := acc.count + d.1, steered := steered, clock := s.ctxClock l.ctx }
    let s := (mine.filter fun t => !isCatch t).foldl (fun s t => match s.team? t.id with
      | some y => s.exitTeam y
      | none => s) s
    let s := s.modLaunch lid fun y =>
      { y with
        exceptions := match y.exceptions with
          | some e => if y.cancelled then some (e.merge rec') else some rec'
          | none => some rec'
        caught := y.caught || catches
        fate := if catches then 2 else if y.fate = 3 then 3 else 1 }
    let s := match target with
      | some t =>
        let s := s.modTeam t.id fun y => { y with isCatch := true }
        (t.groups.filter fun (g : Group) => g.live ≠ 0).foldl (fun (s : State) (g : Group) =>
          (s.steerTo ⟨t.id, g.slot⟩ g.live l.body.catchOff [] rec' 0).unstall ⟨t.id, g.slot⟩) s
      | none => if catches then s.sched (s.clock + 1) (.catchTeamDispatch lid) else s
    s.sched (s.clock + 1) (.launchComplete lid)

def execSteeringEnd (r : RegionId) (s : State) : Host.Outcome State Fault Refusal :=
  .next <|
    match s.steers.find? fun x => x.region == r with
    | none => s
    | some x =>
      match r with
      | .grid l =>
        match s.launch? l with
        | some y => if y.completed then s.dropSteers [r] else s.steerGrid x y
        | none => s.dropSteers [r]
      | _ => s.steerRegion x

end Sys2Proof.Machine
end

