-- ==== Sys2Proof/Machine/Evict.lean ====
section
/-! DEFINITION. Eviction (R231, R232), narrowing (R233), time slices and restoration (R235). -/
namespace Sys2Proof.Machine

/-! Reasons. -/

/-- Another cluster waits for a core of a die (R233): in the die's lists or in the leader's. -/
def State.clusterWaits (s : State) (die : Nat) (other : Nat → Bool) : Bool :=
  (s.dieList.any fun w => w.die == die && other w.launch) || s.leadList.any fun w => other w.launch
/-- A core whose teams must leave: drained for the ember pass or retirement, or stopped by heat (R231). -/
def State.emptying (s : State) (coord : Nat) : Bool := (s.core coord).draining || 2 ≤ spGet 0 s.issueRow (Config.coordDie coord)
/-- The team is to leave its core once it can. -/
def State.leaving (s : State) (t : Team) : Bool := t.narrowed || s.emptying t.coord
/-- A parked group is evicted for one of the reasons of R231; a halted one never, nor one of a frozen context (R40, R345). -/
def State.wantsEvict (s : State) (t : Team) (g : Group) : Bool :=
  g.phase == .parked && t.place == .resident && !g.halted && !s.frozen t.ctx && (g.evictNow || g.haltOff || s.leaving t)
/-- Narrowing: every group is evicted at its next park (R233); no team is narrowed twice (R244). -/
def State.narrow (s : State) (tid : Nat) : State := s.modTeam tid fun t => if t.place = .resident then { t with narrowed := true } else t
/-- A context's parked groups on a core exceed PARKMAX of its resident groups there while another cluster waits (R233). -/
def State.checkPark (s : State) (coord : Nat) : State :=
  ((s.resident coord).map fun t => t.ctx).eraseDups.foldl (fun s c =>
    let ts := (s.resident coord).filter fun t => t.ctx == c
    let gs := (ts.flatMap fun t => t.groups).filter fun g => g.phase != .evicted && g.phase != .exited
    let parked := (gs.filter fun g => g.phase == .parked).length
    let lim := ((s.ctx? c).map fun x => x.p.parkMax).getD Config.defaultParkMax
    if lim * gs.length < 100 * parked && s.clusterWaits (Config.coordDie coord) fun _ => true then ts.foldl (fun s t => s.narrow t.id) s else s) s

/-! Eviction. -/

/-- A steal whose thief is evicted before the reply lands: zeros, C clear, the record goes back (R263). -/
def State.returnSteals (s : State) (g : GRef) (uid : Nat) : State :=
  (s.steals.filter fun x => x.byw.g == g && x.byw.uid == uid && !x.dead && x.state < 2).foldl (fun s x =>
    let s := s.modGroup g fun y => { y with regs := (writeRec y.regs x.lane x.reg []).setK x.kreg (1#64 <<< x.lane) 0 }
    { s with steals := s.steals.map fun (y : Steal) => if y.id = x.id then { y with dead := true } else y }) s
def State.evict (s : State) (g : GRef) : State :=
  match s.team? g.team, s.group? g with
  | some t, some gr =>
    if !s.wantsEvict t gr then s
    else
      let s := s.returnSteals g gr.uid
      let s := s.modGroup g fun y => { y with phase := .evicted, wakeMet := false, evictNow := false }
      let s := if gr.haltOff then (s.haltGroup g 4 0).modGroup g fun y => { y with haltOff := false } else s
      if s.leaving t then s.sched (s.clock + 1) (.teamLeave t.id) else s
  | _, _ => s
def execGroupEvict (g : GRef) (s : State) : Host.Outcome State Fault Refusal := .next (s.evict g)

/-- A matrix operation that a team issued, or that drives the array of its core (R232, R305). -/
def State.matrixOf (s : State) (t : Team) : Bool :=
  s.matrixOps.any fun o => o.byw.g.team == t.id || (o.follower == some t.coord && match s.team? o.byw.g.team with
    | some x => x.launch == t.launch && x.cluster == t.cluster
    | none => false)
/-- An MMAP of the pair's leader is held until the team is on its core (R305): it is restored at once, and stays. -/
def State.calledBack (s : State) (t : Team) : Bool :=
  t.coord % 2 = 1 && s.teams.any fun x => x.launch == t.launch && x.cluster == t.cluster && x.task == t.task && x.coord + 1 == t.coord && x.place == .resident &&
    x.groups.any fun g => g.phase != .exited && g.called == some (g.lastIssue, g.catchAt)
/-- Everything of a team is off its core or still (R232, R271). -/
def State.mayLeave (s : State) (t : Team) : Bool :=
  s.leaving t && !s.calledBack t && t.groups.all (fun g => g.phase == .evicted || g.phase == .exited) && t.groups.any (fun g => g.phase == .evicted) &&
  !s.matrixOf t &&
  !(s.ops.any fun o => (match o.kind with
    | .spill _ _ | .refill _ _ | .spawnOut _ | .spawnIn _ => o.team == t.id
    | _ => !o.running.isEmpty && (s.opTeams o).any fun x => x.id == t.id)) &&
  !t.groups.any fun g => g.land.any fun l => match l.dst with
    | .qo _ => true
    | _ => false
def Team.streams (t : Team) : Bool := t.kern.flags % 2 = 1
/-- The team's state is saved with it (R178, R232). -/
def State.leave (s : State) (t : Team) : State :=
  let c := s.core t.coord
  let recs := ((c.packs.filter fun p => p.team == t.id).flatMap fun p => p.recs) ++ (c.spawnq.filter fun x => x.1 == t.id).map fun x => x.2
  let s := s.modCore t.coord fun c =>
    { c with
      spawnq := c.spawnq.filter fun x => x.1 != t.id
      packs := c.packs.filter fun p => p.team != t.id
      qi := if t.streams then [{}, {}, {}, {}] else c.qi
      qo := if t.streams then [{}, {}, {}, {}] else c.qo
      slices := if (s.resident t.coord).any fun x => x.id != t.id && x.ctx == t.ctx then c.slices else c.slices.filter fun x => x.1 != t.ctx }
  -- places in the core's lock table and spawn queue come free (R45, R270)
  let s := (({ s with locks := s.locks.map fun (k : Lock) => if k.team = t.id then { k with saved := true } else k }).askRefills t.coord).askRings t.coord
  let s := s.modTeam t.id fun x =>
    { x with place := .away, narrowed := false, endId := s.nextId, offSpawns := recs, offQi := if t.streams then c.qi else [], offQo := if t.streams then c.qo else [] }
  let s := s.modLaunch t.launch fun l => { l with spans := (t.coord, s.clock) :: l.spans.filter fun x => x.1 != t.coord }
  s.kick.sched (s.clock + 2) (.teamRestore t.id)
def execTeamLeave (tid : Nat) (s : State) : Host.Outcome State Fault Refusal :=
  .next <|
    match s.team? tid with
    | none => s
    | some t =>
      if t.place ≠ .resident || !s.leaving t || !t.groups.all (fun g => g.phase == .evicted || g.phase == .exited) then s
      else if s.mayLeave t then s.leave t
      else if t.groups.any fun g => g.phase == .evicted then s.again (.teamLeave tid)
      else s

/-! Restoration. -/

/-- Cores of the rectangles that are being emptied for urgent clusters, of those that `of` picks (R234). -/
def State.claims (s : State) (of : WaitCl → Bool) : List Nat :=
  ((s.leadList ++ s.dieList).filter fun w => w.urgent && of w).flatMap fun w => match w.rect with
    | some (o, a, b) => rectCores o a b
    | none => []

/-- The quarter of a group that becomes resident (R25). -/
def State.quarterFor (s : State) (coord : Nat) (g : Group) : Nat :=
  if !g.spawned then g.slot % 4
  else
    let n (q : Nat) : Nat := ((s.resident coord).flatMap fun t => t.groups.filter fun x => x.quarter == q && x.phase != .evicted && x.phase != .exited).length
    (List.range 4).foldl (fun b q => if n q < n b then q else b) 0
/-- A saved group is back on its core: Ready if its condition was met, else Parked (R39); a held word is taken up again. -/
def State.restoreGroup (s : State) (coord : Nat) (g : GRef) : State :=
  match s.group? g with
  | some gr =>
    let q := s.quarterFor coord gr
    let queue := match gr.wake with
      | some (.queue n) => some n
      | _ => none
    let ready := (gr.wakeMet || gr.wake.isNone) && queue.isNone
    let s := s.modGroup g fun y => { y with phase := if ready then .ready else .parked, wakeMet := false, quarter := q }
    if let some n := queue then s.serve g.team n else if ready then (s.retryHeld g).endTrap g else s
  | none => s
/-- Groups evicted for an unanswered TRAP or halted off the core stay there (R237, R244). -/
def Group.staysOff (g : Group) : Bool := g.halted || (g.wake == some .trapReply && !g.wakeMet)
def Team.need (s : State) (t : Team) : Need :=
  { kern := t.kern, abuf := t.abuf.size, wbuf := t.wbuf.size, cbuf := t.cbuf.size, launch := t.launch,
    sep := match s.launch? t.launch with
      | some l => l.body.flags.getLsbD 2
      | none => false
    urgent := isUrgent s t.ctx, own := some (t.launch, t.cluster) }
/-- The team is on its core again: saved queues, stopped operations and streams go on (R232, R235). DESIGN CHOICE (log 113): its saved
spawn records, those of a partial pack too, are packed anew. -/
def State.restore (s : State) (tid coord : Nat) : State :=
  match s.team? tid with
  | none => s
  | some t =>
    let s := s.dropL1 coord
    let s := { s with locks := s.locks.map fun (k : Lock) => if k.team = tid then { k with saved := false } else k }
    let s := s.modTeam tid fun x => { x with coord := coord, place := .resident, offSpawns := [], offQi := [], offQo := [] }
    let s := s.modCore coord fun c =>
      { c with
        spawnq := (t.offSpawns.map fun r => (tid, r)) ++ c.spawnq
        qi := if t.streams then t.offQi else c.qi
        qo := if t.streams then t.offQo else c.qo
        launches := if c.launches.contains t.launch then c.launches else c.launches ++ [t.launch]
        tasksRun := match t.task with
          | some k => if c.tasksRun.contains k then c.tasksRun else c.tasksRun ++ [k]
          | none => c.tasksRun }
    let s := (t.groups.filter fun g => g.phase == .evicted && !g.staysOff).foldl (fun s g => s.restoreGroup coord ⟨tid, g.slot⟩) s
    let s := (List.range 4).foldl (fun s q =>
      let s := if (t.offQi.getD q {}).descs.isEmpty then s else s.sched (s.clock + 1) (.streamLoadElement coord q)
      let s := if (t.offQo.getD q {}).descs.isEmpty then s else s.sched (s.clock + 1) (.streamStoreElement coord q)
      s.sched s.clock (.queueRefillStart tid q)) s
    let s := match s.team? tid with
      | some y => s.gather y
      | none => s
    let s := (s.sched (s.clock + 1) (.spawnRingRefill tid)).startSlice coord t.ctx
    s.armEngine (engineOf coord)
/-- The range-lock entries that come to a core with a team find room there: those saved with it, and on another core than its own those that
copies toward it have there (R14, R232). -/
def State.locksFit (s : State) (t : Team) (coord : Nat) : Bool :=
  s.lockRoom coord (s.locks.filter fun k => k.team == t.id && (k.saved || k.coord ≠ coord)).length
/-- What is saved with a team finds room on a core (R14): its locks, its spawn records in the spawn queue, its held words' requests. -/
def State.savedFits (s : State) (t : Team) (coord : Nat) : Bool :=
  s.locksFit t coord && s.spawnHeld coord + t.offSpawns.length ≤ 256 && s.slotsUsed coord + t.keeps.eraseDups.length ≤ 2048
/-- A moved cluster's operations, locks and unfinished accesses name its new cores. -/
def State.rehome (s : State) (tid old new : Nat) : State :=
  let move (c : Nat) : Nat := if c = old then new else c
  let moved := s.ops.filter fun o => o.team == tid && o.coord == old
  let inQ := moved.filter fun o => (s.engine (engineOf old)).queues.any fun q => q.contains o.id
  let s := inQ.foldl (fun s o => s.leaveEngine o) s
  let s := { s with
    ops := s.ops.map fun (o : EOp) => if o.team = tid then { o with coord := move o.coord } else o
    locks := s.locks.map fun (k : Lock) => if k.team = tid && k.coord = old then { k with coord := new } else k }
  inQ.foldl (fun s o => s.enterEngine { o with coord := new }) s
/-- A recorded data byte that names a core of the old rectangle names the same place of the new one (R235). -/
def movedByte (old new w h b : Nat) : Nat :=
  if Config.coordDie b = Config.coordDie old && Config.coordRow old ≤ Config.coordRow b && Config.coordRow b < Config.coordRow old + h &&
     Config.coordCol old ≤ Config.coordCol b && Config.coordCol b < Config.coordCol old + w then
    Config.mkCoord (Config.coordDie new) (Config.coordRow b - Config.coordRow old + Config.coordRow new) (Config.coordCol b - Config.coordCol old + Config.coordCol new)
  else b
def State.moveData (s : State) (num old new w h : Nat) : State :=
  match s.image? num with
  | none => s
  | some im => (im.relocs.filter fun r => r.2 ≠ 0).foldl (fun s r =>
      s.setData im new (im.body.dataVa + r.1) (BitVec.ofNat 8 (movedByte old new w h (s.dataByte im old (im.body.dataVa + r.1)).toNat))) s
/-- The die of R225 for a need: the most free offered cores among those with a fitting rectangle, the lowest at a tie. -/
def State.bestDie (s : State) (n : Need) : Option (Nat × Nat) :=
  (List.range 4).foldl (fun b d =>
    match s.rectFor d n with
    | none => b
    | some o =>
      match b with
      | none => some (d, o)
      | some (e, p) => if s.freeCount e < s.freeCount d then some (d, o) else some (e, p)) none
/-- What a team that has left its core did there is performed: entries of the core's path before it left, its loads and the replies of its
atomics, so that its later accesses and releases elsewhere come after them (R185, R190). -/
def State.leftBehind (s : State) (t : Team) : Bool :=
  (s.path.any fun e => e.coord == t.coord && e.id < t.endId) || (s.loads.any fun r => r.byw.g.team == t.id && r.ctm.isNone) ||
  s.atoms.any fun r => r.byw.g.team == t.id
/-- The whole cluster is restored on a new rectangle with a re-patched copy (R235). -/
def State.moveCluster (s : State) (t : Team) : State :=
  let mates := s.teams.filter fun x => x.launch == t.launch && x.cluster == t.cluster && x.place != .ended
  if mates.any fun x => x.place == .resident then
    (mates.foldl (fun s x => s.narrow x.id) s).again (.teamRestore t.id)
  else
    match s.bestDie { t.need s with own := none }, s.launch? t.launch with
    | some (_, o), some l =>
      if !mates.all (fun x => s.savedFits x (o + 8 * (x.pos / t.kern.cw) + x.pos % t.kern.cw)) then s.again (.teamRestore t.id)
      else if mates.any s.leftBehind then s.again (.teamRestore t.id)
      -- chunks that have started end on the engines that read them (R273)
      else if s.ops.any fun y => !y.running.isEmpty && mates.any fun x => x.id = y.team then s.again (.teamRestore t.id)
      else match s.withCopy l.body.image o with
      | none => s.again (.teamRestore t.id)
      | some s1 =>
        let s1 := s1.moveData l.body.image t.origin o t.kern.cw t.kern.ch
        let s1 := s1.modCluster t.launch t.cluster fun c => { c with origin := o }
        mates.foldl (fun s x =>
          let c := o + 8 * (x.pos / t.kern.cw) + x.pos % t.kern.cw
          ((s.modTeam x.id fun y => { y with origin := o, region := s.freeRegion c }).rehome x.id x.coord c).restore x.id c) s1
    | _, _ => s.again (.teamRestore t.id)
def execTeamRestore (tid : Nat) (s : State) : Host.Outcome State Fault Refusal :=
  .next <|
    match s.team? tid with
    | none => s
    | some t =>
      if t.place ≠ .away then s
      else
        let live := t.groups.filter fun g => g.phase == .evicted
        let held := s.teams.any fun x => x.launch == t.launch && x.cluster == t.cluster && x.place == .resident && !s.leaving x
        let wanted := (live.any fun g => g.wakeMet || g.wake.isNone) || held || !s.clusterWaits (Config.coordDie t.coord) fun _ => true
        -- a rectangle that is being emptied for an urgent cluster takes no normal team back (R234)
        let claimed := !isUrgent s t.ctx && (s.claims fun _ => true).contains t.coord
        let called := s.calledBack t
        if live.isEmpty || (!called && (!wanted || claimed)) then s.again (.teamRestore tid)
        else if !called && !(match s.cluster? t.launch t.cluster with
          | some c => (rectCores c.origin c.w c.h).all fun x => s.offered x
          | none => true) then s.moveCluster t
        else if s.coreTakes t.coord (t.need s) && s.savedFits t t.coord then s.restore tid t.coord
        else s.again (.teamRestore tid)

/-! Time slices (R233). -/

def execTimeSliceExpire (coord ctx : Nat) (s : State) : Host.Outcome State Fault Refusal :=
  .next <|
    match (s.core coord).slices.find? fun x => x.1 == ctx with
    | none => s
    | some (_, e) =>
      if s.ctxClock ctx < e then s.sched (s.clock + (e - s.ctxClock ctx)) (.timeSliceExpire coord ctx)
      else
        let ts := (s.resident coord).filter fun t => t.ctx == ctx
        let other (l : Nat) : Bool := match s.launch? l with
          | some x => x.ctx != ctx
          | none => false
        let s := s.modCore coord fun c => { c with slices := c.slices.filter fun x => x.1 != ctx }
        if ts.isEmpty then s
        else
          let s := if s.clusterWaits (Config.coordDie coord) other then ts.foldl (fun s t => s.narrow t.id) s else s
          s.startSlice coord ctx

end Sys2Proof.Machine
end

