-- ==== Sys2Proof/Machine/Clusters.lean ====
section
/-! DEFINITION. Clusters and launches (R225 to R227, R234, R52): assignment, placing, the end of a team and of a launch. -/
namespace Sys2Proof.Machine

/-! What a waiting cluster asks for. -/

/-- The kernel of a waiting cluster: its task's, or its launch's (R264). -/
def State.kernOf (s : State) (l : Launch) (task : Option (Nat × Nat)) : Kern :=
  match task with
  | none => l.kern
  | some (d, k) =>
    match s.task? d k, s.image? l.body.image with
    | some x, some im => (im.kerns.find? fun y => y.entry == x.entry).getD {}
    | _, _ => {}
def State.needOf (s : State) (w : WaitCl) (l : Launch) : Need :=
  { kern := s.kernOf l w.task, abuf := l.body.abuf, wbuf := l.body.wbuf, cbuf := l.body.cbuf, launch := w.launch,
    sep := l.body.flags.getLsbD 2, urgent := isUrgent s l.ctx }

/-! Assignment (R225). -/

/-- Every entry before position i is passed over once more. -/
def passOver (l : List WaitCl) (i : Nat) : List WaitCl :=
  (l.mapIdx fun j (w : WaitCl) => if j < i then { w with passed := w.passed + 1 } else w).eraseIdx i
/-- The position of the first cluster that `fit` places, unless one passed over 16 times stands before it. -/
def firstFit {α : Type} (fit : WaitCl → Option α) : List WaitCl → Nat → Option (Nat × WaitCl × α)
  | [], _ => none
  | w :: t, i =>
    match fit w with
    | some x => some (i, w, x)
    | none => if 16 ≤ w.passed then none else firstFit fit t (i + 1)
/-- An urgent cluster that finds no rectangle on the dies it may go to has one emptied: the normal teams there are narrowed (R233, R234).
Two clusters have two rectangles, and each keeps its own while it can become free. -/
def State.narrowFor (s : State) (dies : List Nat) (w : WaitCl) : State :=
  match s.launch? w.launch with
  | none => s
  | some l =>
    let n := s.needOf w l
    let cores (o : Nat) : List Nat := rectCores o n.kern.cw n.kern.ch
    let normal (t : Team) : Bool := !isUrgent s t.ctx
    let teams (o : Nat) : List Team := (cores o).flatMap fun c => (s.resident c).filter normal
    let parked (o : Nat) : Nat := ((teams o).flatMap fun t => t.groups.filter fun g => g.phase == .parked).length
    let taken := s.claims fun y => y != w
    let cands := (dies.flatMap fun d => origins d n.kern.cw n.kern.ch).filter fun o =>
      (cores o).all fun c => !taken.contains c && { s with teams := s.teams.filter fun t => !(t.coord == c && normal t) }.coreTakes c n
    let best := cands.foldl (fun (b : Option Nat) o => match b with
      | none => some o
      | some p => if parked p < parked o then some o else some p) none
    let pick := match w.rect with
      | some (o, _, _) => if cands.contains o then some o else best
      | none => best
    let mark (l : List WaitCl) : List WaitCl := l.map fun (y : WaitCl) => if y = w then { y with rect := pick.map fun o => (o, n.kern.cw, n.kern.ch) } else y
    let s1 := { s with leadList := mark s.leadList, dieList := mark s.dieList }
    match pick with
    | none => s1
    | some o => (teams o).foldl (fun s t => s.narrow t.id) s1
/-- Every urgent cluster of a list that fits none of the dies it may go to has a rectangle emptied for it. -/
def State.narrowAll (s : State) (dies : List Nat) (ws : List WaitCl) : State :=
  (ws.filter fun w => w.urgent && match s.launch? w.launch with
    | some l => dies.all fun d => (s.rectFor d (s.needOf w l)).isNone
    | none => false).foldl (fun s w => s.narrowFor dies w) s
/-- A cluster that waits is refused once no die could hold its shape (R20, R328); one in a die's list whose die no longer could goes back
to the leader's. DESIGN CHOICE (log 74): its launch then fails with E_CANCELLED, and ends when its other clusters have. -/
def State.refuseWaiting (s : State) : State :=
  let shape (w : WaitCl) (d : Nat) : Bool := match s.launch? w.launch with
    | some l => s.shapeFits d l.kern.cw l.kern.ch
    | none => true
  let back := s.dieList.filter fun w => w.task.isNone && !shape w w.die
  let s : State := { s with dieList := s.dieList.filter fun w => !back.contains w, leadList := s.leadList ++ back }
  let gone := s.leadList.filter fun w => (List.range 4).all fun d => !shape w d
  gone.foldl (fun s w => (s.modLaunch w.launch fun l =>
      { l with
        waiting := l.waiting - 1
        fate := if l.fate = 0 then 1 else l.fate
        exceptions := some (l.exceptions.getD { code := eCancelled, level := 2, codes := 1#64 <<< eCancelled, clock := s.ctxClock l.ctx }) }).sched (s.clock + 1) (.launchComplete w.launch))
    { s with leadList := s.leadList.filter fun w => !gone.contains w }
def execClusterAssign (s : State) : Host.Outcome State Fault Refusal :=
  .next <|
    let s := s.refuseWaiting
    let s := s.cores.foldl (fun s c => s.checkPark c.coord) s
    let fit (w : WaitCl) : Option Nat := match s.launch? w.launch with
      | some l => (s.bestDie (s.needOf w l)).map fun x => x.1
      | none => none
    match firstFit fit s.leadList 0 with
    | none =>
      -- urgent clusters that wait in the leader's list have rectangles emptied for them (R233, R234)
      s.narrowAll [0, 1, 2, 3] s.leadList
    | some (i, w, d) =>
      let w' : WaitCl := { w with die := d, passed := 0, rect := none }
      { s with leadList := passOver s.leadList i, dieList := s.dieList ++ [w'] }.sched s.clock (.clusterDispatch d) |>.sched (s.clock + 1) .clusterAssign

/-! Placing (R226). -/

/-- The teams of a cluster are placed on a rectangle in one step; none when firmware lacks frames for the image copy. The data
segment is patched when the launch's cluster is placed, not when its catch team is dispatched afresh at the same place (R340). -/
def State.placeCluster (s : State) (l : Launch) (w : WaitCl) (o : Nat) (k : Kern) (only : Option Nat) (entry : Nat) : Option State :=
  match s.withCopy l.body.image o with
  | none => none
  | some s1 =>
    let s1 := match s1.image? l.body.image with
      | some im =>
        if w.task.isSome || !im.relocs.any fun r => r.2 ≠ 0 then s1
        else if only.isNone then s1.patchData l.body.image o
        else match s1.cluster? l.grid w.cluster with
          | some c => s1.moveData l.body.image c.origin o k.cw k.ch
          | none => s1.patchData l.body.image o
      | none => s1
    let lanes := if w.task.isSome then k.width * k.groups else l.body.lanes
    let tk := w.task.bind fun x => s.task? x.1 x.2
    let args := match tk with
      | some t => t.desc + 64
      | none => l.body.args
    let join := (tk.map fun t => t.join).getD 0
    let cl : Cluster := { launch := l.grid, id := w.cluster, origin := o, w := k.cw, h := k.ch,
                          ended := match only with
                            | some p => (List.range (k.cw * k.ch)).filter fun q => q ≠ p
                            | none => [] }
    let s1 := { s1 with clusters := (s1.clusters.filter fun c => !(c.launch == l.grid && c.id == w.cluster)) ++ [{ cl with catchOnly := only.isSome }] }
    let pos := (List.range (k.cw * k.ch)).filter fun p => only.isNone || only = some p
    some (pos.foldl (fun s p =>
      let c := o + 8 * (p / k.cw) + p % k.cw
      s.addTeam (freshTeam s l k lanes w.cluster p c o entry w.task args join)) s1)
/-! The end of a team (R41, R178, R194, R263). -/

/-- Copies whose source or destination lies in the team's memory or buffers (R41). -/
def State.copiesOf (s : State) (t : Team) : Bool := s.ops.any fun o => !s.sentOnly o && (s.opTeams o).any fun x => x.id == t.id
def State.spawnsOf (s : State) (t : Team) : Bool :=
  (s.core t.coord).spawnq.any (fun x => x.1 == t.id) || (s.core t.coord).packs.any (fun p => p.team == t.id) || t.ringHead ≠ t.ringTail ||
  !t.savedSpawns.isEmpty || !t.offSpawns.isEmpty
/-- The team's streams stop and its queues' entries go (R178). -/
def State.endStreams (s : State) (t : Team) : State :=
  let s := (s.teamStreams t).foldl (fun s d => s.stopDesc t.id d.1 d.2) s
  if t.place = .away then s.modTeam t.id fun x => { x with offQi := [], offQo := [] }
  else if t.streams then s.modCore t.coord fun c => { c with qi := [{}, {}, {}, {}], qo := [{}, {}, {}, {}] } else s
/-- The resources of an ended team are released. -/
def State.endTeam (s : State) (t : Team) : State :=
  let s := s.endStreams t
  let s := (s.ops.filter fun o => o.team == t.id && match o.kind with
    | .spill _ _ | .refill _ _ => true
    | .cpy => o.stopped
    | _ => false).foldl (fun s o => s.dropOp o) s
  let s := s.modTeam t.id fun x =>
    { x with place := .ended, endId := s.nextId, tm := {}, abuf := {}, wbuf := {}, cbuf := {}, queues := [], rsvs := [], stages := [], bars := [], barcs := [], recs := [], regions := [] }
  let s := s.modCore t.coord fun c =>
    { c with gens := spPut 0 c.gens t.region ((t.gen + 1) % 65536), slices := if (s.resident t.coord).any fun x => x.ctx == t.ctx then c.slices else c.slices.filter fun x => x.1 != t.ctx }
  let s := s.modLaunch t.launch fun l =>
    { l with
      teamsDone := l.teamsDone + 1
      -- a core that the team left before keeps the time at which it left (R320)
      spans := if t.place = .resident then (t.coord, s.clock) :: l.spans.filter fun x => x.1 != t.coord else l.spans }
  let s := (s.modCluster t.launch t.cluster fun c =>
    { c with ended := if c.ended.contains t.pos then c.ended else c.ended ++ [t.pos], catchOnly := if t.isCatch then false else c.catchOnly }).evalBars
  let s := match t.task with
    | some (d, k) => if (s.tasks.any fun (x : Task) => x.die == d && x.id == k && x.team == some t.id) then s.finishTask d k else s
    | none => s
  s.kick.sched (s.clock + 1) (.launchComplete t.launch)
/-- The core of a position of a team's cluster. -/
def Team.coordAt (t : Team) (p : Nat) : Nat := t.origin + 8 * (p / t.kern.cw) + p % t.kern.cw
/-- Packets toward a core's team memory are in flight: ctm accesses, and chunks of a multicast (R194). -/
def State.packetsTo (s : State) (coord : Nat) : Bool :=
  (s.path.any fun e => e.kind == .ctm && (e.ctm.map fun x => x.1) == some coord) || (s.loads.any fun r => r.got.isNone && (r.ctm.map fun x => x.1) == some coord) ||
  s.ops.any fun o => !o.running.isEmpty && match s.team? o.team with
    | some t => o.positions.any fun p => t.coordAt p == coord
    | none => false
/-- An open interval of the launch settles first. -/
def State.gridOpen (s : State) (t : Team) : Bool := s.steers.any fun x => x.region == .grid t.launch
def execTeamEnd (tid : Nat) (s : State) : Host.Outcome State Fault Refusal :=
  .next <|
    match s.team? tid with
    | none => s
    | some t =>
      if t.place = .ended || !t.groups.all fun g => g.phase == .exited then s
      else if s.matrixOf t || s.copiesOf t || s.spawnsOf t || s.gridOpen t then s.again (.teamEnd tid)
      -- a region's generation does not wrap while packets toward the core are in flight (R194)
      else if t.gen = 0xFFFF && s.packetsTo t.coord then s.again (.teamEnd tid)
      else s.endTeam t

/-! The end of a launch (R52, R57, R198, R227, R320, R341). -/

/-- What must be performed at points of coherence before the completion (R198). -/
def State.unperformed (s : State) (lid : Nat) : Bool :=
  let mine (g : GRef) : Bool := match s.team? g.team with
    | some t => t.launch == lid
    | none => false
  -- and loads and atomics that can still raise an exception (R352)
  (s.loads.any fun r => mine r.byw.g) || (s.atoms.any fun r => mine r.byw.g) ||
  (s.path.any fun e => mine e.byw.g && e.kind != .fence) || (s.ops.any fun o => o.launch == lid && (!s.sentOnly o || !o.acks.isEmpty)) || (s.adds.any fun a => a.launch == lid)
def cancelRec (clock : Nat) : Rec := { code := eCancelled, level := 2, codes := 1#64 <<< 20, clock := clock }
/-- Firmware sends "cleared" once every core that ran a team has passed after the last team there ended (R320). -/
def State.clearLaunch (s : State) (l : Launch) : State :=
  if l.completed && !l.cleared && l.spans.all fun x => x.2 < (s.core x.1).lastPass then
    let s := s.modLaunch l.grid fun y => { y with cleared := true }
    -- a completion that waited for the clearing carries it, in place of the second message
    match l.heldBody with
    | some b => (s.modLaunch l.grid fun y => { y with heldBody := none }).notifyTo (some l.principal) l.ctx 0xC001 b
    | none => s.notifyTo (some l.principal) l.ctx 0xC002 (bytesOfNat 8 l.grid)
  else s
/-- The trees of groups that have ended leave the switches that hold nothing of theirs (R286, R341). -/
def State.pruneTrees (s : State) : State :=
  let live (g : Nat) : Bool := (s.contexts.any fun c => c.colls.any fun x => x.1 == g) || s.launches.any fun l => !l.completed && l.body.cgrp == g
  { s with switches := s.switches.map fun (w : Switch) =>
    let keep (g : Nat) : Bool := live g || (w.slots.any fun y => y.cgrp == g) || w.waiting.any fun y => y.cgrp == g
    { w with entries := w.entries.filter fun e => keep e.cgrp, homes := w.homes.filter keep } }
/-- COMPLETION is sent, or held until the launch is cleared (R320, R341). -/
def State.complete (s : State) (l : Launch) : State :=
  let status := if l.cancelled then 3 else if l.fate = 3 then 1 else l.fate
  let r := match l.exceptions with
    | some x => x
    | none => cancelRec (s.ctxClock l.ctx)
  let body := bytesOfNat 8 l.grid ++ bytesOfNat 4 status ++ (if status = 0 then [] else r.bytes) ++ bytesOfNat 8 (s.ctxClock l.ctx)
  let s := s.modLaunch l.grid fun y => { y with completed := true }
  let holds := match s.ctx? l.ctx with
    | some c => c.p.hold
    | none => false
  let s := if holds then s.modLaunch l.grid fun y => { y with heldBody := some body } else s.notifyTo (some l.principal) l.ctx 0xC001 body
  let s := { s with teams := s.teams.filter fun t => t.launch != l.grid, clusters := s.clusters.filter fun c => c.launch != l.grid }.pruneTrees
  match s.launch? l.grid with
  | some y => s.clearLaunch y
  | none => s
/-- A context that is being destroyed goes when its last launch has ended, and the command is answered (R336, R346). -/
def State.endContext (s : State) (ctx : Nat) : State :=
  match s.ctx? ctx with
  | none => s
  | some c =>
    match c.dying with
    | none => s
    | some h =>
      if s.launches.any fun l => l.ctx == ctx && !l.completed then s
      else
        let frames := ((s.leaves c).flatMap LeafAt.frames) ++ tablesFrom s.dram 4 c.root
        let copies := (s.images.filter fun i => i.ctx == ctx).flatMap fun i => i.copies.flatMap fun x => x.2
        let s := s.freeFrames (frames ++ copies)
        let s : State :=
          { s with
            contexts := s.contexts.filter fun x => x.id != ctx
            images := s.images.filter fun i => i.ctx != ctx
            keys := s.keys.filter fun k => !(k.2.used && k.2.owner == ctx)
            faults := s.faults.map fun (f : FaultRec) => if f.ctx = ctx && f.state = 0 then { f with state := 3 } else f
            cores := s.cores.map fun (k : Core) => { k with tlb := k.tlb.filter fun e => e.ctx != ctx } }
        s.pruneTrees.reply h 0x0011 0 []
def execLaunchComplete (lid : Nat) (s : State) : Host.Outcome State Fault Refusal :=
  .next <|
    match s.launch? lid with
    | none => s
    | some l =>
      let waits := 0 < l.waiting || (s.teams.any fun t => t.launch == lid && t.place != .ended) || (s.tasks.any fun k => k.launch == lid) ||
        (l.fate = 2 && !s.teams.any fun t => t.launch == lid && t.isCatch)
      if l.completed || waits then s
      else if s.unperformed lid || s.steers.any fun x => x.region == .grid lid then s.again (.launchComplete lid)
      else (s.complete l).endContext l.ctx

end Sys2Proof.Machine
end

