-- ==== Sys2Proof/Machine/MemEvents.lean ====
section
/-! DEFINITION. Memory events (R162 to R170, R183, R184, R209, R242): landings, acknowledgements, releases, atomics at their owner,
ctm arrivals, walks and deadlines. -/
namespace Sys2Proof.Machine

/-! Loads land (R162, R163, R165, R167, R203). -/

/-- A load that misses fills its line; a hit is the most recent of its set (R181). -/
def State.loadL1 (s : State) (r : LoadReq) : State :=
  if r.space ≠ 0 || r.ctm.isSome || !r.useL1 then s
  else (r.pas.map fun p => p / 128).eraseDups.foldl (fun s ln =>
    if (l1Line (s.core r.coord) ln).isSome then s.touchL1 r.coord ln else s.fillL1 r.coord ln) s
/-- After a load or an atomic's reply has gone: acquire, wakes, fences and barrier releases. -/
def State.loadGone (s : State) (r : LoadReq) : State :=
  let g := r.byw.g
  let s := match r.acq with
    | some sc => if s.loads.any fun x => x.byw == r.byw && x.acq == r.acq then s else s.acquire g sc
    | none => s
  ((s.wakeRemote g).endFence g).evalBars.serveAll
/-- E_ECC of a lane: a task is rolled back, any other team's lane throws (R163, R283). -/
def State.eccOr (s : State) (t : Team) (g : GRef) (pc : Nat) (l : List (Nat × Nat × Nat)) : State :=
  let ecc := l.filter fun x => x.2.1 = eEcc
  let rest := if t.task.isSome then l.filter fun x => x.2.1 ≠ eEcc else l
  let s := s.raise g (throwsOf pc rest)
  match t.task, ecc with
  | some _, x :: _ => (s.taskEcc t).serveEcc (throwRec s t g.slot s.clock ⟨x.1, eEcc, pc, BitVec.ofNat 64 x.2.2⟩)
  | _, _ => s
/-- What a load's failed values throw where no live lane can: a lane that has exited discards its value (R204), not an exception, which goes
to the grid level with the fields of the word (R352). -/
def LoadReq.lost (r : LoadReq) (live : W64) (isS : Bool) (vals : List (Nat × Nat × Nat)) : List (Starter × Nat × Nat) :=
  (vals.filter fun x => x.2.1 ≠ 0).flatMap fun x =>
    if isS then (if live = 0 && r.byw.lanes &&& ~~~r.dead ≠ 0 then [({ r.byw with lanes := r.byw.lanes &&& ~~~r.dead }, x.2)] else [])
    else if live.getLsbD x.1 || r.dead.getLsbD x.1 then []
    else [({ r.byw with lanes := 1#64 <<< x.1 }, x.2)]
def State.throwLost (s : State) (t : Team) (l : List (Starter × Nat × Nat)) : State :=
  l.foldl (fun s x =>
    if x.2.1 = eEcc && t.task.isSome then s.eccOr t x.1.g x.1.pc [((lanesOf x.1.lanes).headD 0, x.2)]
    else s.raiseStarter x.1 x.2.1 (BitVec.ofNat 64 x.2.2)) s
def State.landLoad (s : State) (r : LoadReq) (t : Team) : State :=
  let g := r.byw.g
  let live := s.liveBy r.byw
  let vals := s.loadValues t r
  let s := (s.loadL1 r)
  let s : State := { s with loads := s.loads.filter fun x => x.id != r.id }
  let isS := match r.dst with
    | .s _ _ => true
    | _ => false
  let open' (l : Nat) : Bool := if isS then live &&& ~~~r.dead ≠ 0 else live.getLsbD l && !r.dead.getLsbD l
  let mine := vals.filter fun x => open' x.1
  let bad := mine.filter fun x => x.2.1 ≠ 0
  let ok := mine.filter fun x => x.2.1 = 0
  let lost := r.lost live isS vals
  let ecc (l : Nat) : Bool := (bad.any fun y => y.1 = l && y.2.1 = eEcc) || (!lost.isEmpty && vals.any fun y => y.1 = l && y.2.1 = eEcc)
  let s := s.eccNotice ((r.accs.zip r.pas).filterMap fun x => if r.space = 0 && ecc x.1.lane then some x.2 else none)
  let s := if r.space ≠ 0 && (r.accs.any fun a => ecc a.lane) then s.localNotice t.ctx else s
  let allBad := if isS then (bad.flatMap fun x => (lanesOf (live &&& ~~~r.dead)).map fun l => (l, x.2)) else bad
  match r.dst with
  | .pc exec len =>
    let wrong := ok.filterMap fun x => (badTarget (s.codeSize t) x.2.2).map fun c => (x.1, c, x.2.2)
    -- a failed check leaves every PC as before the word (R203)
    let back (y : Group) : Group := ((lanesOf exec).filter fun l => (y.pc l).toNat = r.byw.pc + len).foldl (fun y l => y.setPc l (BitVec.ofNat 32 r.byw.pc)) y
    let s := if wrong.isEmpty then s.setPcs g (ok.map fun x => (x.1, x.2.2)) else s.modGroup g back
    ((s.loadGone r).eccOr t g r.byw.pc (bad ++ wrong)).throwLost t lost
  | d =>
    let s := if mine.isEmpty then s else s.modGroup g fun y =>
      let z := ok.foldl (fun (z : Group) x => z.putAll r.byw.cc (loadRegs x.1 d x.2.2)) y
      { z with regs := bad.foldl (fun regs x => regs.markDst RegSt.voided x.1 d) z.regs }
    ((s.loadGone r).eccOr t g r.byw.pc allBad).throwLost t lost
def execLoadLanding (id : Nat) (s : State) : Host.Outcome State Fault Refusal :=
  .next <|
    match s.loads.find? fun r => r.id == id with
    | none => s
    | some r =>
      match s.team? r.byw.g.team with
      | some t =>
        if r.ctm.isSome && r.got.isNone then s
        else if r.ctm.isNone && s.loadWaits r then s.again (.loadLanding id)
        else s.landLoad r t
      | none => { s with loads := s.loads.filter fun x => x.id != id }

/-! Stores, atomics and reductions (R163, R170, R183, R184). -/

/-- The bytes that the owner of an entry holds, and whether they are poisoned. -/
def State.ownerRead (s : State) (e : PathEntry) : Nat × Bool :=
  if e.space = 0 then (s.dram.readN e.pa e.size, s.dram.poisoned e.pa e.size)
  else match s.team? e.byw.g.team with
    | some t => (natOfBytes ((t.buf e.space).mem.bytes e.addr e.size), (t.buf e.space).mem.poisoned e.addr e.size)
    | none => (0, false)
def State.ownerWrite (s : State) (e : PathEntry) (x : Nat) : State :=
  if e.space = 0 then s.writePa e.pa (bytesOfNat e.size x) else s.writeTeam e.byw.g.team e.space e.addr (bytesOfNat e.size x)
/-- After an entry is acknowledged: fences and barrier releases that waited for it. -/
def State.entryGone (s : State) (e : PathEntry) : State := ((s.endEntry e.id).endFence e.byw.g).evalBars.serveAll
/-- One lane of a word throws; when it has exited, the exception goes to the grid level as its own (R57, R352). -/
def State.raiseLane (s : State) (b : Starter) (lane code value : Nat) : State :=
  s.raiseStarter { b with lanes := 1#64 <<< lane } code (BitVec.ofNat 64 value)
/-- The host is told of an uncorrectable error that an access met, in its page or in the team's memory (R331). -/
def State.entryNotice (s : State) (e : PathEntry) : State :=
  if e.space = 0 then s.eccNotice [e.pa]
  else match s.team? e.byw.g.team with
    | some t => s.localNotice t.ctx
    | none => s
/-- An uncorrectable error that an access met at its point of coherence is raised by its lane with the acknowledgement (R163). -/
def State.eccEntry (s : State) (e : PathEntry) (bad : Bool) : State :=
  let s := if bad then s.entryNotice e else s
  match bad, s.team? e.byw.g.team with
  | true, some t => if (s.liveBy e.byw).getLsbD e.lane || t.task.isSome then s.eccOr t e.byw.g e.byw.pc [(e.lane, eEcc, e.addr)]
                    else s.raiseLane e.byw e.lane eEcc e.addr
  | _, _ => s
/-- One access is performed at its point of coherence, as one step (R165, R170). -/
def State.performEntry (s : State) (e : PathEntry) : State :=
  match e.kind with
  | .fence | .ring | .ctm => s.entryGone e
  | .ctradd =>
    match s.team? e.byw.g.team with
    | some t =>
      -- an addition that waits on a fault keeps its place in the path until it is made (R184, R190, R258)
      let s := s.addAt t.ctx e.addr e.data (e.op = 1) [e.byw] t.launch false (entry := e.id)
      if s.adds.any fun a => a.entry = e.id then s else s.entryGone e
    | none => s.entryGone e
  | .st => ((s.ownerWrite e e.data).entryGone e).eccEntry e (s.ownerRead e).2
  | _ =>
    let o := s.ownerRead e
    let s := if o.2 then s else s.ownerWrite e (entryNew e o.1)
    if e.kind = .atom then
      let s := if o.2 then s.entryNotice e else s
      let r : AtomRep := { id := e.id, coord := e.coord, byw := e.byw, lane := e.lane, reg := e.reg, ty := e.ty, old := o.1, ecc := o.2, space := e.space, addr := e.addr, remote := e.space = 0 && homeDie e.pa ≠ Config.coordDie e.coord, dead := e.reg = 256 }
      ({ s with atoms := s.atoms ++ [r] }.endEntry e.id).after 1 (.atomReply e.id)
    else (s.entryGone e).eccEntry e o.2
def State.entry? (s : State) (id : Nat) : Option PathEntry := s.path.find? fun e => e.id == id
def execStoreAck (id : Nat) (s : State) : Host.Outcome State Fault Refusal :=
  .next <|
    match s.entry? id with
    | none => s
    | some e => if e.rel.isNone && s.mayPerform e then s.performEntry e else s.again (.storeAck id)
def execStorePathRelease (id : Nat) (s : State) : Host.Outcome State Fault Refusal :=
  .next <|
    match s.entry? id with
    | none => s
    | some e =>
      if s.mayPerform e && s.released e.byw.g e.coord (e.rel.getD 0) id then s.performEntry e else s.again (.storePathRelease id)
def execAtomAtOwner (id : Nat) (s : State) : Host.Outcome State Fault Refusal :=
  .next <|
    match s.entry? id with
    | none => s
    | some e =>
      -- the lanes of one word at one location are applied together, in ascending order (R170, R171)
      let l := s.mates e
      if e.rel.isNone && s.mayPerformAll l then l.foldl (fun s x => s.performEntry x) s else s.again (.atomAtOwner id)
def execAtomReply (id : Nat) (s : State) : Host.Outcome State Fault Refusal :=
  .next <|
    match s.atoms.find? fun r => r.id == id with
    | none => s
    | some r =>
      let g := r.byw.g
      let s : State := { s with atoms := s.atoms.filter fun x => x.id != id }
      let done (s : State) : State := ((s.wakeRemote g).endFence g).evalBars.serveAll
      if r.dead then done s
      -- a lane that has exited discards the result (R204), not the exception (R163, R352)
      else if !(s.liveBy r.byw).getLsbD r.lane then
        match s.team? g.team, r.ecc with
        | some t, true => if t.task.isSome then (done s).eccOr t g r.byw.pc [(r.lane, eEcc, r.addr)] else (done s).raiseLane r.byw r.lane eEcc r.addr
        | _, _ => done s
      else if r.ecc then
        match s.team? g.team with
        | some t => (done (s.voidDst g [r.lane] (.v r.reg r.ty false))).eccOr t g r.byw.pc [(r.lane, eEcc, r.addr)]
        | none => s
      else done (s.modGroup g fun y => y.putAll r.byw.cc (loadRegs r.lane (.v r.reg r.ty false) r.old))

/-! ctm accesses at their target (R166). -/

/-- The target's team when its allocation still has the generation that the access carries. DESIGN CHOICE (log 115): an evicted one is
accessed where it is saved. -/
def State.ctmTarget (s : State) (g : GRef) (x : Nat × Nat) : Option Team :=
  match s.team? g.team with
  | none => none
  | some t => (clusterTeam s t x.1).filter fun y => y.gen == x.2
def execCtmArrival (id : Nat) (s : State) : Host.Outcome State Fault Refusal :=
  .next <|
    match s.loads.find? fun r => r.id == id && r.got.isNone with
    | some r =>
      match r.ctm, r.accs with
      | some x, a :: _ =>
        let answer (s : State) (c v : Nat) : State :=
          { s with loads := s.loads.map fun (y : LoadReq) => if y.id = id then { y with got := some [(a.lane, c, v)] } else y }.after (Config.meshCc (Config.meshWay x.1 r.coord + 1)) (.loadLanding id)
        if s.loadWaits r then s.again (.ctmArrival id)
        else match s.ctmTarget r.byw.g x with
        | none => answer s eBounds a.addr
        | some t =>
          match (if 0x7E800 ≤ a.addr then 0 else probeState t 1 a.addr) with
          | 2 => answer s eAbsent a.addr
          | 1 => s.again (.ctmArrival id)
          | _ => if t.tm.mem.poisoned a.addr a.size then answer s eEcc a.addr else answer s 0 (natOfBytes (t.tmBytes a.addr a.size))
      | _, _ => s
    | none =>
      match s.entry? id with
      | none => s
      | some e =>
        match e.ctm with
        | none => s
        | some x =>
          if !s.mayPerform e then s.again (.ctmArrival id)
          else
            match s.ctmTarget e.byw.g x with
            | none => s.entryGone e
            | some t =>
              if s.locked t.coord t 1 e.addr e.size false then
                let s := s.entryGone e
                s.raiseLane e.byw e.lane eRangelock e.addr
              else ((s.writeTeam t.id 1 e.addr (bytesOfNat e.size e.data)).entryGone e).eccEntry e (t.tm.mem.poisoned e.addr e.size)

/-! Walks (R240 to R242, R238). -/

/-- The kind of a word's fault: 0 read, 1 write, 2 code. -/
def MemAct.kind (a : MemAct) : Nat := if a == .code then 2 else if a.needs.2 then 1 else 0
/-- A held word's accesses on the page that a walk was for. -/
def MemWord.onPage (w : MemWord) (va : Nat) : List Acc := w.accs.filter fun a => a.addr / 4096 == va / 4096 || (a.addr + a.size - 1) / 4096 == va / 4096
/-- The lanes of a held word that fail step 4, each with its own code (R161): a page refused or unresolvable, or one that forbids the access. -/
def State.step4Fails (s : State) (t : Team) (mw : MemWord) (refused : Option Nat) : List LaneThrow :=
  let need := mw.act.needs
  throwsOf mw.byw.pc (mw.accs.filterMap fun a =>
    match s.walkTeam t a.addr need.2 with
    | .bad => some (a.lane, ePage, a.addr)
    | .missing => if refused.any fun v => a.addr / 4096 = v / 4096 || (a.addr + a.size - 1) / 4096 = v / 4096 then some (a.lane, ePage, a.addr) else none
    | .ok x => if (need.1 && !pteRd x.leaf) || (need.2 && !pteWr x.leaf) || (mw.act == .code && !pteCode x.leaf) then some (a.lane, eProt, a.addr) else none)
/-- A walk's outcome for one group that waits for it. -/
def State.walkDone (s : State) (t : Team) (g : GRef) (mw : MemWord) (va : Nat) : State :=
  match s.walkTeam t va mw.act.needs.2 with
  | .ok x => (s.modCore t.coord fun c => tlbPut c t.ctx va x).retryHeld g
  | .bad => s.failHeld g mw (s.step4Fails t mw none)
  | .missing =>
    let va' := ((mw.onPage va).headD { lane := 0, addr := va, size := 1 }).addr
    let r := s.newFault t.ctx va' mw.act.kind (.group g)
    (r.2.park g (.fault r.1) mw.byw).modGroup g fun y => { y with held := some { mw with walking := false } }
def execTableWalkComplete (id : Nat) (s : State) : Host.Outcome State Fault Refusal :=
  .next <|
    match s.walks.find? fun w => w.id == id with
    | none => s
    | some w =>
      let s : State := { s with walks := s.walks.filter fun x => x.id != id }
      -- the walker takes up the walk that has waited longest (R242)
      let s := match (s.dieWalks (Config.coordDie w.coord))[15]? with
        | some x => s.runWalk x
        | none => s
      let ts := s.teams.filter fun t => t.coord == w.coord && t.ctx == w.ctx && t.place != .ended
      ts.foldl (fun s t => t.groups.foldl (fun s g =>
        match g.held with
        | some mw => if mw.walking && mw.space = 0 && !(mw.onPage w.va).isEmpty then s.walkDone t ⟨t.id, g.slot⟩ mw w.va else s
        | none => s) s) s

/-! WAITGE's deadline (R209). -/

/-- DESIGN CHOICE (log 111): a counter whose page is mapped no longer is not read, and E_TIMEOUT has value 0. -/
def execWaitgeTimeout (g : GRef) (s : State) : Host.Outcome State Fault Refusal :=
  .next <|
    match s.team? g.team, s.group? g with
    | some t, some gr =>
      match gr.wake with
      | some (.counter team addr target scope (some d)) =>
        if s.ctxClock t.ctx < d then s
        else
          let v := (counterValue s t team addr).getD 0
          let s := s.wakeGroup g
          if target ≤ v then s.acquire g scope else s.raiseStarter gr.wakeBy eTimeout (BitVec.ofNat 64 v)
      | _ => s
    | _, _ => s

end Sys2Proof.Machine
end

