-- ==== Sys2Proof/Machine/Copies.lean ====
section
/-! DEFINITION. Copy engines (R195, R239, R248 to R257, R265, R272 to R277) and queue and spawn rings (R46, R262, R263, R269 to
R271): starts, chunks, completions and failures. -/
namespace Sys2Proof.Machine

/-! Failure of any engine operation (R46, R239, R271). -/

def numsFrom (first n : Nat) : List Nat := (List.range n).map fun i => first + i
/-- A ring's head passes records that were discarded with their write. -/
def skipGone (gone : List Nat) : Nat → Nat → Nat
  | 0, h => h
  | n + 1, h => if gone.contains h then skipGone gone n (h + 1) else h
def HwQ.skip (x : HwQ) : HwQ := { x with head := min x.tail (skipGone x.gone x.gone.length x.head) }
def Team.skipSpawns (t : Team) : Team := { t with ringHead := min t.ringTail (skipGone t.ringGone t.ringGone.length t.ringHead) }
/-- An operation ends in a failure: a copy as R239, a spill for its pusher, other ring work for every group of the team. -/
def State.engFail (s : State) (id code value : Nat) : State :=
  match s.op? id with
  | none => s
  | some o =>
    let forTeam (s : State) : State := match s.team? o.team with
      | some t => s.raiseTeam t code (BitVec.ofNat 64 value)
      | none => s
    match o.kind with
    | .cpy | .cpyt _ _ => s.failOp id code value
    | .fill _ _ => s.dropOp o
    | .spill q first =>
      let s := (s.modQueue o.team q fun x => { x with gone := x.gone ++ numsFrom first o.recs.length }.skip).dropOp o
      (s.raiseStarter o.byw code (BitVec.ofNat 64 value)).sched s.clock (.queueRefillStart o.team q)
    | .refill q n =>
      let s := (s.modQueue o.team q fun x => { x with head := x.head + n, reserved := x.reserved - n, refill := none }.skip).dropOp o
      (forTeam s).sched s.clock (.queueRefillStart o.team q)
    | .spawnOut first =>
      (forTeam ((s.modTeam o.team fun t => { t with ringGone := t.ringGone ++ numsFrom first o.spawns.length }.skipSpawns).dropOp o)).sched (s.clock + 1) (.spawnRingRefill o.team)
    | .spawnIn n =>
      (forTeam ((s.modTeam o.team fun t => { t with ringHead := t.ringHead + n }.skipSpawns).dropOp o)).askRings o.coord
/-- A chunk meets a fault: the operation leaves its queue with the chunk still to start (R239). One fault holds the whole operation, so
a chunk that faults while one is open makes no record of its own: it is replayed with the others. -/
def State.faultOp (s : State) (o : EOp) (va : Nat) (wr : Bool) : State :=
  if o.fault.isSome then s else
  let r := s.newFault o.ctx va wr.toNat (.op o.id)
  (r.2.modOp o.id fun x => { x with fault := some r.1 }).leaveEngine o
/-- What a chunk writes where its engine performs it: a reducing transfer's contribution writes nothing here (R255, R314). -/
def State.ownWrites (s : State) (o : EOp) (c : Nat) : List (Nat × Nat × Nat) := if o.reduces then [] else s.chunkWrites o c
/-- Reads or writes that cannot be made: a fault, or the end of the operation. -/
def State.blockOp (s : State) (o : EOp) (c : Nat) : Option State :=
  match s.engBad o (s.chunkReads o c) false with
  | some (0, va) => some (s.faultOp o va false)
  | some (code, va) => some (s.engFail o.id code va)
  | none =>
    match s.engBad o (s.ownWrites o c) true with
    | some (0, va) => some (s.faultOp o va true)
    | some (code, va) => some (s.engFail o.id code va)
    | none => none

/-! Start of copies (R251, R252). -/

/-- The first failing check of a slice with its value (R216, R251). -/
def sliceBad (t : Team) (first x : Slice) : Option (Nat × Nat) :=
  let off (sp a : Nat) : Bool := sp ≠ 0 && (if sp = 1 then t.kern.teamBytes else (t.buf sp).size) < a + x.bytes
  let glob (sp a : Nat) : Bool := sp = 0 && !(canonical a && (x.bytes = 0 || canonical (a + x.bytes - 1)))
  if x.sub ≠ first.sub || x.ctr ≠ first.ctr then some (eIllegal, x.raw.toNat)
  else if off x.dstSpace x.dst then some (eBounds, x.dst)
  else if off x.srcSpace x.src then some (eBounds, x.src)
  else if x.mask / 2 ^ (t.kern.cw * t.kern.ch) ≠ 0 then some (eBounds, x.dst)
  else if x.len / 2 ^ 44 ≠ 0 then some (eBounds, x.dst)
  else if x.dst % 16 ≠ 0 then some (eAlign, x.dst)
  else if x.src % 16 ≠ 0 then some (eAlign, x.src)
  else if x.bytes % 16 ≠ 0 then some (eAlign, x.bytes)
  else if glob x.dstSpace x.dst then some (eProt, x.dst)
  else if glob x.srcSpace x.src then some (eProt, x.src)
  else if 8 ≤ x.sub || x.ctr = 0 then none
  else if x.ctr % 8 ≠ 0 then some (eAlign, x.ctr)
  else if !canonical x.ctr then some (eProt, x.ctr)
  else none
/-- The instance is refused (R251). -/
def State.refuseCopy (s : State) (o : EOp) (code value : Nat) : State :=
  ((((s.unclear o).poisonOp o.id).dropOp o)).raiseStarters o.throwers code (BitVec.ofNat 64 value)
/-- The other teams of a multicast, with the slice. -/
def State.remoteDsts (s : State) (o : EOp) : List (Team × Slice) :=
  o.slices.flatMap fun x => if x.mask = 0 then [] else ((s.sliceTeams o x).filter fun t => t.id != o.team).map fun t => (t, x)
def State.startCopy (s : State) (o : EOp) (t : Team) : State :=
  let rem := s.remoteDsts o
  let locks := rem.flatMap fun x => mkLock o.id x.1.coord 1 true x.1.ctx x.1.id x.2.dst x.2.bytes
  let room := (locks.map fun k => k.coord).eraseDups.all fun c => s.lockRoom c (locks.filter fun k => k.coord == c).length
  if !room then s.again (.engineOpStart o.id)
  else
    let gens := o.positions.filterMap fun p => (s.teamAt t.launch t.cluster p).map fun x => (p, x.gen)
    let s := { s with locks := s.locks ++ locks }
    let s := rem.foldl (fun s x => s.modTeam x.1.id fun y => y.modBuf 1 fun b => b.clearLines (linesIn b x.2.dst x.2.bytes)) s
    let o' := { o with gathering := false, started := true, todo := o.chunks, gens := gens }
    let s := s.modOp o.id fun _ => o'
    if o'.todo.isEmpty then s.dropOp o' else s.enterEngine o'
/-- A spawn record's release has been performed: its SPAWN's group's earlier accesses are visible to the team (R42, R190, R220). -/
def State.spawnReleased (s : State) (coord : Nat) (r : SpawnRec) : Bool :=
  match r.rel with
  | some (g, n) => s.released g coord 2 n
  | none => true
def execEngineOpStart (id : Nat) (s : State) : Host.Outcome State Fault Refusal :=
  .next <|
    match s.op? id with
    | none => s
    | some o =>
      if o.started then s
      else if s.frozen o.ctx then s.again (.engineOpStart id)
      else
        let acked := !s.path.any fun e => o.first.contains e.id
        match o.kind with
        | .cpy =>
          if !s.hasAllSlices o then s
          else if o.stopped then { s with ops := s.ops.filter fun x => x.id != id }
          else
            match s.team? o.team with
            | none => s.dropOp o
            | some t =>
              let first := o.slices.headD { slot := 0, sub := 0, ctr := 0, dst := 0, src := 0, len := 0, byw := o.byw, cleared := [] }
              match (sortSlices o.slices).findSome? fun x => sliceBad t first x with
              | some (c, v) => s.refuseCopy o c v
              | none => if acked && t.place == .resident then s.startCopy o t else s.again (.engineOpStart id)
        | .cpyt _ _ => if acked then (s.modOp id fun x => { x with started := true }).enterEngine o else s.again (.engineOpStart id)
        | .spill _ _ => s.sched s.clock (.queueSpillStart id)
        -- spawn-ring spills and refills are queue spills and refills (R46, R195, R276)
        | .spawnOut first =>
          match s.team? o.team with
          | none => s.dropOp o
          | some t =>
            let x := s.spawnBase t
            if acked && o.spawns.all (s.spawnReleased t.coord) && s.lockRoom o.coord 1 then
              ({ s with locks := s.locks ++ ringLock o true x.1 x.2 first o.spawns.length }.modOp id fun x => { x with started := true }).enterEngine o
            else s.again (.engineOpStart id)
        | .spawnIn n =>
          match s.team? o.team with
          | none => s.dropOp o
          | some t =>
            let x := s.spawnBase t
            if s.lockRoom o.coord 1 then
              ({ s with locks := s.locks ++ ringLock o false x.1 x.2 t.ringHead n }.modOp id fun x => { x with started := true }).enterEngine o
            else s.again (.engineOpStart id)
        | _ => (s.modOp id fun x => { x with started := true }).enterEngine o

/-! Deficit round robin (R272, R273). -/

/-- A team that is away, or that is only waiting to leave, starts no chunk that touches its memory (R232). -/
def State.teamStill (s : State) (t : Team) : Bool :=
  t.place == .away || (s.leaving t && t.groups.all (fun g => g.phase == .evicted || g.phase == .exited) && t.groups.any fun g => g.phase == .evicted)
/-- The operation may start its next chunk. -/
def State.mayChunk (s : State) (o : EOp) : Bool :=
  !o.todo.isEmpty && o.fault.isNone && !s.frozen o.ctx && match o.kind with
    | .cpy | .cpyt _ _ => !(s.opTeams o).any fun t => s.teamStill t
    | .refill _ _ | .spill _ _ | .spawnIn _ | .spawnOut _ => match s.team? o.team with
      | some t => t.place != .away
      | none => true
    | _ => true
/-- The operation that a virtual queue serves: the first that may start a chunk. Model's choice (log 36): an operation of a frozen context
or of a team that is away stands aside for those behind it. -/
def State.drrHead (s : State) (e : Engine) (c : Nat) : Option EOp := ((e.queues.getD c []).filterMap fun i => s.op? i).find? fun o => s.mayChunk o
/-- The loop of R272 goes on to the place where it waits for the read port and a slot: a class whose head's chunk its deficit covers. It
passes an empty class with no deficit left, and adds a quantum once a visit. With nothing to serve it comes round to class 0. -/
def drrWait (s : State) : Nat → Engine → Engine
  | 0, e => { e with cls := 0, visited := false }
  | n + 1, e =>
    let c := e.cls
    let next (e : Engine) : Engine := drrWait s n { e with cls := (c + 1) % 4, visited := false }
    match s.drrHead e c with
    | none => next (if (e.queues.getD c []).isEmpty then { e with deficit := modNth e.deficit c fun _ => 0 } else e)
    | some o =>
      let e := if e.visited then e else { e with deficit := modNth e.deficit c fun d => d + e.quantum.getD c 2048, visited := true }
      if s.chunkSize o (o.todo.headD 0) ≤ e.deficit.getD c 0 then e else next e
/-- The engine's loop goes on at once, up to its next wait: what enters later does not change the class it waits in (R272, R273). -/
def State.drrGo (s : State) (engine : Nat) : State := s.modEngine engine fun e => drrWait s 9 e
def chunkDone (o : EOp) (c : Nat) : Instr :=
  match o.kind with
  | .spill _ _ => .queueSpillPerformed o.id
  | .refill _ _ => .queueRefillLanding o.id
  | _ => .chunkComplete o.id c
def execChunkStart (engine : Nat) (s : State) : Host.Outcome State Fault Refusal :=
  .next <|
    let s := s.drrGo engine
    let e := s.engine engine
    let ops := (e.queues.flatten).filterMap fun i => s.op? i
    if ops.all fun o => o.todo.isEmpty then s
    else if s.clock < e.portFree then s.turnEngine engine e.portFree
    else
      match (if 32 ≤ e.slots then none else s.drrHead e e.cls) with
      | none => s.turnEngine engine (s.clock + 1)
      | some o =>
        let c := o.todo.headD 0
        let size := s.chunkSize o c
        -- the charge of a chunk that faults stays (R272)
        let s := s.modEngine engine fun x => { x with deficit := modNth x.deficit e.cls fun d => d - size }
        match s.blockOp o c with
        | some s1 => (s1.drrGo engine).turnEngine engine (s.clock + 1)
        | none =>
          let read := Config.meshCc ((size + 127) / 128)
          let o' := { o with todo := o.todo.drop 1, running := o.running ++ [c] }
          let s := (s.modEngine engine fun x => { x with portFree := s.clock + read, slots := x.slots + 1 }).modOp o.id fun _ => o'
          let s := (if o'.todo.isEmpty then s.leaveEngine o' else s).drrGo engine
          (s.after (read + Config.meshCc 16) (chunkDone o c)).turnEngine engine (s.clock + read)

/-! Chunks complete. -/

/-- The chunk gives up its slot and is counted. -/
def State.chunkOver (s : State) (o : EOp) (c : Nat) : State :=
  (s.modOp o.id fun x => { x with running := x.running.filter fun y => y != c, counted := x.counted ++ [c], written := x.written.filter fun y => y != c, landed := if o.reduces then x.landed else x.landed ++ [c] }).modEngine (engineOf o.coord) fun e => { e with slots := e.slots - 1 }
/-- The destination lines of a copy in its own team's memory. -/
def State.ownLines (s : State) (o : EOp) : List (Nat × Nat) :=
  (o.slices.filter fun y => y.dstSpace ≠ 0 && (y.mask = 0 || match s.team? o.team with
    | some t => y.mask / 2 ^ t.pos % 2 = 1
    | none => false)).flatMap fun y => (linesOf y.dst y.bytes).map fun l => (y.dstSpace, l)
/-- After the last chunk has been counted the locks lift (R251), in the cc of its counter update (R195); lines that a drop left absent are
orphaned (R277). A reducing call stays until its results are here (R287). -/
def State.closeOp (s : State) (id : Nat) : State :=
  match s.op? id with
  | some o =>
    if !(o.todo.isEmpty && o.running.isEmpty && o.fault.isNone) || s.adds.any (fun a => a.op = id) then s
    else if !o.lost.isEmpty then (s.orphanLines o.team (s.ownLines o)).dropOp o
    else if o.undelivered.isEmpty || !o.reduces then (if o.acks.isEmpty then s.dropOp o else (s.leaveEngine o).endLocks o.id)
    else if s.sentOnly o then (s.leaveEngine o).endLocks o.id
    else s.leaveEngine o
  | none => s
/-- A target drops the packet when its generation has moved (R194, R252). -/
def State.dropsAt (s : State) (o : EOp) (x : Slice) : List Nat :=
  if x.mask = 0 then []
  else match s.team? o.team with
    | none => []
    | some t => ((List.range 12).filter fun j => x.mask / 2 ^ j % 2 = 1).filter fun j =>
        match s.teamAt t.launch t.cluster j, o.gens.find? fun g => g.1 == j with
        | some y, some g => y.gen != g.2
        | _, _ => true
/-- A chunk went to peers, which acknowledge it after a time of their own (R198). -/
def State.awaitAck (s : State) (op c : Nat) : State := (s.modOp op fun x => { x with acks := x.acks ++ [c] }).after 1 (.chunkComplete op c)
/-- A chunk whose bytes are in place is counted once its update's release allows it (R190, R248, R254). -/
def State.countChunk (s : State) (o : EOp) (c : Nat) : State :=
  if !s.updateReady o then (s.modOp o.id fun x => { x with written := c :: x.written.filter fun y => y != c }).again (.chunkComplete o.id c)
  else
    let n := ((s.chunkReads o c).map fun y => y.2.2).sum
    let s := match o.kind with
      | .cpyt r _ => if r.op ≠ 0 || r.ctr = 0 || !s.isDest o.ctx r then s else s.addAt o.ctx (r.ctr + 8 * (c / 2 ^ 32)) n false o.throwers o.launch false o.id
      | _ => s
    let s := (s.countBytes o n).chunkOver o c
    (match o.kind with
      | .cpyt r _ => if s.toPeers o.ctx r then s.awaitAck o.id c else s
      | _ => s).closeOp o.id
def State.cpyChunk (s : State) (o : EOp) (c : Nat) : State :=
  match (sortSlices o.slices)[c / 2 ^ 32]? with
  | none => s
  | some x =>
    let drops := s.dropsAt o x
    let data := s.engRead o (s.chunkReads o c)
    let w := s.chunkWrites o c
    let ts := if x.dstSpace = 0 then (s.team? o.team).toList else (s.sliceTeams o x).filter fun t => !drops.contains t.pos || x.mask = 0
    let s := ts.foldl (fun s t => s.engWrite o t.id w data) s
    match s.team? o.team, drops with
    | some t, p :: _ =>
      let at_ := t.origin + 8 * (p / t.kern.cw) + p % t.kern.cw
      s.after (Config.meshCc (Config.meshWay at_ o.coord + 1)) (.multicastDrop o.id c at_)
    | _, _ => (s.setPresent o c ts).countChunk o c
/-- Elements of a chunk as they travel: narrow floats widened to f32, triples as three words (R255). -/
def chunkElemBits (r : Shape) (b : List Byte) : List Nat :=
  (List.range (b.length / r.z)).map fun i =>
    let x := natOfBytes ((b.drop (i * r.z)).take r.z)
    if r.op = 4 then x % 2 ^ 96 else if r.type = .bf16 || r.type = .f16 then (cvtBits .f32 r.type rneMode x).1 else x
/-- The signature of a call (R255, R287). -/
def EOp.sig (o : EOp) (r : Shape) : CollSig :=
  { count := prodOf r.dims, ty := r.ty % 16, op := r.op, memb := r.memb, repl := r.repl, rbase := r.rbase, codeOff := o.byw.pc }
def chunkIndex (r : Shape) (c : Nat) : Nat := (r.chunks.findIdx? fun x => x == c).getD 0
/-- What a transfer writes: undefined bytes where its source overlaps its destination on this rank (R256). -/
def State.cpytBytes (s : State) (r : Shape) (b : List Byte) : List Byte × State := if r.overlaps then s.drawBytes b.length else (b, s)
def State.cpytChunk (s : State) (o : EOp) (r : Shape) (seq c : Nat) : State :=
  let reads := s.chunkReads o c
  let data := s.engRead o reads
  if r.op ≠ 0 then
    -- counted once its contribution has been accepted by the home switch
    s.after (Config.meshCc 24) (.switchContribution
      { sw := o.home, port := 4, cgrp := r.cgrp, seq := seq, chunk := chunkIndex r c, sig := o.sig r, elems := chunkElemBits r data, mismatch := false,
        space := cpySpace r.space, tileCtr := if r.ctr = 0 then 0 else r.ctr + 8 * (c / 2 ^ 32), dsts := (r.chunkElems c).map (r.dstAddr (c / 2 ^ 32)), z := r.z })
  else
    let s := if s.isDest o.ctx r then
        let x := s.cpytBytes r data
        let s := x.2.engWrite o o.team (s.chunkWrites o c) x.1
        s.setPresent o c (s.team? o.team).toList
      else s
    s.countChunk o c
/-- A fill's half page moves between frames with its poison (R281, R323). -/
def State.fillChunk (s : State) (o : EOp) (c die task : Nat) : State :=
  match o.pages[c / 2]? with
  | none => s
  | some (a, b) =>
    let src := a + c % 2 * 2048
    let dst := b + c % 2 * 2048
    let bad := s.dram.poison.filter fun k => src / 64 ≤ k && k < src / 64 + 32
    let m := s.dram.writeBytes dst (s.dram.bytes src 2048)
    let s := { s with dram := { m with poison := m.poison ++ bad.map fun k => k + dst / 64 - src / 64 } }
    let s := (s.chunkOver o c).closeOp o.id
    if (s.op? o.id).isNone then s.sched (s.clock + 1) (.taskStart die task) else s
/-- The 32 bytes of a spawn record (R42). -/
def SpawnRec.bytes (r : SpawnRec) : List Byte :=
  bytesOfNat 4 r.entry ++ bytesOfNat 4 r.n ++ bytesOfNat 8 r.join ++ ((List.range 4).flatMap fun j => bytesOfNat 4 (r.payload.getD j 0).toNat)
def parseSpawn (b : List Byte) : SpawnRec :=
  { entry := le2 b 0 4, n := le2 b 4 4, join := le2 b 8 8, payload := (List.range 4).map fun j => BitVec.ofNat 32 (le2 b (16 + 4 * j) 4) }
def splitRecs : Nat → List Byte → List (List Byte)
  | 0, _ => []
  | n + 1, b => b.take 32 :: splitRecs n (b.drop 32)
def State.spawnInDone (s : State) (o : EOp) (n : Nat) : State :=
  match s.team? o.team with
  | none => s.dropOp o
  | some t =>
    let recs := (splitRecs n (s.engRead o (s.chunkReads o 0))).map parseSpawn
    let s := (s.dropOp o).modTeam t.id fun x => { x with ringHead := x.ringHead + n }.skipSpawns
    let s := s.modCore t.coord fun c => { c with spawnq := c.spawnq ++ recs.map fun r => (t.id, r) }
    (s.gather t).sched (s.clock + 1) (.spawnRingRefill t.id)
/-- Uncorrectable data that an engine read (R239, R271, R46); a task's copy rolls it back (R283). -/
def State.poisonedChunk (s : State) (o : EOp) : State :=
  match o.kind with
  | .cpy | .cpyt _ _ =>
    match s.team? o.team with
    | some t =>
      if t.task.isSome then
        (s.taskEcc t).serveEcc (throwRec s t o.byw.g.slot s.clock ⟨(lanesOf o.byw.lanes).headD 0, eEcc, o.byw.pc, BitVec.ofNat 64 o.failValue⟩)
      else s.engFail o.id eCopyfail o.failValue
    | none => s.engFail o.id eCopyfail o.failValue
  -- a spawn-ring refill's E_ECC has the address of the record that failed (R46); a queue refill has no counter to name (R239)
  | .spawnIn _ => s.engFail o.id eEcc ((((s.chunkReads o 0).find? fun x => s.engPoison o [x]).getD (0, 0, 0)).2.1)
  | _ => s.engFail o.id eCopyfail o.failValue
/-- The next step of a chunk whose read is over: a fault stops it with no byte counted, and it is replayed whole, the operation resuming at
its first chunk not counted (R239). -/
def State.chunkReady (s : State) (o : EOp) (c : Nat) : Option State :=
  let back (s : State) : State :=
    (s.modOp o.id fun x => { x with running := x.running.filter fun y => y != c, todo := o.chunks.filter fun y => y == c || x.todo.contains y }).modEngine (engineOf o.coord) fun e => { e with slots := e.slots - 1 }
  match o.kind with
  | .fill _ _ => none
  | _ =>
    match s.engBad o (s.chunkReads o c) false, s.engBad o (s.ownWrites o c) true with
    | some (0, va), _ => some ((back s).faultOp o va false)
    | some (code, va), _ => some (s.engFail o.id code va)
    | none, some (0, va) => some ((back s).faultOp o va true)
    | none, some (code, va) => some (s.engFail o.id code va)
    | none, none => if s.engPoison o (s.chunkReads o c) then some ((s.engNotice o (s.chunkReads o c)).poisonedChunk o) else none
def execChunkComplete (op chunk : Nat) (s : State) : Host.Outcome State Fault Refusal :=
  .next <|
    match s.op? op with
    | none => s
    | some o =>
      if !o.running.contains chunk then (if o.acks.contains chunk then (s.modOp op fun x => { x with acks := x.acks.erase chunk }).closeOp op else s)
      else
        if o.written.contains chunk then s.countChunk o chunk
        else match s.chunkReady o chunk with
        | some s1 => s1
        | none =>
          match o.kind with
          | .cpy => s.cpyChunk o chunk
          | .cpyt r seq => s.cpytChunk o r seq chunk
          | .fill d k => s.fillChunk o chunk d k
          | .spawnOut _ =>
            let s := s.engWrite o o.team (s.chunkWrites o chunk) (o.spawns.flatMap SpawnRec.bytes)
            (s.dropOp o).sched (s.clock + 1) (.spawnRingRefill o.team)
          | .spawnIn n => s.spawnInDone o n
          | _ => s
/-- The engine hears of a drop (R277): one poison, no further chunk, the started ones land or are dropped. -/
def execMulticastDrop (op chunk coord : Nat) (s : State) : Host.Outcome State Fault Refusal :=
  .next <|
    match s.op? op with
    | none => s
    | some o =>
      if !o.running.contains chunk || !Config.coordOk coord then s
      else
        -- a fault that a chunk of it had open goes with the chunks that are not started (R292)
        let s := (o.fault.map (s.poisonOp op).withdrawFault).getD (s.poisonOp op)
        let s := s.modOp op fun x => { x with todo := [], fault := none, running := x.running.filter fun y => y != chunk, lost := x.lost ++ x.todo ++ [chunk] }
        ((s.leaveEngine o).modEngine (engineOf o.coord) fun e => { e with slots := e.slots - 1 }).closeOp op

/-! Queue spills and refills (R270). -/

def execQueueSpillStart (op : Nat) (s : State) : Host.Outcome State Fault Refusal :=
  .next <|
    match s.op? op with
    | none => s
    | some o =>
      match o.kind, s.team? o.team with
      | .spill q first, some t =>
        if o.started then s
        else if s.frozen o.ctx || !s.released o.byw.g o.coord 3 op || !s.lockRoom o.coord 1 then s.again (.queueSpillStart op)
        else
          let s := { s with locks := s.locks ++ ringLock o true (t.queue q).base (t.queue q).cap first o.recs.length }
          (s.modOp op fun x => { x with started := true }).enterEngine o
      | _, _ => s
def recBytes (w : List W32) : List Byte := (List.range 8).flatMap fun j => bytesOfNat 4 (w.getD j 0).toNat
def parseQRec (b : List Byte) : List W32 := (List.range 8).map fun j => BitVec.ofNat 32 (le2 b (4 * j) 4)
def execQueueSpillPerformed (op : Nat) (s : State) : Host.Outcome State Fault Refusal :=
  .next <|
    match s.op? op with
    | none => s
    | some o =>
      match o.kind with
      | .spill q first =>
        if !o.running.contains 0 then s
        else
          match s.chunkReady o 0 with
          | some s1 => s1
          | none =>
            let s := s.engWrite o o.team (s.chunkWrites o 0) (o.recs.flatMap recBytes)
            let s := s.modQueue o.team q fun x => { x with performed := x.performed ++ numsFrom first o.recs.length }
            (s.dropOp o).sched s.clock (.queueRefillStart o.team q)
      | _ => s
/-- The unbroken run of performed records from the head. -/
def runFrom (performed : List Nat) : Nat → Nat → Nat
  | 0, _ => 0
  | n + 1, h => if performed.contains h then runFrom performed n (h + 1) + 1 else 0
def execQueueRefillStart (team q : Nat) (s : State) : Host.Outcome State Fault Refusal :=
  .next <|
    match s.team? team with
    | none => s
    | some t =>
      let x := (t.queue q).skip
      let n := min x.free (runFrom x.performed 32 x.head)
      if t.place ≠ .resident || q ≥ t.queues.length || x.refill.isSome || n = 0 then s
      else if s.frozen t.ctx then (if s.agenda.any fun a => a.2 == .queueRefillStart team q then s else s.again (.queueRefillStart team q))
      -- it is asked again in the cc in which an entry of the table comes free
      else if !s.lockRoom t.coord 1 then s
      else
        let o : EOp := { id := s.nextId, kind := .refill q n, coord := t.coord, team := team, ctx := t.ctx, launch := t.launch, cls := 2, target := .none, started := true, todo := [0] }
        let s := { s with ops := s.ops ++ [o], nextId := s.nextId + 1, locks := s.locks ++ ringLock o false x.base x.cap x.head n }
        (s.modQueue team q fun _ => { x with reserved := x.reserved + n, refill := some o.id }).enterEngine o
def execQueueRefillLanding (op : Nat) (s : State) : Host.Outcome State Fault Refusal :=
  .next <|
    match s.op? op with
    | none => s
    | some o =>
      match o.kind with
      | .refill q n =>
        if !o.running.contains 0 then s
        else
          match s.chunkReady o 0 with
          | some s1 => s1
          | none =>
            let recs := (splitRecs n (s.engRead o (s.chunkReads o 0))).map parseQRec
            let s := s.modQueue o.team q fun x => HwQ.skip
              { x with
                chip := x.chip ++ recs.map fun w => { words := w }
                head := x.head + n
                performed := x.performed.filter fun i => x.head + n ≤ i
                reserved := x.reserved - n
                refill := none }
            (s.dropOp o).serve o.team q
      | _ => s

/-! Steals (R263). -/

def State.modSteal (s : State) (id : Nat) (f : Steal → Steal) : State := { s with steals := s.steals.map fun x => if x.id = id then f x else x }
def execStealRequestServe (id : Nat) (s : State) : Host.Outcome State Fault Refusal :=
  .next <|
    match s.steals.find? fun x => x.id == id && x.state = 0 with
    | none => s
    | some st =>
      let reply (s : State) (w : Option (List W32)) : State :=
        (s.modSteal id fun x => { x with state := 1, got := w }).after (s.stealLeast st) (.stealReplyLanding id)
      if s.steals.any fun x => x.id < id && x.byw == st.byw && x.victim == st.victim && x.state = 0 then s.again (.stealRequestServe id)
      else if st.dead then { s with steals := s.steals.filter fun x => x.id != id }
      else
        match (s.team? st.victim).filter fun t => t.place != .ended with
        | none => reply s none
        | some t =>
          match (t.queue st.q).avail with
          | [] => reply s none
          | r :: _ =>
            if (match r.rel with
              | some (g, n) => !s.released g t.coord 3 n
              | none => false) then s.again (.stealRequestServe id)
            else
              let i := ((t.queue st.q).chip.findIdx? fun x => x.lent.isNone).getD 0
              reply (s.modQueue t.id st.q fun x => { x with chip := modNth x.chip i fun y => { y with lent := some id } }) (some r.words)
/-- A lent record goes back to the head, in the order of pushes: its entry was kept (R263). -/
def State.unlend (s : State) (st : Steal) : State :=
  let s := { s with steals := s.steals.filter fun x => x.id != st.id }
  (s.modQueue st.victim st.q fun x => { x with chip := x.chip.map fun r => if r.lent = some st.id then { r with lent := none } else r }).serve st.victim st.q
def execStealReplyLanding (id : Nat) (s : State) : Host.Outcome State Fault Refusal :=
  .next <|
    match s.steals.find? fun x => x.id == id && x.state = 1 with
    | none => s
    | some st =>
      if st.dead || !(s.liveBy st.byw).getLsbD st.lane then s.unlend st
      else
        let s := s.modGroup st.byw.g fun y =>
          y.putAll st.byw.cc (recRegs st.lane st.reg (st.got.getD []) ++ [(.k st.kreg (1#64 <<< st.lane), if st.got.isSome then 1#64 <<< st.lane else 0)])
        let s := (s.acquire st.byw.g 3).modSteal id fun x => { x with state := 2 }
        s.after (s.stealLeast st) (.stealAck id)
def execStealAck (id : Nat) (s : State) : Host.Outcome State Fault Refusal :=
  .next <|
    match s.steals.find? fun x => x.id == id && x.state = 2 with
    | none => s
    | some st =>
      let s := { s with steals := s.steals.filter fun x => x.id != id }
      let s := s.modQueue st.victim st.q fun x => { x with chip := x.chip.filter fun r => r.lent != some id }
      s.sched s.clock (.queueRefillStart st.victim st.q)

/-! Spawn rings and spawned groups (R43 to R47). -/

/-- Ring records whose write has not been performed. -/
def State.spawnsOut (s : State) (t : Team) : List (Nat × Nat) :=
  s.ops.filterMap fun o => if o.team = t.id then (match o.kind with
    | .spawnOut f => some (f, o.spawns.length)
    | _ => none) else none
def execSpawnRingSpill (team : Nat) (s : State) : Host.Outcome State Fault Refusal :=
  .next <|
    match s.team? team with
    | none => s
    | some t =>
      if t.savedSpawns.isEmpty then s
      else if t.place ≠ .resident then s.again (.spawnRingSpill team)
      else
        let recs := t.savedSpawns.take 64
        let o : EOp := { id := s.nextId, kind := .spawnOut (t.ringTail - t.savedSpawns.length), coord := t.coord, team := team, ctx := t.ctx, launch := t.launch,
                         cls := 2, target := .none, todo := [0], spawns := recs, first := (s.path.filter fun e => e.byw.g.team == team).map fun e => e.id }
        let s := { s with ops := s.ops ++ [o], nextId := s.nextId + 1 }.modTeam team fun x => { x with savedSpawns := x.savedSpawns.drop 64 }
        let s := s.sched s.clock (.engineOpStart o.id)
        if 64 < t.savedSpawns.length then s.again (.spawnRingSpill team) else s
def execSpawnRingRefill (team : Nat) (s : State) : Host.Outcome State Fault Refusal :=
  .next <|
    match s.team? team with
    | none => s
    | some t0 =>
      let t := t0.skipSpawns
      let busy := s.ops.any fun o => o.team == team && match o.kind with
        | .spawnIn _ => true
        | _ => false
      -- performed records from the head, up to the first write still under way
      let limit := (s.spawnsOut t).foldl (fun m x => min m x.1) (t.ringTail - t.savedSpawns.length)
      let stop := t.ringGone.foldl (fun m g => if t.ringHead ≤ g then min m g else m) limit
      let n := min (min 64 (256 - s.spawnHeld t.coord)) (stop - t.ringHead)
      let s := s.modTeam team fun _ => t
      if t.place ≠ .resident || busy || n = 0 then s
      else
        let o : EOp := { id := s.nextId, kind := .spawnIn n, coord := t.coord, team := team, ctx := t.ctx, launch := t.launch, cls := 2, target := .none, todo := [0] }
        { s with ops := s.ops ++ [o], nextId := s.nextId + 1 }.sched s.clock (.engineOpStart o.id)
/-- The gatherer's pack of a number with its core. -/
def State.pack? (s : State) (id : Nat) : Option (Nat × Pack) :=
  s.cores.findSome? fun c => (c.packs.find? fun p => p.id == id).map fun p => (c.coord, p)
def execGatherTimeout (id : Nat) (s : State) : Host.Outcome State Fault Refusal :=
  .next <|
    match s.pack? id with
    | none => s
    | some (c, p) =>
      let now := match s.team? p.team with
        | some t => s.ctxClock t.ctx
        | none => s.clock
      if p.closed then s
      else if now < p.due then s.sched (s.clock + (p.due - now)) (.gatherTimeout id)
      else (s.modCore c fun k => { k with packs := k.packs.map fun x => if x.id = id then { x with closed := true } else x }).sched s.clock (.spawnGroupDispatch id)
/-- A free slot: of the spawn pool first, else any of the team (R44). DESIGN CHOICE (log 95): the lowest number of each kind. -/
def Team.freeSlot (t : Team) : Option Nat :=
  let free (n : Nat) : Bool := match t.group? n with
    | some g => g.phase == .exited
    | none => true
  match ((List.range t.kern.spawnSlots).map fun j => t.kern.groups + j).find? free with
  | some n => some n
  | none => (List.range t.kern.groups).find? free
/-- DESIGN CHOICE (log 97): of two spawn-role entries for one offset the first counts. -/
def State.spawnRole (s : State) (t : Team) (entry : Nat) : Nat :=
  match (s.launch? t.launch).bind fun l => s.image? l.body.image with
  | some im => ((im.roles.find? fun r => r.1 == entry).map fun r => r.2).getD 0
  | none => 0
/-- A spawned group as it starts (R26, R47); what the slot's last group still has on its way to a queue is pushed when due (R91). -/
def State.spawnedGroup (s : State) (t : Team) (slot : Nat) (p : Pack) : Group :=
  let mode := match s.launch? t.launch with
    | some l => launchMode l.body
    | none => 0
  let g := { freshGroup slot 0 (s.spawnRole t p.entry) t.kern.width (lowMask p.recs.length) p.entry mode s.clock with uid := s.nextUid, spawned := true, join := p.join }
  let regs := (p.recs.mapIdx fun l r => (l, r)).foldl (fun (regs : Regs) x => (List.range 4).foldl (fun (regs : Regs) j => regs.writeV x.1 j (x.2.payload.getD j 0)) regs) g.regs
  let onWay := ((t.group? slot).map fun y => y.land.filter fun l => match l.dst with
    | .qo _ => true
    | _ => false).getD []
  { g with regs := regs, quarter := s.quarterFor t.coord g, land := onWay }
/-- DESIGN CHOICE (log 95): of several groups that wait for a slot, the one that is asked first in a cc in which one is free takes it. -/
def execSpawnGroupDispatch (id : Nat) (s : State) : Host.Outcome State Fault Refusal :=
  .next <|
    match s.pack? id with
    | none => s
    | some (c, p) =>
      match s.team? p.team with
      | none => s
      | some t =>
        if !p.closed || t.place ≠ .resident then s
        else if !p.recs.all (s.spawnReleased t.coord) then s.again (.spawnGroupDispatch id)
        else
          match t.freeSlot with
          | none => s.again (.spawnGroupDispatch id)
          | some slot =>
            let g := s.spawnedGroup t slot p
            let s := { s with nextUid := s.nextUid + 1 }.modTeam t.id fun x =>
              { x with groups := sortBy (fun (y : Group) => y.slot) ((x.groups.filter fun (y : Group) => y.slot != slot) ++ [g]) }
            (s.modCore c fun k => { k with packs := k.packs.filter fun x => x.id != id }).askRings c

end Sys2Proof.Machine
end

