-- ==== Sys2Proof/Machine/MatrixEvents.lean ====
section
/-! DEFINITION. The matrix array and the drain port (R124, R125, R300 to R312): elements, block sums, starts and retirements. -/
namespace Sys2Proof.Machine

/-! Elements (R300, R303). -/

/-- The stored index of logical k of a sparse row, and whether its group's selector is in order; none when k is pruned (R303). -/
def storedAt (r : Rsv) (m : Mem) (row k : Nat) : Option Nat × Bool :=
  let g := k / 4
  let b := (m.read1 (r.mofs + row * r.mstride + g / 2)).toNat
  let sel := if g % 2 = 0 then b % 16 else b / 16
  let i0 := sel % 4
  let i1 := sel / 4
  (if k % 4 = i0 then some (2 * g) else if k % 4 = i1 then some (2 * g + 1) else none, i0 < i1)
/-- Elem(r, i, k): none for a pruned element. -/
def elemAt (r : Rsv) (m : Mem) (row k : Nat) : Option FVal :=
  let b := r.base + row * r.rstride
  let st := if rsvSparse r then (storedAt r m row k).1 else some k
  st.map fun j =>
    let z := if rsvZp r then (m.read1 (r.zofs + row * r.zstride + k / 32)).toNat else 0
    let v : FVal :=
      if r.ty = 9 then fBf16.value (m.readN (b + 2 * j) 2)
      else if r.ty = 10 then fF16.value (m.readN (b + 2 * j) 2)
      else if r.ty = 11 then fF8e4.value (m.read1 (b + j)).toNat
      else if r.ty = 12 then fF8e5.value (m.read1 (b + j)).toNat
      else if r.ty = 13 then obValue (m.read1 (b + j)).toNat z
      else if r.ty = 14 then obValue ((m.read1 (b + j / 2)).toNat / (if j % 2 = 0 then 1 else 16) % 16) (z % 16)
      else cbValue (m.readN (b + 2 * (j / 8)) 2) (j % 8)
    if rsvScaled r then v.scaled (m.read1 (r.sofs + row * r.sstride + k / 32)).toNat else v

/-- S of a block: exact, an exact zero being +0 (R124, R125). -/
def blockSum (p : List FVal) : W32 :=
  let s := p.foldl (fun acc x => FVal.add 0 acc x) (.fin false 0 0)
  match s with
  | .nan => sCanon
  | .fin _ 0 _ => 0
  | v => BitVec.ofNat 32 (roundVal fF32 rneMode v).bits
/-- One accumulator over the blocks in ascending k (R302). -/
def dotBlocks (l r : Rsv) (lm rm : Mem) (mrow nrow k0l k0r kb : Nat) : Nat → Nat → W32 → W32
  | 0, _, c => c
  | n + 1, j, c =>
    let p := (List.range kb).filterMap fun i =>
      match elemAt l lm mrow (k0l + j * kb + i), elemAt r rm nrow (k0r + j * kb + i) with
      | some a, some b => some (a.mul b)
      | _, _ => none
    dotBlocks l r lm rm mrow nrow k0l k0r kb n (j + 1) (sAdd (blockSum p) c)
/-- The tile after an operation. -/
def mmaTile (l r : Rsv) (lm rm : Mem) (k0l k0r k : Nat) (tile : Nat) (c : Mem) : List Byte :=
  let kb := kBlock l.ty
  (List.range 64).flatMap fun m => (List.range 64).flatMap fun n =>
    bytesOfNat 4 (dotBlocks l r lm rm m n k0l k0r kb (k / kb) 0 (BitVec.ofNat 32 (c.readN (tile + 256 * m + 4 * n) 4))).toNat

/-! What an operation reads (R306, R307). -/

/-- The byte runs of an operand by row, as (space, start, length): its data. -/
def operandData (r : Rsv) (k0 k : Nat) : List (Nat × Nat × Nat) :=
  (List.range 64).map fun i =>
    let a := k0 * zBits r / 8
    (rsvSpace r, r.base + i * r.rstride + a, ((k0 + k) * zBits r + 7) / 8 - a)
/-- Its scales, zero points and selectors. -/
def operandAux (r : Rsv) (k0 k : Nat) : List (Nat × Nat × Nat) :=
  let sp := rsvSpace r
  (List.range 64).flatMap fun i =>
    (if rsvScaled r then [(sp, r.sofs + i * r.sstride + k0 / 32, (k0 + k + 31) / 32 - k0 / 32)] else []) ++
    (if rsvZp r then [(sp, r.zofs + i * r.zstride + k0 / 32, (k0 + k + 31) / 32 - k0 / 32)] else []) ++
    (if rsvSparse r then [(sp, r.mofs + i * r.mstride + k0 / 8, (k0 + k + 7) / 8 - k0 / 8)] else [])
/-- The runs of `f` over what an operation reads in its own team's buffers, or in its follower's. -/
def MOp.runs (o : MOp) (f : Rsv → Nat → Nat → List (Nat × Nat × Nat)) (own : Bool) : List (Nat × Nat × Nat) :=
  match o.left, o.right with
  | some l, some r => (if own then f l o.k0l o.k else []) ++ f r o.k0r o.k
  | _, _ => []
def MOp.reads (o : MOp) (own : Bool) : List (Nat × Nat × Nat) := o.runs operandData own ++ o.runs operandAux own
/-- Lines of a team that are in a state among those an operation reads. -/
def lineWith (l : List (Nat × Nat × Nat)) (f : Nat → List Nat) : Option Nat :=
  l.findSome? fun x => (linesOf x.2.1 x.2.2).find? fun n => (f x.1).contains n
/-- The bytes of a space that runs cover, each counted once. -/
def fetched (l : List (Nat × Nat × Nat)) (sp : Nat) : Nat :=
  ((sortBy (fun (x : Nat × Nat) => x.1) ((l.filter fun x => x.1 = sp).map fun x => (x.2.1, x.2.1 + x.2.2))).foldl
    (fun (acc : Nat × Nat) x => (acc.1 + (x.2 - max x.1 acc.2), max acc.2 x.2)) (0, 0)).1
/-- B of R306. -/
def MOp.busy (o : MOp) : Nat :=
  if o.kind = 0 then 32
  else
    let narrow := match o.left with
      | some l => decide (11 ≤ l.ty)
      | none => false
    let rho := if narrow then 4 else 2
    let own := o.reads true
    let fa := fetched own 2
    let fw := max (fetched own 4) (if o.follower.isSome then fetched (o.reads false) 4 else 0)
    max (if o.kind = 3 then o.k / (2 * rho) else o.k / rho) (max ((fa + 511) / 512) ((fw + 1023) / 1024))
def tilesOverlap (a b : Nat) : Bool := a < b + 16384 && b < a + 16384
/-- Two operations' tiles overlap on a core. -/
def State.tilesMeet (s : State) (coord : Nat) (a b : MOp) : Bool := tilesOverlap a.tile b.tile && s.tileTeam coord a = s.tileTeam coord b
/-- The group's accesses before the word are acknowledged (R195, R295). -/
def State.acked (s : State) (o : MOp) : Bool := !s.path.any fun e => o.first.contains e.id
/-- A drain ahead of the operation in a core's queue is still to write a line that it reads there: the operation reads what the last such
drain leaves (R294), whichever of several has made the line present. -/
def State.drainsFirst (s : State) (coord : Nat) (o : MOp) : Bool :=
  (aheadOf (s.core coord).mq o.id).any fun d => d.kind = 4 && d.space = 2 && d.byw.g.team = s.tileTeam coord o &&
    (lineWith (o.reads (o.coord = coord)) fun sp => (d.lines.filter fun l => l.1 = sp).map fun l => l.2).isSome
/-- The array of a core is ready for an operation: in order, the array free, overlapping drains over (R306). -/
def State.arrayReady (s : State) (coord : Nat) (o : MOp) : Bool :=
  let c := s.core coord
  let ah := aheadOf c.mq o.id
  c.arrayFree ≤ s.clock && s.acked o && !s.drainsFirst coord o && ah.all (fun x => x.kind = 4 || x.state ≠ 0) &&
  ah.all fun x => x.kind ≠ 4 || !s.tilesMeet coord x o || (x.state = 1 && x.busyTo ≤ s.clock)
/-- DEDUCED (log 106): lines that only a drain behind the operation in a core's queue has made absent, or has written, do not hold it: the
effect is that of queue order (R294). -/
def State.lineBars (s : State) (o : MOp) (t : Team) (f : Buf → List Nat) (sp : Nat) : List Nat :=
  let behind := ((s.core t.coord).mq.dropWhile fun x => x.id != o.id).filter fun d => d.kind = 4 && d.byw.g.team = t.id
  let hidden := (behind.flatMap fun d => (d.cleared.filter fun l => l.1 = 2).map fun l => l.2) ++
    ((o.kept.filter fun k => k.1 = t.coord).flatMap fun k => k.2.2).filter fun l => t.abuf.orphan.contains l
  if sp = 2 then (f (t.buf sp)).filter fun l => !hidden.contains l else f (t.buf sp)
/-- The operation starts: its busy period. -/
def State.startArray (s : State) (t : Team) (f : Option Team) (o : MOp) : State :=
  let b := o.busy
  let far := match f, o.right with
    | some y, some r => [(y.buf (rsvSpace r)).mem]
    | _, _ => []
  let s := s.modMOp o.id fun x => { x with state := 1, busyTo := s.clock + b, old := [t.abuf.mem, t.wbuf.mem] ++ far }
  let s := s.sched (s.clock + b) (.matrixOpRetire o.id)
  (t.coord :: (f.map fun y => y.coord).toList).foldl (fun s c =>
    (s.modCore c fun x => { x with arrayFree := s.clock + b }).sched (s.clock + b) (.matrixOpStart c)) s

/-! What an operation has read (R307, R311). -/

/-- A line, or any run of bytes in it, as it stood: its bytes, and with a whole line its poison. -/
def Mem.asOld (m old : Mem) (a n : Nat) : Mem :=
  let within (b : Nat) : Bool := a ≤ 64 * b && 64 * b + 64 ≤ a + n
  { m.put a (old.bytes a n) with poison := (m.poison.filter fun b => !within b) ++ old.poison.filter within }
/-- A buffer as the array read it: a line of its data that was copied over meanwhile is old or new, whole, and so is each other byte. -/
def State.mixMem (s : State) (old now : Mem) (data aux : List (Nat × Nat × Nat)) : Mem × State :=
  if old = now then (now, s)
  else
    let pick (y : Mem × State) (a n : Nat) : Mem × State :=
      let b := y.2.drawBit
      (if b.1 then y.1.asOld old a n else y.1, b.2)
    let y := ((data.flatMap fun x => linesOf x.2.1 x.2.2).eraseDups).foldl (fun y l => pick y (128 * l) 128) (now, s)
    ((aux.flatMap fun x => (List.range x.2.2).map fun j => x.2.1 + j).eraseDups).foldl (fun y a => pick y a 1) y
/-- A core's A buffer without what drains behind the operation in the queue have written (R294); the first to write a line counts. -/
def MOp.undrained (o : MOp) (coord : Nat) (m : Mem) : Mem :=
  o.kept.foldr (fun k m => if k.1 = coord then k.2.2.foldl (fun m l => m.asOld k.2.1 (128 * l) 128) m else m) m
/-- The offset of the first uncorrectable error in a run. -/
def Mem.errorAt (m : Mem) (a n : Nat) : Option Nat :=
  (m.poison.filter fun b => a < b * 64 + 64 && b * 64 < a + n).foldl (fun x b => some (min (max a (64 * b)) (x.getD (max a (64 * b))))) none
/-- A stop found in what the operation read, its buffers given by space, and in its tile: an uncorrectable error with its offset, or a
selector out of order. -/
def MOp.stop (o : MOp) (m : Nat → Mem) (tile : Mem) (own : Bool) : Option (Nat × Nat) :=
  if o.kind = 0 then none
  else match (o.reads own).findSome? fun x => (m x.1).errorAt x.2.1 x.2.2 with
    | some a => some (eEcc, a)
    | none => match tile.errorAt o.tile 16384 with
      | some a => some (eEcc, a)
      | none => match o.right with
        | some r =>
          if o.kind = 3 && (List.range 64).any fun n => (List.range (o.k / 4)).any fun g => !(storedAt r (m (rsvSpace r)) n (o.k0r + 4 * g)).2
          then some (eMatrix, Op.code .mmas) else none
        | none => none
/-- The tile after the operation, from the left and the right operand's buffers. -/
def MOp.result (o : MOp) (lm rm tile : Mem) : List Byte :=
  match o.left, o.right with
  | some l, some r => mmaTile l r lm rm o.k0l o.k0r o.k o.tile tile
  | _, _ => List.replicate 16384 0
/-- The busy period ends: the tiles take their result, or the operation stops. -/
def State.runArray (s : State) (t : Team) (f : Option Team) (o : MOp) : State :=
  let old (i : Nat) (now : Mem) : Mem := o.old.getD i now
  let part (sp : Nat) (g : Rsv → Nat → Nat → List (Nat × Nat × Nat)) (own : Bool) : List (Nat × Nat × Nat) := (o.runs g own).filter fun x => x.1 = sp
  let a := s.mixMem (old 0 t.abuf.mem) t.abuf.mem (part 2 operandData true) (part 2 operandAux true)
  let w := a.2.mixMem (old 1 t.wbuf.mem) t.wbuf.mem (part 4 operandData true) (part 4 operandAux true)
  let m (sp : Nat) : Mem := if sp = 2 then o.undrained t.coord a.1 else w.1
  let lm := m ((o.left.map rsvSpace).getD 2)
  let rm := m ((o.right.map rsvSpace).getD 2)
  let far : Option (Team × Mem) × State := match f with
    | some y =>
      let sp := (o.right.map rsvSpace).getD 2
      let now := (y.buf sp).mem
      let x := w.2.mixMem (old 2 now) now (o.runs operandData false) (o.runs operandAux false)
      (some (y, if sp = 2 then o.undrained y.coord x.1 else x.1), x.2)
    | none => (none, w.2)
  let bad := match o.stop m t.cbuf.mem true with
    | some x => some x
    | none => far.1.bind fun y => o.stop (fun _ => y.2) y.1.cbuf.mem false
  let s := far.2
  match bad with
  | some (c, v) =>
    let s := if c = eEcc then s.localNotice t.ctx else s
    ((s.blurTiles o).removeMOp o).raiseWith o.byw c (BitVec.ofNat 64 v) 16
  | none =>
    let s := s.writeTeam t.id 3 o.tile (o.result lm rm t.cbuf.mem)
    let s := match far.1 with
      | some y => s.writeTeam y.1.id 3 o.tile (o.result lm y.2 y.1.cbuf.mem)
      | none => s
    if o.kind = 0 then s.removeMOp o else (s.modMOp o.id fun x => { x with state := 2 }).sched (s.clock + 24) (.matrixOpRetire o.id)
def execMatrixOpStart (coord : Nat) (s : State) : Host.Outcome State Fault Refusal :=
  .next <|
    match (s.core coord).mq.find? fun o => o.kind ≠ 4 && o.state = 0 with
    | none => s
    | some o =>
      match s.team? o.byw.g.team with
      | none => s
      | some t =>
        let fol := match o.follower with
          | some c => s.followerTeam t c
          | none => none
        let lineOf (f : Buf → List Nat) : Option Nat :=
          match lineWith (o.reads true) (s.lineBars o t f) with
          | some n => some n
          | none => match fol with
            | some y => lineWith (o.reads false) (s.lineBars o y f)
            | none => none
        -- on the follower, the leader's operation is started by the leader
        if o.coord ≠ coord then s.sched (s.clock + 1) (.matrixOpStart o.coord)
        else if s.frozen t.ctx || !s.arrayReady coord o || (match o.follower with
          | some c => !s.arrayReady c o
          | none => false) then s.again (.matrixOpStart coord)
        else match lineOf fun b => b.orphan with
          | some n => ((s.removeMOp o).raiseWith o.byw eAbsent (BitVec.ofNat 64 (n * 128)) 16).again (.matrixOpStart coord)
          | none => if (lineOf fun b => b.absent).isSome then s.again (.matrixOpStart coord) else s.startArray t fol o
def State.mop? (s : State) (id : Nat) : Option MOp := s.matrixOps.find? fun o => o.id == id
/-- The end of an array operation's busy period, and 24 cc later its retirement (R306). -/
def execMatrixOpRetire (id : Nat) (s : State) : Host.Outcome State Fault Refusal :=
  .next <|
    match s.mop? id with
    | none => s
    | some o =>
      if o.kind = 4 || o.state = 0 || s.clock < o.busyTo then s
      else if o.state = 1 then
        match s.team? o.byw.g.team with
        | none => s.removeMOp o
        | some t => s.runArray t (o.follower.bind fun c => s.followerTeam t c) o
      else if s.clock < o.busyTo + 24 then s
      else s.removeMOp o

/-! Drains (R308, R309). -/

/-- Cvt of R308. -/
def drainCvt (t : Ty) (x : W32) : Nat :=
  if t = .f32 then x.toNat else (cvtBits t .f32 { rneMode with sat := true } x.toNat).1
def tileElem (c : Mem) (tile m n : Nat) : W32 := BitVec.ofNat 32 (c.readN (tile + 256 * m + 4 * n) 4)
/-- T_r of a row. -/
def rowTriple (c : Mem) (tile row : Nat) : Triple := treeFold mmerge 6 (fun n => (⟨sOne, tileElem c tile row n, 0⟩ : Triple)) 0
/-- The registers of a lane, packed. -/
def drainWords (t : Ty) (x : List Nat) : List W32 :=
  let per := 32 / t.bits
  (List.range (8 / per)).map fun i => BitVec.ofNat 32 ((List.range per).map fun q => x.getD (per * i + q) 0 * 2 ^ (t.bits * q)).sum
def MOp.drained (o : MOp) (c : Mem) : List (Nat × Nat × Byte) × List (Nat × Nat × W32) :=
  if o.space = 0 then
    ([], (lanesOf o.byw.lanes).flatMap fun l =>
      (drainWords o.ty ((List.range 8).map fun j => drainCvt o.ty (tileElem c o.tile (o.row0 + l) (o.c0 + j)))).mapIdx fun j w => (l, o.dst + j, w))
  else
    let sz := o.ty.bits / 8
    let put (sp a : Nat) (b : List Byte) : List (Nat × Nat × Byte) := b.mapIdx fun j x => (sp, a + j, x)
    ((List.range 64).flatMap fun r =>
      let t := rowTriple c o.tile r
      ((List.range 64).flatMap fun n =>
        let x := tileElem c o.tile r n
        put o.space (o.dst + r * o.stride + n * sz) (bytesOfNat sz (drainCvt o.ty (if o.opt = 2 then tripleNorm x t o.e else x)))) ++
      if o.opt = 0 then [] else put 1 (o.trip + 16 * r) (bytesOfNat 4 t.n.toNat ++ bytesOfNat 4 t.mean.toNat ++ bytesOfNat 4 t.m2.toNat ++ bytesOfNat 4 0), [])
/-- The tile's bytes that a drain reads. -/
def MOp.drainRuns (o : MOp) : List (Nat × Nat) :=
  if o.space = 0 then (lanesOf o.byw.lanes).map fun l => (o.tile + 256 * (o.row0 + l) + 4 * o.c0, 32) else [(o.tile, 16384)]
/-- A drain meets an uncorrectable error: it stops, its destination is undefined (R311). -/
def State.stopDrain (s : State) (o : MOp) (v : Nat) : State :=
  let s := match s.team? o.byw.g.team with
    | some t => s.localNotice t.ctx
    | none => s
  let s := s.raiseWith o.byw eEcc (BitVec.ofNat 64 v) 16
  -- the lines are orphaned by the throw: a group that it steers raises no E_ABSENT (R291)
  (if o.space = 0 then voidDrain s o (s.liveBy o.byw &&& ~~~o.dead) else (s.blurDrain o).orphanLines o.byw.g.team o.lines).removeMOp o
def execMdrainStart (coord : Nat) (s : State) : Host.Outcome State Fault Refusal :=
  .next <|
    let c := s.core coord
    match c.mq.find? fun o => o.kind = 4 && o.state = 0 with
    | none => s
    | some o =>
      match s.team? o.byw.g.team with
      | none => s
      | some t =>
        let ah := aheadOf c.mq o.id
        if s.frozen t.ctx || s.clock < c.drainFree || !s.acked o || ah.any fun x => x.kind ≠ 4 && s.tilesMeet coord x o then s.again (.mdrainStart coord)
        else match o.drainRuns.findSome? fun x => t.cbuf.mem.errorAt x.1 x.2 with
          | some v => s.stopDrain o v
          | none =>
            let b := if o.opt = 2 then 64 else 32
            let out := o.drained t.cbuf.mem
            let s := s.modMOp o.id fun x => { x with state := 1, busyTo := s.clock + b, outMem := out.1, outRegs := out.2 }
            ((s.modCore coord fun x => { x with drainFree := s.clock + b }).sched (s.clock + b) (.mdrainStart coord)).sched (s.clock + b + 16) (.mdrainRetire o.id)
/-- A drain's bytes are written; blocks they cover whole lose their poison (R323). -/
def Team.drainInto (t : Team) (out : List (Nat × Nat × Byte)) : Team :=
  let t := out.foldl (fun t x => t.modBuf x.1 fun b => { b with mem := b.mem.writeBytes x.2.1 [x.2.2] }) t
  ((out.map fun x => x.1).eraseDups).foldl (fun t sp => t.modBuf sp fun b => { b with mem := b.mem.cleanse ((out.filter fun x => x.1 = sp).map fun x => (x.2.1, 1)) }) t
def execMdrainRetire (id : Nat) (s : State) : Host.Outcome State Fault Refusal :=
  .next <|
    match s.mop? id with
    | none => s
    | some o =>
      if o.kind ≠ 4 || o.state = 0 || s.clock < o.busyTo + 16 then s
      else
        let live := s.liveBy o.byw &&& ~~~o.dead
        if o.space = 0 then
          (s.modGroup o.byw.g fun y => y.putAll o.byw.cc ((o.outRegs.filter fun x => live.getLsbD x.1).map fun x => (LDst.v x.1 x.2.1, x.2.2.setWidth 64))).removeMOp o
        else ((((s.keepOld o).modTeam o.byw.g.team fun t => t.drainInto o.outMem).evalCounters).presentLines o.byw.g.team o.lines).removeMOp o

/-! RPUT and RFREE take effect (R268). -/

/-- Everything of the group before the word has been performed at the team's meeting point. -/
def State.ringReady (s : State) (e : PathEntry) : Bool :=
  s.released e.byw.g e.coord 2 e.id && !s.path.any fun x => x.kind == .ring && x.id < e.id && x.byw.g == e.byw.g && x.addr / 16 == e.addr / 16
def execRputEffect (id : Nat) (s : State) : Host.Outcome State Fault Refusal :=
  .next <|
    match s.entry? id with
    | none => s
    | some e =>
      if e.kind != .ring || e.op ≠ 0 then s
      else if s.ringReady e then (s.endEntry id).stageAdd e.byw.g.team e.addr e.data else s.again (.rputEffect id)
def execRfreeEffect (id : Nat) (s : State) : Host.Outcome State Fault Refusal :=
  .next <|
    match s.entry? id with
    | none => s
    | some e =>
      if e.kind != .ring || e.op ≠ 1 then s
      else if s.ringReady e then
        let f (x : Stage) : Stage := { x with full := false, phase := !x.phase, count := 0, poison := false }
        let s := s.endEntry id
        (s.modTeam e.byw.g.team fun t => { t with stages := spPut {} t.stages e.addr (f (spGet {} t.stages e.addr)) }).evalRings e.byw.g.team
      else s.again (.rfreeEffect id)

end Sys2Proof.Machine
end

