-- ==== Sys2Proof/Machine/Faults.lean ====
section
/-! DEFINITION. Faults served and ended (R238, R239, R177, R354, R314), and the write of a chunk that arrives for this rank
(R255, R288, R314). -/
namespace Sys2Proof.Machine

/-! Chunks that arrive to be written on this rank. -/

/-- A call ends with this rank's counters poisoned and an exception of its group (R255, R288). -/
def State.failCall (s : State) (o : EOp) (code value : Nat) : State :=
  let s := match o.kind with
    | .cpyt r _ =>
      if r.ctr = 0 || !s.isDest o.ctx r then s
      else (List.range r.tiles).foldl (fun s t => s.addAt o.ctx (r.ctr + 8 * t) (2 ^ 63) false o.throwers o.launch false) s
    | _ => s
  s.failOp o.id code value
def callOf (x : ReducedChunk) : Nat × Nat := (x.cgrp, x.seq)
/-- This rank writes no further chunk of the call (R314). -/
def State.deadCall (s : State) (x : ReducedChunk) : Bool :=
  !x.plain && match s.ctx? x.ctx with
    | some c => c.deadCalls.contains (callOf x)
    | none => true
/-- A chunk cannot be written (R314): its counter is poisoned, the call writes nothing more here, E_COPYFAIL. Chunks written before are
still counted (R248). -/
def State.refuseChunk (s : State) (x : ReducedChunk) : State :=
  let o? := s.op? x.op
  let by' := match o? with
    | some o => o.throwers
    | none => []
  let s := if x.tileCtr = 0 then s else s.addAt x.ctx x.tileCtr (2 ^ 63) false by' x.launch o?.isNone
  let s := if x.plain then s else s.modCtx x.ctx fun c => { c with deadCalls := c.deadCalls ++ [callOf x] }
  match o? with
  | some o => ((s.modOp o.id fun y => { y with landed := y.chunks.filter fun c => !y.placed.contains c }).raiseStarters o.throwers eCopyfail (BitVec.ofNat 64 (if x.tileCtr = 0 then o.failValue else x.tileCtr))).closeOp o.id
  | none => s.throwInto (.grid x.launch)
      { code := eCopyfail, count := 1, codes := 1#64 <<< eCopyfail, value := BitVec.ofNat 64 x.tileCtr, cc := s.clock } none
/-- Why a chunk's global bytes cannot be written: a missing page (with its address), or one that never will be. -/
def State.chunkBad (s : State) (x : ReducedChunk) : Option (Option Nat) :=
  if x.space ≠ 0 then none
  else x.writes.findSome? fun w =>
    match (match (s.op? x.op).bind fun o => s.team? o.team with
      | some t => s.walkTeam t w.1 true
      | none => s.walkCtx x.ctx w.1) with
    | .ok y => if pteWr y.leaf then none else some none
    | .bad => some none
    | .missing => some (some w.1)
/-- The tile counter counts the chunk (R248). -/
def State.addTile (s : State) (x : ReducedChunk) (b : List Starter) : State :=
  if x.tileCtr = 0 then s else s.addAt x.ctx x.tileCtr x.size false b x.launch b.isEmpty x.op
/-- The chunk's bytes are performed, and its lines present. -/
def State.placeChunk (s : State) (x : ReducedChunk) : State :=
  match s.op? x.op with
  | some o =>
    let d := match o.kind with
      | .cpyt r _ => s.cpytBytes r (x.writes.map fun (w : Nat × Byte) => w.2)
      | _ => (x.writes.map fun (w : Nat × Byte) => w.2, s)
    (d.2.engWrite o o.team (x.writes.map fun (w : Nat × Byte) => (x.space, w.1, 1)) d.1).setPresent o x.chunk (s.team? o.team).toList
  | none =>
    if x.space ≠ 0 then s
    else
      let u := x.writes.foldl (fun (s : State) (w : Nat × Byte) => s.ctxWrite x.ctx w.1 [w.2]) s
      { u with dram := u.dram.cleanse (x.writes.filterMap fun (w : Nat × Byte) => match s.walkCtx x.ctx w.1 with
        | .ok y => some (y.pa, 1)
        | _ => none) }
/-- A chunk that stands at its destination is counted by its tile counter once the update's release allows that (R190, R248). -/
def State.tallyChunk (s : State) (x : ReducedChunk) : State :=
  match s.op? x.op with
  | some o =>
    if x.tileCtr ≠ 0 && !s.updateReady o then
      (s.modOp x.op fun y => { y with placed := if y.placed.contains x.chunk then y.placed else y.placed ++ [x.chunk] }).again (.reducedChunkWrite x)
    else ((s.addTile x o.throwers).modOp x.op fun y => { y with placed := y.placed.erase x.chunk, landed := y.landed ++ [x.chunk] }).closeOp x.op
  | none => s.addTile x []
/-- A chunk lands and is counted. -/
def State.landChunk (s : State) (x : ReducedChunk) : State := (s.placeChunk x).tallyChunk x
/-- The bytes of the chunk stand already: only its count is outstanding. -/
def State.chunkPlaced (s : State) (x : ReducedChunk) : Bool :=
  match s.op? x.op with
  | some o => o.placed.contains x.chunk && !x.mismatch
  | none => false
/-- A chunk held at port 4 of the rank's switch, behind which later ones toward the rank wait (R289, R314). -/
def State.heldChunk (s : State) (x : ReducedChunk) : Bool :=
  s.faults.any fun f => f.state = 0 && match f.user with
    | .chunk y => y != x && y.die == x.die
    | _ => false
/-- A chunk or a mismatch mark reaches this rank. -/
def State.reducedChunk (s : State) (x : ReducedChunk) : State :=
  if x.mismatch then
    match s.op? x.op with
    | some o => s.failCall o eCollMismatch x.seq
    | none => s
  else if s.deadCall x || (x.op ≠ 0 && (s.op? x.op).isNone) then s
  else match s.chunkBad x with
    | none => s.landChunk x
    | some none => s.refuseChunk x
    | some (some va) => (s.newFault x.ctx va 1 (.chunk x)).2
def execReducedChunkWrite (x : ReducedChunk) (s : State) : Host.Outcome State Fault Refusal :=
  .next (if s.chunkPlaced x then s.tallyChunk x else if s.heldChunk x then s.again (.reducedChunkWrite x) else s.reducedChunk x)

/-! Who a fault holds up. -/

def State.setFault (s : State) (id st : Nat) : State :=
  { s with faults := s.faults.map fun (f : FaultRec) => if f.id = id then { f with state := st } else f }
/-- Every stream queue with the team whose saved queue it is, or the core's own. -/
def State.modStreams (s : State) (f : StreamDesc → StreamDesc) : State :=
  let g (l : List StreamQ) : List StreamQ := l.map fun (y : StreamQ) => { y with descs := y.descs.map f }
  { s with
    cores := s.cores.map fun (c : Core) => { c with qi := g c.qi, qo := g c.qo }
    teams := s.teams.map fun (t : Team) => { t with offQi := g t.offQi, offQo := g t.offQo } }
/-- The descriptor that waits on a fault. -/
def State.faultedDesc (s : State) (id : Nat) : Option StreamDesc :=
  ((s.cores.flatMap fun c => c.qi ++ c.qo) ++ s.teams.flatMap fun t => t.offQi ++ t.offQo).findSome? fun y => y.descs.find? fun d => d.fault == some id
/-- A stream fails: it stops, with bit 63 of its counter, and its issuing group throws (R177, R239). What it moved stays, and the next
stream of its queue goes on. -/
def State.failStream (s : State) (q : Nat) (d : StreamDesc) (code value : Nat) : State :=
  match s.team? d.byw.g.team with
  | none => s
  | some t =>
    let sq := (s.streamQs t d.out).getD q {}
    let s := s.setStreamQ t q d.out { sq with descs := sq.descs.filter fun x => x.id != d.id }
    let s := if t.place = .away then s else s.again (if d.out then .streamStoreElement t.coord q else .streamLoadElement t.coord q)
    let s := if d.ctr = 0 then s else s.addAt t.ctx d.ctr (2 ^ 63) false [d.byw] t.launch false
    s.raiseStarter d.byw code (BitVec.ofNat 64 value)

/-! Serving (R238, R239). -/

/-- What waited for a counter addition goes on, once none of it is left to make: its engine operation ends (R195), its CTRADD leaves the
store path (R258). -/
def State.addOver (s : State) (a : PendAdd) : State :=
  let s := s.closeOp a.op
  if s.adds.any fun b => b.entry = a.entry then s
  else match s.path.find? fun e => e.id = a.entry with
    | some e => s.entryGone e
    | none => s
/-- A group's access walks again; a saved group's too, and its load is written into the saved image (R230), but its SPAWN waits for its core. -/
def State.serveGroup (s : State) (g : GRef) (f : FaultRec) : State :=
  match s.team? g.team, s.group? g with
  | some t, some gr =>
    if gr.wake ≠ some (.fault f.id) then s
    else
      let spawn := match gr.held.map fun m => m.act with
        | some (.spawn _) => true
        | _ => false
      let s := s.wakeGroup g
      if gr.held.isNone || (gr.phase = .evicted && spawn) then s
      else (s.modGroup g fun y => { y with held := y.held.map fun m => { m with walking := true } }).startWalk t.coord t.ctx f.va
  | _, _ => s
def State.serveFault (s : State) (f : FaultRec) : State :=
  let s := s.setFault f.id 1
  match f.user with
  | .group g => s.serveGroup g f
  | .op id =>
    match s.op? id with
    | some o =>
      if o.fault = some f.id then
        let s := s.modOp id fun x => { x with fault := none }
        if o.todo.isEmpty then s.closeOp id else s.enterEngine { o with fault := none }
      else s
    | none => s
  | .add _ =>
    let mine := s.adds.filter fun a => a.fault == f.id
    let s := { s with adds := s.adds.filter fun a => a.fault != f.id }
    mine.foldl (fun s a => (s.addAt a.ctx a.va a.amount a.join a.byw a.launch a.task a.op a.entry).addOver a) s
  | .stream _ q out =>
    -- the stream goes on where its team is now; that of a team that is away when it is restored
    let u := s.modStreams fun d => if d.fault = some f.id then { d with fault := none } else d
    match (s.faultedDesc f.id).bind fun d => s.team? d.byw.g.team with
    | some t => if t.place = .resident then u.sched (s.clock + 1) (if out then .streamStoreElement t.coord q else .streamLoadElement t.coord q) else u
    | none => u
  | .chunk x => s.reducedChunk x
/-- Does a mapping now answer the fault? -/
def State.mapped (s : State) (f : FaultRec) : Bool :=
  match s.walkCtx f.ctx f.va with
  | .missing => false
  | _ => true
def execFaultServed (rec : Nat) (s : State) : Host.Outcome State Fault Refusal :=
  .next <|
    match s.faults.find? fun f => f.id == rec && f.state == 0 with
    | none => s
    | some f => if s.mapped f then s.serveFault f else s

/-! Unresolvable faults (R238, R239, R177, R354, R314). -/

def State.endFault (s : State) (f : FaultRec) : State :=
  let s := s.setFault f.id 2
  match f.user with
  | .group g =>
    match s.group? g with
    | some gr =>
      if gr.wake ≠ some (.fault f.id) then s
      else match gr.held with
        | some mw => match s.team? g.team with
          | some t => s.failHeld g mw (s.step4Fails t mw (some f.va))
          | none => s
        | none => s.wakeGroup g
    | none => s
  | .op id =>
    match s.op? id with
    | some o => if o.fault = some f.id then (s.modOp id fun x => { x with fault := none }).engFail id ePage f.va else s
    | none => s
  | .add _ =>
    let mine := s.adds.filter fun a => a.fault == f.id
    let s := { s with adds := s.adds.filter fun a => a.fault != f.id }
    mine.foldl (fun s a =>
      (if a.task then s.raiseGrid a.launch (a.byw.headD {}) ePage (BitVec.ofNat 64 a.va)
      else s.raiseStarters a.byw ePage (BitVec.ofNat 64 a.va)).addOver a) s
  | .stream _ q _ =>
    match s.faultedDesc f.id with
    | some d => (s.modStreams fun x => if x.fault = some f.id then { x with fault := none } else x).failStream q { d with fault := none } ePage f.va
    | none => s
  | .chunk x => s.refuseChunk x
def execFaultLimitExpire (rec : Nat) (s : State) : Host.Outcome State Fault Refusal :=
  .next <|
    match s.faults.find? fun f => f.id == rec && f.state == 0 with
    | none => s
    | some f =>
      let now := s.ctxClock f.ctx
      if now < f.deadline then s.sched (s.clock + (f.deadline - now)) (.faultLimitExpire rec) else s.endFault f

end Sys2Proof.Machine
end

