-- ==== Sys2Proof/Machine/Streams.lean ====
section
/-! DEFINITION. The stream engines (R174 to R178): one element at a time, in issue order. -/
namespace Sys2Proof.Machine

def StreamDesc.size (d : StreamDesc) : Nat := d.ty.bits / 8
/-- The address of the element at the stream's position (R175). -/
def StreamDesc.addr (d : StreamDesc) : Nat := (((d.base : Int) + d.pos * d.stride * d.size) % 2 ^ 64).toNat
/-- An element read or written at a point of coherence, or why not: code 0 for a fault (R177). -/
inductive StreamAcc where
  | ok (pa : Nat) | bad (code value : Nat) | fault (va : Nat)
def State.streamAcc (s : State) (t : Team) (d : StreamDesc) : StreamAcc :=
  let a := d.addr
  if d.team then
    match chkSpace t 1 a d.size (!d.out) with
    | some c => .bad c a
    | none => .ok a
  else if !(canonical a && canonical (a + d.size - 1)) then .bad eProt a
  else match s.walkTeam t a d.out with
    | .ok x => if (if d.out then pteWr x.leaf else pteRd x.leaf) then .ok x.pa else .bad eProt a
    | .bad => .bad ePage a
    | .missing => .fault a
/-- The stream pauses at the faulting element. -/
def State.faultStream (s : State) (coord q : Nat) (t : Team) (d : StreamDesc) (va : Nat) : State :=
  let r := s.newFault t.ctx va d.out.toNat (.stream coord q d.out)
  r.2.modStreams fun x => if x.id = d.id then { x with fault := some r.1 } else x
def State.stepStream (s : State) (d : StreamDesc) : State := s.modStreams fun x => if x.id = d.id then { x with pos := x.pos + 1 } else x
/-- The stream may move: its context is not frozen, it waits on no fault, its group's earlier stores are acknowledged. -/
def State.streamHeld (s : State) (t : Team) (d : StreamDesc) : Bool := s.frozen t.ctx || s.path.any fun e => d.first.contains e.id
def execStreamLoadElement (coord q : Nat) (s : State) : Host.Outcome State Fault Refusal :=
  .next <|
    let sq := (s.core coord).qi.getD q {}
    match sq.descs with
    | [] => s
    | d :: _ =>
      match s.team? d.byw.g.team with
      | none => s
      | some t =>
        if d.fault.isSome then s
        else if d.count ≤ d.pos then s.sched s.clock (.streamComplete d.id)
        else if s.streamHeld t d || 1024 ≤ sq.entries.length then s.again (.streamLoadElement coord q)
        else
          match s.streamAcc t d with
          | .bad c v => s.failStream q d c v
          | .fault va => s.faultStream coord q t d va
          | .ok a =>
            let bad := if d.team then t.tm.mem.poisoned a d.size else s.dram.poisoned a d.size
            if bad then (if d.team then s.localNotice t.ctx else s.eccNotice [a]).failStream q d eCopyfail d.ctr
            else
              let x := if d.team then natOfBytes (t.tmBytes a d.size) else s.dram.readN a d.size
              let v := BitVec.ofInt 32 (if d.ty.isInt then intRead d.ty x else x)
              let s := s.modCore coord fun c => { c with qi := modNth c.qi q fun y => { y with entries := y.entries ++ [v] } }
              (s.stepStream d).again (.streamLoadElement coord q)
def execStreamStoreElement (coord q : Nat) (s : State) : Host.Outcome State Fault Refusal :=
  .next <|
    let sq := (s.core coord).qo.getD q {}
    match sq.descs with
    | [] => s
    | d :: _ =>
      match s.team? d.byw.g.team with
      | none => s
      | some t =>
        if d.fault.isSome then s
        else if d.count ≤ d.pos then s.sched s.clock (.streamComplete d.id)
        else match sq.entries with
          | [] => s.again (.streamStoreElement coord q)
          | w :: rest =>
            if s.streamHeld t d then s.again (.streamStoreElement coord q)
            else
              match s.streamAcc t d with
              | .bad c v => s.failStream q d c v
              | .fault va => s.faultStream coord q t d va
              | .ok a =>
                let b := bytesOfNat d.size w.toNat
                let s := s.modCore coord fun c => { c with qo := modNth c.qo q fun y => { y with entries := rest } }
                let s := if d.team then s.writeTeam t.id 1 a b else s.writePa a b
                (s.stepStream d).again (.streamStoreElement coord q)
/-- The core and queue of a descriptor at the head of its queue. -/
def State.headDesc (s : State) (id : Nat) : Option (Nat × Nat × StreamDesc) :=
  let look (c : Nat) (l : List StreamQ) : Option (Nat × Nat × StreamDesc) :=
    (l.zip (List.range 4)).findSome? fun y => (y.1.descs.head?.filter fun d => d.id == id).map fun d => (c, y.2, d)
  s.cores.findSome? fun c => (look c.coord c.qi).or (look c.coord c.qo)
def execStreamComplete (id : Nat) (s : State) : Host.Outcome State Fault Refusal :=
  .next <|
    match s.headDesc id with
    | none => s
    | some (c, q, d) =>
      if d.pos < d.count then s
      -- its counter update is a release at device scope (R175, R190)
      else if d.ctr ≠ 0 && !s.released d.byw.g c 4 d.id then s.again (.streamComplete id)
      else
        let cut (y : StreamQ) : StreamQ := { y with descs := y.descs.drop 1 }
        let s := s.modCore c fun k => if d.out then { k with qo := modNth k.qo q cut } else { k with qi := modNth k.qi q cut }
        let s := match s.team? d.byw.g.team with
          | some t => if d.ctr = 0 then s else s.addAt t.ctx d.ctr 1 false [d.byw] t.launch false
          | none => s
        s.sched (s.clock + 1) (if d.out then .streamStoreElement c q else .streamLoadElement c q)

end Sys2Proof.Machine
end

