-- ==== Sys2Proof/Machine/Traps.lean ====
section
/-! DEFINITION. Service calls (R211, R236, R237): blocks into the request ring, forwarding, replies, time-outs and resumption. -/
namespace Sys2Proof.Machine

def execTrapBlocksWritten (g : GRef) (s : State) : Host.Outcome State Fault Refusal :=
  .next <|
    match s.team? g.team, s.group? g with
    | some t, some gr =>
      match s.ctx? t.ctx with
      | none => s
      | some c =>
        if gr.wake ≠ some .trapSlot then s
        else if c.p.ring < c.ring.length + gr.trapBlocks.length then s.again (.trapBlocksWritten g)
        else
          let now := s.ctxClock t.ctx
          let blocks := gr.trapBlocks.mapIdx fun j b => (c.nextSeq + j, b)
          let s := s.modCtx t.ctx fun x =>
            { x with
              ring := x.ring ++ blocks
              calls := x.calls ++ blocks.map fun b => (b.1, g, (b.2.getD 2 0).toNat, now, false)
              nextSeq := x.nextSeq + blocks.length }
          let s := s.modGroup g fun y => { y with wake := some .trapReply, trapBlocks := [], evictNow := true }
          let s := blocks.foldl (fun s b =>
            let s := s.after 6500 (.serviceCallForward t.ctx)
            match c.p.serviceTimeout with
            | some d => s.sched (s.clock + d) (.serviceTimeout t.ctx b.1)
            | none => s) s
          s
    | _, _ => s

/-- Firmware takes the oldest block and forwards it: block, context, sequence number (R236). -/
def execServiceCallForward (ctx : Nat) (s : State) : Host.Outcome State Fault Refusal :=
  .next <|
    match s.ctx? ctx with
    | none => s
    | some c =>
      match c.ring with
      | [] => s
      | (q, b) :: rest =>
        let s := s.modCtx ctx fun x =>
          { x with ring := rest, forwarded := x.forwarded + 1, calls := x.calls.map fun y => if y.1 = q then (y.1, y.2.1, y.2.2.1, y.2.2.2.1, true) else y }
        s.notify ctx 0xC004 (b ++ bytesOfNat 8 ctx ++ bytesOfNat 8 q)

/-! Answers (R211). -/

/-- A lane's reply: the value in D, or D void and the code kept for the resumption. -/
def Group.answer (y : Group) (lane : Nat) (value : W64) (status : Nat) : Group :=
  let n := y.trapDst
  let z := if status = 0 then y.putAll y.wakeBy.cc (loadRegs lane (.v n (if y.trapWide then .n64 else .n32) false) value.toNat)
    else { y with regs := voidRun y.regs lane n (if y.trapWide then 2 else 1) }
  { z with
    trapLanes := y.trapLanes.filter fun l => l != lane
    trapStatus := if status = 0 then y.trapStatus else y.trapStatus ++ [(lane, status, value)] }
/-- A throw of this cc cancels the wait of a lane: its reply is discarded (R54, R244). -/
def State.thrownOver (s : State) (g : GRef) (lane : Nat) : Bool :=
  match s.group? g with
  | some y => s.steers.any fun x => (s.inside x.region y.wakeBy).getLsbD lane
  | none => true
/-- A call that is awaited (R236). DESIGN CHOICE (log 112): a call whose block is written and not yet forwarded is awaited too; its block is
forwarded all the same. -/
def State.awaits (s : State) (c : Ctx) (seq : Nat) : Bool := c.calls.any fun x => x.1 == seq && !s.thrownOver x.2.1 x.2.2.1
def State.applyReply (s : State) (ctx seq : Nat) (value : W64) (status : Nat) : State :=
  match (s.ctx? ctx).bind fun c => c.calls.find? fun x => x.1 == seq with
  | none => s
  | some (_, g, lane, _, _) =>
    if s.thrownOver g lane then s
    else
    let s := s.modCtx ctx fun c => { c with calls := c.calls.filter fun x => x.1 != seq }
    (s.modGroup g fun y => y.answer lane value status).answered g
/-- A call not answered in its context's time is answered with E_CANCELLED (R236). -/
def execServiceTimeout (ctx seq : Nat) (s : State) : Host.Outcome State Fault Refusal :=
  .next <|
    match s.ctx? ctx with
    | none => s
    | some c =>
      match c.calls.find? fun x => x.1 == seq, c.p.serviceTimeout with
      | some x, some d =>
        let now := s.ctxClock ctx
        let due := x.2.2.2.1 + d
        if now < due then s.sched (s.clock + (due - now)) (.serviceTimeout ctx seq) else s.applyReply ctx seq 0 eCancelled
      | _, _ => s
/-- The answered group comes back to its team's core, where its slot is kept; once its team has left, it is restored with the team (R237). -/
def execTrapResume (g : GRef) (s : State) : Host.Outcome State Fault Refusal :=
  .next <|
    match s.team? g.team, s.group? g with
    | some t, some gr =>
      if t.place ≠ .resident || gr.phase ≠ .evicted || gr.staysOff then s
      else (if gr.wakeMet then s.acquire g 5 else s).restoreGroup t.coord g
    | _, _ => s

end Sys2Proof.Machine
end

