-- ==== Sys2Proof/Machine/Switch.lean ====
section
/-! DEFINITION. Switch reductions (R284 to R288), lost ranks (R343), the port buffers (R332), and the dispatch of clusters, with whose
first team a launch's collective starts (R226, R227, R52, R341). -/
namespace Sys2Proof.Machine

/-! Switches: 3 * die, the edge switches E–W and N–S and the Ultra Ethernet switch in turn (R17, R284). -/

def State.switch (s : State) (n : Nat) : Switch := (s.switches.find? fun x => x.id == n).getD { id := n }
def State.modSwitch (s : State) (n : Nat) (f : Switch → Switch) : State :=
  { s with switches := f (s.switch n) :: s.switches.filter fun x => x.id != n }
/-- The switch and port at the other end of a port; none for the mesh and the Ultra Ethernet ports (R284). -/
def facing (sw p : Nat) : Option (Nat × Nat) :=
  let d := sw / 3
  match sw % 3, p with
  | 0, 5 => some (3 * (d ^^^ 1), 5)
  | 0, 7 => some (3 * d + 2, 5)
  | 1, 6 => some (3 * (d ^^^ 2) + 1, 6)
  | 1, 7 => some (3 * d + 2, 6)
  | 2, 5 => some (3 * d, 7)
  | 2, 6 => some (3 * d + 1, 7)
  | _, _ => none
def Switch.entry? (x : Switch) (cgrp : Nat) : Option TreeEntry := x.entries.find? fun e => e.cgrp == cgrp && e.v
/-- The link behind a switch's port (R284, R315): an Ultra Ethernet port, or a bridge. -/
def linkAt (sw p : Nat) : Option LinkId :=
  match sw % 3, p with
  | 0, 5 => some (.bridge (sw / 3 / 2))
  | 1, 6 => some (.bridge (2 + sw / 3 % 2))
  | 2, p => if p < 4 then some (.port (4 * (sw / 3) + p)) else none
  | _, _ => none
def State.link (s : State) (l : LinkId) : Link := (s.links.find? fun x => x.id == l).getD { id := l }
def State.modLink (s : State) (l : LinkId) (f : Link → Link) : State := { s with links := f (s.link l) :: s.links.filter fun x => x.id != l }
/-- The groups of a context with their members: established ones and its launches' attached ones. -/
def State.groupsOf (s : State) (c : Ctx) : List (Nat × List Nat) :=
  c.colls.map (fun x => (x.1, x.2.1)) ++
  (s.launches.filter fun l => l.ctx == c.id && !l.completed && l.established && l.body.cgrp ≠ 0).map fun l => (l.body.cgrp, maskRanks l.body.rbase l.body.memb.toNat)
/-- A rank's contributions wait on the call's own operation here. -/
def State.callOp (s : State) (cgrp seq : Nat) : Option (EOp × Shape) :=
  s.ops.findSome? fun o => match o.kind with
    | .cpyt r q => if r.op ≠ 0 && r.cgrp = cgrp && q = seq then some (o, r) else none
    | _ => none

/-! Merging (R255). -/

/-- One merge step of the operator. -/
def mergeElem (x : CollSig) (a b : Nat) : Nat :=
  if x.op = 4 then natOfTriple (mmerge (tripleOfBytes a) (tripleOfBytes b))
  else
    let t := Ty.all.getD x.ty .i32
    let k := if x.op = 1 then 0 else if x.op = 2 then 2 else 1
    if t.isInt then atomNew k t (t.bits / 8) a b 0 else atomNew k .f32 4 a b 0
/-- The contributions of a slot, merged in ascending port order (R287). -/
def SwSlot.merged (x : SwSlot) : List Nat :=
  match (sortBy (fun (y : Nat × List Nat) => y.1) x.got) with
  | [] => []
  | (_, e) :: t => t.foldl (fun acc y => acc.zipWith (mergeElem x.first.sig) y.2) e
/-- An element as it is delivered: narrow floats rounded once, a triple with its zero word (R126, R255). -/
def delivered (x : CollSig) (z e : Nat) : List Byte :=
  let t := Ty.all.getD x.ty .i32
  bytesOfNat z (if x.op ≠ 4 && (t = .bf16 || t = .f16) then (cvtBits t .f32 rneMode e).1 else e)

/-! Results. -/

/-- The context of a group on this device, with its launch when the group is a launch's attached one. -/
def State.groupHome (s : State) (cgrp : Nat) : Nat × Nat :=
  match s.launches.find? fun l => !l.completed && l.body.cgrp == cgrp && cgrp != 0 with
  | some l => (l.ctx, l.grid)
  | none =>
    match s.contexts.find? fun c => c.colls.any fun x => x.1 == cgrp with
    | some c => (c.id, ((s.launches.find? fun l => !l.completed && l.ctx == c.id).map fun l => l.grid).getD 0)
    | none => (0, 0)
/-- A result or a mismatch mark leaves through port 4 of a switch for this rank. -/
def State.toRank (s : State) (sw : Nat) (x : Contribution) : State :=
  let send (y : ReducedChunk) : State := s.after (Config.meshCc 16) (.reducedChunkWrite y)
  match s.callOp x.cgrp x.seq with
  | some (o, r) =>
    let c := r.chunks.getD x.chunk 0
    if x.mismatch then
      send { ctx := o.ctx, launch := o.launch, die := sw / 3, cgrp := x.cgrp, seq := x.seq, tileCtr := 0, space := 0, writes := [], size := 0, op := o.id, chunk := c, mismatch := true, plain := false }
    else if !s.isDest o.ctx r then (s.modOp o.id fun y => { y with landed := y.landed ++ [c] }).closeOp o.id
    else
      let w := ((r.chunkElems c).zip x.elems).flatMap fun y => (delivered x.sig r.z y.2).mapIdx fun i b => (r.dstAddr (c / 2 ^ 32) y.1 + i, b)
      send { ctx := o.ctx, launch := o.launch, die := sw / 3, cgrp := x.cgrp, seq := x.seq, tileCtr := if r.ctr = 0 then 0 else r.ctr + 8 * (c / 2 ^ 32),
             space := cpySpace r.space, writes := w, size := w.length, op := o.id, chunk := c, mismatch := false, plain := false }
  | none =>
    let h := s.groupHome x.cgrp
    let me := s.myRank h.1
    let bit (m : Nat) : Bool := x.sig.rbase ≤ me && me < x.sig.rbase + 16 && m / 2 ^ (me - x.sig.rbase) % 2 = 1
    if x.mismatch || bit x.sig.memb || !bit x.sig.repl then s
    else
      let w := (x.dsts.zip x.elems).flatMap fun y => (delivered x.sig x.z y.2).mapIdx fun i b => (y.1 + i, b)
      send { ctx := h.1, launch := h.2, die := sw / 3, cgrp := x.cgrp, seq := x.seq, tileCtr := x.tileCtr, space := x.space, writes := w, size := w.length,
             op := 0, chunk := x.chunk, mismatch := false, plain := false }
/-- A switch that a mismatch mark leaves drops what it holds of the call, and its later chunks (R287). -/
def State.dropCall (s : State) (sw : Nat) (x : Contribution) : State :=
  s.modSwitch sw fun k =>
    { k with
      slots := k.slots.filter fun y => !(y.cgrp == x.cgrp && y.seq == x.seq)
      waiting := k.waiting.filter fun y => !(y.cgrp == x.cgrp && y.seq == x.seq)
      dropped := if k.dropped.contains (x.cgrp, x.seq) then k.dropped else k.dropped ++ [(x.cgrp, x.seq)] }
/-- The least time of a link between switches (R353): a bridge from die to die, one router within a die. -/
def linkLeast (a b : Nat) : Nat := Config.meshCc (if a / 3 = b / 3 then 2 else 24)
/-- A result or a mark goes down every DOWN port: to this rank, to the next switch of the package, or by an Ultra Ethernet port to a peer. -/
def State.sendDown (s : State) (sw : Nat) (x : Contribution) : State :=
  match (s.switch sw).entry? x.cgrp with
  | none => s
  | some e =>
    (List.range 8).foldl (fun (s : State) (p : Nat) =>
      if !e.down.getLsbD p then s
      else if p = 4 then s.toRank sw x
      else match facing sw p with
        | some y => s.after (linkLeast sw y.1) (.switchContribution { x with sw := y.1, port := y.2 })
        | none => s) (if x.mismatch then s.dropCall sw x else s)
/-- A contribution leaves for its parent, or from the root down. -/
def State.sendUp (s : State) (sw : Nat) (e : TreeEntry) (x : Contribution) : State :=
  if e.root then s.sendDown sw x
  else match facing sw e.parent with
    | some y => s.after (linkLeast sw y.1) (.switchContribution { x with sw := y.1, port := y.2 })
    | none => s

/-! Slots (R287). -/

def SwSlot.is (y : SwSlot) (x : Contribution) : Bool := y.cgrp == x.cgrp && y.seq == x.seq && y.chunk == x.chunk
/-- The call's MEMB names a rank that is lost: it waits until software ends it (R288). -/
def State.namesLost (s : State) (x : Contribution) : Bool :=
  s.contexts.any fun c => ((s.groupsOf c).any fun g => g.1 == x.cgrp) && (maskRanks x.sig.rbase x.sig.memb).any fun r => c.lost.contains r
/-- Every port of CHILD has delivered: the slot sends and is free. -/
def State.closeSlot (s : State) (sw : Nat) (x : Contribution) : State :=
  let w := s.switch sw
  match w.slots.find? fun y => y.is x, w.entry? x.cgrp with
  | some y, some e =>
    if !((List.range 8).all fun p => !e.child.getLsbD p || y.got.any fun g => g.1 == p) || s.namesLost y.first then s
    else
      let s := if y.mismatch then s.dropCall sw x else s.modSwitch sw fun k => { k with slots := k.slots.filter fun z => !z.is x }
      s.sendUp sw e { y.first with elems := if y.mismatch then [] else y.merged, mismatch := y.mismatch }
  | _, _ => s
/-- This rank's chunk has been accepted by its home switch: it is counted (R254, R285). -/
def State.accepted (s : State) (x : Contribution) : State :=
  if x.port ≠ 4 then s
  else match s.callOp x.cgrp x.seq with
    | some (o, r) =>
      let c := r.chunks.getD x.chunk 0
      if !o.running.contains c then s
      else s.countChunk o c
    | none => s
/-- A contribution that finds a slot is held in it. -/
def State.holdPart (s : State) (x : Contribution) : State :=
  let w := s.switch x.sw
  let s := match w.slots.find? fun y => y.is x with
    | some _ => s.modSwitch x.sw fun k =>
        { k with slots := k.slots.map fun (y : SwSlot) => if y.is x then { y with mismatch := y.mismatch || x.mismatch || y.first.sig != x.sig, got := y.got ++ [(x.port, x.elems)] } else y }
    | none => s.modSwitch x.sw fun k =>
        { k with slots := k.slots ++ [({ cgrp := x.cgrp, seq := x.seq, chunk := x.chunk, first := x, mismatch := x.mismatch, got := [(x.port, x.elems)],
                                         epoch := ((w.entry? x.cgrp).map fun (e : TreeEntry) => e.epoch).getD 0 } : SwSlot)] }
  (s.accepted x).closeSlot x.sw x
def Switch.takes (w : Switch) (x : Contribution) : Bool := w.slots.any (fun y => y.is x) || w.slots.length < 256
/-- Contributions that waited at their ports go in, in order, as slots are free. -/
def State.drainPorts : Nat → State → Nat → State
  | 0, s, _ => s
  | n + 1, s, sw =>
    let w := s.switch sw
    match w.waiting.find? fun x => w.takes x with
    | none => s
    | some x =>
      let i := (w.waiting.findIdx? fun y => y == x).getD 0
      State.drainPorts n ((s.modSwitch sw fun k => { k with waiting := k.waiting.eraseIdx i }).holdPart x) sw
/-- It came in at the port toward the root: it is a result or a mark on its way down. -/
def Switch.comesDown (w : Switch) (x : Contribution) : Bool :=
  match w.entry? x.cgrp with
  | some e => !e.root && x.port = e.parent && x.port ≠ 4
  | none => false
/-- The link of the port an arrival uses, when that port has one. -/
def State.linkOf (s : State) (x : Contribution) : Link :=
  match linkAt x.sw x.port with
  | some l => s.link l
  | none => { id := .bridge 0 }
/-- A retraining link carries nothing until it is trained; a retired port nothing at all (R327). -/
def execSwitchContribution (x : Contribution) (s : State) : Host.Outcome State Fault Refusal :=
  .next <|
    let w := s.switch x.sw
    let drained (s : State) : State := State.drainPorts (s.switch x.sw).waiting.length s x.sw
    if 12 ≤ x.sw || (s.linkOf x).retired then s
    else if (s.linkOf x).training then s.again (.switchContribution x)
    else if w.comesDown x then drained (s.sendDown x.sw x)
    else if w.dropped.contains (x.cgrp, x.seq) then s
    else if w.takes x then drained (s.holdPart x)
    else s.modSwitch x.sw fun k => { k with waiting := k.waiting ++ [x] }

/-! Trees (R284 to R286, R288, R343). -/

/-- The twelve switches in the circle in which the ports of R284 join them, from die 0's Ultra Ethernet switch. -/
def switchRing : List Nat := [2, 0, 3, 5, 4, 10, 11, 9, 6, 8, 7, 1]
def ringAt (i : Nat) : Nat := switchRing.getD (i % 12) 0
/-- The port of a switch that faces another. -/
def portTo (a b : Nat) : Nat := ((List.range 8).find? fun p => (facing a p).any fun y => y.1 == b).getD 0
/-- The ports of an Ultra Ethernet switch toward peers that are not retired. -/
def State.openPorts (s : State) (sw : Nat) : List Nat :=
  if sw % 3 = 2 then (List.range 4).filter fun p => !(s.link (.port (4 * (sw / 3) + p))).retired else []
/-- The home switch of a group (R285). -/
def State.homeSwitch (s : State) (c : Ctx) (members : List Nat) : Nat :=
  let ends := (members.filter fun r => r ≠ c.me).filterMap fun r => (c.ranks.find? fun x => x.1 == r).map fun x => x.2
  match (List.range 4).find? fun d => (s.openPorts (3 * d + 2)).any fun p => ends.any fun e => Config.routed (4 * d + p) e with
  | some d => 3 * d + 2
  | none => 2
def portMask (ports : List Nat) : BitVec 8 := BitVec.ofNat 8 ((ports.eraseDups.map fun p => 2 ^ p).sum)
/-- A group's entries by switch, on the stretch of the circle that goes `back` and `on` from its home switch: its own contribution
enters at port 4 there (R285); peers' come in, and the root or the way to it lies, where firmware chooses (Config.freeTree). A group
without other ranks merges at its home switch. -/
def State.treeAlong (s : State) (c : Ctx) (cgrp epoch home : Nat) (members others : List Nat) (back on : Nat) : List (Nat × TreeEntry) :=
  let f := Config.freeTree home cgrp epoch others
  let n := back + on + 1
  let sw (k : Nat) : Nat := ringAt ((switchRing.findIdx? fun x => x == home).getD 0 + 12 - back + k)
  let ports (k : Nat) : List Nat := if others.isEmpty then [] else s.openPorts (sw k)
  -- the switch from which PARENT leads to a peer, or where the root is
  let tops := (List.range n).filter fun k => !(ports k).isEmpty
  let top := if tops.isEmpty then back else Config.pickNth (f 2) tops
  let up : Option Nat := if tops.isEmpty || f 3 % 2 = 0 then none else some (Config.pickNth (f 4) (ports top))
  let free (k : Nat) : List Nat := (ports k).filter fun p => !(k = top && up = some p)
  let kids (k : Nat) : List Nat := (free k).filter fun p => f (8 + 4 * k + p) % 2 = 1 || (k = top && up.isNone && p = Config.pickNth (f 5) (ports k))
  let own (k : Nat) : Bool := k = back && members.contains c.me
  let feeds (k : Nat) : Bool := own k || !(kids k).isEmpty
  let left (k : Nat) : Nat := portTo (sw k) (sw (k - 1))
  let right (k : Nat) : Nat := portTo (sw k) (sw (k + 1))
  (List.range n).map fun k =>
    (sw k,
     { cgrp := cgrp, v := true, root := k = top && up.isNone
       parent := if k = top then up.getD 0 else if k < top then right k else left k
       child := portMask (kids k ++ (if k ≤ top && (List.range k).any feeds then [left k] else []) ++
         (if top ≤ k && (List.range n).any (fun j => k < j && feeds j) then [right k] else []) ++ if own k then [4] else [])
       epoch := epoch
       down := portMask ((free k).filter (fun p => f (64 + 4 * k + p) % 2 = 1) ++ (if k ≤ top && 0 < k then [left k] else []) ++
         (if top ≤ k && k + 1 < n then [right k] else []) ++ if k = back then [4] else []) })
/-- A switch has room for a group's entry among its 64, those of launches that have no team yet counted (R286, R341). -/
def State.treeRoom (s : State) (sw cgrp : Nat) : Bool :=
  let due := s.launches.filter fun l => !l.completed && !l.established && l.body.cgrp ≠ 0 && l.body.cgrp ≠ cgrp &&
    (s.ctx? l.ctx).any fun c => s.homeSwitch c (maskRanks l.body.rbase l.body.memb.toNat) == sw
  ((s.switch sw).entries.filter fun e => e.v && e.cgrp != cgrp).length + due.length < 64
/-- Firmware's plan: the home switch, and the entries of as wide a stretch as it chooses and the switches have room for. -/
def State.treePlan (s : State) (c : Ctx) (cgrp epoch : Nat) (members : List Nat) : Nat × List (Nat × TreeEntry) :=
  let others := members.filter fun r => r ≠ c.me && !c.lost.contains r
  let home := s.homeSwitch c members
  let f := Config.freeTree home cgrp epoch others
  let back := if others.isEmpty then 0 else f 0 % 4
  let on := if others.isEmpty then 0 else f 1 % (4 - back)
  let wide := s.treeAlong c cgrp epoch home members others (3 * back) (3 * on)
  (home, if wide.all fun x => s.treeRoom x.1 cgrp then wide else s.treeAlong c cgrp epoch home members others 0 0)
/-- Firmware can write the trees of a group. -/
def State.treeFits (s : State) (c : Ctx) (cgrp : Nat) (members : List Nat) : Bool := s.treeRoom (s.homeSwitch c members) cgrp
/-- A call that a rebuild catches half delivered fails at this member (R288). -/
def State.failSlots (s : State) (cgrp : Nat) : State :=
  let calls := ((s.switches.flatMap fun w => w.slots).filter fun y => y.cgrp == cgrp).map fun y => y.seq
  let s := { s with switches := s.switches.map fun (w : Switch) =>
    { w with slots := w.slots.filter fun y => y.cgrp != cgrp, waiting := w.waiting.filter fun y => !(y.cgrp == cgrp && calls.contains y.seq) } }
  calls.eraseDups.foldl (fun s q => match s.callOp cgrp q with
    | some (o, _) => s.failCall o eCopyfail o.failValue
    | none => s) s
/-- The trees of a group are built anew under the next EPOCH. -/
def State.buildTree (s : State) (ctx cgrp : Nat) (members : List Nat) : State :=
  match s.ctx? ctx with
  | none => s
  | some c =>
    let old := (s.switches.flatMap fun w => w.entries).filter fun e => e.cgrp == cgrp && e.v
    let ep := match old with
      | [] => 0
      | _ => (old.map fun e => e.epoch).foldl max 0 + 1
    let s := if old.isEmpty then s else s.failSlots cgrp
    let s := { s with switches := s.switches.map fun (w : Switch) => { w with entries := w.entries.filter fun e => e.cgrp != cgrp, homes := w.homes.filter fun g => g != cgrp } }
    let plan := s.treePlan c cgrp (ep % 65536) members
    let s := if s.treeRoom plan.1 cgrp then plan.2.foldl (fun (s : State) x => s.modSwitch x.1 fun w => { w with entries := w.entries ++ [x.2] }) s else s
    -- slots that came free take what waits at their ports (R287)
    (List.range 12).foldl (fun s sw => State.drainPorts (s.switch sw).waiting.length s sw) (s.modSwitch plan.1 fun w => { w with homes := w.homes ++ [cgrp] })
/-- A group is established, or established anew: nothing of an earlier one of its number is left at the switches, and its trees are built (R255, R343). -/
def State.establish (s : State) (ctx cgrp : Nat) (members : List Nat) : State :=
  let s := (s.modCtx ctx fun y => { y with deadCalls := y.deadCalls.filter fun d => d.1 != cgrp }).failSlots cgrp
  { s with switches := s.switches.map fun (w : Switch) => { w with dropped := w.dropped.filter fun d => d.1 != cgrp } }.buildTree ctx cgrp members
/-- A rank is lost: every tree is rebuilt without it, and a notice names it (R343). -/
def State.loseRank (s : State) (c : Ctx) (rank : Nat) : State :=
  let hit := (s.groupsOf c).filter fun x => x.2.contains rank
  let s := s.modCtx c.id fun x => { x with lost := x.lost ++ [rank] }
  let s := hit.foldl (fun s x => s.buildTree c.id x.1 x.2) s
  s.notify c.id 0xC007 (bytesOfNat 4 3 ++ bytesOfNat 2 rank ++ bytesOfNat 2 hit.length ++ bytesOfNat 8 0)
def Ctx.mayLose (c : Ctx) (rank : Nat) : Bool := !c.lost.contains rank && rank ≠ c.me && c.ranks.any fun x => x.1 == rank
def execRankLost (ctx rank : Nat) (s : State) : Host.Outcome State Fault Refusal :=
  .next <|
    match s.ctx? ctx with
    | none => s
    | some c => if c.mayLose rank then s.loseRank c rank else s
/-- A port is retired: the ranks that no port is routed to any more are lost, and every tree is built anew (R327, R343). -/
def State.reroute (s : State) (port : Nat) : State :=
  s.contexts.foldl (fun (s : State) c =>
    let reached (e : Nat) : Bool := (List.range 16).any fun p => Config.routed p e && !(s.link (.port p)).retired
    let gone := c.ranks.filter fun x => c.mayLose x.1 && Config.routed port x.2 && !reached x.2
    let s := gone.foldl (fun (s : State) x => match s.ctx? c.id with
      | some c => s.loseRank c x.1
      | none => s) s
    (s.groupsOf c).foldl (fun s g => if g.2.any fun r => gone.any fun x => x.1 == r then s else s.buildTree c.id g.1 g.2) s) s

/-! Dispatch (R226, R227). -/

/-- The attached collective starts with the launch's first team (R341). -/
def State.firstTeam (s : State) (lid : Nat) : State :=
  match s.launch? lid with
  | some l =>
    let s := s.modLaunch lid fun x => { x with established := true }
    if l.established || l.body.cgrp = 0 then s else s.establish l.ctx l.body.cgrp (maskRanks l.body.rbase l.body.memb.toNat)
  | none => s
/-- The cluster leaves its list and runs. -/
def State.startCluster (s : State) (l : Launch) (w : WaitCl) (o : Nat) : Option State :=
  let k := s.kernOf l w.task
  let tid := s.nextTeam
  ((s.placeCluster l w o k none k.entry).map fun s => s.firstTeam l.grid).map fun s =>
    match w.task with
    | some (d, n) => s.modTask d n fun x => { x with state := 2, team := some tid, core := o }
    | none => s.modLaunch l.grid fun x => { x with waiting := x.waiting - 1 }
/-- One list of a die is served: at most one cluster starts. -/
def State.serveList (s : State) (die : Nat) (urgent : Bool) : Option State :=
  let mine (w : WaitCl) : Bool := w.die == die && w.urgent == urgent
  let list := s.dieList.filter mine
  let fit (w : WaitCl) : Option State := match s.launch? w.launch with
    | none => none
    | some l =>
      match s.rectFor die (s.needOf w l) with
      | some o => s.startCluster l w o
      | none => none
  match firstFit fit list 0 with
  | none => none
  | some (i, _, s1) => some { s1 with dieList := (s.dieList.filter fun w => !mine w) ++ passOver list i }
def execClusterDispatch (die : Nat) (s : State) : Host.Outcome State Fault Refusal :=
  .next <|
    match s.serveList die true with
    | some s1 => s1.sched (s1.clock + 1) (.clusterDispatch die)
    | none =>
      match s.serveList die false with
      | some s1 => s1.sched (s1.clock + 1) (.clusterDispatch die)
      | none => s.narrowAll [die] (s.dieList.filter fun w => w.die == die)

/-! The catch team (R52). -/

def execCatchTeamDispatch (lid : Nat) (s : State) : Host.Outcome State Fault Refusal :=
  .next <|
    match s.launch? lid with
    | none => s
    | some l =>
      if l.completed || l.fate ≠ 2 || s.teams.any fun t => t.launch == lid && t.isCatch then s
      else
        let w : WaitCl := { launch := lid, cluster := l.body.cteam, urgent := isUrgent s l.ctx }
        let n := { s.needOf w l with own := some (lid, l.body.cteam) }
        let old := match s.cluster? lid l.body.cteam with
          | some c => if (rectCores c.origin c.w c.h).all fun x => s.offered x then some c.origin else none
          | none => none
        let place := match old with
          | some o => if (rectCores o l.kern.cw l.kern.ch).all fun x => s.isFree x && s.coreTakes x n then some o else none
          | none => (s.bestDie n).map fun (x : Nat × Nat) => x.2
        let later (s : State) : State := (match old with
          | some _ => s.modCluster lid l.body.cteam fun c => { c with catchOnly := true }
          | none => s).again (.catchTeamDispatch lid)
        match place with
        | none => later s
        | some o =>
          let tid := s.nextTeam
          match s.placeCluster l w o l.kern (some l.body.cpos) l.body.catchOff with
          | none => later s
          | some s1 => (s1.firstTeam lid).modTeam tid fun t =>
              { t with
                isCatch := true
                groups := t.groups.map fun (g : Group) => { g with caught := some ([], 0) }
                recs := t.groups.foldl (fun (r : Sparse Rec) (g : Group) => spPut {} r g.slot (l.exceptions.getD {})) t.recs }

/-! Ports (R332). -/

/-- A packet takes room in the 2 MiB buffer or is dropped; `drain` gives its room back. -/
def execPacketReceive (port : Nat) (bytes : Nat) (drain : Bool) (s : State) : Host.Outcome State Fault Refusal :=
  .next <|
    let used := spGet 0 s.ports port
    if 16 ≤ port || 4096 < bytes || (s.link (.port port)).retired then s
    else if drain then { s with ports := spPut 0 s.ports port (used - bytes) }
    else if (s.link (.port port)).training then s.again (.packetReceive port bytes drain)
    else if 2097152 < used + bytes then s
    else { s with ports := spPut 0 s.ports port (used + bytes) }

end Sys2Proof.Machine
end

