-- ==== Sys2Proof/Machine/Reliability.lean ====
section
/-! DEFINITION. Reliability and service life (R315 to R330), resets of cores (R278, R346), heat and bring-up (R349, R350), and
the take-over by a new leader (R335). -/
namespace Sys2Proof.Machine

/-! Launches cancelled and failed. -/

/-- E_CANCELLED in every resident group of a launch; at the grid level when every group of its teams has exited (R216, R352). -/
def State.throwCancelled (s : State) (lid : Nat) : State :=
  let ts := s.teams.filter fun t => t.launch == lid && t.place != .ended
  let on := (ts.filter fun t => t.place == .resident).flatMap fun t =>
    (t.groups.filter fun g => g.live ≠ 0 && g.phase != .evicted && g.phase != .exited).map fun g => (⟨t.id, g.slot⟩ : GRef)
  match ts.head? with
  | none => s
  | some t =>
    if !on.isEmpty then on.foldl (fun s g => s.raiseStopped g eCancelled 0) s
    else if ts.all fun t => t.groups.all fun g => g.phase == .exited then s.raiseNobody t eCancelled 0
    else s
/-- CANCEL of a launch (R342): E_CANCELLED in every resident group, nothing more is dispatched. -/
def State.cancelLaunch (s : State) (l : Launch) : State :=
  let s := (s.modLaunch l.grid fun y => { y with cancelled := true }).stopWaiting l.grid
  let s := (s.tasks.filter fun k => k.launch == l.grid && k.team.isNone && !k.finished).foldl (fun s k => (s.discard k).2) s
  (s.throwCancelled l.grid).sched (s.clock + 1) (.launchComplete l.grid)
/-- A launch ends in failure with E_CANCELLED, no catch of it running (R278). -/
def State.failLaunch (s : State) (lid : Nat) : State :=
  match s.launch? lid with
  | none => s
  | some l =>
    if l.completed then s
    else
      let mine := s.teams.filter fun t => t.launch == lid && t.place != .ended
      let s := { s with steers := s.steers.filter fun y => !(match y.region with
        | .group t _ _ | .team t _ => mine.any fun x => x.id == t
        | .grid a => a == lid) }
      let d := (s.stopWaiting lid).dropTasks lid
      let s := d.2.cancelInside (d.2.inside (.grid lid)) (fun t => t.launch == lid) (isMember (.grid lid))
      let s := mine.foldl (fun s t => match s.team? t.id with
        | some y => s.exitTeam y
        | none => s) s
      let c := cancelRec (s.ctxClock l.ctx)
      (s.modLaunch lid fun y =>
        { y with
          exceptions := match y.exceptions with
            | some e => some { e.merge c with clock := c.clock, level := 2 }
            | none => some c
          fate := if y.fate = 3 then 3 else 1 }).sched (s.clock + 1) (.launchComplete lid)
/-- Firmware resets a core with its teams resident (R278): its spills are performed, its refills abandoned, its launches fail. -/
def State.resetCore (s : State) (coord : Nat) : State :=
  let ts := s.resident coord
  let mine (o : EOp) : Bool := ts.any fun t => t.id == o.team
  let s := (s.ops.filter mine).foldl (fun s o => match o.kind with
    | .spill _ _ =>
      let w := s.chunkWrites o 0
      let s := if (s.engBad o w true).isNone then s.engWrite o o.team w (o.recs.flatMap recBytes) else s
      s.dropOp o
    | .refill q n => (s.modQueue o.team q fun x => { x with reserved := x.reserved - n, refill := none }).dropOp o
    | _ => s) s
  (ts.map fun t => t.launch).eraseDups.foldl (fun s l => s.failLaunch l) s

/-! Retirement (R328, R329). -/

def State.coreHalted (s : State) (coord : Nat) : Bool := (s.resident coord).any fun t => t.groups.any fun g => g.halted && g.phase != .exited
/-- Every parked group of a core that is to be emptied looks at its eviction. -/
def State.pushOut (s : State) (coord : Nat) : State :=
  (s.resident coord).foldl (fun s t =>
    let s := t.groups.foldl (fun s g => if g.phase = .parked then s.sched (s.clock + 1) (.groupEvict ⟨t.id, g.slot⟩) else s) s
    s.sched (s.clock + 1) (.teamLeave t.id)) s
/-- The drain of a core starts; it is bounded by 1 ms (R278, R317). -/
def State.drain (s : State) (coord : Nat) : State :=
  let s := s.modCore coord fun c => { c with draining := true, drainFrom := s.clock }
  ((s.pushOut coord).sched (s.clock + 1) (.emberPatternsStart coord)).sched (s.clock + Config.ccPerMs) (.drainTimeout coord)
/-- A core that a command retires is out of service: the command is answered after its last core (R334). -/
def State.retireDone (s : State) (coord : Nat) : State :=
  let l := s.retiring.map fun x => (x.1, x.2.filter fun c => c != coord)
  (l.filter fun x => x.2.isEmpty).foldl (fun s x => s.reply x.1 0x0071 0 []) { s with retiring := l.filter fun x => !x.2.isEmpty }
/-- A core is to be retired: drained first; a spare core is only marked (R328). -/
def State.startRetire (s : State) (coord cause : Nat) : State :=
  let st := (s.alm (.core coord)).state
  if st = 2 then s
  else if st = 1 then (s.setUnit (.core coord) 2 cause).retireDone coord
  else
    let d := (s.core coord).draining || (s.core coord).testing
    let s := s.modCore coord fun c => { c with retireAfter := some (if cause = 4 then 4 else c.retireAfter.getD cause) }
    if d then s else s.drain coord
/-- The drained core is power-gated for good. -/
def State.gate (s : State) (coord cause : Nat) : State :=
  let s := (s.setUnit (.core coord) 2 cause).retireDone coord
  (s.modCore coord fun c => { c with draining := false, testing := false, retireAfter := none, visitNext := false }).kick.sched (s.clock + 1) (.emberVisit (Config.coordDie coord))
/-- A slice is retired once its pages have new homes (R180). -/
def State.retireSlice (s : State) (coord cause : Nat) : State :=
  if (s.alm (.slice coord)).state = 2 || s.rehoming.any fun x => x.1 == coord then s
  else { s with rehoming := s.rehoming ++ [(coord, cause)] }.after 1 (.sliceRehomeComplete coord)
def execSliceRehomeComplete (coord : Nat) (s : State) : Host.Outcome State Fault Refusal :=
  .next <|
    match s.rehoming.find? fun x => x.1 == coord with
    | none => s
    | some x => { s with rehoming := s.rehoming.filter fun y => y.1 != coord }.setUnit (.slice coord) 2 x.2
def quadrantOf (coord : Nat) : Nat := Config.coordCol coord / 4 + 2 * (Config.coordRow coord / 3)
def quadrantCoords (die q : Nat) : List Nat := (Config.dieCoords die).filter fun c => quadrantOf c = q
def State.retireQuadrant (s : State) (die q cause : Nat) : State :=
  if (s.alm (.quadrant die q)).state = 2 then s
  else (quadrantCoords die q).foldl (fun s c => (s.startRetire c 9).retireSlice c 9) (s.setUnit (.quadrant die q) 2 cause)

/-! Failed passes (R319). -/

/-- The provisional-window report to the contexts whose launches it names; with none named, to every session. -/
def State.report (s : State) (coord group rolled : Nat) (named : List Launch) : State :=
  let c := s.core coord
  let body (off : Nat) (l : List Launch) : List Byte :=
    bytesOfNat 1 coord ++ bytesOfNat 1 group ++ bytesOfNat 2 l.length ++ bytesOfNat 4 rolled ++ bytesOfNat 8 (c.lastPass - off) ++ bytesOfNat 8 (c.passStart - off) ++
    (sortBy (fun (x : Launch) => x.grid) l).flatMap fun x => bytesOfNat 8 x.grid
  if named.isEmpty then s.notifyAll 0xC003 (body 0 [])
  else (named.map fun l => (l.ctx, l.principal)).eraseDups.foldl (fun s x =>
    s.notifyTo (some x.2) x.1 0xC003 (body (((s.ctx? x.1).map fun y => y.clockOff).getD 0) (named.filter fun l => l.ctx == x.1 && l.principal == x.2))) s
/-- Everything the core made since its last passing pass is acted on, and the core is retired. -/
def State.failCore (s : State) (coord group cause : Nat) : State :=
  let c := s.core coord
  let ts := s.tasks.filter fun k => c.tasksRun.contains (k.die, k.id) && (k.state = 2 || k.state = 3)
  let r := s.rollback ts
  let named := r.2.launches.filter fun l => c.launches.contains l.grid
  let s := r.2.report coord group r.1.length named
  let s := named.foldl (fun s l => s.modLaunch l.grid fun y => { y with cleared := true, heldBody := none }) s
  let s := named.foldl (fun s l =>
    let asks := match s.ctx? l.ctx with
      | some x => x.p.cancelOnFail
      | none => false
    if asks && !l.completed then s.cancelLaunch l else s) s
  (s.modCore coord fun x => { x with launches := [], tasksRun := [] }).gate coord cause

/-! The ember pass (R317 to R321). -/

def emberIndex (c : Nat) : Nat := Config.coordRow c * 8 + Config.coordCol c
/-- The offered core of a die whose turn it is: one to be visited out of turn, else the next after the last visited. A core that
holds a Halted group is passed over. -/
def State.emberNext (s : State) (die : Nat) : Option Nat :=
  let cs := (Config.dieCoords die).filter fun c => s.offered c && !s.coreHalted c
  let cur := spGet 0 s.ember die
  match cs.find? fun c => (s.core c).visitNext with
  | some c => some c
  | none => (cs.filter fun c => cur ≤ emberIndex c).head?.or cs.head?
def execEmberVisit (die : Nat) (s : State) : Host.Outcome State Fault Refusal :=
  .next <|
    let cs := (Config.dieCoords die).filter fun c => s.offered c
    if !s.power || 4 ≤ die || cs.any fun c => (s.core c).testing || ((s.core c).draining && (s.core c).retireAfter.isNone) then s
    else
      match s.emberNext die with
      | none => s.again (.emberVisit die)
      | some c =>
        let out := (s.core c).visitNext
        -- cores that hold a Halted group and stood before this one are visited after they resume
        let cur := spGet 0 s.ember die
        let skipped := if out then [] else cs.filter fun x => s.coreHalted x && cur ≤ emberIndex x && emberIndex x < emberIndex c
        let s := skipped.foldl (fun s x => s.modCore x fun k => { k with visitNext := true }) s
        let s := if out then s else { s with ember := spPut 0 s.ember die (emberIndex c + 1) }
        let s := s.modCore c fun k => { k with visitNext := false }
        if (s.core c).draining then s else s.drain c
/-- The cc in which a throttled quarter issues one word (R349). -/
def State.issueRate (s : State) (die : Nat) : Nat := if spGet 0 s.issueRow die = 0 then 1 else 2
/-- What is left of a core's patterns, at the rate at which they have run since it was last counted (R349). -/
def State.passNow (s : State) (coord : Nat) : Nat := (s.core coord).passLeft - (s.clock - (s.core coord).passMark) / s.issueRate (Config.coordDie coord)
/-- The cc that a core's pass still takes. -/
def State.passCc (s : State) (coord : Nat) : Nat := s.passNow coord * s.issueRate (Config.coordDie coord)
/-- A team's groups that were evicted while it was to leave come back where it stays: their reason is over (R39, R231). -/
def State.stay (s : State) (coord : Nat) : State :=
  (s.resident coord).foldl (fun s t =>
    if s.leaving t then s
    else (t.groups.filter fun g => g.phase == .evicted && !g.staysOff).foldl (fun s g => s.restoreGroup coord ⟨t.id, g.slot⟩) s) s
def execEmberPatternsStart (coord : Nat) (s : State) : Host.Outcome State Fault Refusal :=
  .next <|
    let c := s.core coord
    if !c.draining || c.testing then s
    else if s.coreHalted coord && c.retireAfter.isNone then
      ((s.modCore coord fun k => { k with draining := false, visitNext := true }).stay coord).kick.sched (s.clock + 1) (.emberVisit (Config.coordDie coord))
    else if !(s.resident coord).isEmpty then s.again (.emberPatternsStart coord)
    else
      match c.retireAfter with
      | some 4 => s.failCore coord 5 4
      | some cause => s.gate coord cause
      | none =>
        let s := s.modCore coord fun k => { k with testing := true, passStart := s.clock, passLeft := Config.emberCc, passMark := s.clock, vstepDue := none }
        -- the outcome is the silicon's
        let b := s.drawBit
        let k := b.2.drawByte
        -- group 5 when the pass is the visit after a known-answer mismatch and its own patterns match (R321)
        k.2.sched (s.clock + s.passCc coord) (.emberPassEnd coord (if b.1 then some (k.1.toNat % if c.kaFirst = 0 then 5 else 6) else none))
def execEmberPassEnd (coord : Nat) (failed : Option Nat) (s : State) : Host.Outcome State Fault Refusal :=
  .next <|
    let c := s.core coord
    if !c.testing || s.passNow coord ≠ 0 then s
    else
      match failed with
      | some k => s.failCore coord k 2
      | none =>
        if c.retireAfter = some 4 then s.failCore coord 5 4 else
        let s := s.setAlm (.core coord) fun a => { a with passes := (a.passes + 1) % 2 ^ 32, cec := if c.kaFirst = 0 then a.cec else (a.cec + 1) % 2 ^ 32 }
        let s := s.modCore coord fun k => { k with testing := false, draining := false, lastPass := s.clock, kaFirst := 0, launches := [], tasksRun := [] }
        let s := s.launches.foldl (fun s l => s.clearLaunch l) s
        match c.retireAfter with
        | some cause => s.gate coord cause
        | none => (s.tryTasks.kick).sched (s.clock + 1) (.emberVisit (Config.coordDie coord))
/-- A known-answer word's mismatch (R321): the core is visited out of turn, at the third in a window retired. -/
def State.knownMiss (s : State) (coord : Nat) : State :=
  let s := s.modCore coord fun c => { c with kaMiss := c.kaMiss + 1, kaFirst := 1, visitNext := true }
  if 3 ≤ (s.core coord).kaMiss then s.startRetire coord 4 else s.sched (s.clock + 1) (.emberVisit (Config.coordDie coord))
/-- A core that could not be emptied in 1 ms is reset (R278). -/
def execDrainTimeout (coord : Nat) (s : State) : Host.Outcome State Fault Refusal :=
  .next <|
    let c := s.core coord
    if !c.draining || c.testing || (s.resident coord).isEmpty || s.clock < c.drainFrom + Config.ccPerMs then s
    -- a Halted group holds its core; the drain's bound starts anew (R244, R317)
    else if s.coreHalted coord then (s.modCore coord fun k => { k with drainFrom := s.clock }).sched (s.clock + Config.ccPerMs) (.drainTimeout coord)
    else s.resetCore coord
/-- A launch that has not ended 1 ms after CTX_DESTROY's cancel (R346). -/
def execForcedEnd (launch : Nat) (s : State) : Host.Outcome State Fault Refusal :=
  .next <|
    match s.launch? launch with
    | none => s
    | some l =>
      if l.completed || !l.cancelled then s
      else
        let s := s.modLaunch launch fun y => { y with fate := 3 }
        let cs := ((s.teams.filter fun t => t.launch == launch && t.place == .resident).map fun t => t.coord).eraseDups
        (cs.foldl (fun s c => s.resetCore c) s).failLaunch launch

/-! Margins (R316). -/

/-- The supply offset in effect: a core's planned one waits for its next ember drain (R316). -/
def State.inEffect (s : State) (u : UnitId) : Nat :=
  match u with
  | .core c => (s.core c).vstepDue.getD (s.alm u).vstep
  | _ => (s.alm u).vstep
def execMarginReading (coord : Nat) (margin : Nat) (powerDomain : Bool) (s : State) : Host.Outcome State Fault Refusal :=
  .next <|
    if !s.power || !Config.coordOk coord then s
    else
      let u : UnitId := if powerDomain then .quadrant (Config.coordDie coord) (quadrantOf coord) else .core coord
      let s := s.setAlm u fun a => { a with margin := margin % 65536 }
      let s := { s with flash := { s.flash with margins := s.flash.margins ++ [(unitKey u, s.day, (margin : Int))] } }
      let a := s.alm u
      if a.floor ≤ a.margin || s.inEffect u < a.vmax then s
      else if powerDomain then s.retireQuadrant (Config.coordDie coord) (quadrantOf coord) 3 else s.startRetire coord 3
/-- The measured slack at a supply offset: the last reading at the offset in effect, else what the monitors measure there. -/
def State.slackAt (s : State) (u : UnitId) (v : Nat) : Nat := if v = s.inEffect u then (s.alm u).margin else Config.freeSlack (unitKey u) v s.day
/-- A unit's plan: the lowest offset whose slack is at least FLOOR + 20 ps, TREND fitted over 180 days of readings, and EXHAUST from the
fit. DESIGN CHOICE (log 76): VMAX when no offset has that slack; whole days; a quadrant's offset is in effect at once. -/
def State.replanUnit (s : State) (u : UnitId) : State :=
  let a := s.alm u
  if a.state = 2 then s
  else
    let now := s.inEffect u
    let v := ((List.range (a.vmax + 1)).find? fun v => a.floor + 20 ≤ s.slackAt u v).getD a.vmax
    let trend := Config.freeTrend ((s.flash.margins.filter fun m => m.1 == unitKey u && s.day ≤ m.2.1 + 180).map fun m => m.2)
    let days := if 0 ≤ trend then 0xFFFF else min 0xFFFF ((s.slackAt u a.vmax - a.floor) * 30 / (-trend).toNat)
    let s := s.setAlm u fun x => { x with vstep := v, trend := trend, exhaust := days, day := if v = x.vstep then x.day else s.day }
    match u with
    | .core c => s.modCore c fun k => { k with vstepDue := if v = now then none else some now }
    | _ => s
/-- The units that have a margin. -/
def marginUnits : List UnitId := Config.allCoords.map UnitId.core ++ (List.range 4).flatMap fun d => (List.range 4).map fun q => UnitId.quadrant d q
def execReplan (s : State) : Host.Outcome State Fault Refusal :=
  .next <|
    if !s.power then s
    else
      let s := marginUnits.foldl State.replanUnit s
      let s := { s with flash := { s.flash with margins := s.flash.margins.filter fun m => s.day ≤ m.2.1 + 180 } }
      s.sched (s.clock + s.flash.replanDays * Config.ccPerDay) .replan

/-! Arrays and DRAM (R322, R325, R326). -/

def Config.unitCoord (u : UnitId) : Nat :=
  match u with
  | .core c | .slice c | .teamMem c | .bank c _ _ => c
  | _ => 0
/-- The re-encoding toward DEC-TED starts (R322). -/
def State.startEcc (s : State) (u : UnitId) : State :=
  if (s.alm u).ecc ≠ 0 then s else (s.setAlm u fun a => { a with ecc := 2, day := s.day }).after 1 (.eccReencode u)
/-- Some set of a slice keeps fewer than two ways (R325). Lines are numbered by way * 2048 + set. -/
def State.fewWays (s : State) (coord : Nat) : Bool :=
  let l := s.flash.l2Lines.filter fun x => x.1 == coord
  l.any fun x => (if (s.alm (.slice coord)).ecc = 1 then 8 else 16) < (l.filter fun y => y.2 % 2048 = x.2 % 2048).length + 2
def execEccReencode (u : UnitId) (s : State) : Host.Outcome State Fault Refusal :=
  .next <|
    if (s.alm u).ecc ≠ 2 then s
    else
      let s := s.setAlm u fun a => { a with ecc := 1, day := s.day }
      match u with
      | .slice c => if s.fewWays c then s.retireSlice c 6 else s
      | _ => s
/-- A register's check cannot be corrected any more (R324). DESIGN CHOICE (log 77): the spec says what its read does and names no event
that spoils it; an uncorrectable SCRUB_READ of a core stands for one, its line naming the register. -/
def State.spoilRegister (s : State) (coord line : Nat) : State :=
  let p := Config.freeRegister coord line
  match (s.resident coord)[p.1]? with
  | some t => s.modGroup ⟨t.id, p.2.1⟩ fun y => { y with regs := { y.regs with bad := if y.regs.bad.contains p.2.2 then y.regs.bad else y.regs.bad ++ [p.2.2] } }
  | none => s
/-- The block behind a line is poisoned, and the page's contexts are told (R322). -/
def State.poisonLine (s : State) (u : UnitId) (line : Nat) : State :=
  let s := s.setAlm u fun a => { a with uec := (a.uec + 1) % 65536 }
  match u with
  | .core c => s.spoilRegister c line
  | .teamMem c =>
    let p := Config.freeTeamBlock (unitKey u) line
    match (s.resident c)[p.1]? with
    | some t => s.modTeam t.id fun x => { x with tm := { x.tm with mem := { x.tm.mem with poison := if x.tm.mem.poison.contains p.2 then x.tm.mem.poison else x.tm.mem.poison ++ [p.2] } } }
    | none => s
  | _ =>
    let b := Config.freeLineBlock (unitKey u) line
    ({ s with dram := { s.dram with poison := if s.dram.poison.contains b then s.dram.poison else s.dram.poison ++ [b] } }).pageNotice 1 0 (b / 64)
/-- A page's bytes move to another frame in one step that no access can split: their poison, the accesses on their way and all that
names the frame go with them; cores hold the old frame no longer (R326). -/
def State.moveFrame (s : State) (f n : Nat) : State :=
  let pa (x : Nat) : Nat := if x / 4096 = f then n * 4096 + x % 4096 else x
  let fr (x : Nat) : Nat := if x = f then n else x
  let m := s.dram
  let bad := (m.poison.filter fun k => k / 64 == f).map fun k => k % 64 + n * 64
  let d := m.put (n * 4096) (m.bytes (f * 4096) 4096)
  { s with
    dram := { d with poison := d.poison ++ bad }
    path := s.path.map fun e => { e with pa := pa e.pa }
    loads := s.loads.map fun r => { r with pas := r.pas.map pa }
    ops := s.ops.map fun o => { o with pages := o.pages.map fun p => (pa p.1, pa p.2) }
    tasks := s.tasks.map fun k => { k with staged := k.staged.map fun y => (y.1, y.2.map fr) }
    images := s.images.map fun i => { i with copies := i.copies.map fun y => (y.1, y.2.map fr) }
    cores := s.cores.map fun (c : Core) =>
      { c with
        l1 := c.l1.filter fun x => x.1 / 32 ≠ f
        tlb := c.tlb.filter fun e => !(ptePfn e.leaf ≤ f && f < ptePfn e.leaf + 2 ^ (e.bits - 12)) } }
/-- A failing frame: its page is copied to a fresh frame and remapped under R243, or the host must unmap it (R326). -/
def State.retireFrame (s : State) (f : Nat) : State :=
  if s.framesBad.contains f then s
  else
    let s := { s with framesBad := s.framesBad ++ [f] }
    let owners := s.contexts.filter fun c => !(s.vasOf c f).isEmpty
    let remap (n : Nat) (s1 : State) : Option State :=
      owners.foldl (fun x c => (s.tableVas c f).foldl (fun (x : Option State) va => x.bind fun y => y.setFrame c.root va n (y.walkCtx c.id va)) x) (some s1)
    if owners.isEmpty then s
    else
      match (s.takeAny (f / Config.framesPerDie) 1).bind fun x => (remap x.1 (x.2.pageNotice 2 0 f)).map fun y => (x.1, y) with
      | none => s.pageNotice 2 1 f
      | some (n, s1) => owners.foldl (fun y c => (s.vasOf c f).foldl (fun (y : State) va => y.shoot c.id va 4096 none [f] none) y) (s1.moveFrame f n)
/-- A row of a bank is to be spared, to a repair row if one is left: those that copies under way will take are not (R326). -/
def State.spareRow (s : State) (u : UnitId) (row : Nat) : State :=
  if s.rowCopies.contains (u, row) then s
  else if (s.rowCopies.filter fun x => x.1 == u).length < (s.alm u).spare then
    { s with rowCopies := s.rowCopies ++ [(u, row)] }.after 1 (.repairRowCopyComplete u row)
  else (Config.freeRowFrames (unitKey u) row).foldl (fun s f => s.retireFrame f) s
def execRepairRowCopyComplete (u : UnitId) (row : Nat) (s : State) : Host.Outcome State Fault Refusal :=
  .next <|
    if !s.rowCopies.contains (u, row) then s
    else
      let s := { s with rowCopies := s.rowCopies.filter fun x => x != (u, row), flash := { s.flash with rows := s.flash.rows ++ [(u, row)] } }
      s.setAlm u fun a => { a with spare := a.spare - 1 }
/-- A team-memory line is remapped to a spare line, and again when that one fails; with none left its core is retired (R325). -/
def State.spareTmLine (s : State) (coord line : Nat) : State :=
  let u : UnitId := .teamMem coord
  if 0 < (s.alm u).spare then { s with flash := { s.flash with tmLines := s.flash.tmLines ++ [(coord, line)] } }.setAlm u fun a => { a with spare := a.spare - 1 }
  else s.startRetire coord 5
/-- An L2 line is disabled; a set with fewer than two ways retires its slice (R325). -/
def State.disableLine (s : State) (coord line : Nat) : State :=
  if s.flash.l2Lines.contains (coord, line) then s
  else
    let s := { s with flash := { s.flash with l2Lines := s.flash.l2Lines ++ [(coord, line)] } }
    if s.fewWays coord then s.retireSlice coord 6 else s
/-- A corrected error is counted, for its unit and its line or row (R322, R325, R326). -/
def State.corrected (s : State) (u : UnitId) (line : Nat) : State :=
  let place := match u with
    | .bank _ _ _ => Config.freeRowOf (unitKey u) line
    | _ => line
  let s := s.setAlm u fun a => { a with cec := (a.cec + 1) % 2 ^ 32 }
  let n := ((s.flash.lineCec.find? fun x => x.1 == u && x.2.1 == place).map fun x => x.2.2).getD 0 + 1
  -- at the third error the place is given up for another, whose count starts anew
  let rest := s.flash.lineCec.filter fun x => !(x.1 == u && x.2.1 == place)
  let s := { s with flash := { s.flash with lineCec := if n < 3 then (u, place, n) :: rest else rest } }
  let s := if n < 3 then s
    else match u with
      | .slice c => s.disableLine c place
      | .teamMem c => s.spareTmLine c place
      | .bank _ _ _ => s.spareRow u place
      | _ => s
  -- firmware raises a slice or a vault at 64 corrected errors in one window
  match u with
  | .slice _ => if 64 ≤ (s.alm u).cec then s.startEcc u else s
  | .bank c _ _ =>
    let banks : List UnitId := (List.range 8).flatMap fun l => (List.range 32).map fun b => UnitId.bank c l b
    if 64 ≤ (banks.map fun b => (s.alm b).cec).sum then banks.foldl (fun s b => s.startEcc b) s else s
  | _ => s
def execScrubRead (u : UnitId) (line : Nat) (outcome : ScrubOutcome) (s : State) : Host.Outcome State Fault Refusal :=
  .next <|
    if !s.power then s
    else
      let ok := match u with
        | .core _ | .slice _ | .teamMem _ | .bank _ _ _ => Config.coordOk (Config.unitCoord u)
        | _ => false
      match ok, outcome with
      | false, _ | _, .clean => s
      | true, .corrected => s.corrected u line
      | true, .uncorrectable =>
        let s := s.poisonLine u line
        match u with
        | .bank _ _ _ => s.spareRow u (Config.freeRowOf (unitKey u) line)
        | _ => s
/-- A new 30-day window (R315, R321). -/
def execCecWindowEnd (s : State) : Host.Outcome State Fault Refusal :=
  .next <|
    if !s.power then s
    else
      { s with
        flash := { s.flash with alm := s.flash.alm.map (fun (x : UnitId × AlmRec) => (x.1, { x.2 with cec := 0 })), lineCec := [] }
        cores := s.cores.map fun (c : Core) => { c with kaMiss := 0 } }.sched (s.clock + 30 * Config.ccPerDay) .cecWindowEnd

/-! Links (R327). -/

def linkUnit (l : LinkId) : UnitId :=
  match l with
  | .port n => .port n
  | .bridge n => .bridge n
/-- A lane has failed: the spare, half width, and for a port retirement, with its trees rebuilt (R288, R327). -/
def State.failLane (s : State) (l : LinkId) : State :=
  let k := s.link l
  if k.retired then s
  else if !k.spareUsed then
    ((s.modLink l fun x => { x with spareUsed := true, training := true }).setAlm (linkUnit l) fun a => { a with spare := a.spare - 1 }).sched (s.clock + 26000) (.linkRetrainComplete l)
  else if !k.half then (s.modLink l fun x => { x with half := true }).setUnit (linkUnit l) 3 7
  else match l with
    | .port p => ((s.modLink l fun x => { x with retired := true }).setUnit (linkUnit l) 2 7).reroute p
    | .bridge _ => s
def execLaneSpare (l : LinkId) (s : State) : Host.Outcome State Fault Refusal := .next (if s.power then s.failLane l else s)
def execLinkRetrainComplete (l : LinkId) (s : State) : Host.Outcome State Fault Refusal :=
  .next (if (s.link l).training then s.modLink l fun x => { x with training := false } else s)

/-! Power (R335, R349, R350). -/

/-- Only flash survives; the messages that were sent are sent, and the model's free values and the session nonces go on. -/
def State.dark (s : State) : State :=
  { State.reset with power := false, flash := { s.flash with dayBase := s.day }, mgmtOk := [], agenda := [], inbox := s.inbox, outbox := s.outbox, free := s.free, nextSession := s.nextSession }
def execPowerLoss (s : State) : Host.Outcome State Fault Refusal := .next s.dark
/-- Links as the almanac records them. -/
def almLinks (s : State) : List Link :=
  (((List.range 16).map LinkId.port) ++ (List.range 4).map LinkId.bridge).filterMap fun l =>
    let a := s.alm (linkUnit l)
    if a.spare = 0 || a.state ≠ 0 then some { id := l, spareUsed := a.spare = 0, half := a.state = 3, retired := a.state = 2 } else none
/-- Step 4: what the almanac already says is applied to the units whose retirement a power loss cut off: the cores and slices of a retired
quadrant, and slices with a set of fewer than two ways (R325, R329, R350; DEDUCED, log 53). Nothing runs on them and their pages are zeroed. -/
def State.applyAlmanac (s : State) : State :=
  let gone (s : State) (u : UnitId) (cause : Nat) : State := if (s.alm u).state = 2 then s else s.setUnit u 2 cause
  Config.allCoords.foldl (fun s c =>
    if (s.alm (.quadrant (Config.coordDie c) (quadrantOf c))).state = 2 then gone (gone s (.core c) 9) (.slice c) 9
    else if s.fewWays c then gone s (.slice c) 6 else s) s
/-- Step 6: every offered core's ember pass; one that fails is reported, with the pattern group that found it, and retired. -/
def State.bringUpPasses (s : State) (fails : List Nat) : State :=
  (Config.allCoords.filter fun c => s.offered c).foldl (fun (s : State) c =>
    if fails.contains (256 + c) then
      let k := s.drawByte
      (k.2.report c (k.1.toNat % 5) 0 []).setUnit (.core c) 2 2
    else s.setAlm (.core c) fun a => { a with passes := (a.passes + 1) % 2 ^ 32 }) s
/-- What flash names goes on: the re-plan at its own period, and re-encodings that power loss cut off (R316, R322). -/
def State.resume (s : State) : State :=
  let s : State := { s with agenda := s.agenda.map fun x => if x.2 == .replan then (s.clock + s.flash.replanDays * Config.ccPerDay, x.2) else x }
  (s.flash.alm.filter fun x => x.2.ecc = 2).foldl (fun s x => s.after 1 (.eccReencode x.1)) s
/-- Bring-up (R350): `fails` names a failed step 1 to 8, 16 + d a management core that fails its self-test, 256 + c an offered
core that fails its pass. The first step that fails is recorded and leaves the package dark; what the steps before it wrote to flash stands. -/
def execPowerOn (fails : List Nat) (s : State) : Host.Outcome State Fault Refusal :=
  .next <|
    if s.power then s
    else
      let ok := (List.range 4).filter fun d => !fails.contains (16 + d)
      let up : State := { State.reset with flash := s.flash, leader := ok.headD 0, mgmtOk := ok, inbox := s.inbox, outbox := s.outbox, free := s.free, nextSession := s.nextSession }
      let record (n : Nat) (f : Flash) : Flash := { f with failures := f.failures ++ [n] }
      match (List.range 9).find? fun n => 1 ≤ n && (fails.contains n || (n = 2 && ok.isEmpty)) with
      | some n =>
        let s6 := up.applyAlmanac.bringUpPasses fails
        if n ≤ 4 then { s with flash := record n s.flash }
        else if n ≤ 6 then { s with flash := record n up.applyAlmanac.flash }
        else { s with flash := record n s6.flash, free := s6.free }
      | none =>
        let s6 := up.applyAlmanac.bringUpPasses fails
        { s6 with links := almLinks s6 }.resume

/-! Heat (R349). -/

/-- The row of a DRAM layer's or a junction's temperature, counted from the top of R349's table. -/
def thermalRow (layer : Option Nat) (temp : Int) : Nat :=
  let at_ (a b c : Int) : Nat := if temp ≤ a then 0 else if temp ≤ b then 1 else if temp ≤ c then 2 else 3
  if layer.isSome then at_ 85 95 105 else at_ 100 110 120
/-- A die's issue rate changes: passes that run there are counted up to now, and end at the new rate (R349). -/
def State.setIssueRow (s : State) (die row : Nat) : State :=
  let on (c : Core) : Bool := Config.coordDie c.coord == die && c.testing
  let s : State := { s with cores := s.cores.map fun (c : Core) => if on c then { c with passLeft := s.passNow c.coord, passMark := s.clock } else c }
  let s : State := { s with issueRow := spPut 0 s.issueRow die row }
  { s with agenda := s.agenda.map fun x => match x.2 with
    | .emberPassEnd c _ => if on (s.core c) then (s.clock + s.passCc c, x.2) else x
    | _ => x }
/-- A DRAM layer or, whatever layer is given, the hottest junction of a die has reached a temperature: a change of its row is recorded, told
to the host, and acted on. -/
def execThermalRowChange (die : Nat) (junction : Bool) (layer : Nat) (temp : Int) (s : State) : Host.Outcome State Fault Refusal :=
  .next <|
    let layer := if junction then none else some layer
    let row := thermalRow layer temp
    let old := match layer with
      | some l => spGet 0 s.refreshRow (8 * die + l)
      | none => spGet 0 s.issueRow die
    if !s.power || 4 ≤ die || (layer.any fun l => decide (8 ≤ l)) || row = old then s
    else
      let s := { s with flash := { s.flash with thermal := s.flash.thermal ++ [(die, layer.getD 8, row)] } }
      let s := match layer with
        | some l => { s with refreshRow := spPut 0 s.refreshRow (8 * die + l) row }
        | none => s.setIssueRow die row
      let s := s.notifyAll 0xC007 (bytesOfNat 4 4 ++ bytesOfNat 1 die ++ bytesOfNat 1 (if layer.isSome then 0 else 1) ++ bytesOfNat 1 (layer.getD 0) ++ bytesOfNat 1 row ++
        bytesOfNat 2 (temp % 65536).toNat ++ bytesOfNat 6 0)
      if row = 3 then s.dark
      else if layer.isNone then
        (if 2 ≤ row then (Config.dieCoords die).foldl (fun s c => s.pushOut c) s else ((Config.dieCoords die).foldl (fun s c => s.stay c) s).kick)
      else s
/-- Of the messages held for one context of a principal the last 4096 (R334). -/
def capHeld (l : List Msg) : List Msg := l.foldr (fun m acc => if (acc.filter m.with).length < 4096 then m :: acc else acc) []
/-- A new leader goes on from the replicated state: sessions close, unsent and late messages are held (R335). -/
def execLeaderTakeover (s : State) : Host.Outcome State Fault Refusal :=
  .next <|
    match (s.mgmtOk.filter fun d => d != s.leader).head? with
    | none => s
    | some d =>
      let late := (s.outbox.filter fun m => 0xC000 ≤ m.code && s.clock ≤ m.at_ + Config.ccPerSec).map fun (m : Msg) => { m with session := none }
      { s with leader := d, mgmtOk := s.mgmtOk.filter fun x => x != s.leader, sessions := [], heldMsgs := capHeld (late ++ s.heldMsgs), replayable := s.replies, era := s.nextSession }

end Sys2Proof.Machine
end

