-- ==== Sys2Proof/Machine/Sched.lean ====
section
/-! DEFINITION. ISSUE_SELECT (R24, R35, R222, R228, R349, R351, R321) and the ends of ageing, pauses and deferral (R28, R31, R35). -/
namespace Sys2Proof.Machine

/-- The groups of a quarter on a core. -/
def State.quarterGroups (s : State) (coord q : Nat) : List (Team × Group) :=
  (s.resident coord).flatMap fun t => (t.groups.filter fun g => g.quarter == q && g.phase != .exited && g.phase != .evicted).map fun g => (t, g)
/-- Narrowing that is due, and teams that may leave (R231 to R233). -/
def State.lookEvict (s : State) (coord q : Nat) : State :=
  if q ≠ 0 then s
  else (s.resident coord).foldl (fun s t =>
    let e : Instr := .teamLeave t.id
    if s.leaving t && t.groups.all (fun g => g.phase == .evicted || g.phase == .exited) && t.groups.any (fun g => g.phase == .evicted) && !s.agenda.any fun a => a.2 == e
    then s.sched s.clock e else s) (s.checkPark coord)
/-- A group that is to be evicted, once everything else of the cc has happened (R231, R244). -/
def State.evictDue (s : State) : Option GRef :=
  s.teams.findSome? fun t => (t.groups.find? fun g => s.wantsEvict t g).map fun g => ⟨t.id, g.slot⟩
/-- A group whose WAITGE's deadline has passed, once every write of the cc has been made (R209, R244). -/
def State.deadlineDue (s : State) : Option GRef :=
  s.teams.findSome? fun t => (t.groups.find? fun g => match g.wake with
    | some (.counter _ _ _ _ (some d)) => decide (d ≤ s.ctxClock t.ctx)
    | _ => false).map fun g => ⟨t.id, g.slot⟩
/-- The key of R228. -/
def issueKey (s : State) (t : Team) (g : Group) : List Nat :=
  [if g.promoted then 0 else 1, if s.paused t g then 1 else 0, classRank g.role, if g.yieldPending then 1 else 0, g.lastIssue, t.order, g.slot]
/-- The first candidate of a quarter in the order of R228. -/
def State.choose (s : State) (coord q : Nat) : Option (Team × Group) :=
  ((s.quarterGroups coord q).filter fun x => s.candidate x.1 x.2).foldl (fun (b : Option (Team × Group)) x =>
    match b with
    | none => some x
    | some y => if lexLe (issueKey s y.1 y.2) (issueKey s x.1 x.2) then some y else some x) none
/-- The number of an address breakpoint that fires (R222). -/
def State.breakAt (s : State) (t : Team) (g : Group) : Option Nat :=
  match (s.ctx? t.ctx).bind fun c => c.debug with
  | some d => (d.bps.find? fun b => b.2 = s.codeBase t + g.issuePc && !g.skipBp.contains b.1).map fun b => b.1
  | none => none
/-- No candidate: once in 64 such cc a known-answer word may issue (R321). -/
def State.idleIssue (s : State) (coord q : Nat) (kaMiss : Bool) : State :=
  let s := s.modCore coord fun c => { c with idle := modNth c.idle q fun n => n + 1 }
  if ((s.core coord).idle.getD q 0) % 64 ≠ 0 then s
  else
    let s := { s with free := s.free + 1 }
    if kaMiss then s.knownMiss coord else s
/-- The second half of a 64-wide word goes next; until it has issued the quarter issues nothing else (R351). -/
def State.issueSecond (s : State) (t : Team) (g : Group) (x : Second) : State :=
  if (g.phase == .ready || (g.phase == .stalled && g.stalledAt < s.clock)) && !s.frozen t.ctx then
    { s with cur := some { g := ⟨t.id, g.slot⟩, pc := x.pc, exec := x.exec, half := 1, t0 := x.t0, len := x.len, raw := x.raw, latch := some x.latch, fetched := true } }
  else s
def execIssueSelect (coord q : Nat) (kaMiss : Bool) (s : State) : Host.Outcome State Fault Refusal :=
  .next <|
    if !Config.coordOk coord || 4 ≤ q || s.cur.isSome then s
    else
      let s := s.lookEvict coord q
      if s.clock < (s.core coord).busyTo.getD q 0 then s
      else
        match ((s.quarterGroups coord q).filter fun x => !s.frozen x.1.ctx).findSome? fun x => x.2.second.map fun y => (x.1, x.2, y) with
        | some x => s.issueSecond x.1 x.2.1 x.2.2
        | none =>
          -- a throttled quarter issues in every second cc
          if spGet 0 s.issueRow (Config.coordDie coord) ≠ 0 && s.clock % 2 = 1 then s
          else
            match s.choose coord q with
            | none => s.idleIssue coord q kaMiss
            | some (t, g) =>
              let r : GRef := ⟨t.id, g.slot⟩
              -- this is an issue opportunity: with every lane deferred the deferral ends (R28)
              let s := s.modGroup r Group.endDefer
              match s.breakAt t g with
              | some n => { (s.haltGroup r 1 n).modGroup r fun y => { y with skipBp := n :: y.skipBp } with todo := (coord, q) :: s.todo }
              | none => { s with cur := some { g := r, pc := g.issuePc, exec := g.execSet, half := 0, t0 := s.clock, len := 0, raw := [], latch := none } }

def execAgePromotion (g : GRef) (s : State) : Host.Outcome State Fault Refusal :=
  .next (s.modGroup g fun y => if 64 ≤ y.age then { y with promoted := true } else y)
def execPauseEnd (g : GRef) (s : State) : Host.Outcome State Fault Refusal :=
  .next <|
    match s.team? g.team with
    | some t => s.modGroup g fun y => if y.pausedTo ≤ s.ctxClock t.ctx then { y with pausedTo := 0 } else y
    | none => s
/-- Deferral of a lane is over when its count has run out, or when every live lane is deferred (R28). -/
def execDeferEnd (g : GRef) (lane : Nat) (s : State) : Host.Outcome State Fault Refusal :=
  .next (s.modGroup g fun y => if y.live.getLsbD lane then y.endDefer else y)

end Sys2Proof.Machine
end

