-- ==== Sys2Proof/Machine/Sha256.lean ====
section
/-! DEFINITION. HMAC-SHA-256, with which AUTH answers a nonce (R334). PRESUMED (log 56): R334 only names the function; it is taken from its
standards, FIPS 180-4 and FIPS 198-1. -/
namespace Sys2Proof.Machine

/-- The round constants: the first 32 bits of the fractional parts of the cube roots of the first 64 primes. -/
def shaK : List W32 :=
  [0x428A2F98, 0x71374491, 0xB5C0FBCF, 0xE9B5DBA5, 0x3956C25B, 0x59F111F1, 0x923F82A4, 0xAB1C5ED5,
   0xD807AA98, 0x12835B01, 0x243185BE, 0x550C7DC3, 0x72BE5D74, 0x80DEB1FE, 0x9BDC06A7, 0xC19BF174,
   0xE49B69C1, 0xEFBE4786, 0x0FC19DC6, 0x240CA1CC, 0x2DE92C6F, 0x4A7484AA, 0x5CB0A9DC, 0x76F988DA,
   0x983E5152, 0xA831C66D, 0xB00327C8, 0xBF597FC7, 0xC6E00BF3, 0xD5A79147, 0x06CA6351, 0x14292967] ++
  [0x27B70A85, 0x2E1B2138, 0x4D2C6DFC, 0x53380D13, 0x650A7354, 0x766A0ABB, 0x81C2C92E, 0x92722C85,
   0xA2BFE8A1, 0xA81A664B, 0xC24B8B70, 0xC76C51A3, 0xD192E819, 0xD6990624, 0xF40E3585, 0x106AA070,
   0x19A4C116, 0x1E376C08, 0x2748774C, 0x34B0BCB5, 0x391C0CB3, 0x4ED8AA4A, 0x5B9CCA4F, 0x682E6FF3,
   0x748F82EE, 0x78A5636F, 0x84C87814, 0x8CC70208, 0x90BEFFFA, 0xA4506CEB, 0xBEF9A3F7, 0xC67178F2]
/-- The first hash value: of the square roots of the first 8 primes. -/
def shaInit : List W32 :=
  [0x6A09E667, 0xBB67AE85, 0x3C6EF372, 0xA54FF53A, 0x510E527F, 0x9B05688C, 0x1F83D9AB, 0x5BE0CD19]
/-- A block's 16 words, each from its most significant byte. -/
def shaWords (b : List Byte) : List W32 :=
  (List.range 16).map fun i => (List.range 4).foldl (fun x j => x * 256 + (b.getD (4 * i + j) 0).setWidth 32) 0
/-- One round over the working variables and the next 16 words of the message schedule. -/
def shaRound (x : List W32 × List W32) (k : W32) : List W32 × List W32 :=
  let v (i : Nat) : W32 := x.1.getD i 0
  let w (i : Nat) : W32 := x.2.getD i 0
  let ch := (v 4 &&& v 5) ^^^ (~~~ v 4 &&& v 6)
  let maj := (v 0 &&& v 1) ^^^ (v 0 &&& v 2) ^^^ (v 1 &&& v 2)
  let t1 := v 7 + ((v 4).rotateRight 6 ^^^ (v 4).rotateRight 11 ^^^ (v 4).rotateRight 25) + ch + k + w 0
  let t2 := ((v 0).rotateRight 2 ^^^ (v 0).rotateRight 13 ^^^ (v 0).rotateRight 22) + maj
  let next := ((w 14).rotateRight 17 ^^^ (w 14).rotateRight 19 ^^^ (w 14 >>> 10)) + w 9 + ((w 1).rotateRight 7 ^^^ (w 1).rotateRight 18 ^^^ (w 1 >>> 3)) + w 0
  ([t1 + t2, v 0, v 1, v 2, v 3 + t1, v 4, v 5, v 6], x.2.drop 1 ++ [next])
def shaBlock (h : List W32) (b : List Byte) : List W32 := h.zipWith (· + ·) (shaK.foldl shaRound (h, shaWords b)).1
/-- Bytes of a number, the most significant first. -/
def bytesBe : Nat → Nat → List Byte
  | 0, _ => []
  | n + 1, x => BitVec.ofNat 8 (x / 256 ^ n) :: bytesBe n x
/-- The message with its padding: a 1 bit, zeros, its length in bits. -/
def shaPad (m : List Byte) : List Byte := m ++ [0x80] ++ List.replicate ((119 - m.length % 64) % 64) 0 ++ bytesBe 8 (8 * m.length)
def shaBlocks : Nat → List W32 → List Byte → List W32
  | 0, h, _ => h
  | n + 1, h, m => shaBlocks n (shaBlock h (m.take 64)) (m.drop 64)
def sha256 (m : List Byte) : List Byte :=
  let p := shaPad m
  (shaBlocks (p.length / 64) shaInit p).flatMap fun x => bytesBe 4 x.toNat
/-- HMAC: a key longer than a block is hashed first. -/
def hmacSha256 (key m : List Byte) : List Byte :=
  let k := if 64 < key.length then sha256 key else key
  let pad (c : Byte) : List Byte := (k ++ List.replicate (64 - k.length) 0).map fun b => b ^^^ c
  sha256 (pad 0x5C ++ sha256 (pad 0x36 ++ m))

end Sys2Proof.Machine
end

