-- ==== Sys2Proof/Machine/CmdMemory.lean ====
section
/-! DEFINITION. Commands (R333 to R339, R355): sessions, contexts, mappings, memory and keys. -/
namespace Sys2Proof.Machine

/-! What every command meets. -/

/-- The header is well formed and names a command (R333). -/
def Config.hdrOk (h : Hdr) : Bool := h.len % 8 = 0 && 24 ≤ h.len && h.len ≤ 1048576 + 4096 && h.form ≤ 1 && h.zeros = 0 && (h.ctx < 256 || h.ctx = 0xFFFF) && h.unknown.isNone
def State.session? (s : State) (n : Nat) : Option Session := s.sessions.find? fun x => x.id == n
/-- A command is not over that the host has sent before, in a session that a take-over has closed (R335). -/
def State.isPending (s : State) (p : Nat) (h : Hdr) (code : Nat) (x : Hdr × Nat) : Bool :=
  x.2 == code && x.1.tag == h.tag && x.1.principal == some p && x.1.session < s.era
def State.pendingCmds (s : State) : List (Hdr × Nat) :=
  (s.contexts.filterMap fun c => c.dying.map fun x => (x, 0x0011)) ++ (s.shoots.filterMap fun x => x.reply) ++ s.retiring.map fun x => (x.1, 0x0071)
/-- Its reply goes to the session in which the host sent it again. -/
def State.adopt (s : State) (p : Nat) (h : Hdr) (code : Nat) : State :=
  let again (x : Hdr × Nat) : Hdr := if s.isPending p h code x then { x.1 with session := h.session } else x.1
  { s with
    contexts := s.contexts.map fun c => { c with dying := c.dying.map fun x => again (x, 0x0011) }
    shoots := s.shoots.map fun y => { y with reply := y.reply.map fun x => (again x, x.2) }
    retiring := s.retiring.map fun x => (again (x.1, 0x0071), x.2) }
/-- A command as it is kept until it is over. -/
def Hdr.of (h : Hdr) (p : Nat) : Hdr := { h with principal := some p }
/-- A command of an authenticated session; one that an earlier leader has done is answered from the record (R333 to R335). -/
def State.command (s : State) (h : Hdr) (code : Nat) (f : Nat → State) : State :=
  if !s.power then s
  else
    match s.session? h.session with
    | none => s
    | some x =>
      if !Config.hdrOk h then s.reply h code 1 []
      else
        match x.principal with
        | none => s.reply h code 2 []
        | some p =>
          match s.replayable.find? fun r => r.1 == p && r.2.1 == h.tag && r.2.2.code == replyCode h code with
          | some r => { s with outbox := s.outbox ++ [{ r.2.2 with session := some h.session, at_ := s.clock }] }
          | none => if s.pendingCmds.any (s.isPending p h code) then s.adopt p h code else f p
/-- A command on a context of the principal (R334). -/
def State.ctxCommand (s : State) (h : Hdr) (code : Nat) (f : Ctx → State) : State :=
  s.command h code fun p =>
    match s.ctx? h.ctx with
    | none => s.reply h code 3 []
    | some c => if c.principal ≠ p then s.reply h code 2 [] else f c

/-! Sessions (R334, R346). -/

def State.livePort (s : State) (n : Nat) : Bool := n < 16 && !(s.link (.port n)).retired
/-- OPEN is answered on its port with a nonce; at most 64 sessions. -/
def execOpenS (h : Hdr) (port : Nat) (s : State) : Host.Outcome State Fault Refusal :=
  .next <|
    let answer (s : State) (sess : Option Nat) (body : List Byte) : State :=
      { s with outbox := s.outbox ++ [{ code := replyCode h 1, form := h.form, session := sess, ctx := h.ctx, tag := h.tag, body := pad8 body, at_ := s.clock }] }
    if !s.power || !s.livePort port then s
    else if !Config.hdrOk h then answer s none (bytesOfNat 4 1)
    else if 64 ≤ s.sessions.length then answer s none (bytesOfNat 4 4)
    else
      let n := Config.nonce s.nextSession
      answer { s with sessions := s.sessions ++ [⟨s.nextSession, port, n, none⟩], nextSession := s.nextSession + 1 } (some s.nextSession) (bytesOfNat 4 0 ++ n)
/-- Held messages of a principal's contexts are delivered in order; principal 0 gets those of every session (R334, R337). -/
def State.deliver (s : State) (sess p : Nat) : State :=
  let mine (m : Msg) : Bool := m.principal == some p || (m.principal.isNone && m.ctx = 0xFFFF && p = 0)
  { s with outbox := s.outbox ++ (s.heldMsgs.filter mine).map (fun (m : Msg) => { m with session := some sess, at_ := s.clock }), heldMsgs := s.heldMsgs.filter fun m => !mine m }
/-- AUTH (R334): the expert form of principal 0 sets a principal's key. -/
def execAuthS (h : Hdr) (principal : Nat) (mac : List Byte) (newKey : Option (Nat × List Byte)) (s : State) : Host.Outcome State Fault Refusal :=
  .next <|
    match s.session? h.session with
    | none => s
    | some x =>
      if !s.power then s
      else if !Config.hdrOk h || 16 ≤ principal || (newKey.isSome && h.form = 0) || (match newKey with
        | some k => decide (16 ≤ k.1)
        | none => false) then s.reply h 2 1 []
      else if mac ≠ hmacSha256 (spGet [] s.flash.keys principal) x.nonce || (newKey.isSome && principal ≠ 0) then s.reply h 2 2 []
      else
        let s := { s with sessions := s.sessions.map fun (y : Session) => if y.id = x.id then { y with principal := some principal } else y }
        let s := match newKey with
          | some k => { s with flash := { s.flash with keys := spPut [] s.flash.keys k.1 k.2 } }
          | none => s
        (s.reply h 2 0 []).deliver x.id principal
def State.endSession (s : State) (n : Nat) : State := { s with sessions := s.sessions.filter fun y => y.id != n }
def execCloseS (h : Hdr) (s : State) : Host.Outcome State Fault Refusal :=
  .next <|
    match s.session? h.session with
    | none => s
    | some _ => if !s.power then s else if !Config.hdrOk h then s.reply h 3 1 [] else (s.reply h 3 0 []).endSession h.session
/-- The context runs on, its calls awaited and its messages held (R346). -/
def execSessionLoss (session : Nat) (s : State) : Host.Outcome State Fault Refusal := .next (s.endSession session)

/-! Contexts (R336, R346). -/

/-- Basic defaults (R336, R233). -/
def Config.basicCtx : CtxParams :=
  { urgent := false, ring := 1024, serviceTimeout := none, faultLimit := Config.ccPerSec, parkMax := Config.defaultParkMax, slice := Config.defaultSlice, pool := Config.freePool, hold := false, cancelOnFail := false }
/-- The root table takes 512 fresh frames (log 71). -/
def execCtxCreate (h : Hdr) (x : CtxParams) (s : State) : Host.Outcome State Fault Refusal :=
  .next <|
    s.command h 0x0010 fun p =>
      let q := if h.form = 0 then Config.basicCtx else x
      if q.ring < 64 || 65536 < q.ring then s.reply h 0x0010 1 []
      else
        match (List.range 256).find? fun n => (s.ctx? n).isNone with
        | none => s.reply h 0x0010 4 []
        | some n =>
          match s.takeAny (n % 4) 512 with
          | none => s.reply h 0x0010 4 []
          | some (f, s1) => { s1 with contexts := s1.contexts ++ [({ id := n, principal := p, p := q, root := f } : Ctx)] }.reply h 0x0010 0 (bytesOfNat 4 n)
/-- Running launches are cancelled, ended by force after 1 ms; the reply comes when every one has ended. -/
def execCtxDestroy (h : Hdr) (s : State) : Host.Outcome State Fault Refusal :=
  .next <|
    s.ctxCommand h 0x0011 fun c =>
      if c.dying.isSome then s.reply h 0x0011 7 []
      else
        let s := s.modCtx c.id fun y => { y with dying := some (Hdr.of h c.principal) }
        let s := (s.launches.filter fun l => l.ctx == c.id && !l.completed).foldl (fun s l => (s.cancelLaunch l).sched (s.clock + Config.ccPerMs) (.forcedEnd l.grid)) s
        s.endContext c.id

/-! Mappings (R241, R243, R338). -/

def meets (va len b n : Nat) : Bool := va < b + n && b < va + len
def State.overlaps (s : State) (c : Ctx) (va len : Nat) : Bool := (s.leaves c).any fun x => meets va len x.va x.bytes
/-- Fresh frames for each page and its leaves, under a context's root table; none when firmware lacks frames. -/
def State.mapPages (x : MapBody) (root : Nat) : Nat → Nat → State → Option State
  | 0, _, s => some s
  | n + 1, va, s =>
    let frames := x.page / 4096
    match (if x.home = 0xFF then s.takeAny (va / x.page % 4) frames else s.takeRun x.home frames) with
    | none => none
    | some (f, s1) =>
      let leaf (pfn : Nat) : W64 := mkLeaf x.rd x.wr x.code (x.page = 65536) false pfn x.key
      let put : Option State :=
        if x.page = 65536 then (List.range 16).foldl (fun y i => y.bind fun s => s.setLeaf root (va + 4096 * i) 0 (leaf (f + i))) (some s1)
        else s1.setLeaf root va (if x.page = 4096 then 0 else if x.page = 2097152 then 1 else 2) (leaf f)
      put.bind fun s2 => State.mapPages x root n (va + x.page) s2
/-- Faults that a new mapping answers are served by the command (R243). -/
def State.serveRange (s : State) (ctx va len : Nat) : State :=
  (s.faults.filter fun f => f.ctx == ctx && f.state = 0 && meets va len (f.va % 2 ^ 57) 1).foldl (fun s f => if s.mapped f then s.serveFault f else s) s
def mapBad (h : Hdr) (x : MapBody) : Bool :=
  !(x.page = 4096 || x.page = 65536 || x.page = 2097152 || x.page = 1073741824) || x.len % x.page ≠ 0 || x.va % x.page ≠ 0 || x.len = 0 || !canonical x.va ||
  !canonical (x.va + x.len - 1) || !(x.home < 4 || x.home = 0xFF) || 8191 < x.key || (x.remap && h.form = 0)
def execMapVa (h : Hdr) (x : MapBody) (s : State) : Host.Outcome State Fault Refusal :=
  .next <|
    s.ctxCommand h 0x0020 fun c =>
      let va := x.va % 2 ^ 57
      let k := spGet {} s.keys x.key
      let old := s.overlaps c va x.len
      if mapBad h x then s.reply h 0x0020 1 []
      else if x.key ≠ 0 && !(k.used && k.owner = c.id) then s.reply h 0x0020 2 []
      else if old && !x.remap then s.reply h 0x0020 7 []
      else
        match (if old then s.dropRange c va x.len else some (s, [])).bind fun d => (State.mapPages x c.root (x.len / x.page) va d.1).map fun y => (y, d.2) with
        | none => s.reply h 0x0020 4 []
        | some (s1, gone) =>
          let s1 := s1.serveRange c.id va x.len
          if old then s1.shoot c.id va x.len (some (Hdr.of h c.principal, 0x0020)) gone none else s1.reply h 0x0020 0 []
/-- A large leaf that stands out of the range is split first; firmware without a frame for the table refuses. -/
def execUnmap (h : Hdr) (va len : Nat) (s : State) : Host.Outcome State Fault Refusal :=
  .next <|
    s.ctxCommand h 0x0021 fun c =>
      let a := va % 2 ^ 57
      if va % 4096 ≠ 0 || len % 4096 ≠ 0 || len = 0 || !canonical va || !canonical (va + len - 1) then s.reply h 0x0021 1 []
      else if !s.overlaps c a len then s.reply h 0x0021 3 []
      else
        match s.dropRange c a len with
        | none => s.reply h 0x0021 4 []
        | some (s1, gone) => s1.shoot c.id a len (some (Hdr.of h c.principal, 0x0021)) gone none
/-- Every page of a range is mapped with what is asked of its leaf. -/
def State.mappedAll (s : State) (ctx va n : Nat) (f : W64 → Bool) : Bool :=
  n = 0 || (List.range ((va + n - 1) / 4096 + 1 - va / 4096)).all fun j => match s.walkCtx ctx ((va / 4096 + j) * 4096) with
    | .ok x => f x.leaf
    | _ => false
/-- Bytes written page by page through a context's mapping. -/
def State.ctxPut : Nat → State → Nat → Nat → List Byte → State
  | 0, s, _, _, _ => s
  | n + 1, s, ctx, va, b =>
    let k := 4096 - va % 4096
    let s := match s.walkCtx ctx va with
      | .ok x => s.writePa x.pa (b.take k)
      | _ => s
    if b.length ≤ k then s else State.ctxPut n s ctx (va + k) (b.drop k)
def State.ctxStore (s : State) (ctx va : Nat) (b : List Byte) : State := State.ctxPut (b.length / 4096 + 2) s ctx va b
/-- Host accesses are made at points of coherence, through the mapping alone (R198, R336). -/
def execMemRead (h : Hdr) (va len : Nat) (s : State) : Host.Outcome State Fault Refusal :=
  .next <|
    s.ctxCommand h 0x0022 fun c =>
      if 1048576 < len || !canonical va || !canonical (va + len - 1) then s.reply h 0x0022 1 []
      else if !s.mappedAll c.id va len fun _ => true then s.reply h 0x0022 3 []
      else s.reply h 0x0022 0 (s.ctxBytes c.id va len)
def execMemWrite (h : Hdr) (va : Nat) (bytes : List Byte) (s : State) : Host.Outcome State Fault Refusal :=
  .next <|
    s.ctxCommand h 0x0023 fun c =>
      if 1048576 < bytes.length || !canonical va || !canonical (va + bytes.length - 1) then s.reply h 0x0023 1 []
      else if !s.mappedAll c.id va bytes.length fun _ => true then s.reply h 0x0023 3 []
      else (s.ctxStore c.id va bytes).reply h 0x0023 0 []

/-! Keys (R339). -/

def State.namesKey (s : State) (c : Ctx) (slot : Nat) : Bool := (s.leaves c).any fun x => pteKey x.w = slot
def execKeySet (h : Hdr) (slot : Nat) (material : List Byte) (s : State) : Host.Outcome State Fault Refusal :=
  .next <|
    s.ctxCommand h 0x0024 fun c =>
      let k := spGet {} s.keys slot
      if slot = 0 || 8191 < slot || material.length ≠ 64 then s.reply h 0x0024 1 []
      else if k.used && (k.owner ≠ c.id || s.namesKey c slot) then s.reply h 0x0024 7 []
      else { s with keys := spPut {} s.keys slot { owner := c.id, used := true, material := material } }.reply h 0x0024 0 []
def execKeyClear (h : Hdr) (slot : Nat) (s : State) : Host.Outcome State Fault Refusal :=
  .next <|
    s.ctxCommand h 0x0025 fun c =>
      let k := spGet {} s.keys slot
      if slot = 0 || 8191 < slot then s.reply h 0x0025 1 []
      else if !k.used then s.reply h 0x0025 3 []
      else if s.contexts.any fun x => s.namesKey x slot then s.reply h 0x0025 7 []
      else if k.owner ≠ c.id then s.reply h 0x0025 2 []
      else { s with keys := spPut {} s.keys slot {} }.reply h 0x0025 0 []

end Sys2Proof.Machine
end

