-- ==== Sys2Proof/Machine/CmdLaunch.lean ====
section
/-! DEFINITION. Commands (R340 to R342, R355): images, launches and their cancellation. -/
namespace Sys2Proof.Machine

/-! Images (R69, R74, R340). -/

def parseKern (b : List Byte) : Kern :=
  { entry := le2 b 0 4, width := le2 b 4 1, regs := le2 b 5 1, groups := le2 b 6 1, spawnSlots := le2 b 7 1, teamBytes := le2 b 8 4, cw := le2 b 12 1, ch := le2 b 13 1,
    flags := le2 b 14 1, rings := le2 b 15 1, roles := le2 b 16 8, qcap := (List.range 4).map fun q => le2 b (24 + 4 * q) 4,
    stages := (List.range 8).map fun r => le2 b (40 + r) 1, target := (List.range 8).map fun r => le2 b (48 + 4 * r) 4 }
/-- The limits of R67 on an entry, with its zero bytes. DESIGN CHOICE (log 97): a ring's TARGET outside the 1 to 2^31 of R266 is not refused,
and is used as it stands. -/
def kernOk (b : List Byte) : Bool :=
  let k := parseKern b
  (k.width = 16 || k.width = 32 || k.width = 64) && k.regs % 8 = 0 && 8 ≤ k.regs && k.regs ≤ 248 && 1 ≤ k.groups && k.groups ≤ 32 &&
  k.spawnSlots ≤ 31 && k.groups + k.spawnSlots ≤ 32 && k.teamBytes % 128 = 0 && k.teamBytes ≤ 518144 && 1 ≤ k.cw && k.cw ≤ 8 && 1 ≤ k.ch && k.ch ≤ 6 &&
  k.cw * k.ch ≤ 12 && k.flags < 8 && (k.flags / 4 = 0 || 1 ≤ k.spawnSlots) &&
  k.qcap.all (fun c => c = 0 || (c % 32 = 0 && c ≤ 65536)) &&
  (List.range 8).all (fun r => k.stages.getD r 0 ≤ 16 && (k.rings / 2 ^ r % 2 = 1) == decide (k.stages.getD r 0 ≠ 0)) &&
  (List.range 32).all (fun g => if g < k.groups then k.role g ≤ 2 else k.role g = 0) && ((b.drop 80).take 48).all fun x => x == 0
def Image.table (im : Image) : List Byte := (im.got.drop (align8 im.body.codeSize + align8 im.body.dataSize)).take im.body.kSize
def Image.relocBytes (im : Image) : List Byte := im.got.drop (align8 im.body.codeSize + align8 im.body.dataSize + align8 im.body.kSize)
def imageSize (x : ImgBody) : Nat := align8 x.codeSize + align8 x.dataSize + align8 x.kSize + 8 * x.rCount
def chunksOf (n : Nat) : Nat → List Byte → List (List Byte)
  | 0, _ => []
  | k + 1, b => b.take n :: chunksOf n k (b.drop n)
/-- Offsets at which instructions start (R83). -/
def instrStarts : Nat → Nat → List Byte → List Nat
  | 0, _, _ => []
  | n + 1, o, b =>
    match b with
    | [] => []
    | x :: _ => let l := 4 * kindParcels x.toNat; o :: instrStarts n (o + l) (b.drop l)
/-- The image with its table and relocations read, or none when a check of R340 or R69 fails. DESIGN CHOICE (log 81): so it does when a byte
that a layout of R69 or R74 calls zero is not, a class or segment byte is beyond the values they give, or KSIZE is not the length of the
kernel table that its header gives. -/
def Image.checked (im : Image) : Option Image :=
  let t := im.table
  let n := le2 t 0 4
  let r := le2 t 4 4
  let ks := chunksOf 192 n (t.drop 16)
  let rs := chunksOf 8 r (t.drop (16 + 192 * n))
  let rel := (chunksOf 8 im.body.rCount im.relocBytes)
  let starts := instrStarts (im.body.codeSize / 4 + 1) 0 im.code
  if t.length ≠ 16 + 192 * n + 8 * r || ((t.drop 8).take 8).any (fun x => x != 0) || !ks.all kernOk || ks.any (fun b => !starts.contains (le2 b 0 4)) ||
     rs.any (fun b => 2 < le2 b 4 1 || le2 b 5 3 ≠ 0) || rel.any (fun b => 1 < le2 b 4 1 || le2 b 5 3 ≠ 0 || (if le2 b 4 1 = 0 then im.body.codeSize else im.body.dataSize) ≤ le2 b 0 4) then none
  else some { im with final := true, kerns := ks.map parseKern, roles := rs.map fun b => (le2 b 0 4, le2 b 4 1), relocs := rel.map fun b => (le2 b 0 4, le2 b 4 1) }
/-- The last message: the whole image is checked, then code and data are written (R340). -/
def State.finishImage (s : State) (h : Hdr) (im : Image) : State :=
  match im.checked with
  | none => { s with images := s.images.filter fun y => y.num != im.num }.reply h 0x0030 6 []
  | some x =>
    let s := { s with images := s.images.map fun (y : Image) => if y.num = im.num then x else y }
    ((s.ctxStore im.ctx im.body.codeBase im.code).ctxStore im.ctx im.body.dataVa im.data).reply h 0x0030 0 (bytesOfNat 4 im.num)
/-- A message's bytes join the stream. -/
def State.addPart (s : State) (h : Hdr) (im : Image) (x : ImgBody) : State :=
  let im' := { im with got := im.got ++ x.bytes }
  if x.final && im'.got.length ≠ imageSize im.body then s.reply h 0x0030 1 []
  else
    let s := { s with images := s.images.map fun (y : Image) => if y.num = im.num then im' else y }
    if x.final then s.finishImage h im' else s.reply h 0x0030 0 (bytesOfNat 4 im.num)
def execImgLoad (h : Hdr) (x : ImgBody) (s : State) : Host.Outcome State Fault Refusal :=
  .next <|
    s.ctxCommand h 0x0030 fun c =>
      let bad := s.reply h 0x0030 1 []
      if 1048576 < x.bytes.length then bad
      else if x.image = 0 then
        if x.offset ≠ 0 || imageSize x < x.bytes.length || (x.final && x.bytes.length ≠ imageSize x) then bad
        else if !canonical x.codeBase || !canonical x.dataVa || !s.mappedAll c.id x.codeBase x.codeSize pteCode ||
                !s.mappedAll c.id x.dataVa x.dataSize fun l => pteRd l && pteWr l then s.reply h 0x0030 6 []
        else
          let im : Image := { num := s.nextImage, ctx := c.id, body := { x with bytes := [] } }
          { s with images := s.images ++ [im], nextImage := s.nextImage + 1 }.addPart h im x
      else
        match s.image? x.image with
        | none => s.reply h 0x0030 3 []
        | some im =>
          if im.ctx ≠ c.id then s.reply h 0x0030 3 []
          else if im.final || x.offset ≠ im.got.length || imageSize im.body < im.got.length + x.bytes.length ||
                  x.codeBase ≠ 0 || x.dataVa ≠ 0 || x.codeSize ≠ 0 || x.dataSize ≠ 0 || x.kSize ≠ 0 || x.rCount ≠ 0 then bad
          else s.addPart h im x
def execImgDrop (h : Hdr) (image : Nat) (s : State) : Host.Outcome State Fault Refusal :=
  .next <|
    s.ctxCommand h 0x0031 fun c =>
      match (s.image? image).filter fun im => im.ctx == c.id with
      | none => s.reply h 0x0031 3 []
      | some im =>
        if s.launches.any fun l => l.body.image == image && !l.completed then s.reply h 0x0031 7 []
        else ({ s with images := s.images.filter fun y => y.num != image }.freeFrames (im.copies.flatMap fun (x : Nat × List Nat) => x.2)).reply h 0x0031 0 []

/-! Launches (R341, R20, R46, R75, R271). -/

/-- A ring for every team of the launch: canonical, aligned, mapped. -/
def State.ringsOk (s : State) (ctx base cap teams : Nat) : Bool :=
  cap = 0 || (canonical base && base % 32 = 0 && canonical (base + 32 * cap * teams - 1) && s.mappedAll ctx base (32 * cap * teams) fun l => pteRd l && pteWr l)
/-- STATUS of the checks of R341 and R355, 0 when all pass. -/
def State.launchStatus (s : State) (c : Ctx) (x : LaunchBody) : Nat :=
  match (s.image? x.image).filter fun im => im.ctx == c.id && im.final with
  | none => 3
  | some im =>
    match im.kerns[x.kernel]? with
    | none => 3
    | some k =>
      let teams := x.clusters * k.cw * k.ch
      let recorded (r : Nat × Nat) : Nat := ((if r.2 = 0 then im.code else im.data).getD r.1 0).toNat
      if x.lanes = 0 || k.width * k.groups < x.lanes || x.clusters = 0 || 65536 < x.clusters || x.abuf % 2048 ≠ 0 || x.wbuf % 2048 ≠ 0 || x.cbuf % 2048 ≠ 0 then 1
      else if !(List.range 4).any fun d => s.shapeFits d k.cw k.ch then 5
      else if im.relocs.any (fun r => k.ch ≤ Config.coordRow (recorded r) || k.cw ≤ Config.coordCol (recorded r)) ||
              !(List.range 4).all (fun q => s.ringsOk c.id (x.qBase.getD q 0) (k.qcap.getD q 0) teams) || !s.ringsOk c.id x.srBase x.srCap teams ||
              1048576 < x.abuf || 2097152 < x.wbuf || 524288 < x.cbuf || 524288 < k.slots * k.width * k.regs * 4 || 2048 < k.slots * k.width ||
              (x.flags.getLsbD 1 && (x.clusters ≤ x.cteam || k.cw * k.ch ≤ x.cpos)) || (im.relocs.any (fun r => r.2 ≠ 0) && 1 < x.clusters) ||
              !(canonical x.args && canonical (x.args + 7) && s.mappedAll c.id x.args 8 fun l => pteRd l && pteWr l) then 6
      else if x.cgrp ≠ 0 && !s.treeFits c x.cgrp (maskRanks x.rbase x.memb.toNat) then 4
      else 0
/-- The launch is accepted: its clusters wait in the leader's list, its collective starts with its first team (R225, R341). -/
def State.acceptLaunch (s : State) (c : Ctx) (x : LaunchBody) : State :=
  match s.image? x.image with
  | none => s
  | some im =>
    let l : Launch := { grid := s.nextGrid, ctx := c.id, body := x, kern := im.kerns.getD x.kernel {}, waiting := x.clusters, principal := c.principal }
    let s := s.ctxStore c.id x.args (bytesOfNat 8 im.body.dataVa)
    let w := (List.range x.clusters).map fun i => ({ launch := l.grid, cluster := i, urgent := c.p.urgent } : WaitCl)
    let s := { s with launches := s.launches ++ [l], nextGrid := s.nextGrid + 1, leadList := s.leadList ++ w }
    s.sched (s.clock + 1) .clusterAssign
def execLaunch (h : Hdr) (x : LaunchBody) (s : State) : Host.Outcome State Fault Refusal :=
  .next <|
    s.ctxCommand h 0x0040 fun c =>
      if c.dying.isSome then s.reply h 0x0040 7 []
      else match s.launchStatus c x with
        | 0 => (s.acceptLaunch c x).reply h 0x0040 0 (bytesOfNat 8 s.nextGrid)
        | n => s.reply h 0x0040 n []
def execCancel (h : Hdr) (grid : Nat) (s : State) : Host.Outcome State Fault Refusal :=
  .next <|
    s.ctxCommand h 0x0041 fun c =>
      match (s.launch? grid).filter fun l => l.ctx == c.id with
      | none => s.reply h 0x0041 3 []
      | some l => if l.completed then s.reply h 0x0041 8 [] else (s.cancelLaunch l).reply h 0x0041 0 []

end Sys2Proof.Machine
end

