-- ==== Sys2Proof/Machine/CmdService.lean ====
section
/-! DEFINITION. Commands (R336, R343 to R345, R330, R355): replies and faults, the almanac, sparing and retirement, rank maps and
trees, quanta, and debugging. -/
namespace Sys2Proof.Machine

/-! Calls, faults, states of rings. -/

def execReply (h : Hdr) (seq : Nat) (value : W64) (status : Nat) (s : State) : Host.Outcome State Fault Refusal :=
  .next <|
    s.ctxCommand h 0x0058 fun c =>
      if 65535 < status || (1 ≤ status && status ≤ 0xFF && status ≠ eCancelled) then s.reply h 0x0058 1 []
      else if s.awaits c seq then (s.applyReply c.id seq value status).reply h 0x0058 0 []
      else s.reply h 0x0058 (if seq < c.nextSeq then 8 else 3) []
def execFaultRefuse (h : Hdr) (rec : Nat) (s : State) : Host.Outcome State Fault Refusal :=
  .next <|
    s.ctxCommand h 0x0059 fun c =>
      match s.faults.find? fun f => f.id == rec && f.ctx == c.id with
      | none => s.reply h 0x0059 3 []
      | some f => if f.state ≠ 0 then s.reply h 0x0059 8 [] else (s.endFault f).reply h 0x0059 0 []
/-- Head, tail, blocks in the ring, calls awaited. -/
def execRingState (h : Hdr) (s : State) : Host.Outcome State Fault Refusal :=
  .next <|
    s.ctxCommand h 0x0050 fun c =>
      s.reply h 0x0050 0 (bytesOfNat 8 c.forwarded ++ bytesOfNat 8 c.nextSeq ++ bytesOfNat 4 c.ring.length ++ bytesOfNat 4 c.calls.length)
/-- Head and tail of the ring, records on chip, records in the ring. -/
def execQueueState (h : Hdr) (grid cluster pos q : Nat) (s : State) : Host.Outcome State Fault Refusal :=
  .next <|
    s.ctxCommand h 0x0051 fun c =>
      match (s.teams.find? fun t => t.launch == grid && t.cluster == cluster && t.pos == pos && t.ctx == c.id && t.place != .ended).bind fun t => t.queues[q]? with
      | none => s.reply h 0x0051 3 []
      | some x => s.reply h 0x0051 0 (bytesOfNat 8 x.head ++ bytesOfNat 8 x.tail ++ bytesOfNat 4 x.chip.length ++ bytesOfNat 4 (x.tail - x.head))

/-! The almanac (R315, R322). -/

def unitOk (u : UnitId) : Bool :=
  match u with
  | .core c | .slice c | .teamMem c => Config.coordOk c
  | .bank c l b => Config.coordOk c && l < 8 && b < 32
  | .port n => n < 16
  | .bridge n => n < 4
  | .quadrant d q => d < 4 && q < 4
  | .mgmt d => d < 4
/-- Bits 31:0 of a record (R315). -/
def unitWord (u : UnitId) : Nat :=
  match u with
  | .core c => c * 2 ^ 8
  | .slice c => 1 + c * 2 ^ 8
  | .teamMem c => 2 + c * 2 ^ 8
  | .bank c l b => 3 + c * 2 ^ 8 + l * 2 ^ 16 + b * 2 ^ 19
  | .port n => 4 + n * 2 ^ 8
  | .bridge n => 5 + n * 2 ^ 8
  | .quadrant d q => 6 + d * 2 ^ 8 + q * 2 ^ 10
  | .mgmt d => 7 + d * 2 ^ 8
/-- The 32 bytes of a record. -/
def almBytes (u : UnitId) (a : AlmRec) : List Byte :=
  bytesOfNat 4 (unitWord u) ++ bytesOfNat 1 a.state ++ bytesOfNat 1 a.cause ++ bytesOfNat 1 a.vstep ++ bytesOfNat 1 a.vmax ++ bytesOfNat 2 a.margin ++
  bytesOfNat 2 a.floor ++ bytesOfNat 2 (a.trend % 65536).toNat ++ bytesOfNat 2 a.exhaust ++ bytesOfNat 4 a.passes ++ bytesOfNat 4 a.cec ++ bytesOfNat 2 a.uec ++
  bytesOfNat 1 a.spare ++ bytesOfNat 1 a.ecc ++ bytesOfNat 4 a.day
def execAlmRead (h : Hdr) (u : UnitId) (s : State) : Host.Outcome State Fault Refusal :=
  .next (s.command h 0x0060 fun _ => if unitOk u then s.reply h 0x0060 0 (almBytes u (s.alm u)) else s.reply h 0x0060 3 [])
/-- FLOOR is kept for the kinds that have a margin. -/
def execAlmWrite (h : Hdr) (u : UnitId) (floor : Nat) (s : State) : Host.Outcome State Fault Refusal :=
  .next <|
    s.command h 0x0061 fun _ =>
      let has := match u with
        | .core _ | .quadrant _ _ => true
        | _ => false
      if !unitOk u then s.reply h 0x0061 3 []
      else if 65535 < floor then s.reply h 0x0061 1 []
      else (if has then s.setAlm u fun a => { a with floor := floor } else s).reply h 0x0061 0 []
/-- Writing 1 starts a re-encode; writing 0 over another value, or anything while one runs, is ignored (R315, R322, R346). -/
def execAlmWriteEcc (h : Hdr) (u : UnitId) (ecc : Nat) (s : State) : Host.Outcome State Fault Refusal :=
  .next <|
    s.command h 0x0061 fun _ =>
      let has := match u with
        | .slice _ | .teamMem _ | .bank _ _ _ => true
        | _ => false
      if !unitOk u then s.reply h 0x0061 3 []
      else if 1 < ecc then s.reply h 0x0061 1 []
      else (if has && ecc = 1 then s.startEcc u else s).reply h 0x0061 0 []
/-- The re-plan period is set: the next re-plan comes so long after the last (R316). -/
def State.setReplan (s : State) (d : Nat) : State :=
  { s with
    flash := { s.flash with replanDays := d }
    agenda := s.agenda.map fun x => if x.2 == .replan then (max (s.clock + 1) (x.1 + d * Config.ccPerDay - s.flash.replanDays * Config.ccPerDay), x.2) else x }
/-- Offered cores of the package and of each die; in expert form the re-plan period in days. -/
def execHealth (h : Hdr) (replanDays : Option Nat) (s : State) : Host.Outcome State Fault Refusal :=
  .next <|
    s.command h 0x0062 fun _ =>
      let n (d : Nat) : Nat := ((Config.dieCoords d).filter fun c => s.offered c).length
      let body := bytesOfNat 4 (n 0 + n 1 + n 2 + n 3) ++ bytesOfNat 4 (n 0) ++ bytesOfNat 4 (n 1) ++ bytesOfNat 4 (n 2) ++ bytesOfNat 4 (n 3)
      match replanDays with
      | none => s.reply h 0x0062 0 body
      | some d => if h.form = 0 || d = 0 then s.reply h 0x0062 1 [] else (s.setReplan d).reply h 0x0062 0 body

/-! Sparing and retirement by command (R328 to R330, R346). -/

def linkOk (l : LinkId) : Bool := unitOk (linkUnit l)
/-- SPARE has an expert form only. -/
def execSpare (h : Hdr) (x : SpareBody) (s : State) : Host.Outcome State Fault Refusal :=
  .next <|
    s.command h 0x0070 fun _ =>
      if h.form = 0 then s.reply h 0x0070 1 []
      else match x with
        | .row c l b row =>
          let u : UnitId := .bank c l b
          if !unitOk u then s.reply h 0x0070 3 []
          else if s.rowCopies.contains (u, row) || s.flash.rows.contains (u, row) then s.reply h 0x0070 8 []
          else if (s.alm u).spare = 0 then s.reply h 0x0070 4 []
          else (s.spareRow u row).reply h 0x0070 0 []
        | .line c line =>
          if !unitOk (.teamMem c) then s.reply h 0x0070 3 []
          else if s.flash.tmLines.contains (c, line) then s.reply h 0x0070 8 []
          else if (s.alm (.teamMem c)).spare = 0 then s.reply h 0x0070 4 []
          else (s.spareTmLine c line).reply h 0x0070 0 []
        | .lane l =>
          if !linkOk l then s.reply h 0x0070 3 []
          else if (s.link l).spareUsed then s.reply h 0x0070 4 []
          else (s.failLane l).reply h 0x0070 0 []
/-- RETIRE (expert form only) is answered when every core it names is out of service. -/
def execRetire (h : Hdr) (x : RetireBody) (s : State) : Host.Outcome State Fault Refusal :=
  .next <|
    s.command h 0x0071 fun p =>
      let start (l : List Nat) (f : State → State) : State :=
        let left := l.filter fun c => (s.alm (.core c)).state ≠ 2
        if left.any fun c => s.coreHalted c then s.reply h 0x0071 7 []
        else if left.isEmpty then (f s).reply h 0x0071 0 []
        else f { s with retiring := s.retiring ++ [(Hdr.of h p, left)] }
      if h.form = 0 then s.reply h 0x0071 1 []
      else match x with
        | .core c =>
          if !Config.coordOk c then s.reply h 0x0071 3 []
          else if (s.alm (.core c)).state = 2 then s.reply h 0x0071 8 []
          else start [c] fun s => s.startRetire c 8
        | .quadrant d q =>
          if 4 ≤ d || 4 ≤ q then s.reply h 0x0071 3 []
          else if (s.alm (.quadrant d q)).state = 2 then s.reply h 0x0071 8 []
          else start (quadrantCoords d q) fun s => s.retireQuadrant d q 8

/-! Rank maps, trees, quanta (R272, R285, R286, R343). -/

/-- RANKMAP: the table, then a group's establishment; trees of groups whose members' endpoints changed are rebuilt (R288). -/
def execRankmap (h : Hdr) (x : RankBody) (s : State) : Host.Outcome State Fault Refusal :=
  .next <|
    s.ctxCommand h 0x0080 fun c =>
      let known (r : Nat) : Bool := r = x.rank || x.endpoints.any fun e => e.1 == r
      let map (y : Ctx) : Ctx := { y with rank := x.rank, ranks := x.endpoints, hasRanks := true }
      match (match x.group with
        | some g => if !g.2.all known then some 3 else if !s.treeFits (map c) g.1 g.2 then some 4 else none
        | none => none) with
      | some n => s.reply h 0x0080 n []
      | none =>
        let same (r : Nat) : Bool := (c.ranks.find? fun e => e.1 == r) == (x.endpoints.find? fun e => e.1 == r)
        let s := s.modCtx c.id fun y => { map y with lost := y.lost.filter same }
        let moved := (s.groupsOf c).filter fun g => g.2.any fun r => !same r
        let s := moved.foldl (fun s g => s.buildTree c.id g.1 g.2) s
        let s := match x.group with
          | some g =>
            (s.modCtx c.id fun y => { y with colls := (y.colls.filter fun (z : Nat × List Nat × Nat) => z.1 != g.1) ++ [(g.1, g.2, 0)] }).establish c.id g.1 g.2
          | none => s
        s.reply h 0x0080 0 []
/-- A tree entry's 64 bits (R286). -/
def TreeEntry.word (e : TreeEntry) : Nat :=
  e.cgrp % 65536 + (if e.v then 2 ^ 16 else 0) + (if e.root then 2 ^ 17 else 0) + e.parent % 8 * 2 ^ 18 + e.child.toNat * 2 ^ 24 + e.epoch % 65536 * 2 ^ 32 + e.down.toNat * 2 ^ 48
/-- TREE returns the home switch with the group's entries by switch; the expert form writes one. -/
def execTree (h : Hdr) (cgrp : Nat) (write : Option (Nat × TreeEntry)) (s : State) : Host.Outcome State Fault Refusal :=
  .next <|
    s.ctxCommand h 0x0081 fun c =>
      if !(s.groupsOf c).any fun g => g.1 == cgrp then s.reply h 0x0081 3 []
      else match write with
        | none =>
          let es := (List.range 12).flatMap fun n => ((s.switch n).entries.filter fun e => e.cgrp == cgrp).map fun e => (n, e)
          s.reply h 0x0081 0 (bytesOfNat 4 (s.homeOf cgrp) ++ bytesOfNat 4 es.length ++ es.flatMap fun x => bytesOfNat 8 x.1 ++ bytesOfNat 8 (TreeEntry.word x.2))
        | some (sw, e) =>
          let rest := (s.switch sw).entries.filter fun y => y.cgrp != cgrp
          if h.form = 0 || 12 ≤ sw || e.cgrp ≠ cgrp then s.reply h 0x0081 1 []
          else if 64 ≤ rest.length then s.reply h 0x0081 4 []
          else (s.modSwitch sw fun w => { w with entries := rest ++ [e] }).reply h 0x0081 0 []
/-- ENGINE_Q (expert form only) sets the quanta of a die's engines. -/
def execEngineQ (h : Hdr) (die : Nat) (quanta : List Nat) (s : State) : Host.Outcome State Fault Refusal :=
  .next <|
    s.command h 0x0088 fun _ =>
      if h.form = 0 || 4 ≤ die || quanta.length ≠ 4 || quanta.any fun q => q % 2048 ≠ 0 || q < 2048 || 65536 < q then s.reply h 0x0088 1 []
      else ((List.range 16).foldl (fun s e => s.modEngine (die * 16 + e) fun x => { x with quantum := quanta }) s).reply h 0x0088 0 []

/-! Debugging (R222, R223, R344, R345). -/

/-- A debug command on a context that has a debug session. -/
def State.debugCommand (s : State) (h : Hdr) (code : Nat) (f : Ctx → Debug → State) : State :=
  s.ctxCommand h code fun c => match c.debug with
    | none => s.reply h code 3 []
    | some d => f c d
def execAttach (h : Hdr) (freeze : Bool) (s : State) : Host.Outcome State Fault Refusal :=
  .next <|
    s.ctxCommand h 0x0090 fun c =>
      if freeze && h.form = 0 then s.reply h 0x0090 1 []
      else
        let bps := match c.debug with
          | some d => d.bps
          | none => []
        (s.modCtx c.id fun y => { y with debug := some ⟨h.session, freeze, bps⟩ }).reply h 0x0090 0 []
/-- The groups that a debug command names, not Exited, of the context. -/
def State.named (s : State) (ctx : Nat) (x : HaltTarget) : List GRef :=
  (s.teams.filter fun t => t.ctx == ctx && t.place != .ended).flatMap fun t =>
    (t.groups.filter fun g => g.phase != .exited && (match x with
      | .group r => r == (⟨t.id, g.slot⟩ : GRef)
      | .team n => n == t.id
      | .context => true)).map fun g => ⟨t.id, g.slot⟩
/-- One group is halted at its next issue boundary, or off its core. -/
def State.haltOne (s : State) (off : Bool) (g : GRef) : State :=
  match s.group? g with
  | none => s
  | some gr =>
    if off && gr.phase ≠ .evicted then
      (s.modGroup g fun y => { y with haltOff := true }).sched (s.clock + 1) (.groupEvict g)
    else if midWord gr then s.modGroup g fun y => { y with haltDue := 4 }
    else s.haltGroup g 4 0
def execHaltG (h : Hdr) (x : HaltTarget) (offCore : Bool) (s : State) : Host.Outcome State Fault Refusal :=
  .next <|
    s.debugCommand h 0x0091 fun c _ =>
      let l := s.named c.id x
      if offCore && h.form = 0 then s.reply h 0x0091 1 []
      else if l.isEmpty then s.reply h 0x0091 3 []
      else (l.foldl (fun s g => s.haltOne offCore g) s).reply h 0x0091 0 []
/-- The mark goes; a group kept off its core comes back. -/
def State.resumeOne (s : State) (g : GRef) : State :=
  (s.modGroup g fun y => { y with halted := false, haltDue := 0, haltOff := false }).sched (s.clock + 1) (.trapResume g)
def execResume (h : Hdr) (x : HaltTarget) (s : State) : Host.Outcome State Fault Refusal :=
  .next <|
    s.debugCommand h 0x0092 fun c _ =>
      let l := s.named c.id x
      if l.isEmpty then s.reply h 0x0092 3 [] else (l.foldl (fun s g => s.resumeOne g) s).reply h 0x0092 0 []
/-- One word, then the mark again with reason 3 (`issued` sets it). -/
def execStep (h : Hdr) (g : GRef) (s : State) : Host.Outcome State Fault Refusal :=
  .next <|
    s.debugCommand h 0x0093 fun c _ =>
      match (if (s.named c.id (.group g)).isEmpty then none else s.group? g) with
      | none => s.reply h 0x0093 3 []
      | some gr =>
        if !gr.halted then s.reply h 0x0093 7 []
        else ((s.resumeOne g).modGroup g fun y => { y with haltDue := 3 }).reply h 0x0093 0 []
def execBreakSet (h : Hdr) (n : Nat) (addr : Option Nat) (s : State) : Host.Outcome State Fault Refusal :=
  .next <|
    s.debugCommand h 0x0094 fun c d =>
      if 8 ≤ n then s.reply h 0x0094 1 []
      else
        let rest := d.bps.filter fun b => b.1 ≠ n
        let bps := match addr with
          | some a => rest ++ [(n, a)]
          | none => rest
        (s.modCtx c.id fun y => { y with debug := some { d with bps := bps } }).reply h 0x0094 0 []
/-- The two bits of a register: bit 0 full, bit 1 void. -/
def regMark (x : RegSt) : Nat := x.full.toNat + 2 * x.void.toNat
/-- The state of a group: PCV, live mask, MODE, k, s and v registers with their marks, triples, and the try stack. -/
def groupBytes (nv : Nat) (g : Group) : List Byte :=
  let lanes := List.range g.width
  (lanes.flatMap fun l => bytesOfNat 4 (g.pc l).toNat) ++ bytesOfNat 8 g.live.toNat ++ bytesOfNat 8 g.mode.toNat ++
  ((List.range 8).flatMap fun n => bytesOfNat 8 (g.regs.getK n).toNat) ++
  ((List.range 64).flatMap fun n => let x := g.regs.getS n; bytesOfNat 8 x.val.toNat ++ bytesOfNat 1 (regMark x.st)) ++
  (lanes.flatMap fun l => (List.range nv).flatMap fun n => let x := g.regs.getV l n; bytesOfNat 4 x.val.toNat ++ bytesOfNat 1 (regMark x.st)) ++
  (lanes.flatMap fun l => (List.range 8).flatMap fun n => bytesOfNat 12 (natOfTriple (g.regs.getM l n))) ++
  bytesOfNat 4 g.tries.length ++ g.tries.flatMap fun e => bytesOfNat 4 e.team.toNat ++ bytesOfNat 4 e.catchPc ++ bytesOfNat 8 e.members.toNat
/-- DESIGN CHOICE (log 78): the records of the core's range-lock table, which firmware presents to a debug session (R275), follow the group's
state, as the spec names no message of their own. -/
def execStateRead (h : Hdr) (g : GRef) (s : State) : Host.Outcome State Fault Refusal :=
  .next <|
    s.debugCommand h 0x0095 fun c _ =>
      match (s.team? g.team).filter fun t => t.ctx == c.id && t.place != .ended, s.group? g with
      | some t, some gr =>
        if gr.phase = .exited || (!gr.halted && gr.phase ≠ .evicted) then s.reply h 0x0095 7 []
        else
          let locks := if t.place = .away then [] else s.lockRecords t.coord
          s.reply h 0x0095 0 (groupBytes t.kern.regs gr ++ bytesOfNat 4 locks.length ++ locks.flatMap (bytesOfNat 16))
      | _, _ => s.reply h 0x0095 3 []

end Sys2Proof.Machine
end

