-- ==== Sys2Proof/Machine/VecInt.lean ====
section
/-! DEFINITION. The vector integer range (R133, R139, R140): exact integers, then wrap or clamp, 4 cc. -/
namespace Sys2Proof.Machine

/-- IntWrite of R133: clamped or wrapped, then as 64 bits of which a narrower type's landing keeps 32. -/
def intWrite (t : Ty) (sat : Bool) (y : Int) : W64 :=
  BitVec.ofInt 64 (if sat then clampTy t y else intRead t (y % (2 ^ t.bits : Int)).toNat)
/-- A, B and C of a lane as the type reads them. -/
def Iss.ia (i : Iss) (l : Nat) : Int := intRead i.w.ty (i.rd l i.w.a i.w.ty.wide).toNat
def Iss.ib (i : Iss) (l : Nat) : Int := intRead i.w.ty (i.rd l i.w.b i.w.ty.wide).toNat
def Iss.ic (i : Iss) (l : Nat) : Int := intRead i.w.ty (i.rd l i.w.c i.w.ty.wide).toNat
/-- The w bits of A and B. -/
def Iss.na (i : Iss) (l : Nat) : Nat := (i.rd l i.w.a i.w.ty.wide).toNat % 2 ^ i.w.ty.bits
def Iss.nb (i : Iss) (l : Nat) : Nat := (i.rd l i.w.b i.w.ty.wide).toNat % 2 ^ i.w.ty.bits
/-- A shift count: the n32 value of B, mod the width (R139). -/
def Iss.count (i : Iss) (l : Nat) : Nat := (i.rd32 l i.w.b).toNat % i.w.ty.bits

/-- A vector result per lane of the half. -/
def vecBody (lat : Nat) (wide : Iss → Bool) (f : Iss → Nat → W64) (i : Iss) (s : State) : Body :=
  .ok (s.land i.g lat (i.half.flatMap fun l => dstV i.w.d l (wide i) (f i l)))
def tyWide (i : Iss) : Bool := i.w.ty.wide
def notWide (_ : Iss) : Bool := false
def intBody (f : Iss → Nat → Int) : Iss → State → Body :=
  vecBody 4 tyWide fun i l => intWrite i.w.ty (i.w.sub = 1) (f i l)

def yIadd (i : Iss) (l : Nat) : Int := i.ia l + i.ib l
def yIsub (i : Iss) (l : Nat) : Int := i.ia l - i.ib l
def yImul (i : Iss) (l : Nat) : Int := i.ia l * i.ib l
def yImulh (i : Iss) (l : Nat) : Int := i.ia l * i.ib l / 2 ^ i.w.ty.bits
def yImad (i : Iss) (l : Nat) : Int := i.ia l * i.ib l + i.ic l
def yImin (i : Iss) (l : Nat) : Int := min (i.ia l) (i.ib l)
def yImax (i : Iss) (l : Nat) : Int := max (i.ia l) (i.ib l)
def yIabs (i : Iss) (l : Nat) : Int := (i.ia l).natAbs
def yIneg (i : Iss) (l : Nat) : Int := -i.ia l
def yAnd (i : Iss) (l : Nat) : Int := (i.na l &&& i.nb l : Nat)
def yOr (i : Iss) (l : Nat) : Int := (i.na l ||| i.nb l : Nat)
def yXor (i : Iss) (l : Nat) : Int := (i.na l ^^^ i.nb l : Nat)
def yAndn (i : Iss) (l : Nat) : Int := (i.na l &&& (2 ^ i.w.ty.bits - 1 - i.nb l) : Nat)
def yShl (i : Iss) (l : Nat) : Int := (i.na l * 2 ^ i.count l : Nat)
def yShr (i : Iss) (l : Nat) : Int := (i.na l / 2 ^ i.count l : Nat)
/-- The w bits taken as signed, whatever the type. -/
def yASra (w x n : Nat) : Int := (if 2 ^ (w - 1) ≤ x then (x : Int) - 2 ^ w else x) / 2 ^ n
def ySra (i : Iss) (l : Nat) : Int := yASra i.w.ty.bits (i.na l) (i.count l)
def yRol (i : Iss) (l : Nat) : Int :=
  let n := i.count l
  (i.na l * 2 ^ n % 2 ^ i.w.ty.bits + i.na l / 2 ^ (i.w.ty.bits - n) : Nat)
def yPopc (i : Iss) (l : Nat) : Int := popCount (i.na l) i.w.ty.bits
def yClz (i : Iss) (l : Nat) : Int := leadZeros (i.na l) i.w.ty.bits
def bitReverse (x w : Nat) : Nat := (List.range w).foldl (fun acc j => acc * 2 + x / 2 ^ j % 2) 0
def yBrev (i : Iss) (l : Nat) : Int := (bitReverse (i.na l) i.w.ty.bits : Nat)

/-- BFE (R140): bits above 31 read as A's bit 31 or as 0. -/
def yBfe (i : Iss) (l : Nat) : Int :=
  let a := i.rd32 l i.w.a
  let p := (i.rd32 l i.w.b).toNat % 32
  let n := min (i.rd32 l i.w.c).toNat 32
  let x : Nat := if i.w.ty.signed then (a.signExtend 64).toNat / 2 ^ p % 2 ^ n else a.toNat / 2 ^ p % 2 ^ n
  if n = 0 then 0 else if i.w.ty.signed && 2 ^ (n - 1) ≤ x then (x : Int) - 2 ^ n else x
/-- BFI (R140). -/
def yBfi (i : Iss) (l : Nat) : Int :=
  let a := i.rd32 l i.w.a
  let b := i.rd32 l i.w.b
  let c := (i.rd32 l i.w.c).toNat
  let p := c % 32
  let n := min (c / 256 % 64) 32
  let m : W32 := BitVec.ofNat 32 ((2 ^ n - 1) * 2 ^ p)
  (((a &&& ~~~m) ||| ((b <<< p) &&& m)).toNat : Nat)
/-- IDOT4 (R140): bytes by the type, the sum written as i32 or n32. -/
def idot4 (i : Iss) (l : Nat) : W64 :=
  let t32 : Ty := if i.w.ty.signed then .i32 else .n32
  let byte (x : W32) (j : Nat) : Int := intRead i.w.ty (x.toNat / 2 ^ (8 * j))
  let a := i.rd32 l i.w.a
  let b := i.rd32 l i.w.b
  let c := intRead t32 (i.rd32 l i.w.c).toNat
  intWrite t32 (i.w.sub = 1) (c + byte a 0 * byte b 0 + byte a 1 * byte b 1 + byte a 2 * byte b 2 + byte a 3 * byte b 3)

/-- MOV: IntWrite of a; .f32 copies 32 bits (R139). -/
def fMov (i : Iss) (l : Nat) : W64 := if i.w.ty.isInt then intWrite i.w.ty false (i.ia l) else i.rd l i.w.a false
/-- SEL: bits unchanged (R139). -/
def fSel (i : Iss) (l : Nat) : W64 := if i.rd l i.w.c false ≠ 0 then i.rd l i.w.a i.w.ty.wide else i.rd l i.w.b i.w.ty.wide

/-- ICMP (R135, R139). -/
def icmpBody (i : Iss) (s : State) : Body :=
  .ok (s.land i.g 4 (dstK i.w.d (i.half.map fun l => (l, intCompare i.w.sub.toNat (i.ia l) (i.ib l)))))
/-- MOVK (R140): only an s source of MOVK.k is tested whole. -/
def movkBody (i : Iss) (s : State) : Body :=
  if i.w.sub = 0 then .ok (s.land i.g 4 (i.half.flatMap fun l => dstV i.w.d l false (i.rd l i.w.a false)))
  else if i.w.sub = 1 then
    .ok (s.land i.g 4 (dstK i.w.d (i.half.map fun l =>
      (l, if i.w.a.isS then i.rd l i.w.a false ≠ 0 else i.rd32 l i.w.a ≠ 0))))
  else .ok (s.land i.g 4 (dstK i.w.d (i.half.map fun l => (l, (i.rd l i.w.a true).getLsbD l))))

def bodyIadd : Iss → State → Body := intBody yIadd
def execIadd (w : Full) (s : State) : Host.Outcome State Fault Refusal := execFull .iadd .lanewise bodyIadd w s
def bodyIsub : Iss → State → Body := intBody yIsub
def execIsub (w : Full) (s : State) : Host.Outcome State Fault Refusal := execFull .isub .lanewise bodyIsub w s
def bodyImul : Iss → State → Body := intBody yImul
def execImul (w : Full) (s : State) : Host.Outcome State Fault Refusal := execFull .imul .lanewise bodyImul w s
def bodyImulh : Iss → State → Body := intBody yImulh
def execImulh (w : Full) (s : State) : Host.Outcome State Fault Refusal := execFull .imulh .lanewise bodyImulh w s
def bodyImad : Iss → State → Body := intBody yImad
def execImad (w : Full) (s : State) : Host.Outcome State Fault Refusal := execFull .imad .lanewise bodyImad w s
def bodyImin : Iss → State → Body := intBody yImin
def execImin (w : Full) (s : State) : Host.Outcome State Fault Refusal := execFull .imin .lanewise bodyImin w s
def bodyImax : Iss → State → Body := intBody yImax
def execImax (w : Full) (s : State) : Host.Outcome State Fault Refusal := execFull .imax .lanewise bodyImax w s
def bodyIabs : Iss → State → Body := intBody yIabs
def execIabs (w : Full) (s : State) : Host.Outcome State Fault Refusal := execFull .iabs .lanewise bodyIabs w s
def bodyIneg : Iss → State → Body := intBody yIneg
def execIneg (w : Full) (s : State) : Host.Outcome State Fault Refusal := execFull .ineg .lanewise bodyIneg w s
def bodyAndI : Iss → State → Body := intBody yAnd
def execAndI (w : Full) (s : State) : Host.Outcome State Fault Refusal := execFull .andI .lanewise bodyAndI w s
def bodyOrI : Iss → State → Body := intBody yOr
def execOrI (w : Full) (s : State) : Host.Outcome State Fault Refusal := execFull .orI .lanewise bodyOrI w s
def bodyXorI : Iss → State → Body := intBody yXor
def execXorI (w : Full) (s : State) : Host.Outcome State Fault Refusal := execFull .xorI .lanewise bodyXorI w s
def bodyAndn : Iss → State → Body := intBody yAndn
def execAndn (w : Full) (s : State) : Host.Outcome State Fault Refusal := execFull .andn .lanewise bodyAndn w s
def bodyShl : Iss → State → Body := intBody yShl
def execShl (w : Full) (s : State) : Host.Outcome State Fault Refusal := execFull .shl .lanewise bodyShl w s
def bodyShr : Iss → State → Body := intBody yShr
def execShr (w : Full) (s : State) : Host.Outcome State Fault Refusal := execFull .shr .lanewise bodyShr w s
def bodySra : Iss → State → Body := intBody ySra
def execSra (w : Full) (s : State) : Host.Outcome State Fault Refusal := execFull .sra .lanewise bodySra w s
def bodyRol : Iss → State → Body := intBody yRol
def execRol (w : Full) (s : State) : Host.Outcome State Fault Refusal := execFull .rol .lanewise bodyRol w s
def bodyPopc : Iss → State → Body := intBody yPopc
def execPopc (w : Full) (s : State) : Host.Outcome State Fault Refusal := execFull .popc .lanewise bodyPopc w s
def bodyClz : Iss → State → Body := intBody yClz
def execClz (w : Full) (s : State) : Host.Outcome State Fault Refusal := execFull .clz .lanewise bodyClz w s
def bodyBrev : Iss → State → Body := intBody yBrev
def execBrev (w : Full) (s : State) : Host.Outcome State Fault Refusal := execFull .brev .lanewise bodyBrev w s
def bodyBfe : Iss → State → Body := intBody yBfe
def execBfe (w : Full) (s : State) : Host.Outcome State Fault Refusal := execFull .bfe .lanewise bodyBfe w s
def bodyBfi : Iss → State → Body := intBody yBfi
def execBfi (w : Full) (s : State) : Host.Outcome State Fault Refusal := execFull .bfi .lanewise bodyBfi w s
def execIcmp (w : Full) (s : State) : Host.Outcome State Fault Refusal := execFull .icmp .lanewise icmpBody w s
def execMovk (w : Full) (s : State) : Host.Outcome State Fault Refusal := execFull .movk .lanewise movkBody w s
def bodySel : Iss → State → Body := vecBody 4 tyWide fSel
def execSel (w : Full) (s : State) : Host.Outcome State Fault Refusal := execFull .sel .lanewise bodySel w s
def bodyMov : Iss → State → Body := vecBody 4 tyWide fMov
def execMov (w : Full) (s : State) : Host.Outcome State Fault Refusal := execFull .mov .lanewise bodyMov w s
def bodyIdot4 : Iss → State → Body := vecBody 4 notWide idot4
def execIdot4 (w : Full) (s : State) : Host.Outcome State Fault Refusal := execFull .idot4 .lanewise bodyIdot4 w s

end Sys2Proof.Machine
end

