-- ==== Sys2Proof/Machine/VecFloat.lean ====
section
/-! DEFINITION. The floating-point range, the special functions and the conversions (R141 to R149). -/
namespace Sys2Proof.Machine

def Iss.md (i : Iss) : RMode := RMode.ofMode i.gr.mode

/-- An operation with conditions: E_ARITH for the lanes whose enabled conditions arose, else its results (R115). -/
def fpBody (lat : Nat) (f : Iss → Nat → FRes) (i : Iss) (s : State) : Body :=
  let r := i.half.map fun l => (l, f i l)
  match arithThrows i.gr.mode i.cur.pc (r.map fun x => (x.1, x.2.conds)) with
  | [] => .ok (s.land i.g lat (r.flatMap fun x => dstV i.w.d x.1 false (BitVec.ofNat 64 x.2.bits)))
  | l => .throws l

def fF1 (f : RMode → W32 → FRes) (i : Iss) (l : Nat) : FRes := f i.md (i.rd32 l i.w.a)
def fF2 (f : RMode → W32 → W32 → FRes) (i : Iss) (l : Nat) : FRes := f i.md (i.rd32 l i.w.a) (i.rd32 l i.w.b)
def fF3 (f : RMode → W32 → W32 → W32 → FRes) (i : Iss) (l : Nat) : FRes :=
  f i.md (i.rd32 l i.w.a) (i.rd32 l i.w.b) (i.rd32 l i.w.c)
/-- A result without conditions. -/
def f1 (lat : Nat) (f : Iss → W32 → W32) : Iss → State → Body := vecBody lat notWide fun i l => (f i (i.rd32 l i.w.a)).setWidth 64

def gFmin (i : Iss) (l : Nat) : W64 := (fMinMax false i.md (i.rd32 l i.w.a) (i.rd32 l i.w.b)).setWidth 64
def gFmax (i : Iss) (l : Nat) : W64 := (fMinMax true i.md (i.rd32 l i.w.a) (i.rd32 l i.w.b)).setWidth 64
def gFabs (_ : Iss) (a : W32) : W32 := a &&& 0x7FFFFFFF
def gFneg (_ : Iss) (a : W32) : W32 := a ^^^ 0x80000000
def gFclass (_ : Iss) (a : W32) : W32 := fClass a
def gFrnd (i : Iss) (a : W32) : W32 := fRnd i.w.sub.toNat i.md a
/-- FCMP (R142). -/
def fcmpBody (i : Iss) (s : State) : Body :=
  .ok (s.land i.g 6 (dstK i.w.d (i.half.map fun l =>
    (l, fCompare i.w.sub.toNat (f32Read i.md (i.rd32 l i.w.a)) (f32Read i.md (i.rd32 l i.w.b))))))

/-- Part p of a register for a type of its width (R147). -/
def partGet (t : Ty) (p : Nat) (x : W64) : Nat := if t.bits = 64 then x.toNat else x.toNat / 2 ^ (t.bits * p) % 2 ^ t.bits
def constNat (o : Opnd) (lit : Option W32) : Nat := ((o.constVal lit).getD 0).toNat
/-- CVT (R146, R147). -/
def cvtLane (i : Iss) (l : Nat) : W64 × Conds :=
  let st := tyOfSub i.w.sub
  let dt := i.w.ty
  let r := cvtBits dt st i.md (partGet st (constNat i.w.b i.w.lit) (i.rd l i.w.a st.wide))
  if i.w.c.unused i.w.wc then
    (if dt.isInt && dt.bits < 32 then BitVec.ofInt 64 (intRead dt r.1) else BitVec.ofNat 64 r.1, r.2)
  else
    let sh := dt.bits * constNat i.w.c i.w.lit
    let old := (i.rd l i.w.d false).toNat
    (BitVec.ofNat 64 (old - old / 2 ^ sh % 2 ^ dt.bits * 2 ^ sh + r.1 * 2 ^ sh), r.2)
def cvtBody (i : Iss) (s : State) : Body :=
  let r := i.half.map fun l => (l, cvtLane i l)
  match arithThrows i.gr.mode i.cur.pc (r.map fun x => (x.1, x.2.2)) with
  | [] => .ok (s.land i.g 6 (r.flatMap fun x => dstV i.w.d x.1 i.w.ty.wide x.2.1))
  | l => .throws l

/-- Decoded elements, two to a register (R148, R149). -/
def blockDst (d : Opnd) (l : Nat) (el : List Nat) : List (LDst × W64) :=
  match d with
  | .v n => (List.range (el.length / 2)).map fun j =>
      (.v l (n.val + j), BitVec.ofNat 64 (el.getD (2 * j) 0 + 2 ^ 16 * el.getD (2 * j + 1) 0))
  | _ => []
/-- CBDEC (R118, R148). -/
def cbdecLane (i : Iss) (l : Nat) : List Nat :=
  let x := (i.rd32 l i.w.a).toNat / (if i.w.sub = 1 then 2 ^ 16 else 1) % 2 ^ 16
  (List.range 8).map fun j => decodedBf16 ((cbValue x j).scaled ((i.rd32 l i.w.b).toNat % 256))
/-- OBDEC (R116, R149). -/
def obdecLane (i : Iss) (l : Nat) : List Nat :=
  let a := (i.rd32 l i.w.a).toNat
  let e := (i.rd32 l i.w.c).toNat % 256
  let w := i.w.ty.bits
  let z := (i.rd32 l i.w.b).toNat % 2 ^ w
  (List.range (32 / w)).map fun j => decodedBf16 ((obValue (a / 2 ^ (w * j) % 2 ^ w) z).scaled e)
def decBody (f : Iss → Nat → List Nat) (i : Iss) (s : State) : Body :=
  .ok (s.land i.g 6 (i.half.flatMap fun l => blockDst i.w.d l (f i l)))

def bodyFadd : Iss → State → Body := fpBody 6 (fF2 fAdd)
def bodyFmul : Iss → State → Body := fpBody 6 (fF2 fMul)
def execFadd (w : Full) (s : State) : Host.Outcome State Fault Refusal := execFull .fadd .lanewise bodyFadd w s
def execFsub (w : Full) (s : State) : Host.Outcome State Fault Refusal := execFull .fsub .lanewise (fpBody 6 (fF2 fSub)) w s
def execFmul (w : Full) (s : State) : Host.Outcome State Fault Refusal := execFull .fmul .lanewise bodyFmul w s
def execFfma (w : Full) (s : State) : Host.Outcome State Fault Refusal := execFull .ffma .lanewise (fpBody 6 (fF3 fFma)) w s
def execFmin (w : Full) (s : State) : Host.Outcome State Fault Refusal := execFull .fmin .lanewise (vecBody 6 notWide gFmin) w s
def execFmax (w : Full) (s : State) : Host.Outcome State Fault Refusal := execFull .fmax .lanewise (vecBody 6 notWide gFmax) w s
def execFabs (w : Full) (s : State) : Host.Outcome State Fault Refusal := execFull .fabs .lanewise (f1 6 gFabs) w s
def execFneg (w : Full) (s : State) : Host.Outcome State Fault Refusal := execFull .fneg .lanewise (f1 6 gFneg) w s
def execFcmp (w : Full) (s : State) : Host.Outcome State Fault Refusal := execFull .fcmp .lanewise fcmpBody w s
def execFclass (w : Full) (s : State) : Host.Outcome State Fault Refusal := execFull .fclass .lanewise (f1 6 gFclass) w s
def execFrnd (w : Full) (s : State) : Host.Outcome State Fault Refusal := execFull .frnd .lanewise (f1 6 gFrnd) w s
def execFscale (w : Full) (s : State) : Host.Outcome State Fault Refusal := execFull .fscale .lanewise (fpBody 6 (fF2 fScale)) w s
def execFdot2 (w : Full) (s : State) : Host.Outcome State Fault Refusal := execFull .fdot2 .lanewise (fpBody 6 fun i l => fDot2 (ffmtOf i.w.ty) i.md (i.rd32 l i.w.a) (i.rd32 l i.w.b) (i.rd32 l i.w.c)) w s
def execFrcp (w : Full) (s : State) : Host.Outcome State Fault Refusal := execFull .frcp .lanewise (fpBody 16 (fF1 fRcp)) w s
def execFrsq (w : Full) (s : State) : Host.Outcome State Fault Refusal := execFull .frsq .lanewise (fpBody 16 (fF1 fRsq)) w s
def execFsqrt (w : Full) (s : State) : Host.Outcome State Fault Refusal := execFull .fsqrt .lanewise (fpBody 16 (fF1 fSqrt)) w s
def execFexp2 (w : Full) (s : State) : Host.Outcome State Fault Refusal := execFull .fexp2 .lanewise (fpBody 16 (fF1 fExp2)) w s
def execFlog2 (w : Full) (s : State) : Host.Outcome State Fault Refusal := execFull .flog2 .lanewise (fpBody 16 (fF1 fLog2)) w s
def execFsin (w : Full) (s : State) : Host.Outcome State Fault Refusal := execFull .fsin .lanewise (fpBody 16 (fF1 fSin)) w s
def execFcos (w : Full) (s : State) : Host.Outcome State Fault Refusal := execFull .fcos .lanewise (fpBody 16 (fF1 fCos)) w s
def execFtanh (w : Full) (s : State) : Host.Outcome State Fault Refusal := execFull .ftanh .lanewise (fpBody 16 (fF1 fTanh)) w s
def execCvt (w : Full) (s : State) : Host.Outcome State Fault Refusal := execFull .cvt .lanewise cvtBody w s
def execCbdec (w : Full) (s : State) : Host.Outcome State Fault Refusal := execFull .cbdec .lanewise (decBody cbdecLane) w s
def execObdec (w : Full) (s : State) : Host.Outcome State Fault Refusal := execFull .obdec .lanewise (decBody obdecLane) w s

end Sys2Proof.Machine
end

