-- ==== Sys2Proof/Machine/CrossLane.lean ====
section
/-! DEFINITION. The cross-lane range (R150 to R152) and the statistics instructions (R153 to R155). In a 64-wide group each
half reads every source lane as it stands at its own cc (R351). -/
namespace Sys2Proof.Machine

/-- The view in which every lane reads the present registers (R351). -/
def Iss.now (i : Iss) : Iss := { i with cur := { i.cur with latch := none } }
/-- An S destination is written once for the group (R150). DESIGN CHOICE (log 68): by the half that holds the lowest participating
lane, so its sources are read at that half's cc. -/
def Iss.first (i : Iss) : Bool :=
  match i.lanes with
  | [] => false
  | l :: _ => i.half.contains l

/-- The lower half of a 64-bit value, zeros above (R131). -/
def low32 (wide : Bool) (x : W64) : W64 := if wide then x else (x.setWidth 32).setWidth 64
/-- What lane l takes: its supplier's A or its fill, 32 bits of it for a 32-bit type (R131, R151). -/
def crossVal (i : Iss) (l : Nat) : W64 :=
  low32 i.w.ty.wide (match supplier i l with
    | some j => i.rd j i.w.a i.w.ty.wide
    | none => i.rd l i.w.c i.w.ty.wide)
/-- PERM, SHFL and BCAST (R151). DESIGN CHOICE (log 67): the upper half of an S destination of a 32-bit BCAST is 0. -/
def permBody (i0 : Iss) (s : State) : Body :=
  let i := i0.now
  match i.w.d with
  | .s n => if i.first then .ok (s.land i.g 6 [(.s n.val, crossVal i (i.lanes.headD 0))]) else .ok s
  | d => .ok (s.land i.g 6 (i.half.flatMap fun l => dstV d l i.w.ty.wide (crossVal i l)))

/-- VOTE (R151). -/
def voteBody (i0 : Iss) (s : State) : Body :=
  let i := i0.now
  let set := i.lanes.filter fun l => i.rd l i.w.a false ≠ 0
  if i.w.sub = 0 then .ok (s.land i.g 6 (if i.half.isEmpty then [] else dstK i.w.d (i.half.map fun l => (l, set.length = i.lanes.length))))
  else if i.w.sub = 1 then .ok (s.land i.g 6 (if i.half.isEmpty then [] else dstK i.w.d (i.half.map fun l => (l, !set.isEmpty))))
  else if !i.first then .ok s
  else .ok (s.land i.g 6 (dstV i.w.d 0 false (if i.w.sub = 2 then maskOf set else BitVec.ofNat 64 set.length)))
/-- ELECT (R151). -/
def electBody (i : Iss) (s : State) : Body :=
  let low := i.lanes.headD 0
  if i.w.sub = 0 then .ok (s.land i.g 6 (if i.half.isEmpty then [] else dstK i.w.d (i.half.map fun l => (l, l = low))))
  else if i.first then .ok (s.land i.g 6 (dstV i.w.d 0 false (BitVec.ofNat 64 low))) else .ok s
/-- MATCH (R151). -/
def matchBody (i0 : Iss) (s : State) : Body :=
  let i := i0.now
  let v (l : Nat) : W64 := i.rd l i.w.a i.w.ty.wide &&& (if i.w.ty.wide then BitVec.allOnes 64 else 0xFFFFFFFF)
  if i.half.isEmpty then .ok s
  else if i.w.sub = 0 then
    .ok (s.land i.g 6 (i.half.flatMap fun l => dstV i.w.d l (i.gr.width = 64) (maskOf (i.lanes.filter fun j => v j = v l))))
  else
    let all := i.lanes.all fun l => v l = v (i.lanes.headD 0)
    .ok (s.land i.g 6 (dstK i.w.d (i.half.map fun l => (l, all))))

/-- One step of SCAN and LRED (R152). -/
def redStep (op : Nat) (t : Ty) (md : RMode) (a b : W32) : W32 × Conds :=
  if t = .f32 then
    match op with
    | 0 => let r := fAdd md a b; (BitVec.ofNat 32 r.bits, r.conds)
    | 1 => (fMinMax false md a b, noConds)
    | _ => (fMinMax true md a b, noConds)
  else
    let le := if t.signed then decide (a.toInt ≤ b.toInt) else decide (a.toNat ≤ b.toNat)
    let r :=
      match op with
      | 0 => a + b
      | 1 => if le then a else b
      | 2 => if le then b else a
      | 3 => a &&& b
      | 4 => a ||| b
      | _ => a ^^^ b
    (r, noConds)
def redIdentity (op : Nat) (t : Ty) : W32 :=
  if t = .f32 then (match op with
    | 0 => 0
    | 1 => 0x7F800000
    | _ => 0xFF800000)
  else match op with
    | 1 => BitVec.ofInt 32 (tyHi t)
    | 2 => BitVec.ofInt 32 (tyLo t)
    | 3 => 0xFFFFFFFF
    | _ => 0
/-- The fold of SCAN: results by lane and the conditions of every step. -/
def scanLoop (op : Nat) (t : Ty) (md : RMode) (excl : Bool) (v : Nat → W32) : List Nat → Option W32 → Conds → List (Nat × W32) × Conds
  | [], _, c => ([], c)
  | l :: r, acc, c =>
    let nxt := match acc with
      | none => (v l, noConds)
      | some a => redStep op t md a (v l)
    let rest := scanLoop op t md excl v r (some nxt.1) (c.merge nxt.2)
    ((l, if excl then acc.getD (redIdentity op t) else nxt.1) :: rest.1, rest.2)
/-- Combine of R152: an absent leaf changes nothing. -/
def combine (op : Nat) (t : Ty) (md : RMode) (a b : Option W32 × Conds) : Option W32 × Conds :=
  match a.1, b.1 with
  | none, _ => (b.1, a.2.merge b.2)
  | _, none => (a.1, a.2.merge b.2)
  | some x, some y =>
    let r := redStep op t md x y
    (some r.1, (a.2.merge b.2).merge r.2)
def levels (width : Nat) : Nat := if width = 64 then 6 else if width = 32 then 5 else 4

/-- A condition of any step is every participating lane's (R152). -/
def scanBody (i0 : Iss) (s : State) : Body :=
  let i := i0.now
  let r := scanLoop (i.w.sub.toNat % 8) i.w.ty i.md (8 ≤ i.w.sub.toNat) (fun l => i.rd32 l i.w.a) i.lanes none noConds
  if i.half.isEmpty then .ok s
  else match arithThrows i.gr.mode i.cur.pc (i.lanes.map fun l => (l, r.2)) with
    | [] => .ok (s.land i.g 10 ((r.1.filter fun x => i.half.contains x.1).flatMap fun x => dstV i.w.d x.1 false (x.2.setWidth 64)))
    | l => .throws l
/-- DESIGN CHOICE (log 67): the upper half of an S destination is 0, for .i32 too. -/
def lredBody (i0 : Iss) (s : State) : Body :=
  let i := i0.now
  let leaf (l : Nat) : Option W32 × Conds := (if i.lanes.contains l then some (i.rd32 l i.w.a) else none, noConds)
  let r := treeFold (combine (i.w.sub.toNat % 8) i.w.ty i.md) (levels i.gr.width) leaf 0
  let v : W64 := (r.1.getD 0).setWidth 64
  if i.half.isEmpty then .ok s
  else match arithThrows i.gr.mode i.cur.pc (i.lanes.map fun l => (l, r.2)) with
    | [] =>
      match i.w.d with
      | .s n => if i.first then .ok (s.land i.g 10 [(.s n.val, v)]) else .ok s
      | d => .ok (s.land i.g 10 (i.half.flatMap fun l => dstV d l false v))
    | l => .throws l

def execPerm (w : Full) (s : State) : Host.Outcome State Fault Refusal := execFull .perm .cross permBody w s
def execShfl (w : Full) (s : State) : Host.Outcome State Fault Refusal := execFull .shfl .cross permBody w s
def execBcast (w : Full) (s : State) : Host.Outcome State Fault Refusal := execFull .bcast .cross permBody w s
def execVote (w : Full) (s : State) : Host.Outcome State Fault Refusal := execFull .vote .cross voteBody w s
def execMatchI (w : Full) (s : State) : Host.Outcome State Fault Refusal := execFull .matchI .cross matchBody w s
def execScan (w : Full) (s : State) : Host.Outcome State Fault Refusal := execFull .scan .cross scanBody w s
def execLred (w : Full) (s : State) : Host.Outcome State Fault Refusal := execFull .lred .cross lredBody w s
def execElect (w : Full) (s : State) : Host.Outcome State Fault Refusal := execFull .elect .cross electBody w s

/-! Statistics. -/

/-- An m operand of a lane as it stands now. -/
def Iss.tri (i : Iss) (l : Nat) (o : Opnd) : Triple :=
  match o with
  | .m n => i.gr.regs.getM l n.val
  | _ => emptyTriple
def dstM (d : Opnd) (l : Nat) (t : Triple) : List (Nat × Nat × Triple) :=
  match d with
  | .m n => [(l, n.val, t)]
  | _ => []
def triBody (lat : Nat) (f : Iss → Nat → Triple) (i : Iss) (s : State) : Body :=
  .ok (s.landM i.g lat (i.half.flatMap fun l => dstM i.w.d l (f i l)))
def tMclr (_ : Iss) (_ : Nat) : Triple := emptyTriple
def tMacc (i : Iss) (l : Nat) : Triple := maccTriple (i.tri l i.w.d) (i.rd32 l i.w.a)
def tMaccw (i : Iss) (l : Nat) : Triple := maccwTriple (i.tri l i.w.d) (i.rd32 l i.w.a) (i.rd32 l i.w.b)
def tMmerge (i : Iss) (l : Nat) : Triple := mmerge (i.tri l i.w.a) (i.tri l i.w.b)
def tMput (i : Iss) (l : Nat) : Triple := ⟨i.rd32 l i.w.a, i.rd32 l i.w.b, i.rd32 l i.w.c⟩
/-- MLANE (R154): every live lane contributes; lane 0 takes the result. -/
def mlaneBody (i0 : Iss) (s : State) : Body :=
  let i := i0.now
  let leaf (l : Nat) : Triple := if i.gr.live.getLsbD l then i.tri l i.w.a else emptyTriple
  if i.lanes.isEmpty || i.cur.half = 1 then .ok s
  else .ok (s.landM i.g (6 * levels i.gr.width) (dstM i.w.d 0 (treeFold mmerge (levels i.gr.width) leaf 0)))
/-- The epsilon exponent of R155. -/
def epsOf (i : Iss) (l : Nat) (o : Opnd) (wt : Bool) : Nat :=
  if o.unused wt then i.gr.mode.toNat / 2 ^ 16 % 64
  else (max 0 (min 63 (i.rd32 l o).toInt)).toNat
def gMget (i : Iss) (l : Nat) : W64 :=
  let t := i.tri l i.w.a
  let r : W32 :=
    match i.w.sub.toNat with
    | 0 => t.n
    | 1 => t.mean
    | 2 => t.m2
    | 3 => tripleVar t
    | _ => tripleRstd t (epsOf i l i.w.b i.w.wb)
  r.setWidth 64
def gMnorm (i : Iss) (l : Nat) : W64 :=
  (tripleNorm (i.rd32 l i.w.a) (i.tri l i.w.b) (epsOf i l i.w.c i.w.wc)).setWidth 64

def execMclr (w : Full) (s : State) : Host.Outcome State Fault Refusal := execFull .mclr .lanewise (triBody 4 tMclr) w s
def execMacc (w : Full) (s : State) : Host.Outcome State Fault Refusal := execFull .macc .lanewise (triBody 8 tMacc) w s
def execMaccw (w : Full) (s : State) : Host.Outcome State Fault Refusal := execFull .maccw .lanewise (triBody 8 tMaccw) w s
def execMmerge (w : Full) (s : State) : Host.Outcome State Fault Refusal := execFull .mmerge .lanewise (triBody 10 tMmerge) w s
def execMlane (w : Full) (s : State) : Host.Outcome State Fault Refusal := execFull .mlane .cross mlaneBody w s
def execMget (w : Full) (s : State) : Host.Outcome State Fault Refusal := execFull .mget .lanewise (vecBody 16 notWide gMget) w s
def execMput (w : Full) (s : State) : Host.Outcome State Fault Refusal := execFull .mput .lanewise (triBody 4 tMput) w s
def execMnorm (w : Full) (s : State) : Host.Outcome State Fault Refusal := execFull .mnorm .lanewise (vecBody 6 notWide gMnorm) w s

end Sys2Proof.Machine
end

