-- ==== Sys2Proof/Machine/Pair.lean ====
section
/-! DEFINITION. The short forms, each by its full form (R97, R98), and the pair words (R99 to R101). The constructor of a pair
word names the opcode of slot X; its meaning is that of the whole word, both slots. -/
namespace Sys2Proof.Machine

def execMovS32 (d a : BitVec 8) (s : State) : Host.Outcome State Fault Refusal :=
  execFull .mov .lanewise bodyMov { shortFull (opndV d) (opndV a) (.v 0) none with wb := false } s
def execIaddS32 (d a b : BitVec 8) (s : State) : Host.Outcome State Fault Refusal :=
  execFull .iadd .lanewise bodyIadd (shortFull (opndV d) (opndV a) (opndV b) none) s
def execIsubS32 (d a b : BitVec 8) (s : State) : Host.Outcome State Fault Refusal :=
  execFull .isub .lanewise bodyIsub (shortFull (opndV d) (opndV a) (opndV b) none) s
def execAndS32 (d a b : BitVec 8) (s : State) : Host.Outcome State Fault Refusal :=
  execFull .andI .lanewise bodyAndI (shortFull (opndV d) (opndV a) (opndV b) none) s
def execOrS32 (d a b : BitVec 8) (s : State) : Host.Outcome State Fault Refusal :=
  execFull .orI .lanewise bodyOrI (shortFull (opndV d) (opndV a) (opndV b) none) s
def execXorS32 (d a b : BitVec 8) (s : State) : Host.Outcome State Fault Refusal :=
  execFull .xorI .lanewise bodyXorI (shortFull (opndV d) (opndV a) (opndV b) none) s
def execShlS32 (d a n : BitVec 8) (s : State) : Host.Outcome State Fault Refusal :=
  execFull .shl .lanewise bodyShl (shortFull (opndV d) (opndV a) .lit (some (n.zeroExtend 32))) s
def execShrS32 (d a n : BitVec 8) (s : State) : Host.Outcome State Fault Refusal :=
  execFull .shr .lanewise bodyShr (shortFull (opndV d) (opndV a) .lit (some (n.zeroExtend 32))) s
def execFaddS32 (d a b : BitVec 8) (s : State) : Host.Outcome State Fault Refusal :=
  execFull .fadd .lanewise bodyFadd { shortFull (opndV d) (opndV a) (opndV b) none with ty := .f32 } s
def execFmulS32 (d a b : BitVec 8) (s : State) : Host.Outcome State Fault Refusal :=
  execFull .fmul .lanewise bodyFmul { shortFull (opndV d) (opndV a) (opndV b) none with ty := .f32 } s
def execIaddImmS32 (d a imm : BitVec 8) (s : State) : Host.Outcome State Fault Refusal :=
  execFull .iadd .lanewise bodyIadd (shortFull (opndV d) (opndV a) .lit (some (imm.signExtend 32))) s
def execMovImmS32 (d imm : BitVec 8) (s : State) : Host.Outcome State Fault Refusal :=
  execFull .mov .lanewise bodyMov { shortFull (opndV d) .lit (.v 0) (some (imm.signExtend 32)) with wb := false } s

/-- The value of a slot's second source (R101). -/
def pairSrc (gr : Group) (l : Nat) (float : Bool) (x : PairSlot) : W32 :=
  if x.immf then
    (if float then BitVec.ofNat 32 (cvtFromInt fF32 rneMode x.a.toInt).bits else x.a.signExtend 32)
  else (gr.regs.getV l x.a.toNat).val
def PairOpFloat (p : PairOp) : Bool := decide (8 ≤ p.code)
/-- PairOp of R101. -/
def pairVal (p : PairOp) (md : RMode) (d a : W32) : W32 × Conds :=
  match p with
  | .mov => (a, noConds)
  | .iadd => (d + a, noConds)
  | .isub => (d - a, noConds)
  | .imin => (if d.toInt ≤ a.toInt then d else a, noConds)
  | .imax => (if d.toInt ≤ a.toInt then a else d, noConds)
  | .andP => (d &&& a, noConds)
  | .orP => (d ||| a, noConds)
  | .xorP => (d ^^^ a, noConds)
  | .fadd => let r := fAdd md d a; (BitVec.ofNat 32 r.bits, r.conds)
  | .fmul => let r := fMul md d a; (BitVec.ofNat 32 r.bits, r.conds)
  | .fmin => (fMinMax false md d a, noConds)
  | .fmax => (fMinMax true md d a, noConds)
def slotResults (gr : Group) (md : RMode) (p : PairOp) (x : PairSlot) (lanes : List Nat) : List (Nat × W32 × Conds) :=
  lanes.map fun l => (l, pairVal p md (gr.regs.getV l x.d.toNat).val (pairSrc gr l (PairOpFloat p) x))
/-- The v registers a slot names lie below n_v (R100). -/
def slotOk (nv : Nat) (x : PairSlot) : Bool := x.d.toNat < nv && (x.immf || x.a.toNat < nv)
/-- DESIGN CHOICE (log 64): a pair word has no wait bits, and its sources wait. -/
def slotSrcs (x : PairSlot) : List Src :=
  let v (n : BitVec 8) : List Src := if h : n.toNat < 248 then [⟨.v ⟨n.toNat, h⟩, true, 1⟩] else []
  v x.d ++ if x.immf then [] else v x.a

/-- ISSUING A PAIR WORD (R99 to R101): each slot under its own guard, sources of X before those of Y. -/
def issuePair (xop : PairOp) (w : PairWord) (c : Cur) (s : State) : State :=
  match s.team? c.g.team, s.group? c.g with
  | some t, some gr =>
    let lanes (x : PairSlot) : List Nat := halfLanes gr.width c.half ((lanesOf c.exec).filter fun l => guardOf c gr x.grd.val l)
    let lx := lanes w.x
    let ly := lanes w.y
    let outs := (lanesOf c.exec).map fun l =>
      (l, srcOutcome ((if lx.contains l then (slotSrcs w.x).flatMap (srcStates gr.regs l) else []) ++
        (if ly.contains l then (slotSrcs w.y).flatMap (srcStates gr.regs l) else [])))
    let fails := outs.filterMap fun x =>
      match x.2 with
      | .fail k v => some ⟨x.1, k, c.pc, BitVec.ofNat 64 v⟩
      | _ => none
    if !(slotOk t.kern.regs w.x && slotOk t.kern.regs w.y) then s.issueThrows c gr t.coord false w.yld w.gap.toNat (illegal s c)
    else if !fails.isEmpty then
      (s.loseRegs c.g t.ctx ((fails.filter fun x => x.code = eEcc).map fun x => x.lane * 256 + x.value.toNat)).issueThrows c gr t.coord false w.yld w.gap.toNat fails
    else if outs.any fun x => x.2 == .stall then s.issueStalls c t.coord gr.quarter
    else
      let md := RMode.ofMode gr.mode
      let rx := slotResults gr md xop w.x lx
      let ry := slotResults gr md w.yop w.y ly
      let conds := (lanesOf c.exec).map fun l =>
        (l, ((rx ++ ry).filter fun x => x.1 == l).foldl (fun a x => a.merge x.2.2) noConds)
      match arithThrows gr.mode c.pc conds with
      | [] =>
        let first := gr.width = 64 ∧ c.half = 0
        let lat (p : PairOp) : Nat := if PairOpFloat p then 6 else 4
        let s := if first then s else s.modGroup c.g fun y => y.tickDefer.advance c.exec c.len
        let s := s.land c.g (lat xop) (rx.map fun x => (.v x.1 w.x.d.toNat, x.2.1.setWidth 64))
        let s := s.land c.g (lat w.yop) (ry.map fun x => (.v x.1 w.y.d.toNat, x.2.1.setWidth 64))
        if first then s.halfDone c t.coord gr.quarter gr.regs []
        else s.issued c.g c gr.width gr.quarter gr.role false w.yld w.gap.toNat t.coord
      | l => s.issueThrows c gr t.coord false w.yld w.gap.toNat l
  | _, _ => { s with cur := none }

def execMovPair (w : PairWord) (s : State) : Host.Outcome State Fault Refusal := onIssue s fun c => issuePair .mov w c s
def execIaddPair (w : PairWord) (s : State) : Host.Outcome State Fault Refusal := onIssue s fun c => issuePair .iadd w c s
def execIsubPair (w : PairWord) (s : State) : Host.Outcome State Fault Refusal := onIssue s fun c => issuePair .isub w c s
def execIminPair (w : PairWord) (s : State) : Host.Outcome State Fault Refusal := onIssue s fun c => issuePair .imin w c s
def execImaxPair (w : PairWord) (s : State) : Host.Outcome State Fault Refusal := onIssue s fun c => issuePair .imax w c s
def execAndPair (w : PairWord) (s : State) : Host.Outcome State Fault Refusal := onIssue s fun c => issuePair .andP w c s
def execOrPair (w : PairWord) (s : State) : Host.Outcome State Fault Refusal := onIssue s fun c => issuePair .orP w c s
def execXorPair (w : PairWord) (s : State) : Host.Outcome State Fault Refusal := onIssue s fun c => issuePair .xorP w c s
def execFaddPair (w : PairWord) (s : State) : Host.Outcome State Fault Refusal := onIssue s fun c => issuePair .fadd w c s
def execFmulPair (w : PairWord) (s : State) : Host.Outcome State Fault Refusal := onIssue s fun c => issuePair .fmul w c s
def execFminPair (w : PairWord) (s : State) : Host.Outcome State Fault Refusal := onIssue s fun c => issuePair .fmin w c s
def execFmaxPair (w : PairWord) (s : State) : Host.Outcome State Fault Refusal := onIssue s fun c => issuePair .fmax w c s

end Sys2Proof.Machine
end

