-- ==== Sys2Proof/Machine/Dispatch.lean ====
section
/-! DEFINITION. Every step of the opcode table and its meaning. -/
namespace Sys2Proof.Machine

def exec (i : Instr) (s : State) : Host.Outcome State Fault Refusal :=
  match i with
  | .sadd w => Sys2Proof.Machine.execSadd w s
  | .ssub w => Sys2Proof.Machine.execSsub w s
  | .smul w => Sys2Proof.Machine.execSmul w s
  | .smulh w => Sys2Proof.Machine.execSmulh w s
  | .sand w => Sys2Proof.Machine.execSand w s
  | .sor w => Sys2Proof.Machine.execSor w s
  | .sxor w => Sys2Proof.Machine.execSxor w s
  | .sshl w => Sys2Proof.Machine.execSshl w s
  | .sshr w => Sys2Proof.Machine.execSshr w s
  | .smin w => Sys2Proof.Machine.execSmin w s
  | .smax w => Sys2Proof.Machine.execSmax w s
  | .smov w => Sys2Proof.Machine.execSmov w s
  | .ssel w => Sys2Proof.Machine.execSsel w s
  | .scmp w => Sys2Proof.Machine.execScmp w s
  | .slea w => Sys2Proof.Machine.execSlea w s
  | .sget w => Sys2Proof.Machine.execSget w s
  | .sset w => Sys2Proof.Machine.execSset w s
  | .spopc w => Sys2Proof.Machine.execSpopc w s
  | .sclz w => Sys2Proof.Machine.execSclz w s
  | .iadd w => Sys2Proof.Machine.execIadd w s
  | .isub w => Sys2Proof.Machine.execIsub w s
  | .imul w => Sys2Proof.Machine.execImul w s
  | .imulh w => Sys2Proof.Machine.execImulh w s
  | .imad w => Sys2Proof.Machine.execImad w s
  | .imin w => Sys2Proof.Machine.execImin w s
  | .imax w => Sys2Proof.Machine.execImax w s
  | .iabs w => Sys2Proof.Machine.execIabs w s
  | .ineg w => Sys2Proof.Machine.execIneg w s
  | .andI w => Sys2Proof.Machine.execAndI w s
  | .orI w => Sys2Proof.Machine.execOrI w s
  | .xorI w => Sys2Proof.Machine.execXorI w s
  | .andn w => Sys2Proof.Machine.execAndn w s
  | .shl w => Sys2Proof.Machine.execShl w s
  | .shr w => Sys2Proof.Machine.execShr w s
  | .sra w => Sys2Proof.Machine.execSra w s
  | .rol w => Sys2Proof.Machine.execRol w s
  | .popc w => Sys2Proof.Machine.execPopc w s
  | .clz w => Sys2Proof.Machine.execClz w s
  | .brev w => Sys2Proof.Machine.execBrev w s
  | .bfe w => Sys2Proof.Machine.execBfe w s
  | .bfi w => Sys2Proof.Machine.execBfi w s
  | .icmp w => Sys2Proof.Machine.execIcmp w s
  | .sel w => Sys2Proof.Machine.execSel w s
  | .mov w => Sys2Proof.Machine.execMov w s
  | .movk w => Sys2Proof.Machine.execMovk w s
  | .idot4 w => Sys2Proof.Machine.execIdot4 w s
  | .fadd w => Sys2Proof.Machine.execFadd w s
  | .fsub w => Sys2Proof.Machine.execFsub w s
  | .fmul w => Sys2Proof.Machine.execFmul w s
  | .ffma w => Sys2Proof.Machine.execFfma w s
  | .fmin w => Sys2Proof.Machine.execFmin w s
  | .fmax w => Sys2Proof.Machine.execFmax w s
  | .fabs w => Sys2Proof.Machine.execFabs w s
  | .fneg w => Sys2Proof.Machine.execFneg w s
  | .fcmp w => Sys2Proof.Machine.execFcmp w s
  | .fclass w => Sys2Proof.Machine.execFclass w s
  | .frnd w => Sys2Proof.Machine.execFrnd w s
  | .fscale w => Sys2Proof.Machine.execFscale w s
  | .fdot2 w => Sys2Proof.Machine.execFdot2 w s
  | .frcp w => Sys2Proof.Machine.execFrcp w s
  | .frsq w => Sys2Proof.Machine.execFrsq w s
  | .fsqrt w => Sys2Proof.Machine.execFsqrt w s
  | .fexp2 w => Sys2Proof.Machine.execFexp2 w s
  | .flog2 w => Sys2Proof.Machine.execFlog2 w s
  | .fsin w => Sys2Proof.Machine.execFsin w s
  | .fcos w => Sys2Proof.Machine.execFcos w s
  | .ftanh w => Sys2Proof.Machine.execFtanh w s
  | .cvt w => Sys2Proof.Machine.execCvt w s
  | .cbdec w => Sys2Proof.Machine.execCbdec w s
  | .obdec w => Sys2Proof.Machine.execObdec w s
  | .perm w => Sys2Proof.Machine.execPerm w s
  | .shfl w => Sys2Proof.Machine.execShfl w s
  | .bcast w => Sys2Proof.Machine.execBcast w s
  | .vote w => Sys2Proof.Machine.execVote w s
  | .matchI w => Sys2Proof.Machine.execMatchI w s
  | .scan w => Sys2Proof.Machine.execScan w s
  | .lred w => Sys2Proof.Machine.execLred w s
  | .elect w => Sys2Proof.Machine.execElect w s
  | .mclr w => Sys2Proof.Machine.execMclr w s
  | .macc w => Sys2Proof.Machine.execMacc w s
  | .maccw w => Sys2Proof.Machine.execMaccw w s
  | .mmerge w => Sys2Proof.Machine.execMmerge w s
  | .mlane w => Sys2Proof.Machine.execMlane w s
  | .mget w => Sys2Proof.Machine.execMget w s
  | .mput w => Sys2Proof.Machine.execMput w s
  | .mnorm w => Sys2Proof.Machine.execMnorm w s
  | .ld w => Sys2Proof.Machine.execLd w s
  | .st w => Sys2Proof.Machine.execSt w s
  | .ldacq w => Sys2Proof.Machine.execLdacq w s
  | .strel w => Sys2Proof.Machine.execStrel w s
  | .atom w => Sys2Proof.Machine.execAtom w s
  | .red w => Sys2Proof.Machine.execRed w s
  | .fence w => Sys2Proof.Machine.execFence w s
  | .pref w => Sys2Proof.Machine.execPref w s
  | .probe w => Sys2Proof.Machine.execProbe w s
  | .ldstrm w => Sys2Proof.Machine.execLdstrm w s
  | .ststrm w => Sys2Proof.Machine.execStstrm w s
  | .bra w => Sys2Proof.Machine.execBra w s
  | .jmpi w => Sys2Proof.Machine.execJmpi w s
  | .call w => Sys2Proof.Machine.execCall w s
  | .ret w => Sys2Proof.Machine.execRet w s
  | .exit w => Sys2Proof.Machine.execExit w s
  | .nop w => Sys2Proof.Machine.execNop w s
  | .pause w => Sys2Proof.Machine.execPause w s
  | .bar w => Sys2Proof.Machine.execBar w s
  | .barc w => Sys2Proof.Machine.execBarc w s
  | .waitge w => Sys2Proof.Machine.execWaitge w s
  | .trap w => Sys2Proof.Machine.execTrap w s
  | .tryOpen w => Sys2Proof.Machine.execTryOpen w s
  | .tryClose w => Sys2Proof.Machine.execTryClose w s
  | .throwI w => Sys2Proof.Machine.execThrowI w s
  | .rethrow w => Sys2Proof.Machine.execRethrow w s
  | .spawn w => Sys2Proof.Machine.execSpawn w s
  | .setmode w => Sys2Proof.Machine.execSetmode w s
  | .getmode w => Sys2Proof.Machine.execGetmode w s
  | .bkpt w => Sys2Proof.Machine.execBkpt w s
  | .cpy w => Sys2Proof.Machine.execCpy w s
  | .cpyt w => Sys2Proof.Machine.execCpyt w s
  | .cpycan w => Sys2Proof.Machine.execCpycan w s
  | .ctradd w => Sys2Proof.Machine.execCtradd w s
  | .qpush w => Sys2Proof.Machine.execQpush w s
  | .qpop w => Sys2Proof.Machine.execQpop w s
  | .qsteal w => Sys2Proof.Machine.execQsteal w s
  | .tsubmit w => Sys2Proof.Machine.execTsubmit w s
  | .rget w => Sys2Proof.Machine.execRget w s
  | .rput w => Sys2Proof.Machine.execRput w s
  | .rfree w => Sys2Proof.Machine.execRfree w s
  | .rsv w => Sys2Proof.Machine.execRsv w s
  | .rls w => Sys2Proof.Machine.execRls w s
  | .mzero w => Sys2Proof.Machine.execMzero w s
  | .mma w => Sys2Proof.Machine.execMma w s
  | .mmap w => Sys2Proof.Machine.execMmap w s
  | .mmas w => Sys2Proof.Machine.execMmas w s
  | .mdrain w => Sys2Proof.Machine.execMdrain w s
  | .mfence w => Sys2Proof.Machine.execMfence w s
  | .movS32 d a => Sys2Proof.Machine.execMovS32 d a s
  | .iaddS32 d a b => Sys2Proof.Machine.execIaddS32 d a b s
  | .isubS32 d a b => Sys2Proof.Machine.execIsubS32 d a b s
  | .andS32 d a b => Sys2Proof.Machine.execAndS32 d a b s
  | .orS32 d a b => Sys2Proof.Machine.execOrS32 d a b s
  | .xorS32 d a b => Sys2Proof.Machine.execXorS32 d a b s
  | .shlS32 d a n => Sys2Proof.Machine.execShlS32 d a n s
  | .shrS32 d a n => Sys2Proof.Machine.execShrS32 d a n s
  | .faddS32 d a b => Sys2Proof.Machine.execFaddS32 d a b s
  | .fmulS32 d a b => Sys2Proof.Machine.execFmulS32 d a b s
  | .iaddImmS32 d a imm => Sys2Proof.Machine.execIaddImmS32 d a imm s
  | .movImmS32 d imm => Sys2Proof.Machine.execMovImmS32 d imm s
  | .nopS32 => Sys2Proof.Machine.execNopS32 s
  | .exitS32 => Sys2Proof.Machine.execExitS32 s
  | .braS32 off => Sys2Proof.Machine.execBraS32 off s
  | .pauseS32 n => Sys2Proof.Machine.execPauseS32 n s
  | .movPair w => Sys2Proof.Machine.execMovPair w s
  | .iaddPair w => Sys2Proof.Machine.execIaddPair w s
  | .isubPair w => Sys2Proof.Machine.execIsubPair w s
  | .iminPair w => Sys2Proof.Machine.execIminPair w s
  | .imaxPair w => Sys2Proof.Machine.execImaxPair w s
  | .andPair w => Sys2Proof.Machine.execAndPair w s
  | .orPair w => Sys2Proof.Machine.execOrPair w s
  | .xorPair w => Sys2Proof.Machine.execXorPair w s
  | .faddPair w => Sys2Proof.Machine.execFaddPair w s
  | .fmulPair w => Sys2Proof.Machine.execFmulPair w s
  | .fminPair w => Sys2Proof.Machine.execFminPair w s
  | .fmaxPair w => Sys2Proof.Machine.execFmaxPair w s
  | .issueSelect coord q kaMiss => Sys2Proof.Machine.execIssueSelect coord q kaMiss s
  | .agePromotion g => Sys2Proof.Machine.execAgePromotion g s
  | .pauseEnd g => Sys2Proof.Machine.execPauseEnd g s
  | .deferEnd g lane => Sys2Proof.Machine.execDeferEnd g lane s
  | .steeringEnd r => Sys2Proof.Machine.execSteeringEnd r s
  | .catchTeamDispatch launch => Sys2Proof.Machine.execCatchTeamDispatch launch s
  | .loadLanding id => Sys2Proof.Machine.execLoadLanding id s
  | .storeAck id => Sys2Proof.Machine.execStoreAck id s
  | .storePathRelease id => Sys2Proof.Machine.execStorePathRelease id s
  | .atomAtOwner id => Sys2Proof.Machine.execAtomAtOwner id s
  | .atomReply id => Sys2Proof.Machine.execAtomReply id s
  | .ctmArrival id => Sys2Proof.Machine.execCtmArrival id s
  | .tableWalkComplete id => Sys2Proof.Machine.execTableWalkComplete id s
  | .faultServed rec => Sys2Proof.Machine.execFaultServed rec s
  | .faultLimitExpire rec => Sys2Proof.Machine.execFaultLimitExpire rec s
  | .shootdownAck id coord => Sys2Proof.Machine.execShootdownAck id coord s
  | .streamLoadElement coord q => Sys2Proof.Machine.execStreamLoadElement coord q s
  | .streamStoreElement coord q => Sys2Proof.Machine.execStreamStoreElement coord q s
  | .streamComplete id => Sys2Proof.Machine.execStreamComplete id s
  | .engineOpStart op => Sys2Proof.Machine.execEngineOpStart op s
  | .chunkStart engine => Sys2Proof.Machine.execChunkStart engine s
  | .chunkComplete op chunk => Sys2Proof.Machine.execChunkComplete op chunk s
  | .waitgeTimeout g => Sys2Proof.Machine.execWaitgeTimeout g s
  | .multicastDrop op chunk coord => Sys2Proof.Machine.execMulticastDrop op chunk coord s
  | .queueSpillStart op => Sys2Proof.Machine.execQueueSpillStart op s
  | .queueSpillPerformed op => Sys2Proof.Machine.execQueueSpillPerformed op s
  | .queueRefillStart team q => Sys2Proof.Machine.execQueueRefillStart team q s
  | .queueRefillLanding op => Sys2Proof.Machine.execQueueRefillLanding op s
  | .stealRequestServe id => Sys2Proof.Machine.execStealRequestServe id s
  | .stealReplyLanding id => Sys2Proof.Machine.execStealReplyLanding id s
  | .stealAck id => Sys2Proof.Machine.execStealAck id s
  | .spawnRingSpill team => Sys2Proof.Machine.execSpawnRingSpill team s
  | .spawnRingRefill team => Sys2Proof.Machine.execSpawnRingRefill team s
  | .gatherTimeout id => Sys2Proof.Machine.execGatherTimeout id s
  | .spawnGroupDispatch id => Sys2Proof.Machine.execSpawnGroupDispatch id s
  | .teamEnd team => Sys2Proof.Machine.execTeamEnd team s
  | .launchComplete launch => Sys2Proof.Machine.execLaunchComplete launch s
  | .clusterAssign => Sys2Proof.Machine.execClusterAssign s
  | .clusterDispatch die => Sys2Proof.Machine.execClusterDispatch die s
  | .groupEvict g => Sys2Proof.Machine.execGroupEvict g s
  | .teamLeave team => Sys2Proof.Machine.execTeamLeave team s
  | .teamRestore team => Sys2Proof.Machine.execTeamRestore team s
  | .timeSliceExpire coord ctx => Sys2Proof.Machine.execTimeSliceExpire coord ctx s
  | .trapBlocksWritten g => Sys2Proof.Machine.execTrapBlocksWritten g s
  | .serviceCallForward ctx => Sys2Proof.Machine.execServiceCallForward ctx s
  | .serviceTimeout ctx seq => Sys2Proof.Machine.execServiceTimeout ctx seq s
  | .trapResume g => Sys2Proof.Machine.execTrapResume g s
  | .matrixOpStart coord => Sys2Proof.Machine.execMatrixOpStart coord s
  | .matrixOpRetire id => Sys2Proof.Machine.execMatrixOpRetire id s
  | .mdrainStart coord => Sys2Proof.Machine.execMdrainStart coord s
  | .mdrainRetire id => Sys2Proof.Machine.execMdrainRetire id s
  | .rputEffect id => Sys2Proof.Machine.execRputEffect id s
  | .rfreeEffect id => Sys2Proof.Machine.execRfreeEffect id s
  | .taskStart die id => Sys2Proof.Machine.execTaskStart die id s
  | .taskCommit die id => Sys2Proof.Machine.execTaskCommit die id s
  | .switchContribution x => Sys2Proof.Machine.execSwitchContribution x s
  | .reducedChunkWrite x => Sys2Proof.Machine.execReducedChunkWrite x s
  | .rankLost ctx rank => Sys2Proof.Machine.execRankLost ctx rank s
  | .packetReceive port bytes drain => Sys2Proof.Machine.execPacketReceive port bytes drain s
  | .leaderTakeover => Sys2Proof.Machine.execLeaderTakeover s
  | .marginReading coord margin powerDomain => Sys2Proof.Machine.execMarginReading coord margin powerDomain s
  | .replan => Sys2Proof.Machine.execReplan s
  | .emberVisit die => Sys2Proof.Machine.execEmberVisit die s
  | .emberPatternsStart coord => Sys2Proof.Machine.execEmberPatternsStart coord s
  | .emberPassEnd coord failed => Sys2Proof.Machine.execEmberPassEnd coord failed s
  | .drainTimeout coord => Sys2Proof.Machine.execDrainTimeout coord s
  | .scrubRead u line outcome => Sys2Proof.Machine.execScrubRead u line outcome s
  | .eccReencode u => Sys2Proof.Machine.execEccReencode u s
  | .cecWindowEnd => Sys2Proof.Machine.execCecWindowEnd s
  | .laneSpare l => Sys2Proof.Machine.execLaneSpare l s
  | .linkRetrainComplete l => Sys2Proof.Machine.execLinkRetrainComplete l s
  | .thermalRowChange die junction layer temp => Sys2Proof.Machine.execThermalRowChange die junction layer temp s
  | .powerOn fails => Sys2Proof.Machine.execPowerOn fails s
  | .powerLoss => Sys2Proof.Machine.execPowerLoss s
  | .forcedEnd launch => Sys2Proof.Machine.execForcedEnd launch s
  | .repairRowCopyComplete u row => Sys2Proof.Machine.execRepairRowCopyComplete u row s
  | .sliceRehomeComplete coord => Sys2Proof.Machine.execSliceRehomeComplete coord s
  | .openS h port => Sys2Proof.Machine.execOpenS h port s
  | .authS h principal mac newKey => Sys2Proof.Machine.execAuthS h principal mac newKey s
  | .closeS h => Sys2Proof.Machine.execCloseS h s
  | .ctxCreate h x => Sys2Proof.Machine.execCtxCreate h x s
  | .ctxDestroy h => Sys2Proof.Machine.execCtxDestroy h s
  | .mapVa h x => Sys2Proof.Machine.execMapVa h x s
  | .unmap h va len => Sys2Proof.Machine.execUnmap h va len s
  | .memRead h va len => Sys2Proof.Machine.execMemRead h va len s
  | .memWrite h va bytes => Sys2Proof.Machine.execMemWrite h va bytes s
  | .keySet h slot material => Sys2Proof.Machine.execKeySet h slot material s
  | .keyClear h slot => Sys2Proof.Machine.execKeyClear h slot s
  | .imgLoad h x => Sys2Proof.Machine.execImgLoad h x s
  | .imgDrop h image => Sys2Proof.Machine.execImgDrop h image s
  | .launch h x => Sys2Proof.Machine.execLaunch h x s
  | .cancel h grid => Sys2Proof.Machine.execCancel h grid s
  | .ringState h => Sys2Proof.Machine.execRingState h s
  | .queueState h grid cluster pos q => Sys2Proof.Machine.execQueueState h grid cluster pos q s
  | .reply h seq value status => Sys2Proof.Machine.execReply h seq value status s
  | .faultRefuse h rec => Sys2Proof.Machine.execFaultRefuse h rec s
  | .almRead h u => Sys2Proof.Machine.execAlmRead h u s
  | .almWrite h u floor => Sys2Proof.Machine.execAlmWrite h u floor s
  | .almWriteEcc h u ecc => Sys2Proof.Machine.execAlmWriteEcc h u ecc s
  | .health h replanDays => Sys2Proof.Machine.execHealth h replanDays s
  | .spare h x => Sys2Proof.Machine.execSpare h x s
  | .retire h x => Sys2Proof.Machine.execRetire h x s
  | .rankmap h x => Sys2Proof.Machine.execRankmap h x s
  | .tree h cgrp write => Sys2Proof.Machine.execTree h cgrp write s
  | .engineQ h die quanta => Sys2Proof.Machine.execEngineQ h die quanta s
  | .attach h freeze => Sys2Proof.Machine.execAttach h freeze s
  | .haltG h x offCore => Sys2Proof.Machine.execHaltG h x offCore s
  | .resume h x => Sys2Proof.Machine.execResume h x s
  | .step h g => Sys2Proof.Machine.execStep h g s
  | .breakSet h n addr => Sys2Proof.Machine.execBreakSet h n addr s
  | .stateRead h g => Sys2Proof.Machine.execStateRead h g s
  | .sessionLoss session => Sys2Proof.Machine.execSessionLoss session s

end Sys2Proof.Machine
end

