-- ==== Sys2Proof/Machine/Fetch.lean ====
section
/-! DEFINITION. Fetching the parcels of the word a group is to issue (R27, R83, R241), what runs when (R1 to R3, R350), and
the machine in which a word stands where the next step fetches. -/
namespace Sys2Proof.Machine

/-- What the fetch of a word gives: its parcels, parcels that are no instruction, a failure at an address (E_PROT without
CODE, R241; E_ECC on poison, R323), or a page to walk for (R242). -/
inductive Fetched where
  | word (raw : List W32)
  | illegal (raw : List W32)
  | stop (code va : Nat)
  | miss (va : Nat)
  deriving DecidableEq, Repr

/-- Parcel i of the word at offset pc; at or beyond the end of the image it reads 0 (R83). -/
def State.parcel (s : State) (t : Team) (pc i : Nat) : Fetched :=
  let va := s.codeBase t + pc + 4 * i
  if s.codeSize t ≤ pc + 4 * i then .word [0]
  else
    match s.tlb? t va false with
    | none => .miss va
    | some x =>
      if !pteCode x.leaf then .stop eProt va
      else if s.dram.poisoned x.pa 4 then .stop eEcc va
      else .word [BitVec.ofNat 32 (s.dram.readN x.pa 4)]

/-- Parcels after those read so far. -/
def Fetched.more (f g : Fetched) : Fetched :=
  match f with
  | .word a =>
    match g with
    | .word b => .word (a ++ b)
    | _ => g
  | _ => f

/-- The parcels at a PC (R83): as many as KIND says; a word that reaches beyond the image is no instruction. -/
def State.fetchAt (s : State) (t : Team) (pc : Nat) : Fetched :=
  match s.parcel t pc 0 with
  | .word a =>
    let n := kindParcels ((a.getD 0 0).toNat % 4)
    let rest := (List.range (n - 1)).foldl (fun f i => f.more (s.parcel t pc (i + 1))) (Fetched.word a)
    if s.codeSize t ≤ pc + 4 * (n - 1) then
      (match rest with
       | .word l => .illegal l
       | f => f)
    else rest
  | f => f

/-- The parcels as bytes in memory order (R5). -/
def parcelBytes (raw : List W32) : List Byte := raw.flatMap fun p => natLe 4 p.toNat

/-- The pages of a fetched word are the most recent of their sets (R242). -/
def State.touchCode (s : State) (t : Team) (pc n : Nat) : State :=
  (List.range n).foldl (fun s i =>
    let va := s.codeBase t + pc + 4 * i
    match s.tlb? t va false with
    | some x => s.modCore t.coord fun c => tlbPut c t.ctx va x
    | none => s) s

/-- A fetch that misses the TLB holds the group until its walk is over, or stalls while the wait list of the walkers is full (R242, R238). -/
def State.holdCode (s : State) (t : Team) (c : Cur) (va : Nat) : State :=
  let mw : MemWord := { act := .code, byw := s.starter c.g c.exec c.pc, exec := c.exec, space := 0, dst := .none,
                        accs := [{ lane := 0, addr := va, size := 4 }], saved := [], savedS := [], walking := true, t0 := s.clock }
  if s.walksFull t.coord t.ctx [va] then s.issueStalls c t.coord (((s.group? c.g).map fun y => y.quarter).getD 0)
  else { (s.startWalk t.coord t.ctx va).modGroup c.g fun y => { y with held := some mw } with cur := none }

/-- A word whose fetch fails has issued without effect, and every lane of Exec throws (R107, R241); poison rolls a task back. -/
def State.stopFetch (s : State) (t : Team) (gr : Group) (c : Cur) (code va : Nat) : State :=
  let pas := match decide (code = eEcc), s.tlb? t va false with
    | true, some x => [x.pa]
    | _, _ => []
  let s := ((s.eccNotice pas).modGroup c.g fun y => y.tickDefer.leaveCatch c.exec).issued c.g c gr.width gr.quarter gr.role false false 0 t.coord
  s.eccOr t c.g c.pc ((lanesOf c.exec).map fun l => (l, code, va))

/-- THE WORD NOW ISSUING: fetched, decoded and executed, or E_ILLEGAL (R83, R107). -/
def issueWord (c : Cur) (s : State) : Host.Outcome State Fault Refusal :=
  match s.team? c.g.team, s.group? c.g with
  | some t, some gr =>
    match (if c.fetched then .word c.raw else s.fetchAt t c.pc) with
    | .miss va => .next (s.holdCode t c va)
    | .stop code va => .next (s.stopFetch t gr c code va)
    | .illegal raw => .next (s.issueThrows { c with raw := raw } gr t.coord false false 0 (illegal s { c with raw := raw }))
    | .word raw =>
      match decodeBytes (parcelBytes raw) with
      | .error _ => .next (s.issueThrows { c with raw := raw } gr t.coord false false 0 (illegal s { c with raw := raw }))
      | .ok (i, len) => exec i { s.touchCode t c.pc raw.length with cur := some { c with len := len, raw := raw, fetched := true } }
  | _, _ => .next { s with cur := none }

/-! What runs next. -/

/-- The earliest due entry of the agenda, the first of its cc. -/
def dueEntry (t : Nat) (l : List (Nat × Instr)) : Option (Nat × Instr) :=
  (l.filter fun x => x.1 ≤ t).foldl (fun (b : Option (Nat × Instr)) x =>
    match b with
    | none => some x
    | some y => if x.1 < y.1 then some x else some y) none
/-- The quarters of the cores on which a team is resident, in the order of their numbers. -/
def State.quarters (s : State) : List (Nat × Nat) :=
  (Config.allCoords.filter fun c => !(s.resident c).isEmpty).flatMap fun c => [(c, 0), (c, 1), (c, 2), (c, 3)]
/-- The word that a group would issue next would stall in this cc (R36): the request slots that it keeps then (R242). -/
def State.wouldStall (s : State) (t : Team) (g : Group) : Option (List (List Nat)) :=
  let r : GRef := ⟨t.id, g.slot⟩
  match issueWord { g := r, pc := g.issuePc, exec := g.execSet, half := 0, t0 := s.clock, len := 0, raw := [], latch := none } s with
  | .next u => ((u.group? r).filter fun y => y.phase == .stalled).map fun y => y.waits
  | _ => none
/-- READY AND STALLED (R36, R39): a quarter's groups that could issue are Stalled in a cc in which their next word stalls, and Ready
again in the first cc in which it does not. Where every lane is deferred, the attempt ends the deferral (R28). -/
def State.restall (s : State) (coord q : Nat) : State :=
  ((s.quarterGroups coord q).filter fun x => (x.2.phase == .ready || x.2.phase == .stalled) && x.2.second.isNone).foldl (fun u x =>
    let ready : Group := { x.2 with phase := .ready }
    let v := s.modGroup ⟨x.1.id, x.2.slot⟩ fun y => { y with phase := .ready }
    if s.candidate x.1 ready then
      match v.wouldStall x.1 ready with
      | some w => u.modGroup ⟨x.1.id, x.2.slot⟩ fun y => { y.endDefer with phase := .stalled, stalledAt := s.clock, waits := w }
      | none => u.modGroup ⟨x.1.id, x.2.slot⟩ fun y => { y with phase := .ready }
    else u) s

/-- The next cc (R4): the clock of a frozen context stands (R345), and what is due has landed (R95). -/
def State.tick (s : State) : State :=
  State.settle
  { s with
    clock := s.clock + 1
    contexts := s.contexts.map fun (c : Ctx) => if s.frozen c.id then { c with clockOff := c.clockOff + 1 } else c
    todo := if s.power then s.quarters else [] }

/-- Without power only POWER_ON does anything (R350); what else would arrive is lost. -/
def stepDark (s : State) : Host.Outcome State Fault Refusal :=
  match s.inbox with
  | .powerOn l :: rest => exec (.powerOn l) { s with inbox := rest }
  | _ :: rest => .next { s with inbox := rest }
  | [] => .next s.tick
/-- An answer to a service call, by the host or by its time-out: of a throw and an answer in one cc the throw wins, so answers are taken
when all that can throw in the cc has come (R244). -/
def isAnswer : Instr → Bool
  | .reply _ _ _ _ => true
  | .serviceTimeout _ _ => true
  | _ => false
/-- The first input from outside that is no answer, or else the first. -/
def nextInput (l : List Instr) (answers : Bool) : Option Instr := l.find? fun i => isAnswer i == answers
/-- With power: the word now issuing, a due event, a quarter's choice, an input, a deadline, an answer to a service call, an eviction, or the
next cc. An input comes after the steering and the throws of its cc, and before its evictions (R244). -/
def stepLit (s : State) : Host.Outcome State Fault Refusal :=
  match s.cur with
  | some c => issueWord c s
  | none =>
    match dueEntry s.clock (s.agenda.filter fun x => !isAnswer x.2) with
    | some x => exec x.2 { s with agenda := s.agenda.erase x }
    | none =>
      match s.todo with
      | (coord, q) :: rest => exec (.issueSelect coord q (Config.freeBit s.free)) { s.restall coord q with todo := rest }
      | [] =>
        match nextInput s.inbox false with
        | some i => exec i { s with inbox := s.inbox.erase i }
        | none =>
          match s.deadlineDue with
          | some g => exec (.waitgeTimeout g) s
          | none =>
            match dueEntry s.clock s.agenda with
            | some x => exec x.2 { s with agenda := s.agenda.erase x }
            | none =>
              match nextInput s.inbox true with
              | some i => exec i { s with inbox := s.inbox.erase i }
              | none =>
                match s.evictDue with
                | some g => exec (.groupEvict g) s
                | none => .next s.tick

/-! A word placed where the next step fetches. -/

/-- Where the placed word stands: a code page, its frame, and the names of what runs it. -/
def placedVa : Nat := 2 ^ 40
def placedFrame : Nat := 256
def placedRoot : Nat := 512
def placedTeam : Team :=
  { id := 0, launch := 0, ctx := 1, cluster := 0, pos := 0, coord := 0, origin := 0, order := 0, kern := { regs := 248 },
    groups := [{ slot := 0, quarter := 0, width := 16, launched := lowMask 16, live := lowMask 16 }] }
def placedBody : LaunchBody :=
  { image := 0, kernel := 0, lanes := 16, clusters := 1, args := 0, mode := 0, abuf := 0, wbuf := 0, cbuf := 0, srCap := 0, srBase := 0,
    qBase := [], cgrp := 0, rbase := 0, memb := 0, flags := 0, catchOff := 0, cteam := 0, cpos := 0 }
def placedCtx : Ctx :=
  { id := 1, principal := 0
    p := { urgent := false, ring := 0, serviceTimeout := none, faultLimit := Config.ccPerSec, parkMax := Config.defaultParkMax,
           slice := Config.defaultSlice, pool := 0, hold := false, cancelOnFail := false }
    root := placedRoot }
/-- The tables that map the page stand in DRAM, from the root's frames on (R240). -/
def placedTables (m : Mem) : Mem :=
  ([(placedRoot, 3, BitVec.ofNat 64 (1 + (placedRoot + 512) * 4096)), (placedRoot + 512, 2, BitVec.ofNat 64 (1 + (placedRoot + 513) * 4096)),
    (placedRoot + 513, 1, BitVec.ofNat 64 (1 + (placedRoot + 514) * 4096)), (placedRoot + 514, 0, mkLeaf true true true false false placedFrame 0)]).foldl
    (fun (m : Mem) (x : Nat × Nat × W64) => m.writeN (entryAt x.1 x.2.1 placedVa) 8 x.2.2.toNat) m
def placedImgBody : ImgBody :=
  { image := 0, final := true, offset := 0, codeBase := placedVa, dataVa := 0, codeSize := 12, dataSize := 0, kSize := 0, rCount := 0,
    bytes := [] }
def placedImage : Image := { num := 0, ctx := 1, body := placedImgBody, final := true }
def placedLeaf : TlbEntry := ⟨1, placedVa / 4096, 12, mkLeaf true true true false false placedFrame 0, none, 0⟩
/-- The machine with a word's bytes in the code image of a running launch, whose group issues it next. -/
def State.place (s : State) (b : List Byte) : State :=
  { s with
    power := true
    framesUsed := [placedFrame] ++ (List.range 515).map (fun j => placedRoot + j) ++ s.framesUsed
    dram := (placedTables s.dram).writeBytes (placedFrame * 4096) (b.take 12 ++ List.replicate (12 - b.length) 0)
    contexts := placedCtx :: s.contexts
    images := placedImage :: s.images
    launches := { grid := 0, ctx := 1, body := placedBody, kern := { regs := 248 }, waiting := 0 } :: s.launches
    clusters := { launch := 0, id := 0, origin := 0, w := 1, h := 1 } :: s.clusters
    teams := placedTeam :: s.teams
    cores := { s.core 0 with tlb := [placedLeaf] } :: s.cores.filter fun c => c.coord != 0
    cur := some { g := ⟨0, 0⟩, pc := 0, exec := lowMask 16, half := 0, t0 := s.clock, len := 0, raw := [], latch := none } }

end Sys2Proof.Machine
end

