-- ==== Sys2Proof/Machine/Step.lean ====
section
/-! DEFINITION. One step of the machine, and a word placed where the next step fetches. -/
namespace Sys2Proof.Machine

/-- One step: without power, or with it. -/
def step (s : State) : Host.Outcome State Fault Refusal := if s.power then stepLit s else stepDark s

/-- The machine with the word's low `nbits` bits, zeros above them, standing where `step` fetches its next word. -/
def State.withFetchWord (s : State) (nbits w : Nat) : State := s.place (natLe 12 (w % 2 ^ nbits))

end Sys2Proof.Machine
end

