-- ==== Sys2Proof/Safety.lean ====
section
/-! DEFINITION. The terms of the statements: memory in its one form, a word at its issue, a step that goes on. -/
namespace Sys2Proof.Machine

/-- Every memory of a team is in its one form. -/
def Team.memWf (t : Team) : Prop := t.tm.mem.wf = true ∧ t.abuf.mem.wf = true ∧ t.wbuf.mem.wf = true ∧ t.cbuf.mem.wf = true
/-- Every memory of the machine is in its one form: addresses rise and no listed byte is 0 (R5, R193, R350). -/
def State.memWf (s : State) : Prop := s.dram.wf = true ∧ ∀ t ∈ s.teams, t.memWf

/-- A word of the instruction set, in distinction from an event or a command (R83). -/
def isWord (i : Instr) : Bool := (encodeNat i).isSome
/-- Only events and commands wait to be executed; words come from memory alone. -/
def State.eventsOnly (s : State) : Prop := (∀ x ∈ s.agenda, isWord x.2 = false) ∧ ∀ i ∈ s.inbox, isWord i = false

/-- The step answers a next state. -/
def State.goesOn (s : State) : Prop := ∃ t, step s = .next t

/-! A word at its issue. -/

/-- How the halves of a 64-wide word act (R351). -/
def issueKind (op : Op) (w : Full) : IKind :=
  match op with
  | .perm | .shfl | .bcast | .vote | .matchI | .scan | .lred | .elect | .mlane => .cross
  | .ld | .st | .ldacq | .strel | .atom | .red | .pref | .probe | .bra | .jmpi | .call | .ret | .exit | .tryOpen | .tryClose
  | .throwI | .trap | .spawn | .qpush | .qpop | .qsteal => .perLane
  | .pause => if w.sub = 0 then .once else .perLane
  | .getmode => if w.d.isS then .once else .lanewise
  | .sadd | .ssub | .smul | .smulh | .sand | .sor | .sxor | .sshl | .sshr | .smin | .smax | .smov | .ssel | .scmp | .slea
  | .sget | .sset | .spopc | .sclz | .fence | .ldstrm | .ststrm | .bar | .barc | .waitge | .rethrow | .setmode | .bkpt
  | .cpy | .cpyt | .cpycan | .ctradd | .tsubmit | .rget | .rput | .rfree | .rsv | .rls | .mzero | .mma | .mmap | .mmas
  | .mdrain | .mfence => .once
  | .iadd | .isub | .imul | .imulh | .imad | .imin | .imax | .iabs | .ineg | .andI | .orI | .xorI | .andn | .shl | .shr | .sra
  | .rol | .popc | .clz | .brev | .bfe | .bfi | .icmp | .sel | .mov | .movk | .idot4 | .fadd | .fsub | .fmul | .ffma | .fmin
  | .fmax | .fabs | .fneg | .fcmp | .fclass | .frnd | .fscale | .fdot2 | .frcp | .frsq | .fsqrt | .fexp2 | .flog2 | .fsin
  | .fcos | .ftanh | .cvt | .cbdec | .obdec | .mclr | .macc | .maccw | .mmerge | .mget | .mput | .mnorm | .nop => .lanewise

/-- The word now issuing passes checks 1 to 3 of R107 in its present half: `i` is what its meaning sees of it, `core` the
core once the entries of its input ports are taken (R91). -/
structure AtIssue (s : State) (op : Op) (w : Full) (c : Cur) (i : Iss) (core : Core) : Prop where
  cur : s.cur = some c
  team : s.team? c.g.team = some i.t
  group : s.group? c.g = some i.gr
  checks : preIssue s c i.t i.gr op w (issueKind op w) = .go i core
/-- The first half of a 64-wide word. -/
def firstHalf (c : Cur) (i : Iss) : Prop := i.gr.width = 64 ∧ c.half = 0
/-- A first half that only waits for its second: the word acts once, then (R351). -/
def onlyWaits (op : Op) (w : Full) (c : Cur) (i : Iss) : Prop :=
  firstHalf c i ∧ (issueKind op w = .once ∨ issueKind op w = .perLane)

/-- The state in which a word acts: its port entries are taken and, at its last half, Exec has advanced and the results that its
first half holds are on their way (R91, R107, R200). -/
def State.entered (s : State) (c : Cur) (i : Iss) (core : Core) : State :=
  let s1 := s.modCore i.t.coord fun _ => core
  if i.gr.width = 64 ∧ c.half = 0 then s1 else s1.modGroup c.g fun y => (y.tickDefer.advance c.exec c.len).joinHeld
/-- The state after a word that acted: the second half is due, with a cross-lane word's results held for it, or the group has issued
with the word's GAP and YLD (R96, R106, R107). -/
def State.left (s : State) (op : Op) (w : Full) (c : Cur) (i : Iss) : State :=
  if i.gr.width = 64 ∧ c.half = 0 then
    (if issueKind op w = .cross then s.holdHalf c i.gr i.t.coord else s.halfDone c i.t.coord i.gr.quarter i.gr.regs [])
  else s.issued c.g c i.gr.width i.gr.quarter i.gr.role (classX op) w.yld w.gap.toNat i.t.coord
/-- THE NEXT STATE OF A WORD whose effect is `f`. -/
def issuedWith (s : State) (op : Op) (w : Full) (c : Cur) (i : Iss) (core : Core) (f : State → State) : State :=
  (f (s.entered c i core)).left op w c i

/-! A memory word that acts. -/

/-- The word as the core holds it, its destinations marked empty (R93, R161). -/
def memWordOf (u : State) (c : Cur) (i : Iss) (act : MemAct) (space : Nat) (dst : MDst) (accs : List Acc) (lanes : List Nat) : MemWord :=
  let sv := savedOf i.gr.regs dst lanes
  { act := act, byw := u.starter c.g (maskOf i.lanes) c.pc, exec := c.exec, space := space, dst := dst, accs := accs, saved := sv.1, savedS := sv.2,
    walking := false, t0 := u.clock, id0 := u.nextId }
/-- The word's accesses are numbered (R184), and the registers it will load are marked. -/
def marked (u : State) (g : GRef) (dst : MDst) (accs : List Acc) (lanes : List Nat) : State :=
  { u with nextId := u.nextId + 4 * accs.length }.modGroup g fun y => { y with regs := lanes.foldl (fun r l => r.markDst RegSt.emptied l dst) y.regs }
/-- Every global access has its page in the TLB with the permissions it needs (R161): the physical addresses. -/
def translates (u : State) (i : Iss) (rd wr : Bool) (accs : List Acc) (tr : List Trans) : Prop :=
  tr.length = accs.length ∧ ∀ p ∈ accs.zip tr, u.tlb? i.t p.1.addr wr = some p.2 ∧
    (rd = true → pteRd p.2.leaf = true) ∧ (wr = true → pteWr p.2.leaf = true)
/-- The pages used are the most recent of their TLB sets (R242). -/
def touched (u : State) (i : Iss) (accs : List Acc) (tr : List Trans) : State :=
  (accs.zip tr).foldl (fun s p => s.modCore i.t.coord fun k => tlbPut k i.t.ctx p.1.addr p.2) u
/-- No line of an access to team memory or the A buffer is absent or orphaned (R161, R162). -/
def linesPresent (u : State) (i : Iss) (space : Nat) (accs : List Acc) : Prop :=
  ∀ a ∈ accs, space = 3 ∨ (space = 1 ∧ 0x7E800 ≤ a.addr) ∨
    ∀ l ∈ linesOf a.addr a.size, l ∉ ((((u.team? i.t.id).getD i.t).buf space).absent ++ (((u.team? i.t.id).getD i.t).buf space).orphan)
/-- The word acts on its accesses once none is held: on team memory or a buffer, or through the TLB. -/
def actsAt (u : State) (c : Cur) (i : Iss) (mw : MemWord) (pas : List (Acc × Nat)) : State :=
  (u.modGroup c.g fun y => { y with held := none }).perform i.t mw pas

end Sys2Proof.Machine
end

