-- ==== Sys2Proof/Certificates/Slice0/Obligations.lean ====
section
/-! DEFINITION. The statements for the provers, from the numbered rules of the spec. A part of a statement stands as `Claims.<name>`. -/
namespace Sys2Proof.Machine
/-! Results by the spec's tables. -/

/-- Results of the scalar range (R136), on numbers. -/
def scalarSpec (op : Op) (t : Ty) (sub : Nat) (a b c : W64) : W64 :=
  let sg (x : W64) : Int := if t.signed then x.toInt else x.toNat
  match op with
  | .sadd => BitVec.ofNat 64 (a.toNat + b.toNat)
  | .ssub => BitVec.ofInt 64 ((a.toNat : Int) - b.toNat)
  | .smul => BitVec.ofNat 64 (a.toNat * b.toNat)
  | .smulh => BitVec.ofInt 64 (sg a * sg b / 2 ^ 64)
  | .sand => BitVec.ofNat 64 (a.toNat &&& b.toNat)
  | .sor => BitVec.ofNat 64 (a.toNat ||| b.toNat)
  | .sxor => BitVec.ofNat 64 (a.toNat ^^^ b.toNat)
  | .sshl => BitVec.ofNat 64 (a.toNat * 2 ^ (b.toNat % 64))
  | .sshr => BitVec.ofInt 64 (sg a / 2 ^ (b.toNat % 64))
  | .smin => BitVec.ofInt 64 (min (sg a) (sg b))
  | .smax => BitVec.ofInt 64 (max (sg a) (sg b))
  | .smov => a
  | .ssel => if c = 0 then b else a
  | .slea => BitVec.ofNat 64 (a.toNat + b.toNat * 2 ^ sub)
  | .spopc => BitVec.ofNat 64 (popCount a.toNat 64)
  | _ => BitVec.ofNat 64 (leadZeros a.toNat 64)
def scalarOps : List Op := [.sadd, .ssub, .smul, .smulh, .sand, .sor, .sxor, .sshl, .sshr, .smin, .smax, .smov, .ssel, .slea, .spopc, .sclz]

/-- The comparisons of R135 on integers. -/
def cmpSpec (sub : Nat) (a b : Int) : Bool :=
  [decide (a = b), decide (a ≠ b), decide (a < b), decide (a ≤ b), decide (a > b), decide (a ≥ b)].getD sub false

/-- What SGET reads (R137), by index. -/
def sgetSpec (s : State) (i : Iss) : List Nat :=
  let l := s.launch? i.t.launch
  [i.gr.slot, i.t.pos, i.t.kern.groups + i.t.kern.spawnSlots, i.t.cluster % 65536, i.t.pos, i.t.launch,
   if i.t.task.isSome then 1 else (l.map fun x => x.body.clusters).getD 0, i.gr.width, i.t.coord,
   (match s.ctx? i.t.ctx with
    | some c => if c.hasRanks then c.rank else 0
    | none => 0),
   s.ctxClock i.t.ctx, i.gr.mode.toNat, 0x7E800 + 64 * i.gr.slot, i.t.args,
   if i.gr.spawned || i.t.task.isSome then i.gr.join else 0, if i.gr.role = 0 then 0 else if i.gr.role = 1 then 1 else 2]

/-- The exact result of a vector integer word (R139, R140): a, b, c are IntRead of A, B, C, na and nb the w bits of A and B,
n the shift count, x, y and z the 32 bits of A, B and C. -/
def intSpec (op : Op) (t : Ty) (a b c : Int) (na nb n : Nat) (x y z : W32) : Int :=
  match op with
  | .iadd => a + b
  | .isub => a - b
  | .imul => a * b
  | .imulh => a * b / 2 ^ t.bits
  | .imad => a * b + c
  | .imin => if a ≤ b then a else b
  | .imax => if a ≤ b then b else a
  | .iabs => if a < 0 then -a else a
  | .ineg => -a
  | .andI => (na &&& nb : Nat)
  | .orI => (na ||| nb : Nat)
  | .xorI => (na ^^^ nb : Nat)
  | .andn => (na &&& (nb ^^^ (2 ^ t.bits - 1)) : Nat)
  | .shl => (na : Int) * 2 ^ n
  | .shr => (na / 2 ^ n : Nat)
  | .sra => (if na < 2 ^ (t.bits - 1) then (na : Int) else na - 2 ^ t.bits) / 2 ^ n
  | .rol => (na * 2 ^ n % 2 ^ t.bits ||| na / 2 ^ (t.bits - n) : Nat)
  | .popc => popCount na t.bits
  | .clz => leadZeros na t.bits
  | .brev => bitReverse na t.bits
  | .bfe =>
    let p := y.toNat % 32
    let k := min z.toNat 32
    let f := ((if t.signed then x.signExtend 64 else x.zeroExtend 64) >>> p).toNat % 2 ^ k
    if k ≠ 0 ∧ t.signed ∧ 2 ^ (k - 1) ≤ f then (f : Int) - 2 ^ k else f
  | _ =>
    let p := z.toNat % 32
    let k := min (z.toNat / 256 % 64) 32
    (BitVec.ofBoolListLE ((List.range 32).map fun j => if p ≤ j ∧ j < p + k then y.getLsbD (j - p) else x.getLsbD j)).toNat
def vectorIntOps : List Op :=
  [.iadd, .isub, .imul, .imulh, .imad, .imin, .imax, .iabs, .ineg, .andI, .orI, .xorI, .andn, .shl, .shr, .sra, .rol, .popc, .clz, .brev,
   .bfe, .bfi]
/-- IntWrite of R133: SUB 1 clamps to the type's bounds, else the result wraps and is read back as the type. -/
def intWriteSpec (t : Ty) (sat : Bool) (y : Int) : W64 :=
  BitVec.ofInt 64
    (if sat then (if y < tyLo t then tyLo t else if tyHi t < y then tyHi t else y)
     else if t.signed ∧ 2 ^ (t.bits - 1) ≤ y % 2 ^ t.bits then y % 2 ^ t.bits - 2 ^ t.bits else y % 2 ^ t.bits)

/-- The operations with conditions of R141, R144 and R145. -/
def fpSpec (op : Op) (t : Ty) (md : RMode) (a b c : W32) : FRes :=
  match op with
  | .fadd => fAdd md a b
  | .fsub => fSub md a b
  | .fmul => fMul md a b
  | .ffma => fFma md a b c
  | .fscale => fScale md a b
  | .fdot2 => fDot2 (if t = .bf16 then fBf16 else if t = .f16 then fF16 else ffmtOf t) md a b c
  | .frcp => fRcp md a
  | .frsq => fRsq md a
  | .fsqrt => fSqrt md a
  | .fexp2 => fExp2 md a
  | .flog2 => fLog2 md a
  | .fsin => fSin md a
  | .fcos => fCos md a
  | _ => fTanh md a
def fpOps : List Op := [.fadd, .fsub, .fmul, .ffma, .fscale, .fdot2, .frcp, .frsq, .fsqrt, .fexp2, .flog2, .fsin, .fcos, .ftanh]
/-- Latency of the classes F and X (R104). -/
def fpLatency (op : Op) : Nat := if [Op.frcp, .frsq, .fsqrt, .fexp2, .flog2, .fsin, .fcos, .ftanh].contains op then 16 else 6
/-- The floating-point words without conditions (R142, R143). -/
def fpPlainSpec (op : Op) (sub : Nat) (md : RMode) (a b : W32) : W32 :=
  match op with
  | .fmin => fMinMax false md a b
  | .fmax => fMinMax true md a b
  | .fabs => BitVec.ofNat 32 (a.toNat % 2 ^ 31)
  | .fneg => if a.getLsbD 31 then a - 0x80000000 else a + 0x80000000
  | .fclass => fClass a
  | _ => fRnd sub md a
def fpPlainOps : List Op := [.fmin, .fmax, .fabs, .fneg, .fclass, .frnd]

/-- The triple a statistics word makes in a lane (R127, R128, R153): d is its D, p and q its triples A and B, x, y, z its values. -/
def triSpec (op : Op) (d p q : Triple) (x y z : W32) : Triple :=
  match op with
  | .mclr => emptyTriple
  | .macc => maccTriple d x
  | .maccw => maccwTriple d x y
  | .mmerge => mmerge p q
  | _ => ⟨x, y, z⟩
def triOps : List (Op × Nat) := [(.mclr, 4), (.macc, 8), (.maccw, 8), (.mmerge, 10), (.mput, 4)]

/-- A register word lands its results `lat` cc after its issue. -/
def lands (s : State) (op : Op) (w : Full) (c : Cur) (i : Iss) (core : Core) (lat : Nat) (l : List (LDst × W64)) : State :=
  issuedWith s op w c i core fun u => u.land c.g lat l
end Sys2Proof.Machine
open Sys2Proof Sys2Proof.Machine

/-- R136: a scalar word writes its 64-bit result 4 cc after its issue, once for the group, when a lane is guarded (R134). -/
def Claims.scalarWordsLandTheirResult : Prop :=
  ∀ op ∈ scalarOps, ∀ s w c i core, AtIssue s op w c i core → ¬ onlyWaits op w c i →
    exec (.ofFull op w) s = .next (issuedWith s op w c i core fun u =>
      if i.lanes = [] then u
      else u.land c.g 4 (dstV w.d 0 false (scalarSpec op w.ty w.sub.toNat (i.rdOnce w.a) (i.rdOnce w.b) (i.rdOnce w.c))))


/-- R136, R135, R134, R137: SCMP writes its bit in all 64 lanes of k, SGET the special register. -/
def Claims.compareAndSpecialRegisters : Prop :=
  ∀ s w c i core,
    (AtIssue s .scmp w c i core → ¬ onlyWaits .scmp w c i → w.sub.toNat < 6 → i.lanes ≠ [] →
      exec (.scmp w) s = .next (lands s .scmp w c i core 4
        (dstK w.d ((List.range 64).map fun l => (l, cmpSpec w.sub.toNat (sInt w.ty (i.rdOnce w.a)) (sInt w.ty (i.rdOnce w.b))))))) ∧
    (AtIssue s .sget w c i core → ¬ onlyWaits .sget w c i → i.lanes ≠ [] → ∀ n, n < 16 → w.a.constVal w.lit = some (BitVec.ofNat 64 n) →
      exec (.sget w) s = .next (lands s .sget w c i core 4
        (dstV w.d 0 false (BitVec.ofNat 64 ((sgetSpec (s.entered c i core) i).getD n 0)))))


/-- R134 to R137: the scalar range. -/
def Obligations.scalarWords : Prop := Claims.scalarWordsLandTheirResult ∧ Claims.compareAndSpecialRegisters

/-- R138: SSET.mode writes MODE without its reserved bits, SSET.pause pauses the group; any other SUB throws E_ILLEGAL in every lane of Exec. -/
def Claims.ssetWritesModeOrPauses : Prop :=
  (∀ s c t gr raw, s.power = true → s.cur = some c → s.team? c.g.team = some t → s.group? c.g = some gr → c.fetched = false →
    s.fetchAt t c.pc = .word raw →
    let p := (raw.headD 0).toNat
    p % 4 = 1 ∨ p % 4 = 3 → p / 2 ^ 2 % 2 ^ 8 = 0x10 → 2 ≤ p / 2 ^ 10 % 2 ^ 4 →
    step s = .next (s.issueThrows { c with raw := raw } gr t.coord false false 0 ((lanesOf c.exec).map fun l => ⟨l, 0x01, c.pc, rawValue raw⟩))) ∧
  ∀ s w c i core, AtIssue s .sset w c i core → ¬ onlyWaits .sset w c i →
    (w.sub = 0 → exec (.sset w) s = .next (issuedWith s .sset w c i core fun u =>
      if i.lanes = [] then u else u.modGroup c.g fun y => { y with mode := i.rdOnce w.a &&& 0x3F03FF })) ∧
    (w.sub = 1 → exec (.sset w) s = .next (issuedWith s .sset w c i core fun u =>
      let n := min (i.rdOnce w.a).toNat 65535
      if i.lanes = [] ∨ n = 0 then u
      else (u.modGroup c.g fun y => { y with pausedTo := u.ctxClock i.t.ctx + 1 + n }).sched (u.clock + 1 + n) (.pauseEnd c.g)))


/-- R139, R140, R133: every lane of the present half gets its result, and no other lane. -/
def Claims.vectorIntegerWordsLandTheirResult : Prop :=
  ∀ op ∈ vectorIntOps, ∀ s w c i core, AtIssue s op w c i core →
    exec (.ofFull op w) s = .next (lands s op w c i core 4 (i.half.flatMap fun l =>
      dstV w.d l w.ty.wide (intWriteSpec w.ty (w.sub = 1)
        (intSpec op w.ty (i.ia l) (i.ib l) (i.ic l) (i.na l) (i.nb l) ((i.rd32 l w.b).toNat % w.ty.bits) (i.rd32 l w.a) (i.rd32 l w.b) (i.rd32 l w.c)))))


/-- R139, R140: moves, selects, comparisons, k moves and the dot product. -/
def Claims.moveSelectCompareWords : Prop :=
  ∀ op s w c i core, AtIssue s op w c i core →
    (op = .mov → exec (.ofFull op w) s = .next (lands s op w c i core 4 (i.half.flatMap fun l => dstV w.d l w.ty.wide
      (if w.ty.isInt then intWriteSpec w.ty false (i.ia l) else i.rd l w.a false)))) ∧
    (op = .sel → exec (.ofFull op w) s = .next (lands s op w c i core 4 (i.half.flatMap fun l => dstV w.d l w.ty.wide
      (if i.rd l w.c false = 0 then i.rd l w.b w.ty.wide else i.rd l w.a w.ty.wide)))) ∧
    (op = .icmp → w.sub.toNat < 6 → exec (.ofFull op w) s = .next (lands s op w c i core 4
      (dstK w.d (i.half.map fun l => (l, cmpSpec w.sub.toNat (i.ia l) (i.ib l)))))) ∧
    (op = .movk → w.sub = 0 → exec (.ofFull op w) s = .next (lands s op w c i core 4 (i.half.flatMap fun l => dstV w.d l false (i.rd l w.a false)))) ∧
    (op = .movk → w.sub = 1 → exec (.ofFull op w) s = .next (lands s op w c i core 4
      (dstK w.d (i.half.map fun l => (l, if w.a.isS then i.rd l w.a false ≠ 0 else i.rd32 l w.a ≠ 0))))) ∧
    (op = .movk → w.sub = 2 → exec (.ofFull op w) s = .next (lands s op w c i core 4
      (dstK w.d (i.half.map fun l => (l, (i.rd l w.a true).getLsbD l))))) ∧
    (op = .idot4 → exec (.ofFull op w) s = .next (lands s op w c i core 4 (i.half.flatMap fun l => dstV w.d l false
      (let t : Ty := if w.ty.signed then .i32 else .n32
       let el (x : W32) (j : Nat) : Int := intRead w.ty (x.toNat / 2 ^ (8 * j))
       let a := i.rd32 l w.a
       let b := i.rd32 l w.b
       intWriteSpec t (w.sub = 1) (intRead t (i.rd32 l w.c).toNat + ((List.range 4).map fun j => el a j * el b j).sum)))))


/-- R133, R139, R140: the vector integer range. -/
def Obligations.vectorIntegerWords : Prop := Claims.vectorIntegerWordsLandTheirResult ∧ Claims.moveSelectCompareWords

/-- R141, R144, R145, R115: the rounded results when no lane's conditions are enabled; else the lanes whose conditions are throw
E_ARITH with all their conditions and nothing lands. -/
def Claims.floatWordsLandOrTrap : Prop :=
  ∀ op ∈ fpOps, ∀ s w c i core, AtIssue s op w c i core →
    let r (l : Nat) : FRes := fpSpec op w.ty (RMode.ofMode i.gr.mode) (i.rd32 l w.a) (i.rd32 l w.b) (i.rd32 l w.c)
    let traps (l : Nat) : Bool := (r l).conds.bits &&& (i.gr.mode.toNat / 32 % 32) ≠ 0
    ((∀ l ∈ i.half, traps l = false) →
      exec (.ofFull op w) s = .next (lands s op w c i core (fpLatency op) (i.half.flatMap fun l => dstV w.d l false (BitVec.ofNat 64 (r l).bits)))) ∧
    ((∃ l ∈ i.half, traps l = true) →
      exec (.ofFull op w) s = .next (s.issueThrows c i.gr i.t.coord (fpLatency op == 16) w.yld w.gap.toNat
        ((i.half.filter traps).map fun l => ⟨l, 0x10, c.pc, BitVec.ofNat 64 (r l).conds.bits⟩)))


/-- R142, R143: no condition is raised. -/
def Claims.floatWordsWithoutConditions : Prop :=
  ∀ s w c i core,
    (∀ op ∈ fpPlainOps, AtIssue s op w c i core →
      exec (.ofFull op w) s = .next (lands s op w c i core 6 (i.half.flatMap fun l => dstV w.d l false
        ((fpPlainSpec op w.sub.toNat (RMode.ofMode i.gr.mode) (i.rd32 l w.a) (i.rd32 l w.b)).setWidth 64)))) ∧
    (AtIssue s .fcmp w c i core →
      exec (.fcmp w) s = .next (lands s .fcmp w c i core 6 (dstK w.d (i.half.map fun l =>
        (l, fCompare w.sub.toNat (f32Read (RMode.ofMode i.gr.mode) (i.rd32 l w.a)) (f32Read (RMode.ofMode i.gr.mode) (i.rd32 l w.b)))))))


/-- R115, R141 to R145: the floating-point range and the special functions. Model's choices: log 65, 98. -/
def Obligations.floatingPointWords : Prop := Claims.floatWordsLandOrTrap ∧ Claims.floatWordsWithoutConditions

/-- R153, R127, R128: each lane of the present half gets its triple. -/
def Claims.tripleWords : Prop :=
  ∀ x ∈ triOps, ∀ s w c i core, AtIssue s x.1 w c i core →
    exec (.ofFull x.1 w) s = .next (issuedWith s x.1 w c i core fun u => u.landM c.g x.2 (i.half.flatMap fun l =>
      dstM w.d l (triSpec x.1 (i.tri l w.d) (i.tri l w.a) (i.tri l w.b) (i.rd32 l w.a) (i.rd32 l w.b) (i.rd32 l w.c))))


namespace Sys2Proof.Machine
/-- The lane that supplies lane l in PERM, SHFL and BCAST (R151): none when it lies outside the width or is not live (R150). -/
def sourceLane (op : Op) (sub l b width : Nat) (live : W64) : Option Nat :=
  let j : Int := if op = .shfl then (if sub = 0 then (l : Int) - b else if sub = 1 then (l + b : Nat) else (l ^^^ b : Nat)) else b
  if 0 ≤ j ∧ j < width ∧ live.getLsbD j.toNat then some j.toNat else none
/-- One round of R129: T[lo] := MMERGE(T[lo], T[lo + 2^j]). -/
def mlaneRound (j : Nat) (t : Nat → Triple) : Nat → Triple := fun k => if k % 2 ^ (j + 1) = 0 then mmerge (t k) (t (k + 2 ^ j)) else t k
def mlaneRounds : Nat → (Nat → Triple) → Nat → Triple
  | 0, t => t
  | n + 1, t => mlaneRound n (mlaneRounds n t)
/-- The 16 short words with their full forms (R97, R98), wait bits set where the field is used. -/
def shortWords (d a b : BitVec 8) (off : BitVec 24) : List (Instr × Op × Full) :=
  let f (d a b : Opnd) (wb : Bool) (ty : Ty) (lit : Option W32) : Full :=
    { sub := 0, ty := ty, d := d, a := a, b := b, c := .v 0, wa := true, wb := wb, wc := false, gap := 0, yld := false, grd := 0, lit := lit }
  let z : Opnd := .v 0
  let v := opndV
  [(.movS32 d a, .mov, f (v d) (v a) z false .i32 none),
   (.iaddS32 d a b, .iadd, f (v d) (v a) (v b) true .i32 none),
   (.isubS32 d a b, .isub, f (v d) (v a) (v b) true .i32 none),
   (.andS32 d a b, .andI, f (v d) (v a) (v b) true .i32 none),
   (.orS32 d a b, .orI, f (v d) (v a) (v b) true .i32 none),
   (.xorS32 d a b, .xorI, f (v d) (v a) (v b) true .i32 none),
   (.shlS32 d a b, .shl, f (v d) (v a) .lit true .i32 (some (b.zeroExtend 32))),
   (.shrS32 d a b, .shr, f (v d) (v a) .lit true .i32 (some (b.zeroExtend 32))),
   (.faddS32 d a b, .fadd, f (v d) (v a) (v b) true .f32 none),
   (.fmulS32 d a b, .fmul, f (v d) (v a) (v b) true .f32 none),
   (.iaddImmS32 d a b, .iadd, f (v d) (v a) .lit true .i32 (some (b.signExtend 32))),
   (.movImmS32 d b, .mov, f (v d) .lit z false .i32 (some (b.signExtend 32))),
   (.nopS32, .nop, { f z z z false .i32 none with wa := false }),
   (.exitS32, .exit, { f z z z false .i32 none with wa := false }),
   (.braS32 off, .bra, f z .lit z false .i32 (some (off.signExtend 32))),
   (.pauseS32 b, .pause, f z .lit z false .i32 (some (b.zeroExtend 32)))]
/-- The pair opcodes of R101: codes 0 to 7 on i32, 8 to 11 on f32 under MODE. -/
def pairSpec (p : PairOp) (md : RMode) (d a : W32) : W32 :=
  match p with
  | .mov => a
  | .iadd => BitVec.ofNat 32 (d.toNat + a.toNat)
  | .isub => d - a
  | .imin => BitVec.ofInt 32 (min d.toInt a.toInt)
  | .imax => BitVec.ofInt 32 (max d.toInt a.toInt)
  | .andP => d &&& a
  | .orP => d ||| a
  | .xorP => d ^^^ a
  | .fadd => BitVec.ofNat 32 (fAdd md d a).bits
  | .fmul => BitVec.ofNat 32 (fMul md d a).bits
  | .fmin => fMinMax false md d a
  | .fmax => fMinMax true md d a
/-- The lanes on which a slot acts in the present half (R99, R24). -/
def slotLanes (c : Cur) (gr : Group) (x : PairSlot) : List Nat := halfLanes gr.width c.half ((lanesOf c.exec).filter fun l => guardOf c gr x.grd.val l)
/-- Latency of a slot (R101). -/
def slotLat (p : PairOp) : Nat := if [PairOp.fadd, .fmul, .fmin, .fmax].contains p then 6 else 4
/-- A slot reads only full registers that hold no uncorrectable error, in the lanes on which it acts (R94, R324). -/
def slotReads (c : Cur) (gr : Group) (x : PairSlot) : Prop :=
  ∀ l ∈ slotLanes c gr x, srcV gr.regs l x.d.toNat = .ok ∧ (x.immf = false → srcV gr.regs l x.a.toNat = .ok)
/-- The landings of a slot. -/
def slotLands (p : PairOp) (c : Cur) (gr : Group) (x : PairSlot) : List (LDst × W64) :=
  (slotLanes c gr x).map fun l =>
    (.v l x.d.toNat, (pairSpec p (RMode.ofMode gr.mode) (gr.regs.getV l x.d.toNat).val (pairSrc gr l (slotLat p = 6) x)).setWidth 64)
/-- The conditions of a slot in a lane: only the float opcodes that round have any (R101, R142). -/
def slotConds (p : PairOp) (gr : Group) (x : PairSlot) (l : Nat) : Conds :=
  let d := (gr.regs.getV l x.d.toNat).val
  let a := pairSrc gr l (slotLat p = 6) x
  if p = .fadd then (fAdd (RMode.ofMode gr.mode) d a).conds else if p = .fmul then (fMul (RMode.ofMode gr.mode) d a).conds else {}
end Sys2Proof.Machine
open Sys2Proof Sys2Proof.Machine

/-- R146, R147: a conversion of a part, into a whole register or a part of it. -/
def Claims.conversionsLandOrTrap : Prop :=
  ∀ s w c i core, AtIssue s .cvt w c i core →
    let st := tyOfSub w.sub
    let part (o : Opnd) : Nat := ((o.constVal w.lit).getD 0).toNat
    let src (l : Nat) : Nat := if st.bits = 64 then (i.rd l w.a st.wide).toNat else (i.rd l w.a st.wide).toNat / 2 ^ (st.bits * part w.b) % 2 ^ st.bits
    let r (l : Nat) : Nat × Conds := cvtBits w.ty st (RMode.ofMode i.gr.mode) (src l)
    let out (l : Nat) : W64 :=
      if w.c.unused w.wc then (if w.ty.isInt ∧ w.ty.bits < 32 then BitVec.ofInt 64 (intRead w.ty (r l).1) else BitVec.ofNat 64 (r l).1)
      else
        let old := (i.rd l w.d false).toNat
        let lo := w.ty.bits * part w.c
        BitVec.ofNat 64 (old - old / 2 ^ lo % 2 ^ w.ty.bits * 2 ^ lo + (r l).1 * 2 ^ lo)
    let traps (l : Nat) : Bool := (r l).2.bits &&& (i.gr.mode.toNat / 32 % 32) ≠ 0
    ((∀ l ∈ i.half, traps l = false) → exec (.cvt w) s = .next (lands s .cvt w c i core 6 (i.half.flatMap fun l => dstV w.d l w.ty.wide (out l)))) ∧
    ((∃ l ∈ i.half, traps l = true) → exec (.cvt w) s = .next (s.issueThrows c i.gr i.t.coord false w.yld w.gap.toNat
        ((i.half.filter traps).map fun l => ⟨l, 0x10, c.pc, BitVec.ofNat 64 (r l).2.bits⟩)))


/-- R148, R149: element 2j in bits 15:0 and element 2j + 1 in bits 31:16 of register D + j. -/
def Claims.blockDecodesLandInPairsOfElements : Prop :=
  ∀ s w c i core,
    let regs (l n : Nat) (d : Nat) (el : Nat → Nat) : List (LDst × W64) :=
      (List.range n).map fun j => (.v l (d + j), BitVec.ofNat 64 (el (2 * j) + 2 ^ 16 * el (2 * j + 1)))
    (AtIssue s .cbdec w c i core → ∀ n, w.d = .v n →
      exec (.cbdec w) s = .next (lands s .cbdec w c i core 6 (i.half.flatMap fun l => regs l 4 n.val fun e =>
        decodedBf16 ((cbValue ((i.rd32 l w.a).toNat / 2 ^ (if w.sub = 1 then 16 else 0) % 2 ^ 16) e).scaled ((i.rd32 l w.b).toNat % 256))))) ∧
    (AtIssue s .obdec w c i core → w.ty = .ob8 ∨ w.ty = .ob4 → ∀ n, w.d = .v n →
      let z := if w.ty = .ob8 then 8 else 4
      exec (.obdec w) s = .next (lands s .obdec w c i core 6 (i.half.flatMap fun l => regs l (16 / z) n.val fun e =>
        decodedBf16 ((obValue ((i.rd32 l w.a).toNat / 2 ^ (z * e) % 2 ^ z) ((i.rd32 l w.b).toNat % 2 ^ z)).scaled ((i.rd32 l w.c).toNat % 256)))))


/-- R146 to R149: CVT, CBDEC and OBDEC. Model's choices: log 64, 65, 79, 98. -/
def Obligations.conversionsAndBlocks : Prop := Claims.conversionsLandOrTrap ∧ Claims.blockDecodesLandInPairsOfElements

/-- R151, R150, R131: PERM, SHFL and BCAST copy A of the lane that supplies, else the fill; 32 bits of it for a 32-bit type. -/
def Claims.laneCopies : Prop :=
  ∀ op ∈ [Op.perm, .shfl, .bcast], ∀ s w c i core, AtIssue s op w c i core →
    let src (l : Nat) : Option Nat :=
      sourceLane op w.sub.toNat l (if op = .bcast ∧ w.ty.wide then (i.rd l w.b true).toNat else (i.rd32 l w.b).toNat) i.gr.width i.gr.live
    let v (l : Nat) : W64 :=
      let x := match src l with
        | some j => i.rd j w.a w.ty.wide
        | none => i.rd l w.c w.ty.wide
      if w.ty.wide then x else BitVec.ofNat 64 (x.toNat % 2 ^ 32)
    exec (.ofFull op w) s = .next (issuedWith s op w c i core fun u =>
      match w.d with
      | .s n => if i.lanes ≠ [] ∧ i.lanes.headD 0 ∈ i.half then u.land c.g 6 [(.s n.val, v (i.lanes.headD 0))] else u
      | d => u.land c.g 6 (i.half.flatMap fun l => dstV d l w.ty.wide (v l)))


/-- R151: VOTE, MATCH and ELECT over the participating lanes. -/
def Claims.laneVotes : Prop :=
  ∀ s w c i core,
    (AtIssue s .vote w c i core →
      let set := i.lanes.filter fun l => i.rd l w.a false ≠ 0
      (i.half ≠ [] → w.sub = 0 → exec (.vote w) s = .next (lands s .vote w c i core 6 (dstK w.d (i.half.map fun l => (l, set.length = i.lanes.length))))) ∧
      (i.half ≠ [] → w.sub = 1 → exec (.vote w) s = .next (lands s .vote w c i core 6 (dstK w.d (i.half.map fun l => (l, set ≠ []))))) ∧
      (i.lanes ≠ [] → i.lanes.headD 0 ∈ i.half → w.sub = 2 → exec (.vote w) s = .next (lands s .vote w c i core 6 (dstV w.d 0 false (maskOf set)))) ∧
      (i.lanes ≠ [] → i.lanes.headD 0 ∈ i.half → w.sub = 3 →
        exec (.vote w) s = .next (lands s .vote w c i core 6 (dstV w.d 0 false (BitVec.ofNat 64 set.length))))) ∧
    (AtIssue s .matchI w c i core → i.half ≠ [] →
      let v (l : Nat) : Nat := (i.rd l w.a w.ty.wide).toNat % 2 ^ (if w.ty.wide then 64 else 32)
      (w.sub = 0 → exec (.matchI w) s = .next (lands s .matchI w c i core 6 (i.half.flatMap fun l =>
        dstV w.d l (i.gr.width = 64) (maskOf (i.lanes.filter fun j => v j = v l))))) ∧
      (w.sub = 1 → exec (.matchI w) s = .next (lands s .matchI w c i core 6 (dstK w.d (i.half.map fun l => (l, decide (∀ a ∈ i.lanes, ∀ b ∈ i.lanes, v a = v b))))))) ∧
    (AtIssue s .elect w c i core →
      (i.half ≠ [] → w.sub = 0 → exec (.elect w) s = .next (lands s .elect w c i core 6 (dstK w.d (i.half.map fun l => (l, l = i.lanes.headD 0))))) ∧
      (i.lanes ≠ [] → i.lanes.headD 0 ∈ i.half → w.sub = 1 →
        exec (.elect w) s = .next (lands s .elect w c i core 6 (dstV w.d 0 false (BitVec.ofNat 64 (i.lanes.headD 0))))))


/-- R152: a left fold in lane order, and the tree of R129 with absent leaves; a condition of any step is every lane's. -/
def Claims.scansAndReductions : Prop :=
  ∀ s w c i core,
    let o := w.sub.toNat % 8
    let md := RMode.ofMode i.gr.mode
    let te (k : Conds) : Bool := k.bits &&& (i.gr.mode.toNat / 32 % 32) ≠ 0
    (AtIssue s .scan w c i core → i.half ≠ [] →
      let r := scanLoop o w.ty md (8 ≤ w.sub.toNat) (fun l => i.rd32 l w.a) i.lanes none noConds
      (te r.2 = false → exec (.scan w) s = .next (lands s .scan w c i core 10
        ((r.1.filter fun x => i.half.contains x.1).flatMap fun x => dstV w.d x.1 false (x.2.setWidth 64)))) ∧
      (te r.2 = true → exec (.scan w) s = .next (s.issueThrows c i.gr i.t.coord false w.yld w.gap.toNat
        (i.lanes.map fun l => ⟨l, 0x10, c.pc, BitVec.ofNat 64 r.2.bits⟩)))) ∧
    (AtIssue s .lred w c i core → i.half ≠ [] →
      let r := treeFold (combine o w.ty md) (levels i.gr.width) (fun l => (if l ∈ i.lanes then some (i.rd32 l w.a) else none, noConds)) 0
      (te r.2 = false → exec (.lred w) s = .next (issuedWith s .lred w c i core fun u =>
        match w.d with
        | .s n => if i.lanes.headD 0 ∈ i.half then u.land c.g 10 [(.s n.val, (r.1.getD 0).setWidth 64)] else u
        | d => u.land c.g 10 (i.half.flatMap fun l => dstV d l false ((r.1.getD 0).setWidth 64)))) ∧
      (te r.2 = true → exec (.lred w) s = .next (s.issueThrows c i.gr i.t.coord false w.yld w.gap.toNat
        (i.lanes.map fun l => ⟨l, 0x10, c.pc, BitVec.ofNat 64 r.2.bits⟩))))


/-- R150 to R152: the cross-lane range. Model's choices: log 65, 67, 68, 86. -/
def Obligations.crossLaneWords : Prop := Claims.laneCopies ∧ Claims.laneVotes ∧ Claims.scansAndReductions

/-- R129, R154: MLANE merges the group's triples by the rounds of R129, 6 cc a level, into lane 0's D and no other lane's; a lane
that is not live contributes the empty triple; with no lane guarded it has no effect. Model's choices: log 68, 86. -/
def Obligations.mlaneMergesByRounds : Prop :=
  levels 32 = 5 ∧ ∀ s w c i core, AtIssue s .mlane w c i core →
    (i.lanes ≠ [] → c.half ≠ 1 → i.gr.width = 16 ∨ i.gr.width = 32 ∨ i.gr.width = 64 → ∃ n, 2 ^ n = i.gr.width ∧
      exec (.mlane w) s = .next (issuedWith s .mlane w c i core fun u => u.landM c.g (6 * n)
        (dstM w.d 0 (mlaneRounds n (fun l => if i.gr.live.getLsbD l then i.tri l w.a else emptyTriple) 0)))) ∧
    (i.lanes = [] ∨ c.half = 1 → exec (.mlane w) s = .next (issuedWith s .mlane w c i core fun u => u))


/-- R155. -/
def Claims.tripleReads : Prop :=
  ∀ s w c i core,
    let e (l : Nat) (o : Opnd) (wt : Bool) : Nat :=
      if o.unused wt then i.gr.mode.toNat / 2 ^ 16 % 64
      else if (i.rd32 l o).toInt < 0 then 0 else if 63 < (i.rd32 l o).toInt then 63 else (i.rd32 l o).toInt.toNat
    (AtIssue s .mget w c i core → w.sub.toNat < 5 →
      exec (.mget w) s = .next (lands s .mget w c i core 16 (i.half.flatMap fun l => dstV w.d l false
        (let t := i.tri l w.a
         (([t.n, t.mean, t.m2, tripleVar t, tripleRstd t (e l w.b w.wb)] : List W32).getD w.sub.toNat 0).setWidth 64)))) ∧
    (AtIssue s .mnorm w c i core →
      exec (.mnorm w) s = .next (lands s .mnorm w c i core 6 (i.half.flatMap fun l => dstV w.d l false
        ((tripleNorm (i.rd32 l w.a) (i.tri l w.b) (e l w.c w.wc)).setWidth 64))))


/-- R127, R128, R153, R155: the words that make and read triples. Model's choices: log 80, 98, 99. -/
def Obligations.statisticsWords : Prop := Claims.tripleWords ∧ Claims.tripleReads

/-- R97, R98: a short word passes the checks, acts and leaves the machine as its full form does. -/
def Claims.shortWordsActAsTheirFullForms : Prop :=
  ∀ d a b off, ∀ x ∈ shortWords d a b off, ∀ s c i core, AtIssue s x.2.1 x.2.2 c i core →
    ∃ t, exec x.1 s = .next t ∧ exec (.ofFull x.2.1 x.2.2) s = .next t


/-- R99 to R101: both slots read before either writes; each slot acts on the lanes of its own guard. A lane whose conditions, of
both slots together, are enabled throws E_ARITH, and the word then has no effect. -/
def Claims.pairWordsLandBothSlots : Prop :=
  ∀ p w s c t gr, s.cur = some c → s.team? c.g.team = some t → s.group? c.g = some gr → w.wf = true →
    slotOk t.kern.regs w.x = true → slotOk t.kern.regs w.y = true → slotReads c gr w.x → slotReads c gr w.y →
    let te (k : Conds) : Bool := k.bits &&& (gr.mode.toNat / 32 % 32) ≠ 0
    let traps (l : Nat) : Prop := (l ∈ slotLanes c gr w.x ∧ te (slotConds p gr w.x l)) ∨ (l ∈ slotLanes c gr w.y ∧ te (slotConds w.yop gr w.y l))
    ((∀ l ∈ lanesOf c.exec, ¬ traps l) → exec (.ofPair p w) s = .next
      (let u := if gr.width = 64 ∧ c.half = 0 then s else s.modGroup c.g fun y => y.tickDefer.advance c.exec c.len
       let u := (u.land c.g (slotLat p) (slotLands p c gr w.x)).land c.g (slotLat w.yop) (slotLands w.yop c gr w.y)
       if gr.width = 64 ∧ c.half = 0 then u.halfDone c t.coord gr.quarter gr.regs []
       else u.issued c.g c gr.width gr.quarter gr.role false w.yld w.gap.toNat t.coord)) ∧
    ((∃ l ∈ lanesOf c.exec, traps l) → ∃ ts, exec (.ofPair p w) s = .next (s.issueThrows c gr t.coord false w.yld w.gap.toNat ts) ∧
      (∀ l, (∃ x ∈ ts, x.lane = l) ↔ l ∈ lanesOf c.exec ∧ traps l) ∧ ∀ x ∈ ts, x.code = 0x10)


/-- R97 to R101: the short and the pair forms. Model's choices: log 64, 65. -/
def Obligations.shortAndPairWords : Prop := Claims.shortWordsActAsTheirFullForms ∧ Claims.pairWordsLandBothSlots

namespace Sys2Proof.Machine
/-- What a memory word does with each guarded lane's access (R158, R160, R165, R167, R170, R171): act, space, destination, accesses,
lanes whose destination is marked empty. -/
structure MemForm where
  act : MemAct
  space : Nat
  dst : MDst
  accs : List Acc
  lanes : List Nat
def loadForm (i : Iss) (space : Nat) (x4 : Bool) (acq : Option Nat) : MemForm :=
  let size := if x4 then 16 else i.w.ty.bits / 8
  let lanes := if i.w.d.isS then i.lanes.take 1 else i.lanes
  { act := .ld acq, space := space, dst := loadDst i x4, lanes := lanes
    accs := lanes.map fun l => { lane := l, addr := addrOf i l size ((i.w.c.constVal i.w.lit).getD 0), size := size } }
def storeForm (i : Iss) (space : Nat) (x4 : Bool) (rel : Option Nat) : MemForm :=
  let size := if x4 then 16 else i.w.ty.bits / 8
  { act := .st rel, space := space, dst := .none, lanes := []
    accs := i.lanes.map fun l => { lane := l, addr := addrOf i l size ((i.w.c.constVal i.w.lit).getD 0), size := size, data := storeData i l x4 size } }
def atomForm (i : Iss) (act : MemAct) (size : Nat) (dst : MDst) (lanes : List Nat) (data : Nat → Nat) : MemForm :=
  { act := act, space := i.w.sub.toNat / 8, dst := dst, lanes := lanes
    accs := i.lanes.map fun l => { lane := l, addr := addrOf i l size 0, size := size, data := data l, cmp := (i.rd l i.w.d i.w.ty.wide).toNat % 2 ^ (8 * size) } }
def memForm (op : Op) (i : Iss) : MemForm :=
  let sub := i.w.sub.toNat
  let size := i.w.ty.bits / 8
  let val (l : Nat) : Nat := (i.rd l i.w.c i.w.ty.wide).toNat % 2 ^ (8 * size)
  match op with
  | .ld => loadForm i (sub % 8) (8 ≤ sub) none
  | .ldacq => loadForm i (sub / 8) false (some (sub % 8))
  | .st => storeForm i (sub % 8) (8 ≤ sub) none
  | .strel => storeForm i (sub / 8) false (some (sub % 8))
  | .atom => atomForm i (.atom (sub % 8) i.w.ty) size (loadDst i false) i.lanes val
  | _ => if sub % 8 = 6 then atomForm i .stat 16 .none [] fun l => natOfTriple (i.triL l i.w.c) else atomForm i (.red (sub % 8) i.w.ty) size .none [] val
/-- The accesses pass steps 1 to 3 of R161 and no hold stands (R167, R169, R164, R183). -/
def accessesPass (u : State) (c : Cur) (i : Iss) (f : MemForm) (load store : Bool) : Prop :=
  f.accs ≠ [] ∧ u.orderHold c.g store = false ∧ u.noSlots i.t.coord (accSlots f.accs) = false ∧ stepChecks u i.t c.pc f.space load f.accs = [] ∧
  (load = true → f.space = 0 → ∀ a ∈ f.accs, ∀ x, u.walkTeam i.t a.addr false = .ok x → ∀ e ∈ u.corePath i.t.coord, e.space = 0 →
    e.kind ≠ .st → e.kind ≠ .fence → e.kind ≠ .ring → e.kind ≠ .ctm → ¬ (e.pa < x.pa + a.size ∧ x.pa < e.pa + e.size))
/-- A ctm access (R159, R166): the generation its core recorded of the target team goes with it. -/
def ctmOf (u : State) (i : Iss) (l : Nat) : Nat × Nat :=
  let k := (i.rd32 l i.w.c).toNat % 256
  (k, targetGen u i.t k)
/-- The stores of a lane: a 16-byte one is four (R188). -/
def ctmStores (i : Iss) (l addr size : Nat) : List Acc :=
  let x := storeData i l (size = 16) size
  if size = 16 then (List.range 4).map fun j => { lane := l, addr := addr + 4 * j, size := 4, data := x / 2 ^ (32 * j) % 2 ^ 32 }
  else [{ lane := l, addr := addr, size := size, data := x }]
end Sys2Proof.Machine
open Sys2Proof Sys2Proof.Machine

/-- R158. -/
def Claims.addressesFollowR158 : Prop :=
  ∀ i l size disp, addrOf i l size disp = (((i.rd l i.w.a true).toNat + (i.rd32 l i.w.b).toInt * size + disp.toNat : Int) % 2 ^ 64).toNat


/-- R165, R167, R170, R171, R161: a memory word whose accesses pass their checks marks its destinations empty and acts. -/
def Claims.memoryWordsAct : Prop :=
  ∀ op ∈ [Op.ld, .ldacq, .st, .strel, .atom, .red], ∀ s w c i core, AtIssue s op w c i core → ¬ onlyWaits op w c i → w.wf op = true →
    (op = .ld ∨ op = .st → w.sub.toNat % 8 ≠ 4) →
    let u := s.entered c i core
    let f := memForm op i
    let load := decide (op = .ld ∨ op = .ldacq)
    accessesPass u c i f load (decide (op = .st ∨ op = .strel ∨ op = .red)) →
    let v := marked u c.g f.dst f.accs f.lanes
    let mw := memWordOf u c i f.act f.space f.dst f.accs f.lanes
    (f.space ≠ 0 → (op = .ld ∨ op = .ldacq ∨ op = .atom → linesPresent v i f.space f.accs) →
      exec (.ofFull op w) s = .next (issuedWith s op w c i core fun _ => actsAt v c i mw (f.accs.map fun a => (a, a.addr)))) ∧
    (f.space = 0 → ∀ tr, translates v i f.act.needs.1 f.act.needs.2 f.accs tr →
      exec (.ofFull op w) s = .next (issuedWith s op w c i core fun _ =>
        actsAt (touched v i f.accs tr) c i mw ((f.accs.zip tr).map fun p => (p.1, p.2.pa))))


namespace Sys2Proof.Machine
/-- A global load that misses the L1 of its core on a page of another die (R162). -/
def farMiss (u : State) (t : Team) (mw : MemWord) (acq : Option Nat) (pa : Nat) : Bool :=
  let hit := ((acq.map fun sc => decide (sc < 3)).getD true) && (l1Line (u.core t.coord) (pa / 128)).isSome
  decide (mw.space = 0) && !hit && homeDie pa != Config.coordDie t.coord
/-- A load's requests, one for each line of 128 bytes that its accesses meet, in their order, each with its least latency (R164, R165, R353). -/
def lineRequests (u : State) (t : Team) (mw : MemWord) (acq : Option Nat) (pas : List (Acc × Nat)) : List (LoadReq × Nat) :=
  (pas.map fun x => x.2 / 128).eraseDups.mapIdx fun j ln =>
    let l := pas.filter fun x => x.2 / 128 == ln
    let pa := (l.map fun x => x.2).headD 0
    let hit := ((acq.map fun sc => decide (sc < 3)).getD true) && (l1Line (u.core t.coord) ln).isSome
    ({ id := u.nextId + j, coord := t.coord, byw := mw.byw, space := mw.space, dst := mw.dst, accs := l.map fun x => x.1, pas := l.map fun x => x.2,
       acq := acq, remote := farMiss u t mw acq pa },
     if mw.space ≠ 0 then 8 else if hit then 14 else u.sliceLeast t.coord pa 20)
/-- A line of a core's L1 with what it holds now, the most recent of its set of 8 ways (R181). -/
def mostRecent (c : Core) (line : Nat) (x : List Byte × List Nat) : Core :=
  let rest := c.l1.filter fun y => y.1 ≠ line
  { c with l1 := (line, x) :: ((rest.filter fun y => y.1 % 1024 = line % 1024).take 7 ++ rest.filter fun y => y.1 % 1024 ≠ line % 1024) }
/-- An entry stands last in the store path, with the step that performs it (R183, R184, R353). -/
def State.entersPath (u : State) (e : PathEntry) : State :=
  ({ u with path := u.path ++ [e] } : State).after
    (if e.space ≠ 0 then 1 else if e.pa = 0 then Config.meshCc 24 else u.sliceLeast e.coord e.pa 24)
    (if e.rel ≠ none then .storePathRelease e.id else if e.kind = .st ∨ e.kind = .ctradd then .storeAck e.id else .atomAtOwner e.id)
end Sys2Proof.Machine
open Sys2Proof Sys2Proof.Machine

/-- R162, R164, R165, R170, R171, R181, R183, R185, R188: what a word does whose checks are over. A load's requests leave line by line, and
one that misses on another die parks its group. A store, an atomic and a reduction take a lane's place in the store path, four for 16 bytes; a
load of the lane that they would overtake takes its value first. A global store writes the line that its core's L1 holds, which is then the
most recent of its set, and allocates none; an atomic or a reduction drops the line. A store to a team space that nothing keeps waiting
writes its bytes. -/
def Claims.accessesActOnTheirPath : Prop :=
  ∀ (u : State) (t : Team) (mw : MemWord) (pas : List (Acc × Nat)),
    (∀ acq, mw.act = .ld acq → mw.dst.isPc = false →
      let v := (lineRequests u t mw acq pas).foldl (fun (v : State) x =>
        ({ v with loads := v.loads ++ [x.1], nextId := v.nextId + 1 } : State).after x.2 (.loadLanding x.1.id)) u
      u.perform t mw pas = if pas.any fun x => farMiss u t mw acq x.2 then v.park mw.byw.g .remote mw.byw else v) ∧
    (∀ rel, mw.act = .st rel → u.perform t mw pas = (mw.entries t.coord pas).foldl (fun v e => v.doStore t e) u) ∧
    (mw.act.inPath = true → (∀ rel, mw.act ≠ .st rel) →
      let v := (mw.entries t.coord pas).foldl (fun v e =>
        let w := v.loadFirst e
        (if e.space = 0 then w.modCore t.coord fun c => { c with l1 := c.l1.filter fun y => y.1 ≠ e.pa / 128 } else w).insertEntry e) u
      let far := mw.space = 0 ∧ ∃ x ∈ pas, homeDie x.2 ≠ Config.coordDie t.coord
      ((∃ op ty, mw.act = .atom op ty) ∧ far → u.perform t mw pas = v.park mw.byw.g .remote mw.byw) ∧
      (¬ ((∃ op ty, mw.act = .atom op ty) ∧ far) → u.perform t mw pas = v)) ∧
    (∀ k x, pas[k]? = some x →
      let names (e : PathEntry) (id : Nat) (a : Acc) (pa : Nat) : Prop :=
        (e.id, e.coord, e.byw, e.lane, e.space, e.addr, e.pa, e.size, e.data, e.cmp) = (id, t.coord, mw.byw, a.lane, mw.space, a.addr, pa, a.size, a.data, a.cmp) ∧
        (∀ rel, mw.act = .st rel → e.kind = .st ∧ e.rel = rel) ∧ (∀ op ty, mw.act = .atom op ty → (e.kind, e.op, e.ty, e.rel) = (.atom, op, ty, none)) ∧
        (∀ op ty, mw.act = .red op ty → (e.kind, e.op, e.ty, e.rel) = (.red, op, ty, none)) ∧ (mw.act = .stat → (e.kind, e.rel) = (.stat, none)) ∧
        (∀ sc n, mw.act = .ctradd sc n → (e.kind, e.rel) = (.ctradd, some sc))
      ((∀ y ∈ pas, y.1.size ≠ 16) ∨ mw.act.isSt = false → ∃ e, (mw.entries t.coord pas)[k]? = some e ∧ names e (mw.id0 + k) x.1 x.2) ∧
      ((∀ y ∈ pas, y.1.size = 16) → mw.act.isSt = true → ∀ j, j < 4 → ∃ e, (mw.entries t.coord pas)[4 * k + j]? = some e ∧
        names e (mw.id0 + 4 * k + j) { x.1 with addr := x.1.addr + 4 * j, size := 4, data := x.1.data / 2 ^ (32 * j) % 2 ^ 32 } (x.2 + 4 * j))) ∧
    (∀ e, ((∀ r ∈ u.loads, e.overtakes r = false) → u.loadFirst e = u) ∧
      (∀ r y, (u.loads.filter fun r => e.overtakes r && r.ctm.isNone) = [r] → u.team? r.byw.g.team = some y → u.loadWaits r = false →
        u.loadFirst e = { u with loads := u.loads.map fun (x : LoadReq) => if x.id = r.id then { x with got := some (u.loadValues y x) } else x }) ∧
      (e.kind = .st ∨ e.kind = .atom ∨ e.kind = .red ∨ e.kind = .stat ∨ e.kind = .ctradd → (∀ y ∈ u.path, y.id < e.id) → u.insertEntry e = u.entersPath e) ∧
      (e.kind = .st → e.coord = t.coord → (∀ r ∈ u.loads, e.overtakes r = false) → (∀ y ∈ u.path ++ u.heldEntries t.coord, y.id < e.id) →
        (e.space = 0 → u.doStore t e = (u.entersPath e).modCore t.coord fun c => match (c.l1.find? fun y => y.1 == e.pa / 128) with
          | some (_, b, p) => mostRecent c (e.pa / 128) (b.mapIdx fun i x =>
              if e.pa % 128 ≤ i ∧ i < e.pa % 128 + e.size then BitVec.ofNat 8 (e.data / 2 ^ (8 * (i - e.pa % 128))) else x, p)
          | none => c) ∧
        (e.space ≠ 0 →
          (e.rel = none → u.mayPerform e = true → u.teamPoison t.id e.space e.addr e.size = false →
            u.doStore t e = u.writeTeam t.id e.space e.addr (bytesOfNat e.size e.data)) ∧
          (e.rel ≠ none ∨ u.mayPerform e = false ∨ u.teamPoison t.id e.space e.addr e.size = true → u.doStore t e = u.entersPath e))))

/-- R158, R160, R161, R162, R164, R165, R167, R170, R171, R181, R183: where a memory word goes and what it does. Model's choices: log 16, 20, 103. -/
def Obligations.memoryWords : Prop := Claims.addressesFollowR158 ∧ Claims.memoryWordsAct ∧ Claims.accessesActOnTheirPath

/-- R159, R166: LD and ST of the ctm space leave for the target with its generation. -/
def Claims.ctmWordsLeaveForTheirTarget : Prop :=
  ∀ op ∈ [Op.ld, .st], ∀ s w c i core, AtIssue s op w c i core → ¬ onlyWaits op w c i → w.sub.toNat % 8 = 4 →
    let u := s.entered c i core
    let load := op = .ld
    let ls := if load ∧ w.d.isS then i.lanes.take 1 else i.lanes
    let x4 := decide (8 ≤ w.sub.toNat)
    let size := if x4 then 16 else w.ty.bits / 8
    ls ≠ [] → u.orderHold c.g (decide (op = .st)) = false → u.noSlots i.t.coord (ls.map fun l => ((ctmOf u i l).1 + 1, addrOf i l size 0)) = false →
    (∀ l ∈ ls, i.t.hasCore (ctmOf u i l).1 = true ∧ chkTeam i.t (addrOf i l size 0) size (decide (op = .ld)) = none ∧ addrOf i l size 0 % size = 0) →
    (op = .ld → exec (.ld w) s = .next (issuedWith s op w c i core fun u =>
      let b := u.starter c.g (maskOf i.lanes) c.pc
      ls.foldl (fun (x : State) l =>
        State.after ({ x with
          loads := x.loads ++ [{ id := x.nextId, coord := i.t.coord, byw := b, space := 4, dst := loadDst i x4, accs := [{ lane := l, addr := addrOf i l size 0, size := size }],
                                 acq := none, remote := false, ctm := some (ctmOf u i l) }]
          nextId := x.nextId + 1 } : State) (Config.meshCc (Config.meshWay i.t.coord (ctmOf u i l).1 + 1)) (.ctmArrival x.nextId))
        (marked u c.g (loadDst i x4) [] ls))) ∧
    (op = .st → exec (.st w) s = .next (issuedWith s op w c i core fun u =>
      let b := u.starter c.g (maskOf i.lanes) c.pc
      ls.foldl (fun (x : State) l => (ctmStores i l (addrOf i l size 0) size).foldl (fun (x : State) a =>
        x.pushEntry { id := 0, coord := i.t.coord, byw := b, lane := l, kind := .ctm, space := 1, addr := a.addr, pa := a.addr, size := a.size,
                      data := a.data, cmp := 0, op := 0, ty := w.ty, reg := 0, rel := none, ctm := some (ctmOf u i l) }) x) u))


/-- R169, R172, R173, R164, R168: FENCE, PREF and PROBE. PREF drops what is unmapped, locked by a destination or beyond the free request slots, of
which the lines that its lanes ask for take one each. -/
def Claims.fencePrefetchProbe : Prop :=
  ∀ s w c i core,
    (AtIssue s .fence w c i core → ¬ onlyWaits .fence w c i → i.lanes ≠ [] → (s.entered c i core).orderHold c.g true = false →
      exec (.fence w) s = .next (issuedWith s .fence w c i core fun u =>
        let sc := w.sub.toNat / 3 + 1
        let rel := w.sub.toNat % 3 ≠ 0
        let acq := w.sub.toNat % 3 ≠ 1
        let u := if rel then u.pushEntry { id := 0, coord := i.t.coord, byw := u.starter c.g (maskOf i.lanes) c.pc, lane := 0, kind := .fence, space := 0, addr := 0,
                                           pa := 0, size := 0, data := 0, cmp := 0, op := 0, ty := .i32, reg := 0, rel := some sc } else u
        if acq then (u.modGroup c.g fun y => { y with fenceAcq := some (max sc (y.fenceAcq.getD 0)) }).endFence c.g else u)) ∧
    (AtIssue s .pref w c i core → ¬ onlyWaits .pref w c i → i.lanes = [] ∨ (s.entered c i core).orderHold c.g true = false →
      exec (.pref w) s = .next (issuedWith s .pref w c i core fun u => (i.lanes.foldl (fun (y : List Nat × State) l =>
        let a := addrOf i l 1 ((w.c.constVal w.lit).getD 0)
        let asked := if a / 128 ∈ y.1 then y.1 else y.1 ++ [a / 128]
        match y.2.walkTeam i.t a false with
        | .ok x =>
          if canonical a ∧ ¬ y.2.locked i.t.coord i.t 0 a 1 true ∧ u.slotsUsed i.t.coord + asked.length ≤ 2048 ∧ pteRd x.leaf then
            (asked, if w.sub = 0 ∧ l1Line (y.2.core i.t.coord) (x.pa / 128) = none then y.2.fillL1 i.t.coord (x.pa / 128) else y.2)
          else y
        | _ => y) ([], u)).2)) ∧
    (AtIssue s .probe w c i core → ¬ onlyWaits .probe w c i → i.lanes ≠ [] → (s.entered c i core).orderHold c.g true = false →
      let sp := w.sub.toNat
      let a (l : Nat) : Nat := addrOf i l 1 ((w.c.constVal w.lit).getD 0)
      (∀ l ∈ i.lanes, chkSpace i.t sp (a l) 1 true = none) →
      let st (l : Nat) : Nat :=
        if sp = 1 ∧ 0x7E800 ≤ a l then 0 else if a l / 128 ∈ (i.t.buf sp).orphan then 2 else if a l / 128 ∈ (i.t.buf sp).absent then 1 else 0
      exec (.probe w) s = .next (lands s .probe w c i core 4
        (match w.d with
         | .k _ => dstK w.d (i.lanes.map fun l => (l, st l = 0))
         | d => i.lanes.flatMap fun l => dstV d l false (BitVec.ofNat 64 (st l)))))


/-- R175, R176: a stream descriptor enters its queue; the engine is asked when no other was pending. -/
def Claims.streamWordsQueueTheirDescriptor : Prop :=
  ∀ op ∈ [Op.ldstrm, .ststrm], ∀ s w c i core, AtIssue s op w c i core → ¬ onlyWaits op w c i →
    let u := s.entered c i core
    let out := decide (op = .ststrm)
    let q := w.sub.toNat % 4
    let team := decide (w.sub.toNat / 4 % 2 = 1)
    let sp := if team then 1 else 0
    let size := w.ty.bits / 8
    let base := (i.rdOnce w.a).toNat
    let count := (i.rdOnce w.b).toNat
    let stride := (i.rdOnce w.c).toInt
    let ctr := (i.rdOnce w.d).toNat
    let last := (((base : Int) + (count - 1 : Nat) * stride * size) % 2 ^ 64).toNat
    let k := u.core i.t.coord
    let qs := ((if out then k.qo else k.qi).getD q {}).descs
    i.lanes ≠ [] → u.orderHold c.g false = false → count < 2 ^ 32 →
    (count ≠ 0 → chkSpace i.t sp base size (!out) = none ∧ chkSpace i.t sp last size (!out) = none) →
    (ctr = 0 ∨ canonical ctr) → base % size = 0 → ctr % 8 = 0 → qs.length < 4 →
    exec (.ofFull op w) s = .next (issuedWith s op w c i core fun u =>
      let d : StreamDesc := { id := u.nextId, byw := u.starter c.g (maskOf i.lanes) c.pc, out := out, ty := w.ty, team := team, base := base, count := count,
                              stride := stride, ctr := ctr, first := (u.path.filter fun e => e.byw.g = c.g).map fun e => e.id }
      let add (l : List StreamQ) : List StreamQ := modNth l q fun y => { y with descs := y.descs ++ [d] }
      let v := { (u.modCore i.t.coord fun k => if out then { k with qo := add k.qo } else { k with qi := add k.qi }) with nextId := u.nextId + 1 }
      if qs = [] then v.after 1 (if out then .streamStoreElement i.t.coord q else .streamLoadElement i.t.coord q) else v)


/-- R159, R166, R169, R172, R173, R175, R176: accesses to another team, fences, prefetches, probes and streams. Model's choices: log 16, 18, 19, 20, 101, 102. -/
def Obligations.ctmFenceProbeAndStreamWords : Prop := Claims.ctmWordsLeaveForTheirTarget ∧ Claims.fencePrefetchProbe ∧ Claims.streamWordsQueueTheirDescriptor

namespace Sys2Proof.Machine
/-- The target of a relative word (R201): PC + 4 × A, A as i32, mod 2^32. -/
def branchTarget (c : Cur) (a : W32) : Nat := ((c.pc + 4 * a.toInt : Int) % 2 ^ 32).toNat
/-- The code of a target that is no instruction address of the image (R202). -/
def targetCode (size x : Nat) : Option Nat := if x % 4 ≠ 0 then some 0x05 else if size ≤ x then some 0x06 else none
/-- The lanes' PCs after a transfer (R105). -/
def goTo (u : State) (g : GRef) (l : List (Nat × Nat)) : State :=
  u.modGroup g fun y => l.foldl (fun y x => y.setPc x.1 (BitVec.ofNat 32 x.2)) y
end Sys2Proof.Machine
open Sys2Proof Sys2Proof.Machine

/-- R201: BRA sets the guarded lanes' PC to PC + 4 × A mod 2^32, its own address included; beyond the image each of them throws E_BOUNDS
and the word has no effect. The short form takes its offset from bits 31:8 and does the same. -/
def Obligations.branchesGoToTheirTarget : Prop :=
  (∀ s w c i core, AtIssue s .bra w c i core → ¬ onlyWaits .bra w c i →
    let x := branchTarget c ((i.rdOnce w.a).setWidth 32)
    (i.lanes = [] ∨ x < (s.entered c i core).codeSize i.t → exec (.bra w) s = .next (issuedWith s .bra w c i core fun u =>
      if i.lanes = [] then u else goTo u c.g (i.lanes.map fun l => (l, x)))) ∧
    (i.lanes ≠ [] → (s.entered c i core).codeSize i.t ≤ x →
      exec (.bra w) s = .next (s.issueThrows c i.gr i.t.coord false w.yld w.gap.toNat (i.lanes.map fun l => ⟨l, 0x06, c.pc, BitVec.ofNat 64 x⟩)))) ∧
  ∀ (off : BitVec 24) s, exec (.braS32 off) s = exec (.bra
    { sub := 0, ty := .i32, d := .v 0, a := .lit, b := .v 0, c := .v 0, wa := true, wb := false, wc := false, gap := 0, yld := false, grd := 0,
      lit := some (off.signExtend 32) }) s


/-- R202: JMPI sets the PC of each guarded lane to its own A read as n32. A target that is not a multiple of 4 raises E_ALIGN, one at or above
the image size E_BOUNDS, and every lane's PC is then unchanged. -/
def Obligations.jmpiGoesToEachLanesTarget : Prop :=
  ∀ s w c i core, AtIssue s .jmpi w c i core → ¬ onlyWaits .jmpi w c i →
    let size := (s.entered c i core).codeSize i.t
    let tg (l : Nat) : Nat := (i.rd32 l w.a).toNat
    ((∀ l ∈ i.lanes, tg l % 4 = 0 ∧ tg l < size) →
      exec (.jmpi w) s = .next (issuedWith s .jmpi w c i core fun u => goTo u c.g (i.lanes.map fun l => (l, tg l)))) ∧
    ((∃ l ∈ i.lanes, ¬ (tg l % 4 = 0 ∧ tg l < size)) → ∃ ts u, exec (.jmpi w) s = .next u ∧
      u = s.issueThrows c i.gr i.t.coord false w.yld w.gap.toNat ts ∧ ts ≠ [] ∧
      (∀ x ∈ ts, x.lane ∈ i.lanes ∧ (x.code = 0x05 ∧ tg x.lane % 4 ≠ 0 ∨ x.code = 0x06 ∧ size ≤ tg x.lane)) ∧
      ∀ g l, (u.group? g).map (fun y => y.pc l) = (s.group? g).map fun y => y.pc l)


/-- R202, R107: a lane whose target fails both ways throws E_ALIGN. -/
def Claims.jmpiSetsEachLanesPc : Prop :=
  ∀ s w c i core, AtIssue s .jmpi w c i core → ¬ onlyWaits .jmpi w c i →
    let size := (s.entered c i core).codeSize i.t
    let tg (l : Nat) : Nat := (i.rd32 l w.a).toNat
    ((∀ l ∈ i.lanes, targetCode size (tg l) = none) →
      exec (.jmpi w) s = .next (issuedWith s .jmpi w c i core fun u => goTo u c.g (i.lanes.map fun l => (l, tg l)))) ∧
    ((∃ l ∈ i.lanes, targetCode size (tg l) ≠ none) →
      exec (.jmpi w) s = .next (s.issueThrows c i.gr i.t.coord false w.yld w.gap.toNat
        (i.lanes.filterMap fun l => (targetCode size (tg l)).map fun k => ⟨l, k, c.pc, BitVec.ofNat 64 (tg l)⟩)))


/-- R203: CALL stores the return offset in team memory and goes to its target; RET's load gives the lanes their PCs. -/
def Claims.callsAndReturns : Prop :=
  ∀ s w c i core,
    let acc (l data : Nat) : Acc := { lane := l, addr := addrOf i l 4 ((w.c.constVal w.lit).getD 0), size := 4, data := data }
    (AtIssue s .call w c i core → ¬ onlyWaits .call w c i →
      let u := s.entered c i core
      let f : MemForm := ⟨.st none, 1, .none, i.lanes.map fun l => acc l ((c.pc + c.len) % 2 ^ 32), []⟩
      let tg (l : Nat) : Nat := if w.sub = 0 then branchTarget c ((i.rdOnce w.d).setWidth 32) else (i.rd32 l w.d).toNat
      accessesPass u c i f false true → (∀ l ∈ i.lanes, targetCode (u.codeSize i.t) (tg l) = none) →
      exec (.call w) s = .next (issuedWith s .call w c i core fun u =>
        let v := marked (goTo u c.g (i.lanes.map fun l => (l, tg l))) c.g .none f.accs []
        actsAt v c i (memWordOf (goTo u c.g (i.lanes.map fun l => (l, tg l))) c i f.act 1 .none f.accs []) (f.accs.map fun a => (a, a.addr)))) ∧
    (AtIssue s .ret w c i core → ¬ onlyWaits .ret w c i →
      let u := s.entered c i core
      let f : MemForm := ⟨.ld none, 1, .pc c.exec c.len, i.lanes.map fun l => acc l 0, []⟩
      let u' := goTo u c.g (i.lanes.map fun l => (l, c.pc))
      accessesPass u c i f true false → linesPresent (marked u' c.g f.dst f.accs []) i 1 f.accs →
      exec (.ret w) s = .next (issuedWith s .ret w c i core fun _ =>
        actsAt (marked u' c.g f.dst f.accs []) c i (memWordOf u' c i f.act 1 f.dst f.accs []) (f.accs.map fun a => (a, a.addr))))


/-- R202, R203: JMPI, CALL and RET. Model's choices: log 12, 20, 43, 64, 117. -/
def Obligations.jumpsCallsAndReturns : Prop := Claims.jmpiSetsEachLanesPc ∧ Claims.callsAndReturns

/-- R204, R205, R31, R164: EXIT, NOP and both PAUSE forms; the EXIT of a spawned group stalls while its join addition finds no request slot. -/
def Claims.exitNopPause : Prop :=
  ∀ s w c i core,
    (AtIssue s .exit w c i core → ¬ onlyWaits .exit w c i → i.lanes ≠ [] →
      let full := (s.entered c i core).noSlots i.t.coord [(0, i.gr.join)]
      ((i.gr.spawned = true → full = false) → exec (.exit w) s = .next (issuedWith s .exit w c i core fun u =>
        (if i.gr.spawned then u.joinAdd i.t.coord (u.starter c.g (maskOf i.lanes) c.pc) i.gr.join i.lanes.length else u).endLanes c.g (maskOf i.lanes))) ∧
      (i.gr.spawned = true → full = true → exec (.exit w) s = .next (s.issueStalls c i.t.coord i.gr.quarter))) ∧
    (AtIssue s .exit w c i core → ¬ onlyWaits .exit w c i → i.lanes = [] → exec (.exit w) s = .next (issuedWith s .exit w c i core fun u => u)) ∧
    (AtIssue s .nop w c i core → exec (.nop w) s = .next (issuedWith s .nop w c i core fun u => u)) ∧
    (AtIssue s .pause w c i core → ¬ onlyWaits .pause w c i → i.lanes ≠ [] →
      let n (l : Nat) : Nat := min (if w.a.isS then (i.rd l w.a true).toNat else (i.rd32 l w.a).toNat) 65535
      (w.sub = 0 → exec (.pause w) s = .next (issuedWith s .pause w c i core fun u =>
        if n 32 = 0 then u
        else (u.modGroup c.g fun y => { y with pausedTo := u.ctxClock i.t.ctx + 1 + n 32 }).sched (u.clock + 1 + n 32) (.pauseEnd c.g))) ∧
      (w.sub = 1 → exec (.pause w) s = .next (issuedWith s .pause w c i core fun u =>
        u.modGroup c.g fun y => i.lanes.foldl (fun y l => if n l = 0 then y else y.setDefer l (n l)) y)))


/-- R206, R207: an arrival counts in the id's current instance, fixes its count if first, and parks the group; an id or a count out of
range, a count 0 in a spawned group and another count than the instance's throw E_ILLEGAL. -/
def Claims.barriersArriveAndPark : Prop :=
  ∀ op ∈ [Op.bar, .barc], ∀ s w c i core, AtIssue s op w c i core → ¬ onlyWaits op w c i → i.lanes ≠ [] →
    let id := (i.rdOnce w.a).toNat
    let n := (i.rdOnce w.b).toNat
    let b := spGet {} (if op = .barc then i.t.barcs else i.t.bars) id
    let fine : Prop := n ≤ 32 ∧ id ≤ (if op = .barc then 7 else 15) ∧ (n = 0 → i.gr.spawned = false) ∧ (b.count = none ∨ b.count = some n)
    (¬ fine → exec (.ofFull op w) s = .next (s.issueThrows c i.gr i.t.coord false w.yld w.gap.toNat (i.lanes.map fun l => ⟨l, 0x01, c.pc, rawValue c.raw⟩))) ∧
    (fine → exec (.ofFull op w) s = .next (issuedWith s op w c i core fun u =>
      let b' : BarSt := { inst := b.inst, count := some n, arrived := b.arrived ++ [(i.gr.slot, u.nextId)], closed := b.closed, counts := b.counts }
      let v := u.modTeam i.t.id fun t => if op = .barc then { t with barcs := spPut {} t.barcs id b' } else { t with bars := spPut {} t.bars id b' }
      (v.park c.g (if op = .barc then .barc id b.inst else .bar id b.inst) (v.starter c.g (maskOf i.lanes) c.pc)).evalBars))


/-- R209: a wait on a counter of team memory, or of global memory through the TLB. -/
def Claims.waitgeParksOnItsCounter : Prop :=
  ∀ s w c i core, AtIssue s .waitge w c i core → ¬ onlyWaits .waitge w c i → i.lanes ≠ [] →
    let u := s.entered c i core
    let a := (i.rdOnce w.a).toNat
    let sp := w.sub.toNat / 8
    let dl := if w.c.unused w.wc then none else some (u.ctxClock i.t.ctx + (i.rdOnce w.c).toNat)
    let wk : Wake := .counter (sp = 1) a (i.rdOnce w.b).toNat (w.sub.toNat % 8) dl
    let wait (v : State) : State := (v.park c.g wk (u.starter c.g (maskOf i.lanes) c.pc)).evalCounters
    let accs : List Acc := [{ lane := 0, addr := a, size := 8 }]
    let held (v : State) : State := v.modGroup c.g fun y => { y with held := none }
    u.orderHold c.g false = false → chkSpace i.t sp a 8 true = none → a % 8 = 0 →
    (sp = 1 → exec (.waitge w) s = .next (issuedWith s .waitge w c i core fun u => wait (held (marked u c.g .none accs [])))) ∧
    (sp = 0 → ∀ x, (marked u c.g .none accs []).tlb? i.t a false = some x → pteRd x.leaf = true →
      exec (.waitge w) s = .next (issuedWith s .waitge w c i core fun u =>
        wait (held (touched (marked u c.g .none accs []) i accs [x]))))


/-- R206, R207, R209: BAR, BARC and WAITGE. Model's choices: log 12, 20. -/
def Obligations.barriersAndCounterWaits : Prop := Claims.barriersArriveAndPark ∧ Claims.waitgeParksOnItsCounter

/-- R210, R211: TRAP marks each lane's D empty, keeps the blocks to write, and parks the group for room in the ring; a service
above 0xFFFF throws E_ILLEGAL (R199). -/
def Claims.trapKeepsItsBlocksAndParks : Prop :=
  ∀ s w c i core, AtIssue s .trap w c i core → ¬ onlyWaits .trap w c i → i.lanes ≠ [] → ∀ d, w.d = .v d →
    let block (u : State) (l : Nat) : List Byte :=
      let arg (j : Nat) : Nat := match w.b with
        | .v n => if j < w.sub.toNat then ((i.regs l).getV l (n.val + j)).val.toNat else 0
        | _ => 0
      natLe 2 (i.rdOnce w.a).toNat ++ [BitVec.ofNat 8 l, BitVec.ofNat 8 i.gr.slot] ++ natLe 2 i.t.cluster ++ [BitVec.ofNat 8 i.t.pos, 0] ++
        natLe 8 (u.codeBase i.t + c.pc) ++ natLe 4 (arg 0) ++ natLe 4 (arg 1) ++ natLe 4 (arg 2) ++ natLe 4 (arg 3)
    (0xFFFF < (i.rdOnce w.a).toNat →
      exec (.trap w) s = .next (s.issueThrows c i.gr i.t.coord false w.yld w.gap.toNat (i.lanes.map fun l => ⟨l, 0x01, c.pc, rawValue c.raw⟩))) ∧
    ((i.rdOnce w.a).toNat ≤ 0xFFFF → exec (.trap w) s = .next (issuedWith s .trap w c i core fun u =>
      ((u.modGroup c.g fun y =>
        { y with
          regs := i.lanes.foldl (fun r l => r.markDst RegSt.emptied l (.v d.val w.ty false)) y.regs
          trapBlocks := i.lanes.map (block u), trapLanes := i.lanes, trapDst := d.val, trapWide := w.ty.wide, trapStatus := [] }).park c.g .trapSlot
        (u.starter c.g (maskOf i.lanes) c.pc)).sched u.clock (.trapBlocksWritten c.g)))


/-- R50, R51, R212, R213, R49. -/
def Claims.tryRegionsOpenAndClose : Prop :=
  ∀ s w c i core,
    (AtIssue s .tryOpen w c i core → ¬ onlyWaits .tryOpen w c i → i.lanes ≠ [] →
      let x := branchTarget c ((i.rdOnce w.a).setWidth 32)
      let push (u : State) (team : Bool) (inst : Nat) : State :=
        ({ u with nextUid := u.nextUid + 1 }).modGroup c.g fun y => { y with tries := ⟨u.nextUid, team, inst, x, maskOf i.lanes⟩ :: y.tries }
      let counted (u : State) : State := u.modGroup c.g fun y => { y with tryTs := i.gr.tryTs + 1 }
      x < (s.entered c i core).codeSize i.t →
      (8 ≤ i.gr.tries.length → exec (.tryOpen w) s = .next (s.issueThrows c i.gr i.t.coord false w.yld w.gap.toNat (i.lanes.map fun l => ⟨l, 0x12, c.pc, 9⟩))) ∧
      (i.gr.tries.length < 8 → w.sub = 0 → exec (.tryOpen w) s = .next (issuedWith s .tryOpen w c i core fun u => push u false 0)) ∧
      (i.gr.tries.length < 8 → w.sub = 1 → (i.t.regions.find? fun r => r.1 == i.gr.tryTs) = none →
        exec (.tryOpen w) s = .next (issuedWith s .tryOpen w c i core fun u =>
          push (counted (u.modTeam i.t.id fun t => { t with regions := t.regions ++ [(i.gr.tryTs, x, none)] })) true i.gr.tryTs)) ∧
      (i.gr.tries.length < 8 → w.sub = 1 → (i.t.regions.find? fun r => r.1 == i.gr.tryTs) = some (i.gr.tryTs, x, none) →
        exec (.tryOpen w) s = .next (issuedWith s .tryOpen w c i core fun u => push (counted u) true i.gr.tryTs)) ∧
      (∀ r, i.gr.tries.length < 8 → w.sub = 1 → (i.t.regions.find? fun r => r.1 == i.gr.tryTs) = some (i.gr.tryTs, x, some r) →
        exec (.tryOpen w) s = .next (issuedWith s .tryOpen w c i core fun u =>
          (counted u).steerTo c.g (maskOf i.lanes) x i.gr.tries r (instKey (.team i.t.id i.gr.tryTs))))) ∧
    (AtIssue s .tryClose w c i core → ¬ onlyWaits .tryClose w c i → i.lanes ≠ [] →
      (∀ e rest, w.sub = 1 → i.gr.tries = e :: rest → e.team = true →
        exec (.tryClose w) s = .next (issuedWith s .tryClose w c i core fun u => u.modGroup c.g fun y => { y with tries := rest })) ∧
      (w.sub = 0 → (∀ l ∈ i.lanes, ∃ e, (i.gr.tries.find? fun e => e.members.getLsbD l) = some e ∧ e.team = false) →
        exec (.tryClose w) s = .next (issuedWith s .tryClose w c i core fun u => u.modGroup c.g fun y =>
          { y with tries := (y.tries.map fun e => { e with members := e.members &&& ~~~ maskOf (i.lanes.filter fun l =>
              ((i.gr.tries.find? fun e => e.members.getLsbD l).map fun e => e.uid) = some e.uid) }).filter fun e => e.members ≠ 0 })))


/-- R214, R59, R200: THROW throws each lane's own code and value into its innermost region; the guarded lanes stay at the word. -/
def Claims.throwRaisesEachLanesCode : Prop :=
  ∀ s w c i core, AtIssue s .throwI w c i core → ¬ onlyWaits .throwI w c i → i.lanes ≠ [] →
    let code (l : Nat) : Nat := (i.rd32 l w.a).toNat
    let value (l : Nat) : W64 := if w.ty.wide then i.rd l w.b true else BitVec.ofInt 64 (i.rd32 l w.b).toInt
    ((∀ l ∈ i.lanes, 0x100 ≤ code l ∧ code l ≤ 0xFFFF) →
      exec (.throwI w) s = .next (issuedWith s .throwI w c i core fun u =>
        (goTo u c.g (i.lanes.map fun l => (l, c.pc))).raise c.g (i.lanes.map fun l => ⟨l, code l, c.pc, value l⟩))) ∧
    ((∃ l ∈ i.lanes, ¬ (0x100 ≤ code l ∧ code l ≤ 0xFFFF)) →
      exec (.throwI w) s = .next (s.issueThrows c i.gr i.t.coord false w.yld w.gap.toNat
        ((i.lanes.filter fun l => ¬ (0x100 ≤ code l ∧ code l ≤ 0xFFFF)).map fun l => ⟨l, 0x01, c.pc, rawValue c.raw⟩)))


/-- R215: RETHROW throws the slot's record into the region that lay beneath the caught entry, once. -/
def Claims.rethrowGoesBeneathTheCaughtEntry : Prop :=
  ∀ s w c i core, AtIssue s .rethrow w c i core → ¬ onlyWaits .rethrow w c i → i.lanes ≠ [] →
    (∀ below inst, i.gr.caught = some (below, inst) →
      let r := match i.gr.tries.find? fun e => e.uid ∈ below with
        | some e => if e.team then RegionId.team i.t.id e.inst else RegionId.group i.t.id i.gr.slot e.uid
        | none => RegionId.grid i.t.launch
      exec (.rethrow w) s = .next (issuedWith s .rethrow w c i core fun u =>
        ((u.modGroup c.g fun y => { y with caught := none }).noteTask i.t r).throwInto r { spGet {} i.t.recs i.gr.slot with cc := u.clock } (some inst))) ∧
    (i.gr.caught = none → exec (.rethrow w) s = .next (s.issueThrows c i.gr i.t.coord false w.yld w.gap.toNat (i.lanes.map fun l => ⟨l, 0x01, c.pc, rawValue c.raw⟩)))


/-- R49 to R51, R212 to R215: TRY, ENDTRY, THROW and RETHROW. Model's choices: log 12, 110. -/
def Obligations.tryRegionsAndThrows : Prop := Claims.tryRegionsOpenAndClose ∧ Claims.throwRaisesEachLanesCode ∧ Claims.rethrowGoesBeneathTheCaughtEntry

/-- R220, R42: SPAWN offers one record a lane in ascending order and lands the accepted lanes in its k register. -/
def Claims.spawnOffersItsRecords : Prop :=
  ∀ s w c i core, AtIssue s .spawn w c i core → ¬ onlyWaits .spawn w c i → i.lanes ≠ [] → ∀ k b, w.d = .k k → w.b = .v b →
    let u := s.entered c i core
    let join := (i.rdOnce w.c).toNat
    let n := w.sub.toNat
    let acc (l : Nat) : Acc := { lane := l, addr := join, size := 8, data := (i.rd32 l w.a).toNat, cmp := n,
                                 words := (List.range n).map fun j => ((i.regs l).getV l (b.val + j)).val }
    let accs := i.lanes.map acc
    1 ≤ n → n ≤ 4 → (∀ l ∈ i.lanes, targetCode (u.codeSize i.t) (i.rd32 l w.a).toNat = none) → join % 8 = 0 → canonical join = true →
    ∀ tr, translates (marked u c.g .none accs []) i false true accs tr →
    exec (.spawn w) s = .next (issuedWith s .spawn w c i core fun u =>
      let v := (touched (marked u c.g .none accs []) i accs tr).modGroup c.g fun y => { y with held := none }
      let r := i.lanes.foldl (fun (x : List Nat × State) l =>
        let y := x.2.offerSpawn i.t ⟨(i.rd32 l w.a).toNat, n, join, (acc l).words, some (c.g, u.nextId)⟩
        (if y.1 then x.1 ++ [l] else x.1, y.2)) ([], v)
      r.2.landFrom c.g u.clock 4 [(.k k.val (maskOf i.lanes), maskOf r.1)])


/-- R210, R211, R220: TRAP and SPAWN. Model's choices: log 35, 39, 116. -/
def Obligations.trapsAndSpawns : Prop := Claims.trapKeepsItsBlocksAndParks ∧ Claims.spawnOffersItsRecords

/-- R221. -/
def Claims.setmodeAndGetmode : Prop :=
  ∀ s w c i core,
    (AtIssue s .setmode w c i core → ¬ onlyWaits .setmode w c i → i.lanes ≠ [] → w.sub.toNat ≤ 3 →
      let m := i.rdOnce w.a
      let old := i.gr.mode
      exec (.setmode w) s = .next (issuedWith s .setmode w c i core fun u => u.modGroup c.g fun y =>
        { y with mode := ([m, old ||| m, old &&& ~~~m, (old >>> 2 <<< 2) ||| (m &&& 3)] : List W64).getD w.sub.toNat 0 &&& 0x3F03FF })) ∧
    (AtIssue s .getmode w c i core → ¬ onlyWaits .getmode w c i →
      (∀ n, w.d = .s n → i.lanes ≠ [] → exec (.getmode w) s = .next (lands s .getmode w c i core 4 [(.s n.val, i.gr.mode)])) ∧
      (∀ n, w.d = .v n → exec (.getmode w) s = .next (lands s .getmode w c i core 4 (i.half.map fun l => (.v l n.val, i.gr.mode)))))


/-- R138, R221: SSET, SETMODE and GETMODE. Model's choices: log 65, 100. -/
def Obligations.modesAndPausesOfTheGroup : Prop := Claims.ssetWritesModeOrPauses ∧ Claims.setmodeAndGetmode

/-- R222, R199: without a debug session BKPT is a NOP, with one it halts the group with its tag; a tag above 0xFFFF throws E_ILLEGAL. -/
def Claims.bkptHaltsUnderDebug : Prop :=
  ∀ s w c i core, AtIssue s .bkpt w c i core → ¬ onlyWaits .bkpt w c i →
    let dbg := ∃ x, (s.entered c i core).ctx? i.t.ctx = some x ∧ x.debug ≠ none
    let tag := (i.rdOnce w.a).toNat
    (i.lanes = [] ∨ (tag ≤ 0xFFFF ∧ ¬ dbg) → exec (.bkpt w) s = .next (issuedWith s .bkpt w c i core fun u => u)) ∧
    (i.lanes ≠ [] → tag ≤ 0xFFFF → dbg → exec (.bkpt w) s = .next (issuedWith s .bkpt w c i core fun u => u.haltGroup c.g 2 tag)) ∧
    (i.lanes ≠ [] → 0xFFFF < tag →
      exec (.bkpt w) s = .next (s.issueThrows c i.gr i.t.coord false w.yld w.gap.toNat (i.lanes.map fun l => ⟨l, 0x01, c.pc, rawValue c.raw⟩)))


/-- R204, R205, R222: EXIT, NOP, PAUSE and BKPT. Model's choices: log 12, 32, 62, 66, 100, 109. -/
def Obligations.exitPauseAndBreakpoint : Prop := Claims.exitNopPause ∧ Claims.bkptHaltsUnderDebug

namespace Sys2Proof.Machine
/-- The group's slice of a CPY (R249): D, A, B and C are counter or stage, destination, source and length. -/
def cpySlice (u : State) (w : Full) (c : Cur) (i : Iss) : Slice :=
  { slot := i.gr.slot, sub := w.sub.toNat, ctr := (i.rdOnce w.d).toNat, dst := (i.rdOnce w.a).toNat, src := (i.rdOnce w.b).toNat,
    len := (i.rdOnce w.c).toNat, byw := u.starter c.g (maskOf i.lanes) c.pc, cleared := [], raw := rawValue c.raw }
/-- The locks of a slice (R250): its source for reading, its destination for writing where the copy comes to the own team. -/
def sliceLocks (x : Slice) (t : Team) (id : Nat) : List Lock :=
  mkLock id t.coord x.srcSpace false t.ctx t.id x.src x.bytes ++
    if x.dstSpace = 0 ∨ x.mask = 0 ∨ x.mask / 2 ^ t.pos % 2 = 1 then mkLock id t.coord x.dstSpace true t.ctx t.id x.dst x.bytes else []
/-- The copies a group has entered are counted: the count names the instance a next CPY joins (R249). -/
def countCpy (u : State) (g : GRef) : State := u.modGroup g fun y => { y with cpys := y.cpys + 1 }
/-- A group's copy, transfer or spill as the engine holds it. -/
def engOp (u : State) (c : Cur) (i : Iss) (k : EKind) (cls : Nat) (x : Target) : EOp :=
  { id := u.nextId, kind := k, coord := i.t.coord, team := i.t.id, ctx := i.t.ctx, launch := i.t.launch, cls := cls, target := x,
    first := firstOf u c.g, byw := u.starter c.g (maskOf i.lanes) c.pc }
def addOp (u : State) (o : EOp) (locks : List Lock) : State :=
  { u with locks := u.locks ++ locks, ops := u.ops ++ [o], nextId := u.nextId + 1 }
/-- The word is not held behind an acquire, and lanes act. -/
def engineReady (u : State) (c : Cur) (i : Iss) : Prop := i.lanes ≠ [] ∧ u.orderHold c.g false = false
/-- The matrix word besides is not held by a pair-wide operation that drives this core's array (R305). -/
def matrixReady (u : State) (c : Cur) (i : Iss) : Prop :=
  engineReady u c i ∧ ∀ o ∈ (u.core i.t.coord).mq, o.kind = 2 → o.coord = i.t.coord
/-- A tile word names a tile of the C buffer (R293). -/
def tileOk (t : Team) (x : Nat) : Prop := x % 256 = 0 ∧ x + 16384 ≤ t.cbuf.size
/-- The operation enters this core's matrix queue and is looked at in the next cc (R294, R307). -/
def intoQueue (u : State) (i : Iss) (o : MOp) (locks : List Lock) (ev : Instr) : State :=
  (({ u with locks := u.locks ++ locks, nextId := u.nextId + 1 } : State).modCore i.t.coord fun k => { k with mq := k.mq ++ [o] }).sched (u.clock + 1) ev
def mmaOp (u : State) (c : Cur) (i : Iss) (kind x lw rw' k : Nat) (l r : Rsv) : MOp :=
  { id := u.nextId, kind := kind, coord := i.t.coord, byw := u.starter c.g (maskOf i.lanes) c.pc, tile := x, left := some l, right := some r,
    k0l := lw / 2 ^ 16, k0r := rw' / 2 ^ 16, k := k, first := firstOf u c.g }
def mmaLocks (u : State) (t : Team) (ops : List (Rsv × Nat)) (k x : Nat) : List Lock :=
  (ops.flatMap fun p => let d := dataSpan p.1 p.2 k; mkLock u.nextId t.coord (rsvSpace p.1) false t.ctx t.id d.1 d.2) ++
    mkLock u.nextId t.coord 3 true t.ctx t.id x 16384
/-- The operand words of MMA name blocks inside two reservations of one kind (R301 to R303). -/
def mmaOk (l r : Rsv) (lw rw' k : Nat) (sparse : Bool) : Prop :=
  lw / 16 % 2 ^ 12 = 0 ∧ rw' / 16 % 2 ^ 12 = 0 ∧ (11 ≤ l.ty ↔ 11 ≤ r.ty) ∧ k % kBlock l.ty = 0 ∧ kBlock l.ty ≤ k ∧ k ≤ 16384 ∧
  lw / 2 ^ 16 % kBlock l.ty = 0 ∧ rw' / 2 ^ 16 % kBlock l.ty = 0 ∧ lw / 2 ^ 16 + k ≤ l.klen ∧ rw' / 2 ^ 16 + k ≤ r.klen ∧
  rsvSparse l = false ∧ rsvSparse r = sparse
end Sys2Proof.Machine
open Sys2Proof Sys2Proof.Machine

/-- R249, R250: CPY adds its slice to its group's next copy, locks the slice's spans and clears its destination's lines; the
first slice makes the operation; a slice of a copy already failed only counts. -/
def Claims.copiesEnterTheEngine : Prop :=
  ∀ s w c i core, AtIssue s .cpy w c i core → ¬ onlyWaits .cpy w c i →
    let u := s.entered c i core
    let x0 := cpySlice u w c i
    let lines := sliceLines i.t x0
    let x := { x0 with cleared := lines.filter fun l => !(i.t.buf x0.dstSpace).absent.contains l }
    let here (o : EOp) : Bool := o.team == i.t.id && o.kind == .cpy && o.gathering && o.inst == i.gr.cpys
    let clear (v : State) : State := v.modTeam i.t.id fun t => t.modBuf x.dstSpace fun b => b.clearLines lines
    engineReady u c i → i.gr.spawned = false → (8 ≤ w.sub.toNat → x.ctr ≤ 127 ∧ i.t.hasStage (x.ctr / 16) (x.ctr % 16) = true) →
    (u.ops.find? here = none → u.lockRoom i.t.coord (sliceLocks x i.t u.nextId).length = true →
      exec (.cpy w) s = .next (issuedWith s .cpy w c i core fun u =>
        let o := { engOp u c i .cpy (if isUrgent u i.t.ctx then 0 else 1)
                     (if 8 ≤ w.sub.toNat then .stage i.t.id x.ctr else if x.ctr = 0 then .none else .counter x.ctr) with
                   slices := [x], gathering := true, inst := i.gr.cpys }
        (countCpy (clear (addOp u o (sliceLocks x i.t u.nextId))) c.g).sched u.clock (.engineOpStart u.nextId))) ∧
    (∀ o, u.ops.find? here = some o → o.stopped = false → u.lockRoom i.t.coord (sliceLocks x i.t o.id).length = true →
      exec (.cpy w) s = .next (issuedWith s .cpy w c i core fun u =>
        let v := u.modOp o.id fun y => { y with slices := y.slices ++ [x], first := y.first ++ firstOf u c.g }
        (countCpy (clear { v with locks := v.locks ++ sliceLocks x i.t o.id }) c.g).sched u.clock (.engineOpStart o.id))) ∧
    (∀ o, u.ops.find? here = some o → o.stopped = true →
      exec (.cpy w) s = .next (issuedWith s .cpy w c i core fun u =>
        (countCpy (u.modOp o.id fun y => { y with slices := y.slices ++ [x0] }) c.g).sched u.clock (.engineOpStart o.id)))


/-- R253 to R256: CPYT reads its shape record and enters the engine with its locks, its chunks and its sequence number. Model's choices: log 20, 38. -/
def Obligations.tensorTransfersEnterTheEngine : Prop :=
  ∀ s w c i core, AtIssue s .cpyt w c i core → ¬ onlyWaits .cpyt w c i →
    let u := s.entered c i core
    let a := (i.rdOnce w.a).toNat
    let ctr := (i.rdOnce w.d).toNat
    engineReady u c i → a % 64 = 0 → ctr % 8 = 0 → canonical a = true →
    ∀ x, u.tlb? i.t a false = some x → pteRd x.leaf = true → u.dram.poisoned x.pa 64 = false →
      let raw := u.dram.bytes x.pa 64
      let r := parseShape raw
      r.ctr % 8 = 0 → (∀ p ∈ [ctr, r.ctr, r.src], canonical p = true) → (r.space = 0 → canonical r.dst = true) → shapeBad u i.t raw r = false →
      let sp := cpySpace r.space
      let locks := mkLock u.nextId i.t.coord 0 false i.t.ctx i.t.id r.src r.span ++
        if u.isDest i.t.ctx r then mkLock u.nextId i.t.coord sp true i.t.ctx i.t.id r.dst r.dstSpan else []
      u.lockRoom i.t.coord locks.length = true →
      exec (.cpyt w) s = .next (issuedWith s .cpyt w c i core fun u =>
        let o := { engOp u c i (.cpyt r ((u.collNext i.t.launch i.t.ctx r.cgrp).getD 0))
                     (if isUrgent u i.t.ctx then 0 else max 1 (r.ops / 64)) (if ctr = 0 then .none else .counter ctr) with todo := r.chunks, home := u.homeOf r.cgrp }
        let lines := if u.isDest i.t.ctx r = true ∧ sp ≠ 0 then ((r.chunks.flatMap (u.chunkLines o)).map fun x => x.2).eraseDups else []
        let v := addOp (if r.op = 0 then u else u.collTake i.t.launch i.t.ctx r.cgrp) o locks
        (if lines = [] then v else v.modTeam i.t.id fun t => t.modBuf sp fun b => b.clearLines lines).sched u.clock (.engineOpStart u.nextId))


/-- R257: CPYCAN ends the team's copies and streams that name its counter or stage. R258: CTRADD leaves as a reduction of 8 bytes
with release. -/
def Claims.cancelAndCounterAdd : Prop :=
  ∀ s w c i core,
    let x := (i.rdOnce w.a).toNat
    (AtIssue s .cpycan w c i core → ¬ onlyWaits .cpycan w c i → engineReady (s.entered c i core) c i →
      (w.sub = 0 → x % 8 = 0 → canonical x = true →
        exec (.cpycan w) s = .next (issuedWith s .cpycan w c i core fun u => u.cancelTarget i.t (.counter x))) ∧
      (w.sub ≠ 0 → x ≤ 127 →
        exec (.cpycan w) s = .next (issuedWith s .cpycan w c i core fun u => u.cancelTarget i.t (.stage i.t.id x)))) ∧
    (AtIssue s .ctradd w c i core → ¬ onlyWaits .ctradd w c i → i.lanes ≠ [] →
      let accs : List Acc := [{ lane := 0, addr := x, size := 8, data := (i.rdOnce w.b).toNat }]
      accessesPass (s.entered c i core) c i ⟨.ctradd w.sub.toNat 0, 0, .none, accs, []⟩ false false →
      ∀ tr, translates (marked (s.entered c i core) c.g .none accs []) i false true accs tr →
      exec (.ctradd w) s = .next (issuedWith s .ctradd w c i core fun u =>
        actsAt (touched (marked u c.g .none accs []) i accs tr) c i (memWordOf u c i (.ctradd w.sub.toNat 0) 0 .none accs []) ((accs.zip tr).map fun p => (p.1, p.2.pa))))


/-- R249, R250, R257, R258: CPY, CPYCAN and CTRADD. Model's choices: log 20, 36, 37, 44, 61. -/
def Obligations.copiesAndCounters : Prop := Claims.copiesEnterTheEngine ∧ Claims.cancelAndCounterAdd

/-- R260: QPUSH puts its lanes' records, in ascending lanes, on the chip while the ring is empty and there is room, and sends the
others to the ring. -/
def Claims.pushesGoToTheChipThenTheRing : Prop :=
  ∀ s w c i core, AtIssue s .qpush w c i core → ¬ onlyWaits .qpush w c i → ∀ d, w.d = .v d →
    let u := s.entered c i core
    let q := w.sub.toNat % 4
    let x := i.t.queues.getD q {}
    let recs := i.lanes.map fun l => (List.range 8).map fun j => ((i.regs l).getV l (d.val + j)).val
    let n := if x.tail = x.head then min i.lanes.length x.free else 0
    let put (v : State) : State := v.modQueue i.t.id q fun y =>
      { y with chip := y.chip ++ (recs.take n).map fun r => { words := r, rel := some (c.g, u.nextId) }, tail := y.tail + (i.lanes.length - n) }
    engineReady u c i → x.head ≤ x.tail →
    (i.lanes.length = n → (x.cap = 0 → n ≤ 32) → exec (.qpush w) s = .next (issuedWith s .qpush w c i core fun u => (put u).serve i.t.id q)) ∧
    (n < i.lanes.length → x.cap ≠ 0 → x.tail - x.head + (i.lanes.length - n) ≤ x.cap →
      exec (.qpush w) s = .next (issuedWith s .qpush w c i core fun u =>
        let o := { engOp u c i (.spill q x.tail) 2 .none with recs := recs.drop n, todo := [0] }
        let v := put u
        (({ v with ops := v.ops ++ [o], nextId := u.nextId + 1 } : State).sched u.clock (.queueSpillStart u.nextId)).serve i.t.id q)) ∧
    (x.cap = 0 → 32 < i.lanes.length →
      exec (.qpush w) s = .next (s.issueThrows c i.gr i.t.coord false w.yld w.gap.toNat (i.lanes.map fun l => ⟨l, 0x0E, c.pc, BitVec.ofNat 64 q⟩)))


/-- R261, R190: QPOP takes one record for each lane, all or none, and waits in issue order for them, a record being there once its push's
release is performed, or for the group that pushed it; the form that does not wait takes what there is for its first lanes and tells them by its k register. -/
def Claims.popsTakeRecordsInOrder : Prop :=
  ∀ s w c i core, AtIssue s .qpop w c i core → ¬ onlyWaits .qpop w c i → ∀ d, w.d = .v d →
    let u := s.entered c i core
    let q := w.sub.toNat % 4
    let x := i.t.queues.getD q {}
    let k := i.lanes.length
    let empty (v : State) (l : List Nat) : State := v.modGroup c.g fun y => { y with regs := l.foldl (fun r l => emptyRun r l d.val) y.regs }
    let keep (v : State) (n : Nat) : State := v.modQueue i.t.id q fun y => { y with chip := (HwQ.take n x.chip).2 }
    engineReady u c i →
    (4 ≤ w.sub.toNat →
      let n := if x.waiters = [] then min k (u.qAvail i.t i.gr.slot x).length else 0
      exec (.qpop w) s = .next (issuedWith s .qpop w c i core fun u =>
        (((empty (keep u n) (i.lanes.take n)).landRecs c.g d.val ((i.lanes.take n).zip (HwQ.take n x.chip).1)).land c.g 4
          (dstK w.c (i.lanes.map fun l => (l, decide (l ∈ i.lanes.take n))))).sched u.clock (.queueRefillStart i.t.id q))) ∧
    (w.sub.toNat < 4 → k ≤ 32 → (x.waiters ≠ [] ∨ (u.qAvail i.t i.gr.slot x).length < k) →
      exec (.qpop w) s = .next (issuedWith s .qpop w c i core fun u =>
        let v := (empty u i.lanes).modQueue i.t.id q fun y => { y with waiters := y.waiters ++ [(i.gr.slot, i.lanes.map fun l => (l, d.val))] }
        (v.park c.g (.queue q) (v.starter c.g (maskOf i.lanes) c.pc)).sched u.clock (.queueRefillStart i.t.id q))) ∧
    (w.sub.toNat < 4 → k ≤ 32 → x.waiters = [] → k ≤ (u.qAvail i.t i.gr.slot x).length →
      exec (.qpop w) s = .next (issuedWith s .qpop w c i core fun u =>
        (((keep (empty u i.lanes) k).landRecs c.g d.val (i.lanes.zip (HwQ.take k x.chip).1)).acquire c.g 2).sched u.clock (.queueRefillStart i.t.id q))) ∧
    (w.sub.toNat < 4 → 32 < k →
      exec (.qpop w) s = .next (s.issueThrows c i.gr i.t.coord false w.yld w.gap.toNat (i.lanes.map fun l => ⟨l, 0x0E, c.pc, BitVec.ofNat 64 q⟩)))


/-- R262, R263: QSTEAL sends one request a lane to the team at its coordinate, which must be another team of its cluster. -/
def Claims.stealsAskTheirVictims : Prop :=
  ∀ s w c i core, AtIssue s .qsteal w c i core → ¬ onlyWaits .qsteal w c i → ∀ d k, w.d = .v d → w.c = .k k →
    let u := s.entered c i core
    let co (l : Nat) : Nat := (i.rd32 l w.b).toNat
    let bad (l : Nat) : Prop := co l = i.t.coord ∨ i.t.hasCore (co l) = false
    engineReady u c i →
    ((∀ l ∈ i.lanes, ¬ bad l) → exec (.qsteal w) s = .next (issuedWith s .qsteal w c i core fun u =>
      let b := u.starter c.g (maskOf i.lanes) c.pc
      i.lanes.foldl (fun v l =>
        let st : Steal := { id := v.nextId, byw := b, lane := l, reg := d.val, kreg := k.val, q := w.sub.toNat % 4,
                            victim := ((clusterTeam v i.t (co l)).map fun t => t.id).getD 0 }
        ({ v with steals := v.steals ++ [st], nextId := v.nextId + 1 } : State).after (v.stealLeast st) (.stealRequestServe st.id))
        (u.modGroup c.g fun y => { y with regs := i.lanes.foldl (fun r l => emptyRun r l d.val) y.regs }))) ∧
    (∀ bads, i.lanes.filter (fun l => co l = i.t.coord ∨ i.t.hasCore (co l) = false) = bads → bads ≠ [] →
      exec (.qsteal w) s = .next (s.issueThrows c i.gr i.t.coord false w.yld w.gap.toNat (bads.map fun l => ⟨l, 0x06, c.pc, BitVec.ofNat 64 (co l)⟩)))


/-- R260 to R263: QPUSH, QPOP and QSTEAL. Model's choices: log 20, 59, 92, 93. -/
def Obligations.queueWords : Prop := Claims.pushesGoToTheChipThenTheRing ∧ Claims.popsTakeRecordsInOrder ∧ Claims.stealsAskTheirVictims

/-- R264, R279: TSUBMIT enters its task with its ranges; it is ready when no earlier task of the die that it depends on is
unfinished; the image's data address is written into its descriptor. Model's choices: log 20. -/
def Obligations.tasksAreEntered : Prop :=
  ∀ s w c i core, AtIssue s .tsubmit w c i core → ¬ onlyWaits .tsubmit w c i →
    let u := s.entered c i core
    let a := (i.rdOnce w.a).toNat
    engineReady u c i → u.released c.g i.t.coord 4 u.nextId = true → a % 128 = 0 → canonical a = true →
    ∀ x, u.tlb? i.t a true = some x → pteRd x.leaf = true → pteWr x.leaf = true → u.dram.poisoned x.pa 128 = false →
      let raw := u.dram.bytes x.pa 128
      let f (o n : Nat) : Nat := natOfBytes ((raw.drop o).take n)
      let join := f 8 8
      let rs := (List.range (f 4 1)).map fun k => rangeOf (f (16 + 8 * k) 8)
      let ws := (List.range (f 5 1)).map fun k => rangeOf (f (48 + 8 * k) 8)
      ∀ l m k, u.launch? i.t.launch = some l → u.image? l.body.image = some m → (m.kerns.find? fun k => k.entry == f 0 4) = some k →
      k.cw = 1 → k.ch = 1 → (∀ n ∈ k.qcap, n = 0) → join % 8 = 0 → canonical join = true → f 4 1 ≤ 4 → f 5 1 ≤ 2 → f 6 2 = 0 →
      (∀ r ∈ rs ++ ws, r ≠ none) → (∀ j, f 4 1 ≤ j → j < 4 → f (16 + 8 * j) 8 = 0) → (∀ j, f 5 1 ≤ j → j < 2 → f (48 + 8 * j) 8 = 0) →
      (u.tasks.filter fun k => k.die == Config.coordDie i.t.coord).length < 1024 →
      exec (.tsubmit w) s = .next (issuedWith s .tsubmit w c i core fun u =>
        let k : Task := { die := Config.coordDie i.t.coord, id := u.nextTask, launch := i.t.launch, ctx := i.t.ctx, desc := a, entry := f 0 4, join := join,
                          reads := rs.filterMap id, writes := ws.filterMap id, byw := u.starter c.g (maskOf i.lanes) c.pc }
        let ready := (u.tasks.filter fun x => x.die == k.die && x.id < k.id && k.after x).all Task.finished
        let v := u.writePa (x.pa + 64) (bytesOfNat 8 m.body.dataVa)
        ({ v with tasks := v.tasks ++ [{ k with state := if ready then 1 else 0 }], nextTask := u.nextTask + 1 } : State).sched (u.clock + 1) (.taskStart k.die k.id))


/-- R266 to R268: RGET acquires or parks on its stage; RPUT and RFREE leave their effect to wait for its release. Model's choices: log 12, 20. -/
def Obligations.ringWordsAcquireAndRelease : Prop :=
  ∀ s w c i core,
    let u := s.entered c i core
    let r := (i.rdOnce w.a).toNat
    let st := (i.rdOnce w.b).toNat
    let x := spGet {} i.t.stages (16 * r + st)
    let sc := w.sub.toNat % 8
    let empty := 8 ≤ w.sub.toNat
    let ph := (i.rdOnce w.c).toNat % 2
    let met := (if empty then x.full = false ∧ x.count = 0 else x.full = true) ∧ x.phase.toNat = ph
    let quiet := ∀ e ∈ u.path, ¬ (e.byw.g = c.g ∧ e.kind = .ring ∧ e.addr / 16 = r)
    let left (free : Bool) (data : Nat) (u : State) : State :=
      ({ u with nextId := u.nextId + 1, path := u.path ++
        [{ id := u.nextId, coord := i.t.coord, byw := u.starter c.g (maskOf i.lanes) c.pc, lane := 64, kind := .ring, space := 1, addr := 16 * r + st, pa := 0,
           size := 0, data := data, cmp := 0, op := free.toNat, ty := .n32, reg := 256, rel := none }] } : State).sched u.clock
        (if free then .rfreeEffect u.nextId else .rputEffect u.nextId)
    (AtIssue s .rget w c i core → ¬ onlyWaits .rget w c i → engineReady u c i → i.t.hasStage r st = true → quiet →
      (met → (¬ empty → x.poison = false) → exec (.rget w) s = .next (issuedWith s .rget w c i core fun u => u.acquire c.g sc)) ∧
      (met → ¬ empty → x.poison = true →
        exec (.rget w) s = .next (s.issueThrows c i.gr i.t.coord false w.yld w.gap.toNat (i.lanes.map fun l => ⟨l, 0x0C, c.pc, BitVec.ofNat 64 (0x100 + 16 * r + st)⟩))) ∧
      (¬ met → exec (.rget w) s = .next (issuedWith s .rget w c i core fun u =>
        u.park c.g (.ring r st ph empty sc) (u.starter c.g (maskOf i.lanes) c.pc)))) ∧
    (AtIssue s .rput w c i core → ¬ onlyWaits .rput w c i → engineReady u c i → i.t.hasStage r st = true → quiet →
      exec (.rput w) s = .next (issuedWith s .rput w c i core (left false ((i.rdOnce w.c).toNat % 2 ^ 32)))) ∧
    (AtIssue s .rfree w c i core → ¬ onlyWaits .rfree w c i → engineReady u c i → i.t.hasStage r st = true → quiet →
      (x.full = true → exec (.rfree w) s = .next (issuedWith s .rfree w c i core (left true 0))) ∧
      (x.full = false →
        exec (.rfree w) s = .next (s.issueThrows c i.gr i.t.coord false w.yld w.gap.toNat (i.lanes.map fun l => ⟨l, 0x0E, c.pc, BitVec.ofNat 64 (0x100 + 16 * r + st)⟩))))


/-- R297 to R300: RSV fills a free slot with the record it reads, RLS frees a held one. -/
def Claims.reservationsAreHeldAndReleased : Prop :=
  ∀ s w c i core,
    let u := s.entered c i core
    let slot := (i.rdOnce w.a).toNat
    let held (v : Option Rsv) (u : State) : State := u.modTeam i.t.id fun t => { t with rsvs := spPut none t.rsvs slot v }
    let bad (op : Op) (c : Cur) : List LaneThrow := i.lanes.map fun l => ⟨l, 0x11, c.pc, BitVec.ofNat 64 op.code⟩
    (AtIssue s .rsv w c i core → ¬ onlyWaits .rsv w c i → matrixReady u c i → (∀ e ∈ u.path, e.byw.g = c.g → e.space = 0 ∧ e.rel = none) →
      let a := (i.rdOnce w.b).toNat
      let raw := i.t.tmBytes a 64
      (slot ≤ 15 → spGet none i.t.rsvs slot = none → a % 64 = 0 → chkTeam i.t a 64 true = none → i.t.tm.mem.poisoned a 64 = false → rsvOk raw (parseRsv raw) = true →
        rsvInside (parseRsv raw) (i.t.buf (rsvSpace (parseRsv raw))).size = true →
        exec (.rsv w) s = .next (issuedWith s .rsv w c i core (held (some (parseRsv raw))))) ∧
      (15 < slot ∨ spGet none i.t.rsvs slot ≠ none → exec (.rsv w) s = .next (s.issueThrows c i.gr i.t.coord false w.yld w.gap.toNat (bad .rsv c)))) ∧
    (AtIssue s .rls w c i core → ¬ onlyWaits .rls w c i → matrixReady u c i → (∀ e ∈ u.path, e.byw.g = c.g → e.rel = none) →
      (slot ≤ 15 → spGet none i.t.rsvs slot ≠ none → exec (.rls w) s = .next (issuedWith s .rls w c i core (held none))) ∧
      (15 < slot ∨ spGet none i.t.rsvs slot = none → exec (.rls w) s = .next (s.issueThrows c i.gr i.t.coord false w.yld w.gap.toNat (bad .rls c))))


/-- R301 to R305, R307: MZERO, MMA and MMAS enter the core's matrix queue with their locks, MMAP both cores' queues. -/
def Claims.matrixWordsEnterTheQueue : Prop :=
  ∀ s w c i core,
    let u := s.entered c i core
    let x := (i.rdOnce w.d).toNat
    let lw := (i.rdOnce w.a).toNat % 2 ^ 32
    let rw' := (i.rdOnce w.b).toNat % 2 ^ 32
    let k := (i.rdOnce w.c).toNat % 2 ^ 32
    let ev : Instr := .matrixOpStart i.t.coord
    (AtIssue s .mzero w c i core → ¬ onlyWaits .mzero w c i → matrixReady u c i → tileOk i.t x → (u.core i.t.coord).mq.length < 8 →
      let locks := mkLock u.nextId i.t.coord 3 true i.t.ctx i.t.id x 16384
      u.lockRoom i.t.coord locks.length = true →
      exec (.mzero w) s = .next (issuedWith s .mzero w c i core fun u => intoQueue u i
        { id := u.nextId, kind := 0, coord := i.t.coord, byw := u.starter c.g (maskOf i.lanes) c.pc, tile := x, first := firstOf u c.g } locks ev)) ∧
    (∀ o ∈ [(Op.mma, 1, false), (.mmas, 3, true)], AtIssue s o.1 w c i core → ¬ onlyWaits o.1 w c i → matrixReady u c i →
      ∀ l r, spGet none i.t.rsvs (lw % 16) = some l → spGet none i.t.rsvs (rw' % 16) = some r → mmaOk l r lw rw' k o.2.2 → tileOk i.t x →
      (u.core i.t.coord).mq.length < 8 →
      let locks := mmaLocks u i.t [(l, lw / 2 ^ 16), (r, rw' / 2 ^ 16)] k x
      u.lockRoom i.t.coord locks.length = true →
      exec (.ofFull o.1 w) s = .next (issuedWith s o.1 w c i core fun u => intoQueue u i (mmaOp u c i o.2.1 x lw rw' k l r) locks ev)) ∧
    (AtIssue s .mmap w c i core → ¬ onlyWaits .mmap w c i → matrixReady u c i →
      ∀ l r f, spGet none i.t.rsvs (lw % 16) = some l → spGet none i.t.rsvs (rw' % 16) = some r → mmaOk l r lw rw' k false → tileOk i.t x →
      u.followerOf i.t = some f → rsvInside r (f.buf (rsvSpace r)).size = true → tileOk f x → f.place ≠ .away →
      (u.core i.t.coord).mq.length < 8 → (u.core f.coord).mq.length < 8 →
      let own := mmaLocks u i.t [(l, lw / 2 ^ 16), (r, rw' / 2 ^ 16)] k x
      let theirs := mmaLocks u f [(r, rw' / 2 ^ 16)] k x
      u.lockRoom i.t.coord own.length = true → u.lockRoom f.coord theirs.length = true →
      exec (.mmap w) s = .next (issuedWith s .mmap w c i core fun u =>
        let o := { mmaOp u c i 2 x lw rw' k l r with follower := some f.coord }
        ((({ u with locks := u.locks ++ (own ++ theirs), nextId := u.nextId + 1 } : State).modCore i.t.coord fun y => { y with mq := y.mq ++ [o] }).modCore
          f.coord fun y => { y with mq := y.mq ++ [o] }).sched (u.clock + 1) ev))


/-- R308, R309: a drain into registers marks its lanes' registers empty, a drain into memory clears its destination's lines; R310:
MFENCE issues once no operation of its scope that was issued before it is in the queue, and stalls before. -/
def Claims.drainsAndMatrixFence : Prop :=
  ∀ s w c i core,
    let u := s.entered c i core
    let x := (i.rdOnce w.a).toNat
    let p := (i.rdOnce w.b).toNat
    let sub := w.sub.toNat
    let base (u : State) : MOp :=
      { id := u.nextId, kind := 4, coord := i.t.coord, byw := u.starter c.g (maskOf i.lanes) c.pc, tile := x, ty := w.ty, opt := sub / 4, first := firstOf u c.g }
    let tile (u : State) : List Lock := mkLock u.nextId i.t.coord 3 false i.t.ctx i.t.id x 16384
    let n := if w.ty = .f32 then 8 else if w.ty.bits = 16 then 4 else 2
    (AtIssue s .mdrain w c i core → ¬ onlyWaits .mdrain w c i → matrixReady u c i → (u.core i.t.coord).mq.length < 8 → tileOk i.t x →
      (∀ d, sub % 4 = 0 → w.d = .v d → p / 64 % 4 = 0 → p / 2 ^ 14 = 0 → p / 256 % 64 % 8 = 0 → d.val % n = 0 → (∀ l ∈ i.lanes, p % 64 + l < 64) →
        u.lockRoom i.t.coord (tile u).length = true →
        exec (.mdrain w) s = .next (issuedWith s .mdrain w c i core fun u =>
          intoQueue (u.modGroup c.g fun y =>
            { y with regs := i.lanes.foldl (fun r l => (List.range n).foldl (fun r j => r.markV RegSt.emptied l (d.val + j)) r) y.regs }) i
            { base u with dst := d.val, row0 := p % 64, c0 := p / 256 % 64 } (tile u) (.mdrainStart i.t.coord))) ∧
      (sub % 4 ≠ 0 →
        let sp := if sub % 4 = 1 then 2 else 1
        let d := (i.rdOnce w.d).toNat
        let trip := (i.rdOnce w.c).toNat
        let st := p % 2 ^ 16
        let e := p / 2 ^ 16 % 64
        let size := w.ty.bits / 8
        let span := 63 * st + 64 * size
        let wide := sub / 4 ≠ 0
        let locks (u : State) : List Lock := tile u ++ mkLock u.nextId i.t.coord sp true i.t.ctx i.t.id d span ++
          if wide then mkLock u.nextId i.t.coord 1 true i.t.ctx i.t.id trip 1024 else []
        let lines := ((linesOf d span).map fun l => (sp, l)) ++ if wide then (linesOf trip 1024).map fun l => (1, l) else []
        p / 2 ^ 22 = 0 → (e ≠ 0 → sub / 4 = 2) → 64 * size ≤ st → d % 16 = 0 → st % 16 = 0 → (wide → trip % 16 = 0) → d + span ≤ (i.t.buf sp).size →
        (wide → trip + 1024 ≤ i.t.tm.size) → u.lockRoom i.t.coord (locks u).length = true →
        exec (.mdrain w) s = .next (issuedWith s .mdrain w c i core fun u =>
          intoQueue (u.modTeam i.t.id fun t => lines.foldl (fun t l => t.modBuf l.1 fun b => b.clearLines [l.2]) t) i
            { base u with space := sp, dst := d, stride := st, e := e, trip := trip,
                          cleared := (lines.filter fun l => !(i.t.buf l.1).absent.contains l.2 || (i.t.buf l.1).orphan.contains l.2).eraseDups } (locks u) (.mdrainStart i.t.coord)))) ∧
    (AtIssue s .mfence w c i core → ¬ onlyWaits .mfence w c i → i.lanes ≠ [] → engHold i u = false →
      let n := i.gr.mfenceFrom u.nextId
      let mine (o : MOp) : Prop := o.id < n ∧ if w.sub = 0 then o.byw.g = c.g ∧ o.byw.uid = i.gr.uid else o.byw.g.team = i.t.id
      ((∀ o ∈ (u.core i.t.coord).mq, ¬ mine o) → exec (.mfence w) s = .next (issuedWith s .mfence w c i core fun u => u)) ∧
      ((∃ o ∈ (u.core i.t.coord).mq, mine o) → exec (.mfence w) s = .next
        ((s.modGroup c.g fun y => { y with mfence := some (y.lastIssue, y.catchAt, n) }).issueStalls c i.t.coord i.gr.quarter)))


/-- R297 to R310: reservations, matrix operations, drains and MFENCE. Model's choices: log 12, 20, 94. -/
def Obligations.matrixWords : Prop := Claims.reservationsAreHeldAndReleased ∧ Claims.matrixWordsEnterTheQueue ∧ Claims.drainsAndMatrixFence

namespace Sys2Proof.Machine
/-- The event finds its object and its condition holds: the machine answers a next state. -/
def becomes (i : Instr) (s t : State) : Prop := exec i s = .next t
end Sys2Proof.Machine
open Sys2Proof Sys2Proof.Machine

/-- R24, R228, R351: a quarter that may issue takes the first candidate in the order of R228, with its IssuePC and Exec. -/
def Claims.quartersChooseInOrder : Prop :=
  ∀ coord q miss s, Config.coordOk coord = true → q < 4 → s.cur = none →
    let u := s.lookEvict coord q
    (∀ t g, u.choose coord q = some (t, g) → (t, g) ∈ u.quarterGroups coord q ∧ u.candidate t g = true ∧
      ∀ x ∈ u.quarterGroups coord q, u.candidate x.1 x.2 = true → lexLe (issueKey u t g) (issueKey u x.1 x.2) = true) ∧
    ((u.core coord).busyTo.getD q 0 ≤ u.clock → (∀ x ∈ u.quarterGroups coord q, x.2.second = none) →
      (spGet 0 u.issueRow (Config.coordDie coord) = 0 ∨ u.clock % 2 = 0) → ∀ t g, u.choose coord q = some (t, g) →
      let v := u.modGroup ⟨t.id, g.slot⟩ Group.endDefer
      (v.breakAt t g = none → becomes (.issueSelect coord q miss) s
        { v with cur := some { g := ⟨t.id, g.slot⟩, pc := g.issuePc, exec := g.execSet, half := 0, t0 := u.clock, len := 0, raw := [], latch := none } }) ∧
      (∀ n, v.breakAt t g = some n → becomes (.issueSelect coord q miss) s
        { (v.haltGroup ⟨t.id, g.slot⟩ 1 n).modGroup ⟨t.id, g.slot⟩ (fun y => { y with skipBp := n :: y.skipBp }) with todo := (coord, q) :: v.todo }))


/-- R35, R31, R28: the ends of ageing, of a pause and of deferral. -/
def Claims.groupTimersEnd : Prop :=
  ∀ (r : GRef) (s : State),
    becomes (.agePromotion r) s (s.modGroup r fun y => if 64 ≤ y.age then { y with promoted := true } else y) ∧
    (∀ t, s.team? r.team = some t →
      becomes (.pauseEnd r) s (s.modGroup r fun y => if y.pausedTo ≤ s.ctxClock t.ctx then { y with pausedTo := 0 } else y)) ∧
    (∀ lane, becomes (.deferEnd r lane) s (s.modGroup r fun y =>
      if y.live.getLsbD lane = true ∧ ∀ l ∈ lanesOf y.live, y.deferOf l ≠ 0 then { y with defer := [] } else y))


/-- R53, R59, R218: a throw joins its region's open interval, merged with what is there, or opens one that ends in the next cc. -/
def Claims.throwsMergeInTheirRegion : Prop :=
  ∀ (s : State) (r : RegionId) (x : Rec),
    ((∀ y ∈ s.steers, y.region ≠ r) → s.throwInto r x none =
      { s with agenda := s.agenda ++ [(s.clock + 1, .steeringEnd r)],
               steers := s.steers ++ [{ region := r, acc := x, insts := [], start := s.clock }] }) ∧
    ((∃ y ∈ s.steers, y.region = r) → s.throwInto r x none =
      { s with steers := s.steers.map fun z => if z.region = r then { z with acc := z.acc.merge x } else z }) ∧
    (∀ a b : Rec, (a.merge b).count = a.count + b.count ∧ (a.merge b).codes = a.codes ||| b.codes ∧
      ((a.merge b).code, (a.merge b).pc, (a.merge b).lane, (a.merge b).value) =
        (if lexLe a.key b.key then (a.code, a.pc, a.lane, a.value) else (b.code, b.pc, b.lane, b.value)) ∧
      ((a.merge b).flags % 2 = 1 ↔ a.flags % 2 = 1 ∨ b.flags % 2 = 1 ∨ ∃ i j, i < j ∧ j < 64 ∧ (a.codes ||| b.codes).getLsbD i = true ∧
        (a.codes ||| b.codes).getLsbD j = true))


/-- R53, R218, R219: a region is steered as one: what its members started inside is cancelled, the inner intervals join, every member
group gets the record, its lanes the catch address, and its try stack what lies beneath. -/
def Claims.regionsAreSteered : Prop :=
  ∀ (r : RegionId) (s : State) (x : Steering), (s.steers.find? fun y => y.region == r) = some x → regionLevel r ≠ 2 →
    let ms := s.membersOf r
    (∀ t u, (r = .team t u ∨ ∃ k, r = .group t k u) → ms = [] → s.team? t = none → becomes (.steeringEnd r) s { s with steers := s.steers.filter fun y => !([r].contains y.region) }) ∧
    (∀ t u m, (r = .team t u ∨ ∃ k, r = .group t k u) → ms = [] → s.team? t = some m → m.task = none → becomes (.steeringEnd r) s
      { s.throwInto (.grid m.launch) x.acc none with steers := (s.throwInto (.grid m.launch) x.acc none).steers.filter fun y => !([r].contains y.region) }) ∧
    let enclosing (m : Team × Group × TryEntry) : List RegionId :=
      ((((m.2.1.tries.dropWhile fun e => e.uid != m.2.2.uid).drop 1).filter fun e => e.members &&& m.2.2.members ≠ 0).map (entryRegion m.1.id m.2.1.slot)) ++
        [RegionId.grid m.1.launch]
    let above (m : Team × Group × TryEntry) : List TryEntry := m.2.1.tries.takeWhile fun e => e.uid != m.2.2.uid
    let within (p : Bool) (m : Team × Group × TryEntry) : List RegionId :=
      ((above m).filter fun e => decide (e.members &&& m.2.2.members ≠ 0) == p).map (entryRegion m.1.id m.2.1.slot)
    (∀ m ∈ ms, ∀ q ∈ within false m, ∀ y ∈ s.steers, y.region ≠ q) →
    ms ≠ [] → (∀ m ∈ ms, midWord m.2.1 = false) → (∃ m ∈ ms, ∀ q ∈ enclosing m, ∀ y ∈ s.steers, y.region ≠ q) →
    let inner := (ms.flatMap (within true)).eraseDups
    let acc := mergeAll x.acc (((s.steers.filter fun y => inner.contains y.region).map fun y => (instKey y.region, y.acc)) ++ ms.filterMap fun m => freshCatch m.1 m.2.1 m.2.2.members)
    let ins := s.inside r
    let whole (u : Team) : Bool := match r with
      | .team a _ => u.id == a
      | _ => false
    let c := ((ms.head?.map fun m => m.1.ctx).getD 0)
    let after := s.cancelInside ins whole (isMember r)
    let final := { acc with level := regionLevel r, flags := acc.flags ||| s.cancelFlags ins ||| lossFlags s after, steered := ms.length, clock := s.ctxClock c }
    let u := after.dropSteers (r :: inner)
    let v := match r with
      | .team a i => u.modTeam a fun t => { t with regions := t.regions.map fun y => if y.1 = i then (y.1, y.2.1, some final) else y }
      | _ => u
    becomes (.steeringEnd r) s (ms.foldl (fun v m =>
      (v.steerTo ⟨m.1.id, m.2.1.slot⟩ (m.2.2.members &&& m.2.1.live) m.2.2.catchPc (belowEntry m.2.1 m.2.2) final (instKey r)).unstall ⟨m.1.id, m.2.1.slot⟩) v)


/-- R52, R57, R219: at the grid level, once none of its words is half issued, a launch loses what waits and its unfinished tasks, what its
teams started is cancelled, and every team exits but the catch team, whose groups get the record at the catch offset; without a catch it
fails. A catch team that is not running is dispatched afresh. -/
def Claims.launchesAreSteeredAndCaught : Prop :=
  ∀ (lid : Nat) (s : State) (l : Launch), s.launch? lid = some l → l.completed = false → l.grid = lid →
    (∀ x, (s.steers.find? fun y => y.region == .grid lid) = some x → (∀ t ∈ s.teams, t.launch = lid → ∀ g ∈ t.groups, midWord g = false) →
      let mine := s.teams.filter fun t => t.launch == lid && t.place != .ended
      let ofLaunch (r : RegionId) : Bool := match r with
        | .group t _ _ | .team t _ => mine.any fun y => y.id == t
        | .grid a => a == lid
      let acc := mergeAll x.acc (((s.steers.filter fun y => ofLaunch y.region && y.region != .grid lid).map fun y => (instKey y.region, y.acc)) ++
        mine.flatMap fun t => t.groups.filterMap fun g => freshCatch t g (BitVec.allOnes 64))
      let catches := l.body.flags.getLsbD 1 && !l.caught && l.fate = 0
      let isCatch (t : Team) : Bool := catches && t.cluster == l.body.cteam && t.pos == l.body.cpos && t.task.isNone && t.groups.any fun g => g.live ≠ 0
      let d := (({ s with steers := s.steers.filter fun y => !ofLaunch y.region } : State).stopWaiting lid).dropTasks lid
      let after := d.2.cancelInside (s.inside (.grid lid)) (fun t => t.launch == lid) (isMember (.grid lid))
      let flags := acc.flags ||| s.cancelFlags (s.inside (.grid lid)) ||| lossFlags d.2 after
      let steered := match mine.find? isCatch with
        | some t => (t.groups.filter fun (g : Group) => g.live ≠ 0).length
        | none => 0
      let final := { acc with level := 2, flags := if d.1 = 0 then flags else flags ||| 2, count := acc.count + d.1, steered := steered, clock := s.ctxClock l.ctx }
      let u := (mine.filter fun t => !isCatch t).foldl (fun u t => match u.team? t.id with
        | some y => u.exitTeam y
        | none => u) after
      let v := u.modLaunch lid fun y =>
        { y with
          exceptions := match y.exceptions with
            | some e => if y.cancelled then some (e.merge final) else some final
            | none => some final
          caught := y.caught || catches
          fate := if catches then 2 else if y.fate = 3 then 3 else 1 }
      (∀ t, mine.find? isCatch = some t →
        let w := (t.groups.filter fun (g : Group) => g.live ≠ 0).foldl (fun (w : State) (g : Group) =>
          (w.steerTo ⟨t.id, g.slot⟩ g.live l.body.catchOff [] final 0).unstall ⟨t.id, g.slot⟩) (v.modTeam t.id fun y => { y with isCatch := true })
        becomes (.steeringEnd (.grid lid)) s (w.sched (w.clock + 1) (.launchComplete lid))) ∧
      (mine.find? isCatch = none →
        let w := if catches then v.sched (v.clock + 1) (.catchTeamDispatch lid) else v
        becomes (.steeringEnd (.grid lid)) s (w.sched (w.clock + 1) (.launchComplete lid)))) ∧
    (l.fate = 2 → (∀ t ∈ s.teams, t.launch = lid → t.isCatch = false) →
      let w : WaitCl := { launch := lid, cluster := l.body.cteam, urgent := isUrgent s l.ctx }
      ∀ o u, s.cluster? lid l.body.cteam = none → (s.bestDie { s.needOf w l with own := some (lid, l.body.cteam) }).map (fun x => x.2) = some o →
      s.placeCluster l w o l.kern (some l.body.cpos) l.body.catchOff = some u →
      becomes (.catchTeamDispatch lid) s ((u.firstTeam lid).modTeam s.nextTeam fun t =>
        { t with
          isCatch := true
          groups := t.groups.map fun (g : Group) => { g with caught := some ([], 0) }
          recs := t.groups.foldl (fun (r : Sparse Rec) (g : Group) => spPut {} r g.slot (l.exceptions.getD {})) t.recs }))

/-- R54, R208, R291, R312: what a throw cancels, in the order of the table: barrier arrivals are withdrawn and the count stays; waits on rings,
counters, queues and calls are abandoned; loads and atomics take their effect and their destination is void; stores and reductions are not
touched; copies stop with poison and orphaned lines; matrix operations are removed, or leave their tile or drain undefined. -/
def Claims.cancellationFollowsItsTable : Prop :=
  ∀ (s : State) (ins : Starter → W64) (whole : Team → Bool) (mem : Team → Group → Bool),
    (let stop (u : State) : State :=
       (s.opsIn ins).foldl (fun u o => u.stopOp o true) ((s.streamsIn ins).foldl (fun u x => u.stopDesc x.1 x.2.1 x.2.2) (u.cancelMatrix ins))
     let a := ((s.cancelLoads ins).cancelAtoms ins).cancelSteals ins
     let b := a.teams.foldl (fun u t => t.groups.foldl (fun u g => (u.cancelWait (stop s) ⟨t.id, g.slot⟩ ins mem).wakeRemote ⟨t.id, g.slot⟩) u) a
     let c := (b.teams.filter whole).foldl (fun u t =>
       (u.modTeam t.id fun x =>
         { x with bars := x.bars.foldl (fun l b => spPut {} l b.1 { b.2 with arrived := [] }) []
                  barcs := x.barcs.foldl (fun l b => spPut {} l b.1 b.2.withdrawn) [] }).modCluster t.launch t.cluster fun k =>
           { k with barc := k.barc.foldl (fun l b => spPut (0, []) l b.1 (b.2.1, b.2.2.filter fun p => p.1 ≠ t.pos)) [] }) b
     s.cancelInside ins whole mem = stop c) ∧
    (∀ (h : State) g t gr w, s.team? g.team = some t → s.group? g = some gr → gr.held = none → gr.wake = some w → ins gr.wakeBy ≠ 0 →
      s.restOf gr.wakeBy (ins gr.wakeBy) = 0 →
      (∀ id n, w = .bar id n → s.cancelWait h g ins mem = (s.modTeam t.id fun x =>
        let b := spGet {} x.bars id
        { x with bars := spPut {} x.bars id (if b.inst = n then { b with arrived := b.arrived.filter fun a => a.1 ≠ gr.slot } else b) }).wakeGroup g) ∧
      (∀ id n, w = .barc id n → s.cancelWait h g ins mem = (s.modTeam t.id fun x =>
        let b := spGet {} x.barcs id
        { x with barcs := spPut {} x.barcs id (if b.inst = n then { b with arrived := b.arrived.filter fun a => a.1 ≠ gr.slot } else b) }).wakeGroup g) ∧
      (∀ a b c d e, w = .ring a b c d e ∨ w = .counter d a b c none → s.cancelWait h g ins mem = s.wakeGroup g) ∧
      (∀ q, w = .queue q → s.cancelWait h g ins mem = (s.dropWaiter t g q (ins gr.wakeBy)).wakeGroup g) ∧
      (w = .trapReply ∨ w = .trapSlot → s.cancelWait h g ins mem = (((s.modCtx t.ctx fun c =>
        { c with calls := c.calls.filter fun x => !(x.2.1 == g && (ins gr.wakeBy).getLsbD x.2.2.1) }).modGroup g fun y =>
          { y with regs := (y.trapLanes.filter fun l => (ins gr.wakeBy).getLsbD l).foldl (fun r l => voidRun r l y.trapDst (if y.trapWide then 2 else 1)) y.regs
                   trapBlocks := y.trapBlocks.filter fun b => !(ins gr.wakeBy).getLsbD ((b.getD 2 0).toNat)
                   trapLanes := y.trapLanes.filter fun l => !(ins gr.wakeBy).getLsbD l
                   trapStatus := y.trapStatus.filter fun x => !(ins gr.wakeBy).getLsbD x.1 }).wakeGroup g))) ∧
    ((s.loads.map fun r => r.id).Nodup → (s.cancelLoads ins).loads = (s.loads.map fun r => { r with dead := r.dead ||| ins r.byw }) ∧
      (s.cancelLoads ins).path = s.path ∧ (s.cancelLoads ins).dram = s.dram) ∧
    ((s.path.map fun e => e.id).Nodup → (s.cancelAtoms ins).path = (s.path.map fun e =>
      if e.kind = .atom ∧ e.reg ≠ 256 ∧ (ins e.byw &&& s.liveBy e.byw).getLsbD e.lane = true then { e with reg := 256 } else e) ∧
      (s.cancelAtoms ins).dram = s.dram) ∧
    (∀ (o : MOp) (m : W64),
      let tid := o.byw.g.team
      (o.kind = 0 → s.cancelMOp o m = s) ∧ (o.kind ∈ [1, 2, 3] → o.state = 0 → s.cancelMOp o m = s.removeMOp o) ∧
      (o.kind ∈ [1, 2, 3] → o.state ≠ 0 → s.cancelMOp o m = ((s.blurTiles o).freeArray o).removeMOp o) ∧
      (o.kind = 4 → o.space ≠ 0 → o.state = 0 → s.cancelMOp o m = (s.presentLines tid o.cleared).removeMOp o) ∧
      (o.kind = 4 → o.space ≠ 0 → o.state ≠ 0 → s.cancelMOp o m = ((s.blurDrain o).orphanLines tid o.lines).removeMOp o)) ∧
    (∀ (o : EOp), s.op? o.id = some o → o.gathering = false → o.fault = none →
      let p := (s.poisonOp o.id).poisonTiles o
      (∀ f ∈ p.faults, f.state ≠ 0) → s.stopOp o.id true = ((p.blurBytes o).orphanOp o).dropOp o)

/-- R52 to R54, R57, R208, R218, R219, R291, R312: throws merge, regions are steered with what they cancel, launches are steered and caught. Model's choices: log 31, 33, 37, 61, 63, 107, 114. -/
def Obligations.steering : Prop :=
  Claims.throwsMergeInTheirRegion ∧ Claims.regionsAreSteered ∧ Claims.launchesAreSteeredAndCaught ∧ Claims.cancellationFollowsItsTable

/-- R162, R163, R165, R167, R203: a load lands whole once what must come first is over: the values of its live lanes in their
registers, or the PCs that RET loads; a target of RET that is no instruction address leaves every PC as before the word. -/
def Claims.loadsLand : Prop :=
  ∀ (id : Nat) (s : State) (r : LoadReq) (t : Team), (s.loads.find? fun x => x.id == id) = some r →
    s.team? r.byw.g.team = some t → (r.ctm.isSome = true → r.got ≠ none) → (r.ctm = none → s.loadWaits r = false) →
    (∀ x ∈ s.loadValues t r, x.2.1 = 0) →
    let v : State := { s.loadL1 r with loads := (s.loadL1 r).loads.filter fun x => x.id != r.id }
    let each (l : Nat) : Bool := (s.liveBy r.byw).getLsbD l && !r.dead.getLsbD l
    let vals := s.loadValues t r
    (∀ n ty x4, r.dst = .v n ty x4 → becomes (.loadLanding id) s ((v.modGroup r.byw.g fun y =>
      (vals.filter fun x => each x.1).foldl (fun (z : Group) x => z.putAll r.byw.cc (loadRegs x.1 r.dst x.2.2)) y).loadGone r)) ∧
    (∀ n ty, r.dst = .s n ty → becomes (.loadLanding id) s ((v.modGroup r.byw.g fun y =>
      (vals.filter fun _ => s.liveBy r.byw &&& ~~~r.dead ≠ 0).foldl (fun (z : Group) x => z.putAll r.byw.cc (loadRegs x.1 r.dst x.2.2)) y).loadGone r)) ∧
    (∀ ex len, r.dst = .pc ex len →
      let mine := vals.filter fun x => each x.1
      let code (x : Nat) : Option Nat := targetCode (v.codeSize t) x
      ((∀ x ∈ mine, code x.2.2 = none) → becomes (.loadLanding id) s ((goTo v r.byw.g (mine.map fun x => (x.1, x.2.2))).loadGone r)) ∧
      ((∃ x ∈ mine, code x.2.2 ≠ none) → becomes (.loadLanding id) s (((v.modGroup r.byw.g fun y =>
        ((lanesOf ex).filter fun l => (y.pc l).toNat = r.byw.pc + len).foldl (fun y l => y.setPc l (BitVec.ofNat 32 r.byw.pc)) y).loadGone r).raise r.byw.g
        (mine.filterMap fun x => (code x.2.2).map fun k => ⟨x.1, k, r.byw.pc, BitVec.ofNat 64 x.2.2⟩))))


/-- R162, R163, R165, R183, R184, R185: where each byte of a load comes from. A global one: from the youngest store of its core's path that
covers it, but for the lane's own later ones, else from the L1 where the load may use it, else from the home slice. One of a team space: from
the lane's own youngest earlier store that is still on its way, else from the memory or buffer itself. A poisoned source gives E_ECC with the
address. A request that has its answer keeps it. -/
def Claims.loadsBringTheirBytes : Prop :=
  ∀ (s : State) (t : Team) (r : LoadReq),
    (∀ l, r.got = some l → s.loadValues t r = l) ∧
    (r.got = none → ∀ (k : Nat) (a : Acc), r.accs[k]? = some a →
      let brings (byte : Nat → Byte) : Prop := ∃ v, (s.loadValues t r)[k]? = some (a.lane, 0, v) ∧ v < 2 ^ (8 * a.size) ∧
        ∀ i, i < a.size → v / 2 ^ (8 * i) % 256 = (byte i).toNat
      let fails : Prop := (s.loadValues t r)[k]? = some (a.lane, 0x0D, a.addr)
      (r.space = 0 → ∀ pa, r.pas[k]? = some pa →
        let covers (i : Nat) (e : PathEntry) : Prop := e ∈ s.corePath r.coord ∧ e.kind = .st ∧ e.space = 0 ∧ e.pa ≤ pa + i ∧ pa + i < e.pa + e.size ∧
          ¬ (r.id < e.id ∧ e.byw.g = r.byw.g ∧ e.byw.uid = r.byw.uid ∧ e.lane = a.lane)
        let line (i : Nat) : Option (List Byte × List Nat) := if (∀ sc, r.acq = some sc → sc < 3) then l1Line (s.core r.coord) ((pa + i) / 128) else none
        let bad (i : Nat) : Prop := (∀ e, ¬ covers i e) ∧ ((∃ x, line i = some x ∧ (pa + i) / 64 ∈ x.2) ∨ (line i = none ∧ s.dram.poisoned (pa + i) 1 = true))
        ((∃ i, i < a.size ∧ bad i) → fails) ∧
        (∀ byte : Nat → Byte,
          (∀ i, i < a.size → ¬ bad i ∧
            ((∃ e, covers i e ∧ (∀ x, covers i x → x = e ∨ x.id < e.id) ∧ byte i = BitVec.ofNat 8 (e.data / 2 ^ (8 * (pa + i - e.pa)))) ∨
             ((∀ e, ¬ covers i e) ∧ ∃ x, line i = some x ∧ byte i = x.1.getD ((pa + i) % 128) 0) ∨
             ((∀ e, ¬ covers i e) ∧ line i = none ∧ byte i = s.dram.read1 (pa + i)))) → brings byte)) ∧
      (r.space ≠ 0 →
        let own (i : Nat) (e : PathEntry) : Prop := e.byw.g = r.byw.g ∧ e.lane = a.lane ∧ e.kind = .st ∧ e.space = r.space ∧ e.id < r.id ∧
          e.addr ≤ a.addr + i ∧ a.addr + i < e.addr + e.size
        let base (i : Nat) : Byte := if r.space = 1 then (t.tmBytes a.addr a.size).getD i 0 else (t.buf r.space).mem.read1 (a.addr + i)
        ((t.buf r.space).mem.poisoned a.addr a.size = true → fails) ∧
        ((t.buf r.space).mem.poisoned a.addr a.size = false → (r.space = 1 → (t.tmBytes a.addr a.size).length = a.size) → ∀ byte : Nat → Byte,
          (∀ i, i < a.size → ((∃ pre e post, s.path = pre ++ e :: post ∧ own i e ∧ (∀ x ∈ post, ¬ own i x) ∧
              byte i = BitVec.ofNat 8 (e.data / 2 ^ (8 * (a.addr + i - e.addr)))) ∨ ((∀ e ∈ s.path, ¬ own i e) ∧ byte i = base i))) → brings byte) ∧
        (r.space = 1 → a.addr + a.size ≤ 0x7E800 → ∀ i, i < a.size → base i = t.tm.mem.read1 (a.addr + i))))

/-- R170, R171: what an owner makes of the old value. Atomics and reductions by operation and type, i types signed and f32 rounded to nearest
even; RED.stat merges the record with the arriving triple and writes its bytes 12 to 15 zero. -/
def Claims.ownersComputeTheNewValue : Prop :=
  (∀ (ty : Ty) (n old c cmp : Nat), 0 < n → old < 2 ^ (8 * n) → c < 2 ^ (8 * n) →
    let sg (x : Nat) : Int := if ty.signed then (BitVec.ofNat (8 * n) x).toInt else x
    (ty ≠ .f32 → atomNew 0 ty n old c cmp = (old + c) % 2 ^ (8 * n) ∧ sg (atomNew 1 ty n old c cmp) = min (sg old) (sg c) ∧
      sg (atomNew 2 ty n old c cmp) = max (sg old) (sg c) ∧ (∀ op ∈ [1, 2], atomNew op ty n old c cmp = old ∨ atomNew op ty n old c cmp = c)) ∧
    (ty = .f32 → atomNew 0 ty n old c cmp = (fAdd rneMode (BitVec.ofNat 32 old) (BitVec.ofNat 32 c)).bits ∧
      atomNew 1 ty n old c cmp = (fMinMax false rneMode (BitVec.ofNat 32 old) (BitVec.ofNat 32 c)).toNat ∧
      atomNew 2 ty n old c cmp = (fMinMax true rneMode (BitVec.ofNat 32 old) (BitVec.ofNat 32 c)).toNat) ∧
    (∀ j, (atomNew 3 ty n old c cmp).testBit j = (old.testBit j && c.testBit j) ∧ (atomNew 4 ty n old c cmp).testBit j = (old.testBit j || c.testBit j) ∧
      (atomNew 5 ty n old c cmp).testBit j = (old.testBit j != c.testBit j)) ∧
    atomNew 6 ty n old c cmp = c ∧ (old = cmp → atomNew 7 ty n old c cmp = c) ∧ (old ≠ cmp → atomNew 7 ty n old c cmp = old)) ∧
  (∀ (e : PathEntry) (old : Nat), (e.kind = .atom ∨ e.kind = .red → entryNew e old = atomNew e.op e.ty e.size old e.data e.cmp) ∧ (e.kind = .st → entryNew e old = e.data) ∧
    (e.kind = .stat →
      let tri (x : Nat) : Triple := ⟨BitVec.ofNat 32 x, BitVec.ofNat 32 (x / 2 ^ 32), BitVec.ofNat 32 (x / 2 ^ 64)⟩
      let m := mmerge (tri old) (tri e.data)
      entryNew e old % 2 ^ 32 = m.n.toNat ∧ entryNew e old / 2 ^ 32 % 2 ^ 32 = m.mean.toNat ∧ entryNew e old / 2 ^ 64 = m.m2.toNat ∧
        (bytesOfNat 16 (entryNew e old)).drop 12 = [0, 0, 0, 0])) ∧
  ∀ (s : State) (e : PathEntry), (s.ownerRead e).2 = false → e.kind = .red ∨ e.kind = .stat →
    let new (old : Nat) : List Byte := bytesOfNat e.size (entryNew e old)
    (e.space = 0 → s.performEntry e = (s.writePa e.pa (new (s.dram.readN e.pa e.size))).entryGone e) ∧
    (e.space ≠ 0 → ∀ t, s.team? e.byw.g.team = some t →
      s.performEntry e = (s.writeTeam t.id e.space e.addr (new (natOfBytes ((t.buf e.space).mem.bytes e.addr e.size)))).entryGone e)

/-- R183, R184, R167, R170, R171: an entry of the store path is performed at its point of coherence when what must come before it is,
the lanes of one RED or ATOM word at one location together in ascending order; an atomic's old value goes back to its lane. -/
def Claims.pathEntriesPerform : Prop :=
  ∀ (id : Nat) (s : State),
    (∀ e, s.entry? id = some e →
      (e.rel = none → s.mayPerform e = true → becomes (.storeAck id) s (s.performEntry e)) ∧
      (e.rel = none → s.mayPerformAll (s.mates e) = true →
        becomes (.atomAtOwner id) s ((s.mates e).foldl (fun s x => s.performEntry x) s)) ∧
      (s.mayPerform e = true → s.released e.byw.g e.coord (e.rel.getD 0) id = true → becomes (.storePathRelease id) s (s.performEntry e)) ∧
      (e.kind = .st → (s.ownerRead e).2 = false → s.performEntry e =
        (if e.space = 0 then s.writePa e.pa (bytesOfNat e.size e.data) else s.writeTeam e.byw.g.team e.space e.addr (bytesOfNat e.size e.data)).entryGone e) ∧
      (e.kind = .atom → e.space = 0 → s.dram.poisoned e.pa e.size = false →
        let old := s.dram.readN e.pa e.size
        let u := s.writePa e.pa (bytesOfNat e.size (atomNew e.op e.ty e.size old e.data e.cmp))
        s.performEntry e = (({ u with atoms := u.atoms ++
          [{ id := e.id, coord := e.coord, byw := e.byw, lane := e.lane, reg := e.reg, ty := e.ty, old := old, ecc := false, space := e.space, addr := e.addr,
             remote := decide (homeDie e.pa ≠ Config.coordDie e.coord), dead := decide (e.reg = 256) }] } : State).endEntry e.id).after 1 (.atomReply e.id))) ∧
    (∀ r, (s.atoms.find? fun r => r.id == id) = some r → r.dead = false → (s.liveBy r.byw).getLsbD r.lane = true → r.ecc = false →
      becomes (.atomReply id) s ((((({ s with atoms := s.atoms.filter fun x => x.id != id } : State).modGroup r.byw.g fun y =>
        y.putAll r.byw.cc (loadRegs r.lane (.v r.reg r.ty false) r.old)).wakeRemote r.byw.g).endFence r.byw.g).evalBars.serveAll))


/-- R166: a ctm access acts at its target, if the team there still has the generation it carries. R209: a WAITGE whose deadline has
passed wakes, with E_TIMEOUT if its counter has not reached its target. -/
def Claims.ctmArrivalsAndDeadlines : Prop :=
  (∀ (id : Nat) (s : State) (e : PathEntry) (x : Nat × Nat) (t : Team), (∀ r ∈ s.loads, r.id ≠ id) → s.entry? id = some e → e.ctm = some x →
    s.mayPerform e = true → s.ctmTarget e.byw.g x = some t → s.locked t.coord t 1 e.addr e.size false = false →
    t.tm.mem.poisoned e.addr e.size = false → becomes (.ctmArrival id) s ((s.writeTeam t.id 1 e.addr (bytesOfNat e.size e.data)).entryGone e)) ∧
  (∀ (id : Nat) (s : State) (r : LoadReq) (x : Nat × Nat) (a : Acc) (rest : List Acc), (s.loads.find? fun r => r.id == id && r.got.isNone) = some r →
    r.ctm = some x → r.accs = a :: rest → s.loadWaits r = false →
    let answer (c v : Nat) : State :=
      ({ s with loads := s.loads.map fun (y : LoadReq) => if y.id = id then { y with got := some [(a.lane, c, v)] } else y } : State).after
        (Config.meshCc (Config.meshWay x.1 r.coord + 1)) (.loadLanding id)
    (s.ctmTarget r.byw.g x = none → becomes (.ctmArrival id) s (answer 0x06 a.addr)) ∧
    (∀ t, s.ctmTarget r.byw.g x = some t → (0x7E800 ≤ a.addr ∨ probeState t 1 a.addr = 0) → t.tm.mem.poisoned a.addr a.size = false →
      becomes (.ctmArrival id) s (answer 0 (natOfBytes (t.tmBytes a.addr a.size))))) ∧
  (∀ (g : GRef) (s : State) (t : Team) (gr : Group) (team : Bool) (addr target scope d : Nat), s.team? g.team = some t → s.group? g = some gr →
    gr.wake = some (.counter team addr target scope (some d)) → d ≤ s.ctxClock t.ctx →
    let v := (counterValue s t team addr).getD 0
    becomes (.waitgeTimeout g) s (if target ≤ v then (s.wakeGroup g).acquire g scope
      else (s.wakeGroup g).raiseStarter gr.wakeBy 0x13 (BitVec.ofNat 64 v)))


/-- R28, R31, R35, R166, R209, R228: the choice of a group, the ends of its timers, arrivals from other teams and deadlines. Model's choices: log 7, 14, 18, 34, 62, 111, 115. -/
def Obligations.issueChoiceAndTimers : Prop := Claims.quartersChooseInOrder ∧ Claims.groupTimersEnd ∧ Claims.ctmArrivalsAndDeadlines

/-- R161, R230, R238, R239, R241, R354: what a walk, an answer and a refusal or a limit bring to whom. A walk that found its page puts it into the
TLB and the word is taken up again; one that found a broken table fails the word; one that found none makes a fault, told to the host, on which
the group parks. A served fault lets the group's word walk again, the operation enter its queue, the additions be made, the stream go on, the
chunk be written; an ended one fails the word's lanes with E_PAGE and the faulting address, ends the operation or the stream with poison, drops the
additions with a throw, refuses the chunk. -/
def Claims.faultsAreServedOrEnded : Prop :=
  ∀ (s : State),
    (∀ t g (mw : MemWord) va,
      (∀ x, s.walkTeam t va mw.act.needs.2 = .ok x → s.walkDone t g mw va = (s.modCore t.coord fun c => tlbPut c t.ctx va x).retryHeld g) ∧
      (s.walkTeam t va mw.act.needs.2 = .bad → s.walkDone t g mw va = s.failHeld g mw (s.step4Fails t mw none)) ∧
      (s.walkTeam t va mw.act.needs.2 = .missing →
        let at_ := ((mw.accs.filter fun a => a.addr / 4096 = va / 4096 ∨ (a.addr + a.size - 1) / 4096 = va / 4096).map fun a => a.addr).headD va
        let r := s.newFault t.ctx at_ mw.act.kind (.group g)
        s.walkDone t g mw va = (r.2.park g (.fault r.1) mw.byw).modGroup g fun y => { y with held := some { mw with walking := false } })) ∧
    (∀ ctx va kind u c, s.ctx? ctx = some c →
      let r : FaultRec := { id := s.nextFault, ctx := ctx, va := va, kind := kind, user := u, deadline := s.ctxClock ctx + c.p.faultLimit }
      s.newFault ctx va kind u = (s.nextFault,
        (({ s with faults := s.faults ++ [r], nextFault := s.nextFault + 1 } : State).notify ctx 0xC005
          (bytesOfNat 8 s.nextFault ++ bytesOfNat 8 va ++ bytesOfNat 4 kind ++ bytesOfNat 4 ctx)).sched (s.clock + c.p.faultLimit) (.faultLimitExpire s.nextFault))) ∧
    ∀ (f : FaultRec),
      let as (n : Nat) : State := { s with faults := s.faults.map fun (x : FaultRec) => if x.id = f.id then { x with state := n } else x }
      let freed (n : Nat) : State := { as n with adds := s.adds.filter fun a => a.fault ≠ f.id }
      let mine := s.adds.filter fun a => a.fault = f.id
      (∀ g t gr, f.user = .group g → s.team? g.team = some t → s.group? g = some gr →
        (gr.wake ≠ some (.fault f.id) → s.serveFault f = as 1 ∧ s.endFault f = as 2) ∧
        (gr.wake = some (.fault f.id) → ∀ mw, gr.held = some mw →
          (gr.phase ≠ .evicted ∨ (∀ k, mw.act ≠ .spawn k) → s.serveFault f = (((as 1).wakeGroup g).modGroup g fun y =>
            { y with held := y.held.map fun m => { m with walking := true } }).startWalk t.coord t.ctx f.va) ∧
          s.endFault f = (as 2).failHeld g mw ((as 2).step4Fails t mw (some f.va)))) ∧
      (∀ id o, f.user = .op id → s.op? id = some o →
        (o.fault ≠ some f.id → s.serveFault f = as 1 ∧ s.endFault f = as 2) ∧
        (o.fault = some f.id →
          let clear (u : State) : State := u.modOp id fun x => { x with fault := none }
          (o.todo ≠ [] → s.serveFault f = (clear (as 1)).enterEngine { o with fault := none }) ∧
          (o.todo = [] → s.serveFault f = (clear (as 1)).closeOp id) ∧ s.endFault f = (clear (as 2)).engFail id 0x07 f.va)) ∧
      (∀ n, f.user = .add n →
        s.serveFault f = mine.foldl (fun u a => (u.addAt a.ctx a.va a.amount a.join a.byw a.launch a.task a.op a.entry).addOver a) (freed 1) ∧
        s.endFault f = mine.foldl (fun u a => (if a.task then u.raiseGrid a.launch (a.byw.headD {}) 0x07 (BitVec.ofNat 64 a.va)
          else u.raiseStarters a.byw 0x07 (BitVec.ofNat 64 a.va)).addOver a) (freed 2)) ∧
      (∀ c q out, f.user = .stream c q out →
        let open_ (u : State) : State := u.modStreams fun d => if d.fault = some f.id then { d with fault := none } else d
        (∀ d t, s.faultedDesc f.id = some d → s.team? d.byw.g.team = some t →
          (t.place = .resident → s.serveFault f = (open_ (as 1)).sched (s.clock + 1) (if out then .streamStoreElement t.coord q else .streamLoadElement t.coord q)) ∧
          (t.place ≠ .resident → s.serveFault f = open_ (as 1)) ∧
          s.endFault f = (open_ (as 2)).failStream q { d with fault := none } 0x07 f.va)) ∧
      (∀ x, f.user = .chunk x → s.serveFault f = (as 1).reducedChunk x ∧ s.endFault f = (as 2).refuseChunk x)

/-- R240 to R243, R238: a walk that is over is answered to every group that waits for its page; a fault is served when a mapping
answers it, and ends when the context's limit has passed; a core acknowledges a shoot-down once its old accesses are over. -/
def Claims.walksAndShootdowns : Prop :=
  ∀ (s : State),
    (∀ w, w ∈ s.walks → (s.walks.find? fun x => x.id == w.id) = some w →
      let waits (g : Group) : Bool := match g.held with
        | some mw => mw.walking && mw.space = 0 && !(mw.onPage w.va).isEmpty
        | none => false
      let rest : State := { s with walks := s.walks.filter fun x => x.id != w.id }
      becomes (.tableWalkComplete w.id) s
        ((s.teams.filter fun t => t.coord == w.coord && t.ctx == w.ctx && t.place != .ended).foldl (fun u t =>
          t.groups.foldl (fun u g => match g.held with
            | some mw => if waits g then u.walkDone t ⟨t.id, g.slot⟩ mw w.va else u
            | none => u) u) (match (rest.dieWalks (Config.coordDie w.coord))[15]? with
              | some x => rest.runWalk x
              | none => rest))) ∧
    (∀ f, (s.faults.find? fun x => x.id == f.id && x.state == 0) = some f →
      (s.walkCtx f.ctx f.va ≠ .missing → becomes (.faultServed f.id) s (s.serveFault f)) ∧
      (f.deadline ≤ s.ctxClock f.ctx → becomes (.faultLimitExpire f.id) s (s.endFault f)) ∧
      (s.ctxClock f.ctx < f.deadline → becomes (.faultLimitExpire f.id) s
        (s.sched (s.clock + (f.deadline - s.ctxClock f.ctx)) (.faultLimitExpire f.id)))) ∧
    (∀ x coord, (s.shoots.find? fun y => y.id == x.id && y.left.any fun l => l.1 == coord) = some x →
      ((∃ k ∈ s.cores, k.coord = coord) → (∀ w ∈ s.walks, w.ctx ≠ x.ctx) → s.reachCore x coord =
        { (s.modCore coord fun c => { c with tlb := c.tlb.filter fun e =>
            !(e.ctx == x.ctx && (e.page * 2 ^ e.bits < x.va + x.len && x.va < e.page * 2 ^ e.bits + 2 ^ e.bits)) }) with
          shoots := s.shoots.map fun (y : Shoot) =>
            if y.id = x.id then { y with left := y.left.map fun l => if l.1 = coord then (coord, some s.nextId) else l } else y }) ∧
      let u := if (coord, none) ∈ x.left then s.reachCore x coord else s
      let z := (u.shoots.find? fun y => y.id == x.id).getD x
      let left := z.left.filter fun l => l.1 != coord
      u.oldAccess coord (((z.left.find? fun l => l.1 == coord).bind fun l => l.2).getD 0) = false →
      (left ≠ [] → becomes (.shootdownAck x.id coord) s
        { u with shoots := u.shoots.map fun (y : Shoot) => if y.id = x.id then { y with left := left } else y }) ∧
      (∀ h code, left = [] → z.reply = some (h, code) → z.task = none → becomes (.shootdownAck x.id coord) s
        (((({ u with shoots := u.shoots.filter fun y => y.id != x.id } : State).freeFrames z.free).reply h code 0 []).tryTasks)))


/-- R161, R238 to R243, R354: walks and faults end for those who wait for them, shoot-downs are acknowledged. Model's choices: log 11, 16, 23, 69, 107. -/
def Obligations.walksFaultsAndShootdowns : Prop := Claims.walksAndShootdowns ∧ Claims.faultsAreServedOrEnded


/-- R175 to R178: the stream engines move one element a time between memory and their queue; a stream that is over is counted. -/
def Claims.streamsMoveElements : Prop :=
  ∀ (coord q : Nat) (s : State) (d : StreamDesc) (rest : List StreamDesc) (t : Team), s.team? d.byw.g.team = some t → d.fault = none →
    (((s.core coord).qi.getD q {}).descs = d :: rest → d.pos < d.count → s.streamHeld t d = false → ((s.core coord).qi.getD q {}).entries.length < 1024 →
      ∀ a, s.streamAcc t d = .ok a → (if d.team then t.tm.mem.poisoned a d.size else s.dram.poisoned a d.size) = false →
      let x := if d.team then natOfBytes (t.tmBytes a d.size) else s.dram.readN a d.size
      becomes (.streamLoadElement coord q) s (((s.modCore coord fun c => { c with qi := modNth c.qi q fun y =>
        { y with entries := y.entries ++ [BitVec.ofInt 32 (if d.ty.isInt then intRead d.ty x else x)] } }).stepStream d).again (.streamLoadElement coord q))) ∧
    (((s.core coord).qo.getD q {}).descs = d :: rest → d.pos < d.count → s.streamHeld t d = false →
      ∀ a w ws, ((s.core coord).qo.getD q {}).entries = w :: ws → s.streamAcc t d = .ok a →
      let u := s.modCore coord fun c => { c with qo := modNth c.qo q fun y => { y with entries := ws } }
      becomes (.streamStoreElement coord q) s
        (((if d.team then u.writeTeam t.id 1 a (bytesOfNat d.size w.toNat) else u.writePa a (bytesOfNat d.size w.toNat)).stepStream d).again (.streamStoreElement coord q))) ∧
    (s.headDesc d.id = some (coord, q, d) → d.count ≤ d.pos → d.ctr ≠ 0 →
      let cut (y : StreamQ) : StreamQ := { y with descs := y.descs.drop 1 }
      becomes (.streamComplete d.id) s
        (((s.modCore coord fun k => if d.out then { k with qo := modNth k.qo q cut } else { k with qi := modNth k.qi q cut }).addAt t.ctx d.ctr 1 false
          [d.byw] t.launch false).sched (s.clock + 1) (if d.out then .streamStoreElement coord q else .streamLoadElement coord q)))


/-- R162 to R167, R170, R171, R175 to R178, R183 to R185: loads bring their bytes and land, owners compute, entries of the store path perform,
streams move elements. Model's choices: log 11, 16, 17, 19, 69, 70. -/
def Obligations.memoryEventsPerform : Prop :=
  Claims.loadsBringTheirBytes ∧ Claims.loadsLand ∧ Claims.ownersComputeTheNewValue ∧ Claims.pathEntriesPerform ∧ Claims.streamsMoveElements

/-- R46, R251, R252, R254, R272: an operation whose slices are all here and sound starts once what must come before it is acknowledged;
a copy with a failing slice is refused; a spawn ring's spill or refill besides takes its lock, and a spill waits for its records' releases. -/
def Claims.engineOperationsStart : Prop :=
  ∀ (s : State) (o : EOp), s.op? o.id = some o → o.started = false → s.frozen o.ctx = false →
    let acked := ∀ e ∈ s.path, e.id ∉ o.first
    (o.kind = .cpy → s.hasAllSlices o = true → o.stopped = false → ∀ t, s.team? o.team = some t → ∀ x rest, o.slices = x :: rest →
      ((∀ y ∈ o.slices, sliceBad t x y = none) → acked → t.place = .resident → becomes (.engineOpStart o.id) s (s.startCopy o t)) ∧
      (∀ k v, ((sortSlices o.slices).findSome? fun y => sliceBad t x y) = some (k, v) → becomes (.engineOpStart o.id) s (s.refuseCopy o k v))) ∧
    (∀ r n, o.kind = .cpyt r n → acked → becomes (.engineOpStart o.id) s ((s.modOp o.id fun x => { x with started := true }).enterEngine o)) ∧
    (∀ t, s.team? o.team = some t → s.lockRoom o.coord 1 = true →
      let go (l : List Lock) : State := (({ s with locks := s.locks ++ l } : State).modOp o.id fun x => { x with started := true }).enterEngine o
      let x := s.spawnBase t
      (∀ n, o.kind = .spawnOut n → acked → (∀ r ∈ o.spawns, s.spawnReleased t.coord r = true) →
        becomes (.engineOpStart o.id) s (go (ringLock o true x.1 x.2 n o.spawns.length))) ∧
      (∀ n, o.kind = .spawnIn n → becomes (.engineOpStart o.id) s (go (ringLock o false x.1 x.2 t.ringHead n))))


/-- R272, R273: the loop of the deficit round robin. It waits in a class whose head's chunk its deficit covers, after a quantum once a visit; it
passes a class with nothing to serve, an empty one losing its deficit. Where it waits, with the port and a slot free, that chunk starts: its
bytes are charged, the port is busy while it is read, and the loop goes on at once; a chunk that faults has been charged too. -/
def Claims.enginesStartChunks : Prop :=
  (∀ (s : State) (n : Nat) (e : Engine),
    let c := e.cls
    let pass (x : Engine) : Engine := drrWait s n { x with cls := (c + 1) % 4, visited := false }
    (s.drrHead e c = none → e.queues.getD c [] = [] → drrWait s (n + 1) e = pass { e with deficit := modNth e.deficit c fun _ => 0 }) ∧
    (s.drrHead e c = none → e.queues.getD c [] ≠ [] → drrWait s (n + 1) e = pass e) ∧
    (∀ o, s.drrHead e c = some o →
      let x := if e.visited then e else { e with deficit := modNth e.deficit c (fun d => d + e.quantum.getD c 2048), visited := true }
      (s.chunkSize o (o.todo.headD 0) ≤ x.deficit.getD c 0 → drrWait s (n + 1) e = x) ∧
      (x.deficit.getD c 0 < s.chunkSize o (o.todo.headD 0) → drrWait s (n + 1) e = pass x)) ∧
    (∀ pre o post, (e.queues.getD c []).filterMap (fun i => s.op? i) = pre ++ o :: post → (∀ x ∈ pre, s.mayChunk x = false) → s.mayChunk o = true →
      s.drrHead e c = some o)) ∧
  ∀ (n : Nat) (s : State),
    let v := s.modEngine n fun e => drrWait s 9 e
    let e := v.engine n
    let ops := e.queues.flatten.filterMap fun i => v.op? i
    let turn (u : State) (at_ : Nat) : State := if (at_, .chunkStart n) ∈ u.agenda then u else u.sched at_ (.chunkStart n)
    let goOn (u : State) : State := u.modEngine n fun e => drrWait u 9 e
    ((∀ o ∈ ops, o.todo = []) → becomes (.chunkStart n) s v) ∧
    ((∃ o ∈ ops, o.todo ≠ []) →
      (s.clock < e.portFree → becomes (.chunkStart n) s (turn v e.portFree)) ∧
      (e.portFree ≤ s.clock → 32 ≤ e.slots ∨ v.drrHead e e.cls = none → becomes (.chunkStart n) s (turn v (s.clock + 1))) ∧
      (∀ o c rest, e.portFree ≤ s.clock → e.slots < 32 → v.drrHead e e.cls = some o → o.todo = c :: rest →
        let a := v.modEngine n fun x => { x with deficit := modNth x.deficit e.cls fun d => d - v.chunkSize o c }
        let read := Config.meshCc ((v.chunkSize o c + 127) / 128)
        let o' := { o with todo := rest, running := o.running ++ [c] }
        let u := (a.modEngine n fun x => { x with portFree := s.clock + read, slots := x.slots + 1 }).modOp o.id fun _ => o'
        (a.blockOp o c = none → becomes (.chunkStart n) s
          (turn ((goOn (if rest = [] then u.leaveEngine o' else u)).after (read + Config.meshCc 16) (chunkDone o c)) (s.clock + read))) ∧
        (∀ b, a.blockOp o c = some b → becomes (.chunkStart n) s (turn (goOn b) (s.clock + 1)))))

/-- R239, R249 to R251, R273: how a copy starts, is refused, and meets a fault. It starts with a lock in every other team of its masks, whose lines
go absent, and with the generations it was started for; a refused one makes its own lines present again, poisons its target and throws by
every participant. A chunk that cannot be read or written faults its operation, which leaves its queue with one fault for all of it, or ends it. -/
def Claims.copiesStartOrAreRefused : Prop :=
  ∀ (s : State) (o : EOp),
    (∀ t, s.op? o.id = some o → o.kind = .cpy →
      let far := o.slices.flatMap fun x => if x.mask = 0 then [] else ((s.sliceTeams o x).filter fun y => y.id ≠ o.team).map fun y => (y, x)
      let locks := far.flatMap fun x => mkLock o.id x.1.coord 1 true x.1.ctx x.1.id x.2.dst x.2.bytes
      let room := ∀ c, (s.locks.filter fun k => k.coord = c ∧ k.saved = false).length + (locks.filter fun k => k.coord = c).length ≤ 64 ∨ ∀ k ∈ locks, k.coord ≠ c
      let cut := far.foldl (fun (u : State) x => u.modTeam x.1.id fun y => y.modBuf 1 fun b => b.clearLines (linesIn b x.2.dst x.2.bytes))
        { s with locks := s.locks ++ locks }
      let o' := { o with gathering := false, started := true, todo := o.chunks,
                         gens := o.positions.filterMap fun p => (s.teamAt t.launch t.cluster p).map fun x => (p, x.gen) }
      (¬ room → s.startCopy o t = s.sched (s.clock + 1) (.engineOpStart o.id)) ∧
      (room → o.chunks ≠ [] → s.startCopy o t = (cut.modOp o.id fun _ => o').enterEngine o') ∧
      (room → o.chunks = [] → s.startCopy o t = (cut.modOp o.id fun _ => o').dropOp o')) ∧
    (∀ k v,
      let shown := o.slices.foldl (fun (u : State) x => if x.cleared = [] then u
        else (u.modTeam o.team fun y => y.modBuf x.dstSpace fun b => b.setLines x.cleared).wakeLines o.team) s
      s.refuseCopy o k v = ((shown.poisonOp o.id).dropOp o).raiseStarters o.throwers k (BitVec.ofNat 64 v)) ∧
    (∀ c, (s.engBad o (s.chunkReads o c) false = none → s.engBad o (s.ownWrites o c) true = none → s.blockOp o c = none) ∧
      (∀ k va wr, (s.engBad o (s.chunkReads o c) false = some (k, va) ∧ wr = false) ∨
          (s.engBad o (s.chunkReads o c) false = none ∧ s.engBad o (s.ownWrites o c) true = some (k, va) ∧ wr = true) →
        (k = 0 → s.blockOp o c = some (s.faultOp o va wr)) ∧ (k ≠ 0 → s.blockOp o c = some (s.engFail o.id k va)))) ∧
    (∀ va wr, (o.fault ≠ none → s.faultOp o va wr = s) ∧
      (o.fault = none → s.faultOp o va wr =
        (((s.newFault o.ctx va wr.toNat (.op o.id)).2.modOp o.id fun x => { x with fault := some (s.newFault o.ctx va wr.toNat (.op o.id)).1 }).leaveEngine o)))

/-- R239, R249 to R252, R254, R272, R273: operations start or are refused, chunks are chosen or fault. Model's choices: log 11, 36, 107. -/
def Obligations.enginesRun : Prop := Claims.engineOperationsStart ∧ Claims.copiesStartOrAreRefused ∧ Claims.enginesStartChunks

/-- R195, R251: the bytes that an engine writes over disjoint pieces of a buffer, or over a piece of one page, are read back where it wrote
them, in order, and every other byte there reads as before. R248, R258: a counter's addition goes to its memory word, bit 63 staying set once
it is; a stage counts up to its target. -/
def Claims.engineWritesReadBack : Prop :=
  ∀ (s : State) (o : EOp) (b : List Byte),
    (∀ t sp ps, s.team? t.id = some t → 1 ≤ sp → sp ≤ 4 → (t.buf sp).mem.wf = true → (∀ p ∈ ps, p.1 = sp) →
      ps.Pairwise (fun p q => p.2.1 + p.2.2 ≤ q.2.1 ∨ q.2.1 + q.2.2 ≤ p.2.1) → (ps.map fun p => p.2.2).sum ≤ b.length →
      ∃ y, (s.engWrite o t.id ps b).team? t.id = some y ∧
        (∀ k p, ps[k]? = some p → ∀ j, j < p.2.2 → (y.buf sp).mem.read1 (p.2.1 + j) = b.getD (((ps.take k).map fun q => q.2.2).sum + j) 0) ∧
        ∀ a, (∀ p ∈ ps, ¬ (p.2.1 ≤ a ∧ a < p.2.1 + p.2.2)) → (y.buf sp).mem.read1 a = (t.buf sp).mem.read1 a) ∧
    (∀ tid va x, s.dram.wf = true → va % 4096 + b.length ≤ 4096 → s.engWalk o va true = .ok x → ∀ a,
      (s.engWrite o tid [(0, va, b.length)] b).dram.read1 a = if x.pa ≤ a ∧ a < x.pa + b.length then b.getD (a - x.pa) 0 else s.dram.read1 a) ∧
    (∀ ctx va n x rest t y lid id, (∀ z ∈ s.adds, ¬ (z.ctx = ctx ∧ z.va = va)) → s.team? x.g.team = some t → s.walkTeam t va true = .ok y → pteWr y.leaf = true →
      s.dram.poisoned y.pa 8 = false → n ≤ 2 ^ 63 →
      let old := s.dram.readN y.pa 8
      s.addAt ctx va n false (x :: rest) lid false id =
        s.writePa y.pa (bytesOfNat 8 ((old + n) % 2 ^ 63 + if old / 2 ^ 63 % 2 = 1 ∨ n = 2 ^ 63 then 2 ^ 63 else 0))) ∧
    (∀ tid k n, s.stageAdd tid k n = (s.modTeam tid fun t =>
      let x := spGet {} t.stages k
      let c := min (x.count + n) 0xFFFFFFFF
      { t with stages := spPut {} t.stages k { x with count := c, full := x.full || decide (x.target ≤ c) } }).evalRings tid)


namespace Sys2Proof.Machine
/-- Lines of a team become present. -/
def State.linesCome (s : State) (t : Team) (ready : List (Nat × Nat)) : State :=
  if ready = [] then s else (s.modTeam t.id fun y => ready.foldl (fun y l => y.modBuf l.1 fun b => { b with absent := b.absent.filter fun x => !([l.2].contains x) }) y).wakeLines t.id
/-- A chunk has been counted: n bytes at the operation's target, unless it is poisoned; its slot is free. -/
def State.chunkCounted (s : State) (o : EOp) (c n : Nat) : State :=
  let u := if o.poisoned then s else match o.target with
    | .none => s
    | .counter va => s.addAt o.ctx va n false (if o.slices = [] then [o.byw] else o.slices.map fun x => x.byw) o.launch false o.id
    | .stage t k => s.stageAdd t k n
  (u.modOp o.id fun x =>
    { x with running := x.running.filter fun y => y != c, counted := x.counted ++ [c], written := x.written.filter fun y => y != c,
             landed := if o.reduces then x.landed else x.landed ++ [c] }).modEngine (engineOf o.coord) fun e => { e with slots := e.slots - 1 }
/-- A chunk whose bytes are in place waits for its update's release (R190). -/
def State.chunkWaits (s : State) (o : EOp) (c : Nat) : State :=
  (s.modOp o.id fun x => { x with written := c :: x.written.filter fun y => y != c }).sched (s.clock + 1) (.chunkComplete o.id c)
end Sys2Proof.Machine
open Sys2Proof Sys2Proof.Machine

/-- R190, R195, R248, R251, R252, R254: a copied chunk's bytes go to every team of its slice's mask, its lines that no other chunk still has to
fill become present there, and its bytes are counted at the target once the update's release allows it; a team whose generation has moved
makes its engine hear of the drop. -/
def Claims.copiedChunksLand : Prop :=
  ∀ (s : State) (o : EOp) (c : Nat) (x : Slice) (t : Team), s.op? o.id = some o → c ∈ o.running → o.kind = .cpy → s.team? o.team = some t →
    (sortSlices o.slices)[c / 2 ^ 32]? = some x →
    let n := min 2048 (x.bytes - 2048 * (c % 2 ^ 32))
    let src := (x.srcSpace, x.src + 2048 * (c % 2 ^ 32), n)
    let dst := (x.dstSpace, x.dst + 2048 * (c % 2 ^ 32), n)
    let mine := if x.mask = 0 then [t] else ((List.range 12).filter fun j => x.mask / 2 ^ j % 2 = 1).filterMap fun j => s.teamAt t.launch t.cluster j
    let here := if x.dstSpace = 0 then [t] else mine.filter fun y => !(s.dropsAt o x).contains y.pos || decide (x.mask = 0)
    let w := here.foldl (fun u y => u.engWrite o y.id [dst] (s.engRead o [src])) s
    let later (u : State) (y : Team) : List Nat := (o.notLanded.filter fun d => d != c).filter fun d => (u.chunkTeams o d).any fun z => z.id == y.id
    let ready (u : State) (y : Team) : List (Nat × Nat) := (if x.dstSpace = 0 then [] else (linesOf dst.2.1 n).map fun l => (x.dstSpace, l)).filter fun l =>
      !((later u y).flatMap fun d => u.chunkLines o d).contains l
    let v := here.foldl (fun u y => u.linesCome y (ready u y)) w
    (c ∉ o.written → s.chunkReady o c = none →
      (s.dropsAt o x = [] → (v.updateReady o = true → becomes (.chunkComplete o.id c) s ((v.chunkCounted o c n).closeOp o.id)) ∧
        (v.updateReady o = false → becomes (.chunkComplete o.id c) s (v.chunkWaits o c))) ∧
      (∀ p rest, s.dropsAt o x = p :: rest →
        let k := t.origin + 8 * (p / t.kern.cw) + p % t.kern.cw
        becomes (.chunkComplete o.id c) s (w.after (Config.meshCc (Config.meshWay k o.coord + 1)) (.multicastDrop o.id c k)))) ∧
    (c ∈ o.written → s.updateReady o = true → becomes (.chunkComplete o.id c) s ((s.chunkCounted o c n).closeOp o.id))

/-- R190, R248, R253 to R255, R198: a transfer's chunk of elements is written at its destinations on this rank, present, counted at its tile's
counter and at the target, and awaits its peers' acknowledgement where peers receive it; a reducing one goes to the home switch instead, its
narrow floats widened. -/
def Claims.transferChunksLand : Prop :=
  ∀ (s : State) (o : EOp) (c : Nat) (r : Shape) (seq : Nat) (t : Team), s.op? o.id = some o → c ∈ o.running → c ∉ o.written → o.kind = .cpyt r seq →
    s.team? o.team = some t → s.chunkReady o c = none → r.overlaps = false →
    let tile := c / 2 ^ 32
    let es := r.chunkElems c
    let n := (es.map fun _ => r.z).sum
    let data := s.engRead o (es.map fun e => (0, r.addr r.src tile e, r.z))
    (r.op = 0 → s.isDest o.ctx r = true →
      let w := s.engWrite o o.team (es.map fun e => (cpySpace r.space, r.dstAddr tile e, r.z)) data
      let later := (o.notLanded.filter fun d => d != c).filter fun d => (w.chunkTeams o d).any fun z => z.id == t.id
      let v := w.linesCome t ((w.chunkLines o c).filter fun l => !(later.flatMap fun d => w.chunkLines o d).contains l)
      let k := if r.ctr = 0 then v else v.addAt o.ctx (r.ctr + 8 * tile) n false (if o.slices = [] then [o.byw] else o.slices.map fun x => x.byw) o.launch false o.id
      w.team? o.team ≠ none → v.updateReady o = true → v.isDest o.ctx r = true →
        (∀ u, u = k.chunkCounted o c n → u.toPeers o.ctx r = false → becomes (.chunkComplete o.id c) s (u.closeOp o.id)) ∧
        (∀ u, u = k.chunkCounted o c n → u.toPeers o.ctx r = true → becomes (.chunkComplete o.id c) s
          (((u.modOp o.id fun x => { x with acks := x.acks ++ [c] }).after 1 (.chunkComplete o.id c)).closeOp o.id))) ∧
    (r.op ≠ 0 → becomes (.chunkComplete o.id c) s (s.after (Config.meshCc 24) (.switchContribution
      { sw := o.home, port := 4, cgrp := r.cgrp, seq := seq, chunk := chunkIndex r c, sig := o.sig r, mismatch := false, space := cpySpace r.space,
        elems := (List.range (data.length / r.z)).map fun i =>
          let e := natOfBytes ((data.drop (i * r.z)).take r.z)
          if r.op = 4 then e % 2 ^ 96 else if r.type = .bf16 ∨ r.type = .f16 then (cvtBits .f32 r.type rneMode e).1 else e
        tileCtr := if r.ctr = 0 then 0 else r.ctr + 8 * tile, dsts := es.map (r.dstAddr tile), z := r.z })))

/-- R46, R276, R281: a fill's half page moves between its frames, with the poison of its blocks, and its task is asked for when the last has;
a spill of spawn records writes them to their ring, and a refill takes them from it, in order, into the gatherer's queue. -/
def Claims.fillsAndSpawnRingsMove : Prop :=
  ∀ (s : State) (o : EOp) (c : Nat), s.op? o.id = some o → c ∈ o.running → c ∉ o.written →
    (∀ d k a b, o.kind = .fill d k → o.pages[c / 2]? = some (a, b) →
      let src := a + c % 2 * 2048
      let dst := b + c % 2 * 2048
      let bad := (s.dram.poison.filter fun p => decide (src / 64 ≤ p) && decide (p < src / 64 + 32)).map fun p => p + dst / 64 - src / 64
      let m := s.dram.writeBytes dst (s.dram.bytes src 2048)
      let v := (({ s with dram := { m with poison := m.poison ++ bad } } : State).chunkOver o c).closeOp o.id
      (v.op? o.id ≠ none → becomes (.chunkComplete o.id c) s v) ∧ (v.op? o.id = none → becomes (.chunkComplete o.id c) s (v.sched (v.clock + 1) (.taskStart d k)))) ∧
    (∀ f, o.kind = .spawnOut f → s.chunkReady o c = none →
      let rec32 (r : SpawnRec) : List Byte := bytesOfNat 4 r.entry ++ bytesOfNat 4 r.n ++ bytesOfNat 8 r.join ++
        ((List.range 4).flatMap fun j => bytesOfNat 4 (r.payload.getD j 0).toNat)
      let w := s.engWrite o o.team (s.chunkWrites o c) (o.spawns.flatMap rec32)
      becomes (.chunkComplete o.id c) s ((w.dropOp o).sched (w.clock + 1) (.spawnRingRefill o.team))) ∧
    (∀ n t, o.kind = .spawnIn n → s.team? o.team = some t → s.chunkReady o c = none →
      let data := s.engRead o (s.chunkReads o 0)
      let num (b : List Byte) (i k : Nat) : Nat := natOfBytes ((b.drop i).take k)
      let parse (b : List Byte) : SpawnRec :=
        { entry := num b 0 4, n := num b 4 4, join := num b 8 8, payload := (List.range 4).map fun j => BitVec.ofNat 32 (num b (16 + 4 * j) 4) }
      let recs := (splitRecs n data).map parse
      let u := ((s.dropOp o).modTeam t.id fun x => { x with ringHead := x.ringHead + n }.skipSpawns).modCore t.coord fun k =>
        { k with spawnq := k.spawnq ++ recs.map fun r => (t.id, r) }
      becomes (.chunkComplete o.id c) s ((u.gather t).sched ((u.gather t).clock + 1) (.spawnRingRefill t.id)))

/-- R277, R292: a dropped chunk poisons the target and stops what has not started, with a fault that was open for it; the last one to end
takes the operation away and orphans the lines that the drop left absent. -/
def Claims.droppedChunksStopTheirOperation : Prop :=
  ∀ (s : State) (o : EOp) (c k : Nat), s.op? o.id = some o → c ∈ o.running → Config.coordOk k = true →
    let p := s.poisonOp o.id
    let q := match o.fault with
      | some f => p.withdrawFault f
      | none => p
    let u := q.modOp o.id fun x => { x with todo := [], fault := none, running := x.running.filter fun y => y != c, lost := x.lost ++ x.todo ++ [c] }
    let v := (u.leaveEngine o).modEngine (engineOf o.coord) fun e => { e with slots := e.slots - 1 }
    ∀ x, v.op? o.id = some x → x.todo = [] → x.fault = none → x.lost ≠ [] →
      (x.running ≠ [] → becomes (.multicastDrop o.id c k) s v) ∧
      (x.running = [] → (∀ a ∈ v.adds, a.op ≠ o.id) → becomes (.multicastDrop o.id c k) s ((v.orphanLines x.team (v.ownLines x)).dropOp x))

/-- R46, R190, R195, R198, R248, R251 to R255, R276, R277, R281: chunks land, are counted, or are dropped. Model's choices: log 36, 37, 61, 87, 88. -/
def Obligations.chunksCompleteOrDrop : Prop :=
  Claims.engineWritesReadBack ∧ Claims.copiedChunksLand ∧ Claims.transferChunksLand ∧ Claims.fillsAndSpawnRingsMove ∧ Claims.droppedChunksStopTheirOperation


/-- R269 to R271: a spill goes to its ring and its records are performed there; a refill takes performed records from the head in
order and serves the waiting pops. -/
def Claims.queueRingsSpillAndRefill : Prop :=
  ∀ (s : State),
    (∀ o q first t, s.op? o.id = some o → o.kind = .spill q first → s.team? o.team = some t →
      (o.started = false → s.frozen o.ctx = false → s.released o.byw.g o.coord 3 o.id = true → s.lockRoom o.coord 1 = true →
        becomes (.queueSpillStart o.id) s
          ((({ s with locks := s.locks ++ ringLock o true (t.queue q).base (t.queue q).cap first o.recs.length } : State).modOp o.id fun x => { x with started := true }).enterEngine o)) ∧
      (0 ∈ o.running → s.chunkReady o 0 = none →
        let u := (s.engWrite o o.team (s.chunkWrites o 0) (o.recs.flatMap recBytes)).modQueue o.team q fun x =>
          { x with performed := x.performed ++ numsFrom first o.recs.length }
        becomes (.queueSpillPerformed o.id) s ((u.dropOp o).sched u.clock (.queueRefillStart o.team q)))) ∧
    (∀ t q, s.team? t.id = some t → t.place = .resident → q < t.queues.length →
      let x := (t.queue q).skip
      let n := min x.free (runFrom x.performed 32 x.head)
      x.refill = none → 0 < n → s.frozen t.ctx = false → s.lockRoom t.coord 1 = true →
      let o : EOp := { id := s.nextId, kind := .refill q n, coord := t.coord, team := t.id, ctx := t.ctx, launch := t.launch, cls := 2, target := .none,
                       started := true, todo := [0] }
      becomes (.queueRefillStart t.id q) s
        ((({ s with ops := s.ops ++ [o], nextId := s.nextId + 1, locks := s.locks ++ ringLock o false x.base x.cap x.head n } : State).modQueue t.id q
          fun _ => { x with reserved := x.reserved + n, refill := some s.nextId }).enterEngine o)) ∧
    (∀ o q n, s.op? o.id = some o → o.kind = .refill q n → 0 ∈ o.running → s.chunkReady o 0 = none →
      let recs := (splitRecs n (s.engRead o (s.chunkReads o 0))).map parseQRec
      becomes (.queueRefillLanding o.id) s (((s.modQueue o.team q fun x => HwQ.skip
        { x with
          chip := x.chip ++ recs.map fun w => { words := w }
          head := x.head + n
          performed := x.performed.filter fun i => x.head + n ≤ i
          reserved := x.reserved - n
          refill := none }).dropOp o).serve o.team q))


/-- R263: a steal takes the oldest record that is not lent, or finds none; its reply fills the thief's registers and tells it by its
k register; its acknowledgement takes the record away. -/
def Claims.stealsAreServed : Prop :=
  ∀ (s : State) (st : Steal),
    ((s.steals.find? fun x => x.id == st.id && decide (x.state = 0)) = some st → st.dead = false →
      (∀ x ∈ s.steals, ¬ (x.id < st.id ∧ x.byw = st.byw ∧ x.victim = st.victim ∧ x.state = 0)) →
      ∀ t, s.team? st.victim = some t → t.place ≠ .ended →
      let reply (u : State) (w : Option (List W32)) : State :=
        (u.modSteal st.id fun x => { x with state := 1, got := w }).after (s.stealLeast st) (.stealReplyLanding st.id)
      ((t.queue st.q).avail = [] → becomes (.stealRequestServe st.id) s (reply s none)) ∧
      (∀ r rest, (t.queue st.q).avail = r :: rest → (∀ g n, r.rel = some (g, n) → s.released g t.coord 3 n = true) →
        let i := ((t.queue st.q).chip.findIdx? fun x => x.lent.isNone).getD 0
        becomes (.stealRequestServe st.id) s
          (reply (s.modQueue t.id st.q fun x => { x with chip := modNth x.chip i fun y => { y with lent := some st.id } }) (some r.words)))) ∧
    ((s.steals.find? fun x => x.id == st.id && decide (x.state = 1)) = some st → st.dead = false → (s.liveBy st.byw).getLsbD st.lane = true →
      becomes (.stealReplyLanding st.id) s
        ((((s.modGroup st.byw.g fun y =>
          y.putAll st.byw.cc (recRegs st.lane st.reg (st.got.getD []) ++ [(.k st.kreg (1#64 <<< st.lane), if st.got.isSome then 1#64 <<< st.lane else 0)])).acquire
            st.byw.g 3).modSteal st.id fun x => { x with state := 2 }).after (s.stealLeast st) (.stealAck st.id))) ∧
    ((s.steals.find? fun x => x.id == st.id && decide (x.state = 2)) = some st →
      becomes (.stealAck st.id) s
        ((({ s with steals := s.steals.filter fun x => x.id != st.id } : State).modQueue st.victim st.q fun x =>
          { x with chip := x.chip.filter fun r => r.lent != some st.id }).sched s.clock (.queueRefillStart st.victim st.q)))


/-- R43 to R47: saved records leave for the spawn ring and come back in order; the gatherer takes a team's queued records in order, each into its open
pack of the same entry and join address, or into a new one that waits 256 cc; a full pack is closed, as one is whose time is up, and becomes a
group in a free slot. Model's choices: log 39, 87, 95. -/
def Obligations.spawnRecordsBecomeGroups : Prop :=
  ∀ (s : State) (t : Team), s.team? t.id = some t → t.place = .resident →
    s.gather t = ((s.core t.coord).spawnq.filter fun x => x.1 = t.id).foldl (fun u x => u.packRec t x.2)
      (s.modCore t.coord fun c => { c with spawnq := c.spawnq.filter fun x => x.1 ≠ t.id }) ∧
    (∀ r,
      let mine (p : Pack) : Bool := p.team == t.id && !p.closed && p.entry == r.entry && p.join == r.join
      (∀ p, (s.core t.coord).packs.find? mine = some p →
        let full := decide (t.kern.width ≤ p.recs.length + 1)
        let u := s.modCore t.coord fun c => { c with packs := c.packs.map fun x => if x.id = p.id then { x with recs := x.recs ++ [r], closed := full } else x }
        s.packRec t r = if full then u.sched (s.clock + 1) (.spawnGroupDispatch p.id) else u) ∧
      ((s.core t.coord).packs.find? mine = none → s.packRec t r = (({ s with nextId := s.nextId + 1 } : State).modCore t.coord fun c =>
        { c with packs := c.packs ++ [{ id := s.nextId, team := t.id, entry := r.entry, join := r.join, recs := [r], closed := false, due := s.ctxClock t.ctx + 256 }] }).sched
          (s.clock + 256) (.gatherTimeout s.nextId))) ∧
    (t.savedSpawns ≠ [] → t.savedSpawns.length ≤ 64 →
      let o : EOp := { id := s.nextId, kind := .spawnOut (t.ringTail - t.savedSpawns.length), coord := t.coord, team := t.id, ctx := t.ctx, launch := t.launch,
                       cls := 2, target := .none, todo := [0], spawns := t.savedSpawns, first := (s.path.filter fun e => e.byw.g.team = t.id).map fun e => e.id }
      becomes (.spawnRingSpill t.id) s ((({ s with ops := s.ops ++ [o], nextId := s.nextId + 1 } : State).modTeam t.id fun x =>
        { x with savedSpawns := [] }).sched s.clock (.engineOpStart s.nextId))) ∧
    (let x := t.skipSpawns
     let limit := (s.spawnsOut x).foldl (fun m y => min m y.1) (x.ringTail - x.savedSpawns.length)
     let stop := x.ringGone.foldl (fun m g => if x.ringHead ≤ g then min m g else m) limit
     let n := min (min 64 (256 - s.spawnHeld x.coord)) (stop - x.ringHead)
     let o : EOp := { id := s.nextId, kind := .spawnIn n, coord := x.coord, team := t.id, ctx := x.ctx, launch := x.launch, cls := 2, target := .none,
                      todo := [0] }
     0 < n → (∀ o ∈ s.ops, o.team = t.id → ∀ m, o.kind ≠ .spawnIn m) →
     becomes (.spawnRingRefill t.id) s
       (({ s.modTeam t.id (fun _ => x) with ops := s.ops ++ [o], nextId := s.nextId + 1 } : State).sched s.clock (.engineOpStart s.nextId))) ∧
    (∀ p c, s.pack? p.id = some (c, p) → p.team = t.id →
      (p.closed = false → p.due ≤ s.ctxClock t.ctx → becomes (.gatherTimeout p.id) s
        ((s.modCore c fun k => { k with packs := k.packs.map fun x => if x.id = p.id then { x with closed := true } else x }).sched s.clock (.spawnGroupDispatch p.id))) ∧
      (∀ slot, p.closed = true → (∀ r ∈ p.recs, s.spawnReleased t.coord r = true) → t.freeSlot = some slot → becomes (.spawnGroupDispatch p.id) s
        (((({ s with nextUid := s.nextUid + 1 } : State).modTeam t.id fun x =>
          { x with groups := sortBy (fun (y : Group) => y.slot) ((x.groups.filter fun (y : Group) => y.slot != slot) ++ [s.spawnedGroup t slot p]) }).modCore c
            fun k => { k with packs := k.packs.filter fun x => x.id != p.id }).askRings c)))


/-- R225, R226, R233: of a list the first cluster that fits is taken, unless one passed over 16 times stands before it; the leader gives it to
a die, which places it, urgent ones first: a team for each position of its rectangle. Where none fits, urgent ones have rectangles emptied. -/
def Claims.clustersAreAssignedAndDispatched : Prop :=
  (∀ (fit : WaitCl → Option Nat) (l : List WaitCl) (n i : Nat) (w : WaitCl) (d : Nat), firstFit fit l n = some (i, w, d) →
    n ≤ i ∧ fit w = some d ∧ l[i - n]? = some w ∧ ∀ j, j < i - n → ∀ y, l[j]? = some y → fit y = none ∧ y.passed < 16) ∧
  ∀ (s : State),
    (let u := s.refuseWaiting.cores.foldl (fun u c => u.checkPark c.coord) s.refuseWaiting
     let fit (w : WaitCl) : Option Nat := match u.launch? w.launch with
       | some l => (u.bestDie (u.needOf w l)).map fun x => x.1
       | none => none
     (∀ i w d, firstFit fit u.leadList 0 = some (i, w, d) →
       becomes .clusterAssign s
         ((({ u with leadList := passOver u.leadList i, dieList := u.dieList ++ [{ w with die := d, passed := 0, rect := none }] } : State).sched u.clock (.clusterDispatch d)).sched
           (u.clock + 1) .clusterAssign)) ∧
     (firstFit fit u.leadList 0 = none → becomes .clusterAssign s (u.narrowAll [0, 1, 2, 3] u.leadList))) ∧
    (∀ die,
      let start (l : Launch) (w : WaitCl) (o : Nat) : Option State :=
        (s.placeCluster l w o (s.kernOf l w.task) none (s.kernOf l w.task).entry).map fun u =>
          let v := u.firstTeam l.grid
          match w.task with
          | some (d, n) => v.modTask d n fun x => { x with state := 2, team := some s.nextTeam, core := o }
          | none => v.modLaunch l.grid fun x => { x with waiting := x.waiting - 1 }
      let fit (w : WaitCl) : Option State := match s.launch? w.launch with
        | none => none
        | some l => match s.rectFor die (s.needOf w l) with
          | some o => start l w o
          | none => none
      let mine (urgent : Bool) (w : WaitCl) : Bool := w.die == die && w.urgent == urgent
      let starts (urgent : Bool) (i : Nat) (u : State) : State :=
        ({ u with dieList := (s.dieList.filter fun w => !mine urgent w) ++ passOver (s.dieList.filter (mine urgent)) i } : State).sched (u.clock + 1) (.clusterDispatch die)
      (∀ i w u, firstFit fit (s.dieList.filter (mine true)) 0 = some (i, w, u) → becomes (.clusterDispatch die) s (starts true i u)) ∧
      (∀ i w u, firstFit fit (s.dieList.filter (mine true)) 0 = none → firstFit fit (s.dieList.filter (mine false)) 0 = some (i, w, u) →
        becomes (.clusterDispatch die) s (starts false i u)) ∧
      (firstFit fit (s.dieList.filter (mine true)) 0 = none → firstFit fit (s.dieList.filter (mine false)) 0 = none →
        becomes (.clusterDispatch die) s (s.narrowAll [die] (s.dieList.filter fun w => w.die == die)))) ∧
    (∀ l w o k entry u, s.placeCluster l w o k none entry = some u →
      u.teams.map (fun t => (t.launch, t.cluster, t.pos, t.coord, t.origin, t.place)) = s.teams.map (fun t => (t.launch, t.cluster, t.pos, t.coord, t.origin, t.place)) ++
        (List.range (k.cw * k.ch)).map fun p => (l.grid, w.cluster, p, o + 8 * (p / k.cw) + p % k.cw, o, .resident))

/-- R41, R178, R194, R263, R264: a team whose groups have all exited ends when nothing of it is left under way: its streams stop with bit 63 in
their counters, its spills, refills and locks go, its memory, queues, stages and reservations are gone, its region's generation moves on. -/
def Claims.teamsEnd : Prop :=
  ∀ (s : State) (t : Team), s.team? t.id = some t →
    (∀ (o : EOp), (s.dropOp o).ops = (s.ops.filter fun x => x.id != o.id) ∧ (s.dropOp o).locks = s.locks.filter fun k => k.op != o.id) ∧
    (∀ q x, let sq := (s.streamQs t x.out).getD q {}
      (sq.descs.any fun d => d.id == x.id) = true → (∀ d ∈ sq.descs, d.fault = none) → x.out = false →
      s.stopDesc t.id q x = sq.descs.foldl (fun u d => match u.team? d.byw.g.team with
        | some y => if d.ctr = 0 then u else u.addAt y.ctx d.ctr (2 ^ 63) false [d.byw] y.launch false
        | none => u) (s.setStreamQ t q false { entries := [], descs := [] })) ∧
    (t.place ≠ .ended → (∀ g ∈ t.groups, g.phase = .exited) → s.matrixOf t = false → s.copiesOf t = false →
      s.spawnsOf t = false → s.gridOpen t = false → (t.gen = 0xFFFF → s.packetsTo t.coord = false) →
      let a := (s.teamStreams t).foldl (fun u d => u.stopDesc t.id d.1 d.2) s
      let b := if t.place = .away then a.modTeam t.id fun x => { x with offQi := [], offQo := [] }
        else if t.streams then a.modCore t.coord fun c => { c with qi := List.replicate 4 {}, qo := List.replicate 4 {} } else a
      let own (o : EOp) : Bool := o.team == t.id && match o.kind with
        | .spill _ _ | .refill _ _ => true
        | .cpy => o.stopped
        | _ => false
      let c := ((b.ops.filter own).foldl (fun u o => u.dropOp o) b).modTeam t.id fun x =>
        { x with place := .ended, endId := ((b.ops.filter own).foldl (fun u o => u.dropOp o) b).nextId, tm := {}, abuf := {}, wbuf := {}, cbuf := {}, queues := [], rsvs := [],
                 stages := [], bars := [], barcs := [], recs := [], regions := [] }
      let d := c.modCore t.coord fun k =>
        { k with gens := spPut 0 k.gens t.region ((t.gen + 1) % 65536),
                 slices := if (c.resident t.coord).any (fun x => x.ctx == t.ctx) then k.slices else k.slices.filter fun x => x.1 != t.ctx }
      let e := d.modLaunch t.launch fun l =>
        { l with teamsDone := l.teamsDone + 1, spans := if t.place = .resident then (t.coord, d.clock) :: l.spans.filter fun x => x.1 != t.coord else l.spans }
      let f := (e.modCluster t.launch t.cluster fun k =>
        { k with ended := if k.ended.contains t.pos then k.ended else k.ended ++ [t.pos], catchOnly := if t.isCatch then false else k.catchOnly }).evalBars
      (t.task = none → becomes (.teamEnd t.id) s (f.kick.sched (f.clock + 1) (.launchComplete t.launch))) ∧
      (∀ m n x, t.task = some (m, n) → x ∈ f.tasks → x.die = m → x.id = n → x.team = some t.id →
        let v := (f.modTask m n fun y => { y with state := 3, finishedAt := f.clock, team := none }).readyTasks
        becomes (.teamEnd t.id) s (v.kick.sched (v.clock + 1) (.launchComplete t.launch))))

/-- R52, R57, R198, R227, R320, R341: a launch completes when its last cluster has ended, with everything performed: COMPLETION carries GRIDID,
STATUS, the record but for status 0, and the clock, to the launch's principal, or is held until the launch is cleared; its teams and clusters go. -/
def Claims.launchesComplete : Prop :=
  ∀ (s : State) (l : Launch), s.launch? l.grid = some l →
    (l.completed = false → l.waiting = 0 → (∀ t ∈ s.teams, t.launch = l.grid → t.place = .ended) →
      (∀ k ∈ s.tasks, k.launch ≠ l.grid) → (l.fate = 2 → ∃ t ∈ s.teams, t.launch = l.grid ∧ t.isCatch = true) → s.unperformed l.grid = false →
      (∀ x ∈ s.steers, x.region ≠ .grid l.grid) →
      let status := if l.cancelled then 3 else if l.fate = 3 then 1 else l.fate
      let record := match l.exceptions with
        | some x => x
        | none => { code := 0x14, level := 2, codes := 1#64 <<< 0x14, clock := s.ctxClock l.ctx }
      let body := bytesOfNat 8 l.grid ++ bytesOfNat 4 status ++ (if status = 0 then [] else record.bytes) ++ bytesOfNat 8 (s.ctxClock l.ctx)
      let done := s.modLaunch l.grid fun y => { y with completed := true }
      let finish (u : State) : State :=
        let v := ({ u with teams := u.teams.filter fun t => t.launch != l.grid, clusters := u.clusters.filter fun c => c.launch != l.grid } : State).pruneTrees
        (match v.launch? l.grid with
          | some y => v.clearLaunch y
          | none => v).endContext l.ctx
      (∀ c, s.ctx? l.ctx = some c → c.p.hold = true → becomes (.launchComplete l.grid) s (finish (done.modLaunch l.grid fun y => { y with heldBody := some body }))) ∧
      (∀ c x, s.ctx? l.ctx = some c → c.p.hold = false → (s.sessions.find? fun x => x.principal.isSome && x.principal == some l.principal) = some x →
        becomes (.launchComplete l.grid) s (finish { done with outbox := s.outbox ++
          [{ code := 0xC001, session := some x.id, ctx := l.ctx, tag := 0, body := pad8 body, at_ := s.clock, principal := some l.principal }] })) ∧
      (∀ c, s.ctx? l.ctx = some c → c.p.hold = false → (∀ x ∈ s.sessions, x.principal ≠ some l.principal) → s.heldMsgs = [] →
        becomes (.launchComplete l.grid) s (finish { done with heldMsgs :=
          [{ code := 0xC001, session := none, ctx := l.ctx, tag := 0, body := pad8 body, at_ := s.clock, principal := some l.principal }] }))) ∧
    (l.completed = true → l.cleared = false → (∀ x ∈ l.spans, x.2 < (s.core x.1).lastPass) →
      (l.heldBody = none → s.clearLaunch l = (s.modLaunch l.grid fun y => { y with cleared := true }).notifyTo (some l.principal) l.ctx 0xC002 (bytesOfNat 8 l.grid)) ∧
      (∀ b, l.heldBody = some b → s.clearLaunch l =
        ((s.modLaunch l.grid fun y => { y with cleared := true }).modLaunch l.grid fun y => { y with heldBody := none }).notifyTo (some l.principal) l.ctx 0xC001 b)) ∧
    ((∃ x ∈ l.spans, (s.core x.1).lastPass ≤ x.2) → s.clearLaunch l = s) ∧
    (∀ c, s.ctx? l.ctx = some c → (c.dying = none ∨ (∃ k ∈ s.launches, k.ctx = l.ctx ∧ k.completed = false)) → s.endContext l.ctx = s)


/-- R41, R52, R178, R194, R198, R225 to R227, R263, R320, R341: clusters are assigned and placed; teams and launches end. Model's choices: log 3, 24, 40, 42, 73, 74, 75, 104, 114. -/
def Obligations.clustersRunAndEnd : Prop := Claims.clustersAreAssignedAndDispatched ∧ Claims.teamsEnd ∧ Claims.launchesComplete

/-- R231 to R235: a parked group is evicted for a reason of R231, its team leaves when all of it is still and is restored when its core
takes it; the end of a time slice narrows the context's teams when another cluster waits. -/
def Claims.evictionAndRestoration : Prop :=
  ∀ (s : State),
    (∀ t g, s.team? t.id = some t → s.group? ⟨t.id, g.slot⟩ = some g → g.phase = .parked → t.place = .resident → g.halted = false → s.frozen t.ctx = false →
      g.evictNow = true → s.leaving t = false → g.haltOff = false →
      becomes (.groupEvict ⟨t.id, g.slot⟩) s ((s.returnSteals ⟨t.id, g.slot⟩ g.uid).modGroup ⟨t.id, g.slot⟩ fun y =>
        { y with phase := .evicted, wakeMet := false, evictNow := false })) ∧
    (∀ t, s.team? t.id = some t → t.place = .resident → s.mayLeave t = true → becomes (.teamLeave t.id) s (s.leave t)) ∧
    (∀ t, s.team? t.id = some t → t.place = .away → (∃ g ∈ t.groups, g.phase = .evicted ∧ (g.wakeMet = true ∨ g.wake = none)) →
      (∀ c, s.cluster? t.launch t.cluster = some c → ∀ x ∈ rectCores c.origin c.w c.h, s.offered x = true) → s.coreTakes t.coord (t.need s) = true →
      s.savedFits t t.coord = true → (isUrgent s t.ctx = true ∨ t.coord ∉ s.claims fun _ => true) → becomes (.teamRestore t.id) s (s.restore t.id t.coord)) ∧
    (∀ coord ctx e, ((s.core coord).slices.find? fun x => x.1 == ctx) = some (ctx, e) → e ≤ s.ctxClock ctx →
      let u := s.modCore coord fun c => { c with slices := c.slices.filter fun x => x.1 != ctx }
      let ts := (s.resident coord).filter fun t => t.ctx == ctx
      let other (l : Nat) : Bool := match s.launch? l with
        | some x => x.ctx != ctx
        | none => false
      ts ≠ [] → becomes (.timeSliceExpire coord ctx) s
        ((if u.clusterWaits (Config.coordDie coord) other = true then ts.foldl (fun s t => s.narrow t.id) u else u).startSlice coord ctx))


/-- R14, R25, R178, R182, R193, R232, R235, R270, R271, R305: what must be still before a team leaves: every group evicted or exited, no matrix
operation of it or on its array, no ring spill or refill of it, no running chunk in its memory, no push on its way. What leaves with it: its
queued and packed spawn records in order, its streams and their entries, its range locks; what it holds itself stays as it is. What restoration
brings back: all of that, with the core's L1 invalidated, its groups in their quarters, its streams and rings asked. It comes back only where its
locks, records and held requests find room. -/
def Claims.aTeamIsSavedWhole : Prop :=
  ∀ (s : State) (t : Team), s.team? t.id = some t →
    (s.mayLeave t = true ↔
      (t.narrowed = true ∨ s.emptying t.coord = true) ∧ s.calledBack t = false ∧ (∀ g ∈ t.groups, g.phase = .evicted ∨ g.phase = .exited) ∧
      (∃ g ∈ t.groups, g.phase = .evicted) ∧
      (∀ o ∈ s.matrixOps, o.byw.g.team ≠ t.id ∧ (o.follower = some t.coord → ∀ x, s.team? o.byw.g.team = some x → ¬ (x.launch = t.launch ∧ x.cluster = t.cluster))) ∧
      (∀ o ∈ s.ops,
        let ring := (∃ q n, o.kind = .spill q n ∨ o.kind = .refill q n) ∨ ∃ n, o.kind = .spawnOut n ∨ o.kind = .spawnIn n
        (ring → o.team ≠ t.id) ∧ (¬ ring → o.running = [] ∨ ∀ x ∈ s.opTeams o, x.id ≠ t.id)) ∧
      ∀ g ∈ t.groups, ∀ l ∈ g.land, ∀ q, l.dst ≠ .qo q) ∧
    (let c := s.core t.coord
     let u := s.leave t
     let queue (l : List StreamQ) : List StreamQ := if t.streams then [{}, {}, {}, {}] else l
     (∃ y n, u.team? t.id = some y ∧ y =
       { t with
         place := .away, narrowed := false, endId := n
         offSpawns := ((c.packs.filter fun p => p.team = t.id).flatMap fun p => p.recs) ++ (c.spawnq.filter fun x => x.1 = t.id).map fun x => x.2
         offQi := if t.streams then c.qi else [], offQo := if t.streams then c.qo else [] }) ∧
     (u.core t.coord).spawnq = c.spawnq.filter (fun x => x.1 ≠ t.id) ∧ (u.core t.coord).packs = c.packs.filter (fun p => p.team ≠ t.id) ∧
     (u.core t.coord).qi = queue c.qi ∧ (u.core t.coord).qo = queue c.qo ∧ (u.core t.coord).l1 = c.l1 ∧
     u.locks = s.locks.map (fun (k : Lock) => if k.team = t.id then { k with saved := true } else k) ∧
     (∀ x, x ≠ t.id → u.team? x = s.team? x) ∧ (∀ c, c ≠ t.coord → u.core c = s.core c) ∧ u.dram = s.dram ∧ u.path = s.path ∧ u.ops = s.ops ∧
     (∀ l, s.launch? t.launch = some l → ∃ y, u.launch? t.launch = some y ∧ y.spans = (t.coord, s.clock) :: l.spans.filter fun x => x.1 ≠ t.coord)) ∧
    (∀ coord,
      (s.savedFits t coord = true ↔
        (s.locks.filter fun k => k.coord = coord ∧ k.saved = false).length + (s.locks.filter fun k => k.team = t.id ∧ (k.saved = true ∨ k.coord ≠ coord)).length ≤ 64 ∧
        s.spawnHeld coord + t.offSpawns.length ≤ 256 ∧ s.slotsUsed coord + t.keeps.eraseDups.length ≤ 2048) ∧
      let back : State :=
        (({ s with locks := s.locks.map fun (k : Lock) => if k.team = t.id then { k with saved := false } else k } : State).modTeam t.id fun x =>
          { x with coord := coord, place := .resident, offSpawns := [], offQi := [], offQo := [] }).modCore coord fun c =>
          { c with
            l1 := []
            spawnq := (t.offSpawns.map fun r => (t.id, r)) ++ c.spawnq
            qi := if t.streams then t.offQi else c.qi
            qo := if t.streams then t.offQo else c.qo
            launches := if t.launch ∈ c.launches then c.launches else c.launches ++ [t.launch]
            tasksRun := match t.task with
              | some k => if k ∈ c.tasksRun then c.tasksRun else c.tasksRun ++ [k]
              | none => c.tasksRun }
      let groups := (t.groups.filter fun g => g.phase = .evicted ∧ g.staysOff = false).foldl (fun u g => u.restoreGroup coord ⟨t.id, g.slot⟩) back
      let asked := (List.range 4).foldl (fun (u : State) q =>
        let u := if (t.offQi.getD q {}).descs = [] then u else u.sched (u.clock + 1) (.streamLoadElement coord q)
        let u := if (t.offQo.getD q {}).descs = [] then u else u.sched (u.clock + 1) (.streamStoreElement coord q)
        u.sched u.clock (.queueRefillStart t.id q)) groups
      ∀ y, asked.team? t.id = some y →
        s.restore t.id coord = (((asked.gather y).sched ((asked.gather y).clock + 1) (.spawnRingRefill t.id)).startSlice coord t.ctx).armEngine (engineOf coord)) ∧
    ∀ coord g gr, s.group? g = some gr →
      let met := gr.wakeMet = true ∨ gr.wake = none
      let put (p : GPhase) : State := s.modGroup g fun y => { y with phase := p, wakeMet := false, quarter := s.quarterFor coord gr }
      ((∀ q, gr.wake ≠ some (.queue q)) → met → s.restoreGroup coord g = ((put .ready).retryHeld g).endTrap g) ∧
      ((∀ q, gr.wake ≠ some (.queue q)) → ¬ met → s.restoreGroup coord g = put .parked) ∧
      (∀ q, gr.wake = some (.queue q) → s.restoreGroup coord g = (put .parked).serve g.team q)

/-- R14, R25, R178, R182, R193, R231 to R235, R271: groups are evicted, teams leave with all they hold and come back with it. Model's choices: log 34, 35, 75, 113. -/
def Obligations.teamsLeaveAndReturn : Prop := Claims.evictionAndRestoration ∧ Claims.aTeamIsSavedWhole


/-- R210, R211, R236, R237: a trap's blocks enter the request ring when there is room, firmware forwards them in order, an answer or a
time-out gives the lane its value or its code, and the answered group comes back. Model's choices: log 24, 35, 112. -/
def Obligations.serviceCallsGoOut : Prop :=
  ∀ (s : State),
    (∀ g t gr c, s.team? g.team = some t → s.group? g = some gr → s.ctx? t.ctx = some c → gr.wake = some .trapSlot →
      c.ring.length + gr.trapBlocks.length ≤ c.p.ring → c.p.serviceTimeout = none →
      let blocks := gr.trapBlocks.mapIdx fun j b => (c.nextSeq + j, b)
      let u := (s.modCtx t.ctx fun x =>
        { x with
          ring := x.ring ++ blocks
          calls := x.calls ++ blocks.map fun b => (b.1, g, (b.2.getD 2 0).toNat, s.ctxClock t.ctx, false)
          nextSeq := x.nextSeq + blocks.length }).modGroup g fun y => { y with wake := some .trapReply, trapBlocks := [], evictNow := true }
      let v := blocks.foldl (fun s _ => s.after 6500 (.serviceCallForward t.ctx)) u
      becomes (.trapBlocksWritten g) s v) ∧
    (∀ c q b rest, s.ctx? c.id = some c → c.ring = (q, b) :: rest →
      becomes (.serviceCallForward c.id) s ((s.modCtx c.id fun x =>
        { x with ring := rest, forwarded := x.forwarded + 1,
                 calls := x.calls.map fun y => if y.1 = q then (y.1, y.2.1, y.2.2.1, y.2.2.2.1, true) else y }).notify c.id 0xC004
          (b ++ bytesOfNat 8 c.id ++ bytesOfNat 8 q))) ∧
    (∀ c q x d, s.ctx? c.id = some c → (c.calls.find? fun y => y.1 == q) = some x → c.p.serviceTimeout = some d → x.2.2.2.1 + d ≤ s.ctxClock c.id →
      becomes (.serviceTimeout c.id q) s (s.applyReply c.id q 0 0x14)) ∧
    (∀ g t gr, s.team? g.team = some t → s.group? g = some gr → t.place = .resident → gr.phase = .evicted → gr.staysOff = false →
      becomes (.trapResume g) s ((if gr.wakeMet then s.acquire g 5 else s).restoreGroup t.coord g))


/-- R294, R306 to R311: operations of a matrix queue start in order when their array and lines are ready; at the end of its busy period
one writes its tile and retires 24 cc later, or stops; a drain that meets no error lands what it read. -/
def Claims.matrixQueueRunsInOrder : Prop :=
  ∀ (s : State) (o : MOp) (t : Team),
    (((s.core o.coord).mq.find? fun x => decide (x.kind ≠ 4) && decide (x.state = 0)) = some o → s.team? o.byw.g.team = some t → o.follower = none →
      s.frozen t.ctx = false → s.arrayReady o.coord o = true → lineWith (o.reads true) (s.lineBars o t fun b => b.orphan) = none →
      lineWith (o.reads true) (s.lineBars o t fun b => b.absent) = none → becomes (.matrixOpStart o.coord) s (s.startArray t none o)) ∧
    (s.mop? o.id = some o → o.kind ≠ 4 → s.team? o.byw.g.team = some t →
      (o.state = 1 → o.busyTo ≤ s.clock → becomes (.matrixOpRetire o.id) s (s.runArray t (o.follower.bind fun c => s.followerTeam t c) o)) ∧
      (1 < o.state → o.busyTo + 24 ≤ s.clock → becomes (.matrixOpRetire o.id) s (s.removeMOp o))) ∧
    (o.old = [t.abuf.mem, t.wbuf.mem] → o.kept = [] →
      let m (sp : Nat) : Mem := if sp = 2 then t.abuf.mem else t.wbuf.mem
      let side (r : Option Rsv) : Mem := m ((r.map rsvSpace).getD 2)
      let u := s.writeTeam t.id 3 o.tile (o.result (side o.left) (side o.right) t.cbuf.mem)
      (∀ c v, o.stop m t.cbuf.mem true = some (c, v) → s.runArray t none o = (((if c = 0x0D then s.localNotice t.ctx else s).blurTiles o).removeMOp o).raiseWith o.byw c (BitVec.ofNat 64 v) 16) ∧
      (o.stop m t.cbuf.mem true = none → o.kind = 0 → s.runArray t none o = u.removeMOp o) ∧
      (o.stop m t.cbuf.mem true = none → o.kind ≠ 0 →
        s.runArray t none o = (u.modMOp o.id fun x => { x with state := 2 }).sched (u.clock + 24) (.matrixOpRetire o.id))) ∧
    (((s.core o.coord).mq.find? fun x => decide (x.kind = 4) && decide (x.state = 0)) = some o → s.team? o.byw.g.team = some t → s.frozen t.ctx = false →
      (s.core o.coord).drainFree ≤ s.clock → (∀ e ∈ s.path, e.id ∉ o.first) →
      (∀ x ∈ aheadOf (s.core o.coord).mq o.id, x.kind = 4 ∨ s.tilesMeet o.coord x o = false) →
      let b := if o.opt = 2 then 64 else 32
      let u := s.modMOp o.id fun x =>
        { x with state := 1, busyTo := s.clock + b, outMem := (o.drained t.cbuf.mem).1, outRegs := (o.drained t.cbuf.mem).2 }
      ((∀ x ∈ o.drainRuns, t.cbuf.mem.errorAt x.1 x.2 = none) →
        becomes (.mdrainStart o.coord) s (((u.modCore o.coord fun x => { x with drainFree := s.clock + b }).sched (s.clock + b) (.mdrainStart o.coord)).sched
          (s.clock + b + 16) (.mdrainRetire o.id))) ∧
      (∀ v, (o.drainRuns.findSome? fun x => t.cbuf.mem.errorAt x.1 x.2) = some v → becomes (.mdrainStart o.coord) s (s.stopDrain o v))) ∧
    (s.mop? o.id = some o → o.kind = 4 → o.state ≠ 0 → o.busyTo + 16 ≤ s.clock →
      let live := s.liveBy o.byw &&& ~~~o.dead
      (o.space = 0 → becomes (.mdrainRetire o.id) s ((s.modGroup o.byw.g fun y =>
        y.putAll o.byw.cc ((o.outRegs.filter fun x => live.getLsbD x.1).map fun x => (LDst.v x.1 x.2.1, x.2.2.setWidth 64))).removeMOp o)) ∧
      (o.space ≠ 0 → becomes (.mdrainRetire o.id) s (((((s.keepOld o).modTeam o.byw.g.team fun t => t.drainInto o.outMem).evalCounters).presentLines
        o.byw.g.team o.lines).removeMOp o)))


namespace Sys2Proof.Machine
/-- The bytes of a space that runs of (space, start, length) cover, each counted once (R306). -/
def covered (l : List (Nat × Nat × Nat)) (sp : Nat) : Nat := (((l.filter fun x => x.1 = sp).flatMap fun x => (List.range x.2.2).map fun j => x.2.1 + j).eraseDups).length
/-- Where logical k of row i of an operand is stored (R300, R303): itself, or in a sparse row the place that its group's selector gives. -/
def storedIndex (r : Rsv) (m : Mem) (i k : Nat) : Option Nat :=
  let sel := (m.read1 (r.mofs + i * r.mstride + k / 4 / 2)).toNat / 16 ^ (k / 4 % 2) % 16
  if rsvSparse r = false then some k else if k % 4 = sel % 4 then some (2 * (k / 4)) else if k % 4 = sel / 4 then some (2 * (k / 4) + 1) else none
/-- Elem of R300 at a stored index: its value by type, less its zero point, times its scale. -/
def elemSpec (r : Rsv) (m : Mem) (i k j : Nat) : FVal :=
  let b := r.base + i * r.rstride
  let z := if rsvZp r then (m.read1 (r.zofs + i * r.zstride + k / 32)).toNat else 0
  let v := match r.ty with
    | 9 => fBf16.value (m.readN (b + 2 * j) 2)
    | 10 => fF16.value (m.readN (b + 2 * j) 2)
    | 11 => fF8e4.value (m.read1 (b + j)).toNat
    | 12 => fF8e5.value (m.read1 (b + j)).toNat
    | 13 => obValue (m.read1 (b + j)).toNat z
    | 14 => obValue ((m.read1 (b + j / 2)).toNat / 16 ^ (j % 2) % 16) (z % 16)
    | _ => cbValue (m.readN (b + 2 * (j / 8)) 2) (j % 8)
  if rsvScaled r then v.scaled (m.read1 (r.sofs + i * r.sstride + k / 32)).toNat else v
end Sys2Proof.Machine
open Sys2Proof Sys2Proof.Machine

/-- R124, R125, R300 to R303, R305 to R307: an array operation's busy period, from its K and the bytes that it fetches, each counted once; an MMAP
takes both arrays, once both cores are ready and no line that either reads is absent, and writes both tiles; an orphaned line stops it before its
start. The tile's new element: block by block in ascending k the exact sum of the products is rounded and added; MZERO's is zero. -/
def Claims.arraysRunTheirBusyPeriod : Prop :=
  ∀ (s : State) (t : Team) (o : MOp),
    (o.kind = 0 → o.busy = 32) ∧
    (∀ l r, o.kind ≠ 0 → o.left = some l → o.right = some r →
      let rho := if l.ty < 11 then 2 else 4
      let runs (own : Bool) : List (Nat × Nat × Nat) := (if own then operandData l o.k0l o.k else []) ++ operandData r o.k0r o.k ++
        ((if own then operandAux l o.k0l o.k else []) ++ operandAux r o.k0r o.k)
      let fa := covered (runs true) 2
      let fw := max (covered (runs true) 4) (if o.follower = none then 0 else covered (runs false) 4)
      o.busy = max (o.k / (if o.kind = 3 then 2 * rho else rho)) (max ((fa + 511) / 512) ((fw + 1023) / 1024))) ∧
    (∀ f : Option Team,
      let far := match f, o.right with
        | some y, some r => [(y.buf (rsvSpace r)).mem]
        | _, _ => []
      let u := (s.modMOp o.id fun x => { x with state := 1, busyTo := s.clock + o.busy, old := [t.abuf.mem, t.wbuf.mem] ++ far }).sched (s.clock + o.busy) (.matrixOpRetire o.id)
      let takes (u : State) (c : Nat) : State := (u.modCore c fun x => { x with arrayFree := s.clock + o.busy }).sched (s.clock + o.busy) (.matrixOpStart c)
      (f = none → s.startArray t f o = takes u t.coord) ∧ (∀ y, f = some y → s.startArray t f o = takes (takes u t.coord) y.coord)) ∧
    (((s.core o.coord).mq.find? fun x => decide (x.kind ≠ 4) && decide (x.state = 0)) = some o → s.team? o.byw.g.team = some t →
      s.frozen t.ctx = false → s.arrayReady o.coord o = true →
      let lost (y : Team) (own : Bool) : Option Nat := lineWith (o.reads own) (s.lineBars o y fun b => b.orphan)
      let gone (y : Team) (own : Bool) : Option Nat := lineWith (o.reads own) (s.lineBars o y fun b => b.absent)
      let stopped (n : Nat) : State := ((s.removeMOp o).raiseWith o.byw 0x0A (BitVec.ofNat 64 (n * 128)) 16).again (.matrixOpStart o.coord)
      (∀ n, o.follower = none → lost t true = some n → becomes (.matrixOpStart o.coord) s (stopped n)) ∧
      (∀ c y, o.follower = some c → s.followerTeam t c = some y → s.arrayReady c o = true →
        (∀ n, lost t true = some n ∨ (lost t true = none ∧ lost y false = some n) → becomes (.matrixOpStart o.coord) s (stopped n)) ∧
        (lost t true = none → lost y false = none →
          (gone t true = none → gone y false = none → becomes (.matrixOpStart o.coord) s (s.startArray t (some y) o)) ∧
          (gone t true ≠ none ∨ gone y false ≠ none → becomes (.matrixOpStart o.coord) s (s.again (.matrixOpStart o.coord)))))) ∧
    (∀ (y : Team) (r : Rsv), o.right = some r → o.kept = [] → o.old = [t.abuf.mem, t.wbuf.mem, (y.buf (rsvSpace r)).mem] →
      let m (sp : Nat) : Mem := if sp = 2 then t.abuf.mem else t.wbuf.mem
      let left := m ((o.left.map rsvSpace).getD 2)
      let there := (y.buf (rsvSpace r)).mem
      let u := (s.writeTeam t.id 3 o.tile (o.result left (m (rsvSpace r)) t.cbuf.mem)).writeTeam y.id 3 o.tile (o.result left there y.cbuf.mem)
      (o.kind ≠ 0 → o.stop m t.cbuf.mem true = none → o.stop (fun _ => there) y.cbuf.mem false = none →
        s.runArray t (some y) o = (u.modMOp o.id fun x => { x with state := 2 }).sched (u.clock + 24) (.matrixOpRetire o.id)) ∧
      (∀ c v, o.stop m t.cbuf.mem true = some (c, v) ∨ (o.stop m t.cbuf.mem true = none ∧ o.stop (fun _ => there) y.cbuf.mem false = some (c, v)) →
        s.runArray t (some y) o = (((if c = 0x0D then s.localNotice t.ctx else s).blurTiles o).removeMOp o).raiseWith o.byw c (BitVec.ofNat 64 v) 16)) ∧
    (∀ lm rm tile,
      (o.left = none → o.result lm rm tile = List.replicate 16384 0) ∧
      (∀ l r m n, o.left = some l → o.right = some r → m < 64 → n < 64 →
        let kb := if l.ty = 9 ∨ l.ty = 10 then 32 else 64
        let products (j : Nat) : List FVal := (List.range kb).filterMap fun i =>
          match elemAt l lm m (o.k0l + j * kb + i), elemAt r rm n (o.k0r + j * kb + i) with
          | some a, some b => some (a.mul b)
          | _, _ => none
        (((o.result lm rm tile).drop (256 * m + 4 * n)).take 4) = bytesOfNat 4
          ((List.range (o.k / kb)).foldl (fun c j => sAdd (blockSum (products j)) c) (BitVec.ofNat 32 (tile.readN (o.tile + 256 * m + 4 * n) 4))).toNat)) ∧
    (∀ r m i k, elemAt r m i k = (storedIndex r m i k).map (elemSpec r m i k)) ∧
    (blockSum [] = 0 ∧ ∀ p, FVal.nan ∈ p → blockSum p = sCanon)

/-- R124, R125, R294, R300 to R303, R305 to R311: operations of the matrix queues start, run, write their tiles and drain. Model's choices: log 27, 61, 82, 105, 106. -/
def Obligations.matrixOperationsRunInOrder : Prop := Claims.matrixQueueRunsInOrder ∧ Claims.arraysRunTheirBusyPeriod


/-- R268: RPUT's bytes are counted in their stage and RFREE's stage becomes empty with its other phase, once their release holds. -/
def Claims.ringEffectsFollowTheirRelease : Prop :=
  ∀ (s : State) (e : PathEntry), s.entry? e.id = some e → e.kind = .ring → s.ringReady e = true →
    (e.op = 0 → becomes (.rputEffect e.id) s ((s.endEntry e.id).stageAdd e.byw.g.team e.addr e.data)) ∧
    (e.op = 1 →
      let f (x : Stage) : Stage := ⟨false, !x.phase, 0, x.target, false⟩
      becomes (.rfreeEffect e.id) s (((s.endEntry e.id).modTeam e.byw.g.team fun t =>
        { t with stages := spPut {} t.stages e.addr (f (spGet {} t.stages e.addr)) }).evalRings e.byw.g.team))


/-- R263, R268 to R271: queue rings spill and refill, steals are served, ring effects follow their release. Model's choices: log 59, 87. -/
def Obligations.ringsAndStealsAreServed : Prop := Claims.queueRingsSpillAndRefill ∧ Claims.stealsAreServed ∧ Claims.ringEffectsFollowTheirRelease

/-- R279 to R282: a ready task gets renamed tiles filled from what it reads them as; a finished one without predecessors commits: its
frames replace the context's, by one shoot-down. -/
def Claims.tasksAreFilledAndCommitted : Prop :=
  ∀ (s : State) (k : Task), s.task? k.die k.id = some k →
    (k.state = 1 → k.staged = [] → k.tiles = [] → (∀ o ∈ s.ops, o.kind ≠ .fill k.die k.id) → becomes (.taskStart k.die k.id) s (s.queueTask k)) ∧
    (∀ st u, k.state = 1 → k.staged = [] → k.tiles ≠ [] → 16 * k.tiles.length ≤ s.poolLeft k.ctx → State.renameTiles k.tiles s k.die = some (st, u) →
      let pages := (k.tiles.zip st).flatMap fun x => ((s.tileNow k x.1).zip x.2.2).filterMap fun y => y.1.map fun p => (p * 4096, y.2 * 4096)
      let o : EOp := { id := u.nextId, kind := .fill k.die k.id, coord := k.die * 64, team := 0, ctx := k.ctx, launch := k.launch, cls := 2, target := .none,
                       pages := pages, started := true, todo := List.range (2 * pages.length) }
      let v := u.modTask k.die k.id fun x => { x with staged := st }
      pages ≠ [] → becomes (.taskStart k.die k.id) s (({ v with ops := v.ops ++ [o], nextId := v.nextId + 1 } : State).enterEngine o)) ∧
    (k.state = 3 → s.mayCommit k = true → s.taskBusy k.die k.id = false → k.staged = [] → becomes (.taskCommit k.die k.id) s (s.endCommit k.die k.id)) ∧
    (k.state = 3 → s.mayCommit k = true → s.taskBusy k.die k.id = false → k.staged ≠ [] →
      let pages := k.staged.flatMap fun x => x.2.mapIdx fun j f => (x.1 * 65536 + j * 4096, f)
      let old := pages.filterMap fun p => match s.walkCtx k.ctx p.1 with
        | .ok x => some (x.pa / 4096)
        | _ => none
      let lo := (k.staged.map fun x => x.1).foldl min ((k.staged.headD (0, [])).1)
      let hi := (k.staged.map fun x => x.1).foldl max 0
      let root := ((s.ctx? k.ctx).map fun c => c.root).getD 0
      ∀ u, pages.foldl (fun (a : Option State) p => a.bind fun s => s.setFrame root p.1 p.2 (s.walkCtx k.ctx p.1)) (some s) = some u →
        becomes (.taskCommit k.die k.id) s
          (((u.modCtx k.ctx fun c => { c with p := { c.p with pool := c.p.pool - (pages.length - old.length) } }).modTask k.die k.id
            fun x => { x with state := 6 }).shoot k.ctx (lo * 65536) ((hi + 1 - lo) * 65536) none old (some (k.die, k.id))))


/-- R264, R280, R282, R283: a task waits once in its die's list, as a cluster of one core. A committed task leaves the table, the cores forget that
they ran it and its renamed pages, and its join counter receives 1, a plain 64-bit addition; then ready tasks may start and finished ones commit.
A task that is discarded, with all that depend on it, gives back its team, its frames and what its teams have under way to them. -/
def Claims.tasksEnterAndLeaveTheTable : Prop :=
  ∀ (s : State) (k : Task),
    ((∃ w ∈ s.dieList, w.task = some (k.die, k.id)) → s.queueTask k = s) ∧
    ((∀ w ∈ s.dieList, w.task ≠ some (k.die, k.id)) → s.queueTask k = ({ s with dieList := s.dieList ++
      [{ launch := k.launch, cluster := 65536 * (k.id + 1), die := k.die, urgent := isUrgent s k.ctx, task := some (k.die, k.id) }] } : State).sched
        (s.clock + 1) (.clusterDispatch k.die)) ∧
    (s.task? k.die k.id = some k →
      let u : State := { s with
        tasks := s.tasks.filter fun y => !(y.die == k.die && y.id == k.id)
        cores := s.cores.map fun (c : Core) => { c with tlb := c.tlb.filter fun e => e.task ≠ some (k.die, k.id), tasksRun := c.tasksRun.filter fun y => y ≠ (k.die, k.id) } }
      let go (v : State) : State := v.tryTasks.sched (v.clock + 1) (.launchComplete k.launch)
      (k.join = 0 → s.endCommit k.die k.id = go u) ∧
      (k.join ≠ 0 → s.endCommit k.die k.id = go (u.addAt k.ctx k.join 1 true [k.byw] k.launch true)) ∧
      (∀ y, k.join ≠ 0 → (∀ a ∈ s.adds, ¬ (a.ctx = k.ctx ∧ a.va = k.join)) → u.walkCtx k.ctx k.join = .ok y → pteWr y.leaf = true → s.dram.poisoned y.pa 8 = false →
        u.addAt k.ctx k.join 1 true [k.byw] k.launch true = u.writePa y.pa (bytesOfNat 8 ((s.dram.readN y.pa 8 + 1) % 2 ^ 64)))) ∧
    s.tryTasks = s.tasks.foldl (fun u x => if x.state = 1 then u.sched (u.clock + 1) (.taskStart x.die x.id)
      else if x.state = 3 then u.sched (u.clock + 1) (.taskCommit x.die x.id) else u) s ∧
    (let gone := k :: s.dependents k
     let u := gone.foldl (fun u x => u.undoTask x) s
     s.discard k = ((s.dependents k).length, ({ u with tasks := u.tasks.filter fun x => !gone.any fun y => y.die == x.die && y.id == x.id } : State).readyTasks)) ∧
    (s.readyTasks = ({ s with tasks := s.tasks.map fun (x : Task) => if x.state = 0 ∧ ∀ p ∈ s.predsOf x, p.finished = true then { x with state := 1 } else x } : State).tryTasks)

/-- R264, R279 to R283: tasks are queued, filled, committed and discarded. Model's choices: log 3, 41, 72. -/
def Obligations.tasksStartAndCommit : Prop := Claims.tasksAreFilledAndCommitted ∧ Claims.tasksEnterAndLeaveTheTable


/-- R255, R287: what a slot merges: its contributions in ascending port order, however they came, element by element, by the operator. -/
def Claims.slotsMergeInPortOrder : Prop :=
  (∀ (y : SwSlot) (l : List (Nat × List Nat)), l.Perm y.got → l.Pairwise (fun a b => a.1 < b.1) → y.merged = match l with
    | [] => []
    | a :: rest => rest.foldl (fun acc b => acc.zipWith (mergeElem y.first.sig) b.2) a.2) ∧
  ∀ (x : CollSig) (a b : Nat),
    (x.op = 1 → x.ty ≤ 1 → mergeElem x a b = (a + b) % 2 ^ 32) ∧ (x.op = 1 → x.ty = 6 ∨ x.ty = 7 → mergeElem x a b = (a + b) % 2 ^ 64) ∧
    (x.op = 2 → x.ty = 1 ∨ x.ty = 7 → mergeElem x a b = max a b) ∧ (x.op = 3 → x.ty = 1 ∨ x.ty = 7 → mergeElem x a b = min a b) ∧
    (8 ≤ x.ty → x.ty ≤ 10 → (x.op = 1 → mergeElem x a b = (fAdd rneMode (BitVec.ofNat 32 a) (BitVec.ofNat 32 b)).bits) ∧
      (x.op = 2 → mergeElem x a b = (fMinMax true rneMode (BitVec.ofNat 32 a) (BitVec.ofNat 32 b)).toNat) ∧
      (x.op = 3 → mergeElem x a b = (fMinMax false rneMode (BitVec.ofNat 32 a) (BitVec.ofNat 32 b)).toNat)) ∧
    (x.op = 4 → mergeElem x a b = natOfTriple (mmerge (tripleOfBytes a) (tripleOfBytes b)))

namespace Sys2Proof.Machine
/-- The slot of a name holds an arrival. -/
def State.slotHolds (s : State) (x : Contribution) : State :=
  let its (y : SwSlot) : Bool := y.cgrp == x.cgrp && y.seq == x.seq && y.chunk == x.chunk
  let more (y : SwSlot) : SwSlot := { y with mismatch := y.mismatch || x.mismatch || y.first.sig != x.sig, got := y.got ++ [(x.port, x.elems)] }
  let opened (k : Switch) : SwSlot :=
    { cgrp := x.cgrp, seq := x.seq, chunk := x.chunk, first := x, mismatch := x.mismatch, got := [(x.port, x.elems)],
      epoch := ((k.entries.find? fun e => e.cgrp == x.cgrp && e.v).map fun e => e.epoch).getD 0 }
  s.modSwitch x.sw fun k => { k with slots := if k.slots.any its then k.slots.map (fun y => if its y then more y else y) else k.slots ++ [opened k] }
/-- A result leaves by every port of DOWN: port 4 for this rank, the others for the switch they face. -/
def State.leavesDown (s : State) (sw : Nat) (e : TreeEntry) (x : Contribution) : State :=
  (List.range 8).foldl (fun (u : State) (p : Nat) =>
    if e.down.getLsbD p = false then u
    else if p = 4 then u.toRank sw x
    else match facing sw p with
      | some y => u.after (linkLeast sw y.1) (.switchContribution { x with sw := y.1, port := y.2 })
      | none => u) s
end Sys2Proof.Machine
open Sys2Proof Sys2Proof.Machine

/-- R284, R287: a contribution is held in its slot, which opens at the first, or waits at its port where none is free; when every port of
CHILD has delivered, the merged chunk leaves for the parent, or from the root down every DOWN port, and the slot is free for what waits. -/
def Claims.contributionsMergeAndLeave : Prop :=
  ∀ (s : State) (x : Contribution), x.sw < 12 → (s.linkOf x).retired = false →
    let sw := s.switch x.sw
    let drained (u : State) : State := State.drainPorts (u.switch x.sw).waiting.length u x.sw
    ((s.linkOf x).training = true → becomes (.switchContribution x) s (s.sched (s.clock + 1) (.switchContribution x))) ∧
    ((s.linkOf x).training = false →
      (sw.comesDown x = true → ∀ e, sw.entry? x.cgrp = some e → x.mismatch = false → becomes (.switchContribution x) s (drained (s.leavesDown x.sw e x))) ∧
      (sw.comesDown x = false → (x.cgrp, x.seq) ∈ sw.dropped → becomes (.switchContribution x) s s) ∧
      (sw.comesDown x = false → (x.cgrp, x.seq) ∉ sw.dropped → sw.takes x = false →
        becomes (.switchContribution x) s (s.modSwitch x.sw fun k => { k with waiting := k.waiting ++ [x] })) ∧
      (sw.comesDown x = false → (x.cgrp, x.seq) ∉ sw.dropped → sw.takes x = true →
        let v := (s.slotHolds x).accepted x
        ∀ y e, ((v.switch x.sw).slots.find? fun y => y.is x) = some y → (v.switch x.sw).entry? x.cgrp = some e →
          let all := ∀ p, p < 8 → e.child.getLsbD p = true → ∃ g ∈ y.got, g.1 = p
          (¬ all ∨ v.namesLost y.first = true → becomes (.switchContribution x) s (drained v)) ∧
          (all → v.namesLost y.first = false → y.mismatch = false →
            let w := v.modSwitch x.sw fun k => { k with slots := k.slots.filter fun z => !z.is x }
            let r : Contribution := { y.first with elems := y.merged, mismatch := false }
            (e.root = true → y.first.cgrp = x.cgrp → becomes (.switchContribution x) s (drained (w.leavesDown x.sw e r))) ∧
            (∀ q, e.root = false → facing x.sw e.parent = some q →
              becomes (.switchContribution x) s (drained (w.after (linkLeast x.sw q.1) (.switchContribution { r with sw := q.1, port := q.2 }))))) ∧
          (all → v.namesLost y.first = false → y.mismatch = true → ∀ q, e.root = false → facing x.sw e.parent = some q →
            let w := v.modSwitch x.sw fun k =>
              { k with
                slots := k.slots.filter fun z => !(z.cgrp == x.cgrp && z.seq == x.seq)
                waiting := k.waiting.filter fun z => !(z.cgrp == x.cgrp && z.seq == x.seq)
                dropped := if k.dropped.contains (x.cgrp, x.seq) then k.dropped else k.dropped ++ [(x.cgrp, x.seq)] }
            becomes (.switchContribution x) s (drained (w.after (linkLeast x.sw q.1) (.switchContribution
              { y.first with elems := [], mismatch := true, sw := q.1, port := q.2 })))))) ∧
    (∀ n, (∀ y ∈ sw.waiting, sw.takes y = false) → State.drainPorts n s x.sw = s) ∧
    (∀ n y rest, sw.waiting = y :: rest → sw.takes y = true →
      State.drainPorts (n + 1) s x.sw = State.drainPorts n ((s.modSwitch x.sw fun k => { k with waiting := k.waiting.eraseIdx 0 }).holdPart y) x.sw)

/-- R190, R248, R254, R255, R285, R287: a rank's own contribution is counted once its home switch has it; a result that leaves by port 4 for a
rank of REPL is written there, its lines present and counted at its tile's counter, at once or when the update's release allows it; for another
rank only the call's end is noted. -/
def Claims.resultsReachTheirRank : Prop :=
  ∀ (s : State),
    (∀ (x : Contribution) (o : EOp) (r : Shape), s.callOp x.cgrp x.seq = some (o, r) →
      let c := r.chunks.getD x.chunk 0
      (x.port ≠ 4 → s.accepted x = s) ∧
      (∀ seq, x.port = 4 → o.kind = .cpyt r seq → r.op ≠ 0 → c ∈ o.running → s.updateReady o = true →
        ∀ u, u = s.chunkCounted o c ((r.chunkElems c).map fun _ => r.z).sum → (u.toPeers o.ctx r = false → s.accepted x = u.closeOp o.id) ∧
          (u.toPeers o.ctx r = true → s.accepted x = ((u.modOp o.id fun y => { y with acks := y.acks ++ [c] }).after 1 (.chunkComplete o.id c)).closeOp o.id)) ∧
      (∀ sw, x.mismatch = false →
        (s.isDest o.ctx r = false → s.toRank sw x = (s.modOp o.id fun y => { y with landed := y.landed ++ [c] }).closeOp o.id) ∧
        (s.isDest o.ctx r = true →
          let bytes (e : Nat) : List Byte := bytesOfNat r.z (if x.sig.op ≠ 4 ∧ (x.sig.ty = 9 ∨ x.sig.ty = 10) then (cvtBits (if x.sig.ty = 9 then .bf16 else .f16) .f32 rneMode e).1 else e)
          let w := ((r.chunkElems c).zip x.elems).flatMap fun y => (bytes y.2).mapIdx fun i b => (r.dstAddr (c / 2 ^ 32) y.1 + i, b)
          s.toRank sw x = s.after (Config.meshCc 16) (.reducedChunkWrite
            { ctx := o.ctx, launch := o.launch, die := sw / 3, cgrp := x.cgrp, seq := x.seq, tileCtr := if r.ctr = 0 then 0 else r.ctr + 8 * (c / 2 ^ 32),
              space := cpySpace r.space, writes := w, size := w.length, op := o.id, chunk := c, mismatch := false, plain := false })))) ∧
    (∀ (x : ReducedChunk) (o : EOp), s.op? x.op = some o → x.mismatch = false → x.chunk ∈ o.placed →
      let counted (u : State) : State := ((if x.tileCtr = 0 then u else u.addAt x.ctx x.tileCtr x.size false o.throwers x.launch false x.op).modOp x.op fun y =>
        { y with placed := y.placed.erase x.chunk, landed := y.landed ++ [x.chunk] }).closeOp x.op
      (x.tileCtr = 0 ∨ s.updateReady o = true → becomes (.reducedChunkWrite x) s (counted s))) ∧
    (∀ (x : ReducedChunk) (o : EOp) (r : Shape) (seq : Nat) (t : Team), s.heldChunk x = false → x.mismatch = false → s.deadCall x = false → s.chunkBad x = none →
      s.op? x.op = some o → x.op ≠ 0 → x.chunk ∉ o.placed → o.kind = .cpyt r seq → r.overlaps = false →
      let w := s.engWrite o o.team (x.writes.map fun y => (x.space, y.1, 1)) (x.writes.map fun y => y.2)
      s.team? o.team = some t →
      let later := (o.notLanded.filter fun d => d != x.chunk).filter fun d => (w.chunkTeams o d).any fun z => z.id == t.id
      let v := w.linesCome t ((w.chunkLines o x.chunk).filter fun l => !(later.flatMap fun d => w.chunkLines o d).contains l)
      v.op? x.op = some o →
      (x.tileCtr ≠ 0 → v.updateReady o = true → becomes (.reducedChunkWrite x) s
        (((v.addAt x.ctx x.tileCtr x.size false o.throwers x.launch false x.op).modOp x.op fun y =>
          { y with placed := y.placed.erase x.chunk, landed := y.landed ++ [x.chunk] }).closeOp x.op)) ∧
      (x.tileCtr ≠ 0 → v.updateReady o = false → becomes (.reducedChunkWrite x) s
        ((v.modOp x.op fun y => { y with placed := if x.chunk ∈ y.placed then y.placed else y.placed ++ [x.chunk] }).again (.reducedChunkWrite x))) ∧
      (x.tileCtr = 0 → becomes (.reducedChunkWrite x) s
        ((v.modOp x.op fun y => { y with placed := y.placed.erase x.chunk, landed := y.landed ++ [x.chunk] }).closeOp x.op)))

/-- R286, R288, R343: a lost rank is told, and the trees of its groups are built anew under the next epoch: what the old ones held fails, each
switch gets the entries of firmware's plan, and its free slots take what waits at its ports. -/
def Claims.treesAreRebuilt : Prop :=
  ∀ (s : State) (c : Ctx), s.ctx? c.id = some c →
    (∀ rank, rank ∉ c.lost → rank ≠ c.me → (∃ x ∈ c.ranks, x.1 = rank) →
      let hit := (s.groupsOf c).filter fun x => x.2.contains rank
      becomes (.rankLost c.id rank) s ((hit.foldl (fun s x => s.buildTree c.id x.1 x.2) (s.modCtx c.id fun x => { x with lost := x.lost ++ [rank] })).notify c.id 0xC007
        (bytesOfNat 4 3 ++ bytesOfNat 2 rank ++ bytesOfNat 2 hit.length ++ bytesOfNat 8 0))) ∧
    (∀ g members,
      let old := (s.switches.flatMap fun w => w.entries).filter fun e => e.cgrp == g && e.v
      let epoch := if old = [] then 0 else ((old.map fun e => e.epoch).foldl max 0 + 1) % 65536
      let a := if old = [] then s else s.failSlots g
      let b : State := { a with switches := a.switches.map fun (w : Switch) => { w with entries := w.entries.filter fun e => e.cgrp != g, homes := w.homes.filter fun n => n != g } }
      let plan := b.treePlan c g epoch members
      let d := if b.treeRoom plan.1 g then plan.2.foldl (fun u x => u.modSwitch x.1 fun w => { w with entries := w.entries ++ [x.2] }) b else b
      s.buildTree c.id g members = (List.range 12).foldl (fun u sw => State.drainPorts (u.switch sw).waiting.length u sw)
        (d.modSwitch plan.1 fun w => { w with homes := w.homes ++ [g] })) ∧
    (∀ port n, port < 16 → n ≤ 4096 → (s.link (.port port)).retired = false → (s.link (.port port)).training = false →
      (spGet 0 s.ports port + n ≤ 2097152 → becomes (.packetReceive port n false) s { s with ports := spPut 0 s.ports port (spGet 0 s.ports port + n) }) ∧
      (2097152 < spGet 0 s.ports port + n → becomes (.packetReceive port n false) s s) ∧
      becomes (.packetReceive port n true) s { s with ports := spPut 0 s.ports port (spGet 0 s.ports port - n) })

/-- R190, R248, R254, R255, R284 to R288, R314, R327, R332, R343: reductions merge in switch slots; results are written; trees are rebuilt; a
port's buffer drops what it has no room for. Model's choices: log 26, 28, 29, 83, 91. -/
def Obligations.switchesAndPorts : Prop :=
  Claims.slotsMergeInPortOrder ∧ Claims.contributionsMergeAndLeave ∧ Claims.resultsReachTheirRank ∧ Claims.treesAreRebuilt


namespace Sys2Proof.Machine
/-- The command is from an authenticated session of a principal, with a header in range, and is not one that an earlier leader did. -/
def commandOk (s : State) (h : Hdr) (code p : Nat) : Prop :=
  s.power = true ∧ Config.hdrOk h = true ∧ (∃ x, s.session? h.session = some x ∧ x.principal = some p) ∧
  (∀ r ∈ s.replayable, ¬ (r.1 = p ∧ r.2.1 = h.tag ∧ r.2.2.code = 0x8000 + code)) ∧ ∀ x ∈ s.pendingCmds, s.isPending p h code x = false
/-- It names a context of its principal. -/
def onContext (s : State) (h : Hdr) (code : Nat) (c : Ctx) : Prop := commandOk s h code c.principal ∧ s.ctx? h.ctx = some c
/-- It names a context with a debug session. -/
def onDebug (s : State) (h : Hdr) (code : Nat) (c : Ctx) (d : Debug) : Prop := onContext s h code c ∧ c.debug = some d
end Sys2Proof.Machine
open Sys2Proof Sys2Proof.Machine

/-- R315 to R319: the passes: a die's next core is drained, its patterns run once it is empty, and a pass counts and clears what the core
made while a failure acts on it and retires the core. R278: a core not emptied in time is reset, unless a Halted group holds it. -/
def Claims.passesRun : Prop :=
  ∀ (s : State) (coord : Nat),
    (∀ die, s.power = true → die < 4 → (∀ c ∈ Config.dieCoords die, s.offered c = true → (s.core c).testing = false ∧
        ((s.core c).draining = true → (s.core c).retireAfter ≠ none)) → s.emberNext die = some coord → (s.core coord).draining = false →
      ((s.core coord).visitNext = true → becomes (.emberVisit die) s ((s.modCore coord fun k => { k with visitNext := false }).drain coord)) ∧
      ((s.core coord).visitNext = false → (∀ c ∈ Config.dieCoords die, s.offered c = true → s.coreHalted c = false) →
        becomes (.emberVisit die) s
          ((({ s with ember := spPut 0 s.ember die (emberIndex coord + 1) } : State).modCore coord fun k => { k with visitNext := false }).drain coord))) ∧
    ((s.core coord).draining = true → (s.core coord).testing = false → s.coreHalted coord = false → s.resident coord = [] → (s.core coord).retireAfter = none →
      let u := s.modCore coord fun k => { k with testing := true, passStart := s.clock, passLeft := 52000, passMark := s.clock, vstepDue := none }
      let fail := if Config.freeBit s.free then some ((Config.freeByte (s.free + 1)).toNat % if (s.core coord).kaFirst = 0 then 5 else 6) else none
      becomes (.emberPatternsStart coord) s
        (({ u with free := s.free + 2 } : State).sched (s.clock + (if spGet 0 s.issueRow (Config.coordDie coord) = 0 then 52000 else 104000)) (.emberPassEnd coord fail))) ∧
    (∀ k, (s.core coord).testing = true → s.passNow coord = 0 → becomes (.emberPassEnd coord (some k)) s (s.failCore coord k 2)) ∧
    ((s.core coord).testing = true → s.passNow coord = 0 → (s.core coord).retireAfter = none →
      let c := s.core coord
      let u := (s.setAlm (.core coord) fun a => { a with passes := (a.passes + 1) % 2 ^ 32, cec := if c.kaFirst = 0 then a.cec else (a.cec + 1) % 2 ^ 32 }).modCore coord
        fun k => { k with testing := false, draining := false, lastPass := s.clock, kaFirst := 0, launches := [], tasksRun := [] }
      let v := ((u.launches.foldl (fun s l => s.clearLaunch l) u).tryTasks).kick
      becomes (.emberPassEnd coord none) s (v.sched (v.clock + 1) (.emberVisit (Config.coordDie coord)))) ∧
    ((s.core coord).draining = true → (s.core coord).testing = false → s.resident coord ≠ [] → (s.core coord).drainFrom + Config.ccPerMs ≤ s.clock →
      (s.coreHalted coord = false → becomes (.drainTimeout coord) s (s.resetCore coord)) ∧
      (s.coreHalted coord = true → becomes (.drainTimeout coord) s
        ((s.modCore coord fun k => { k with drainFrom := s.clock }).sched (s.clock + Config.ccPerMs) (.drainTimeout coord))))


/-- R278, R283, R319, R321, R328: a failed pass rolls back the tasks that ran on the core since its last pass, with all that depend on them, names the
launches that had a team there in one report to each principal, or in an empty one to every session, cancels those that ask for it, and retires
the core with the cause. A reset core's spills are performed, its refills abandoned, and every launch with a team there ends in failure with
E_CANCELLED. Rolled back tasks are Waiting again. -/
def Claims.failedCoresAreActedOn : Prop :=
  ∀ (s : State) (coord : Nat),
    (∀ group cause,
      let c := s.core coord
      let r := s.rollback (s.tasks.filter fun k => (k.die, k.id) ∈ c.tasksRun ∧ (k.state = 2 ∨ k.state = 3))
      let named := r.2.launches.filter fun l => l.grid ∈ c.launches
      let k := r.2.core coord
      let body (off : Nat) (l : List Launch) : List Byte :=
        bytesOfNat 1 coord ++ bytesOfNat 1 group ++ bytesOfNat 2 l.length ++ bytesOfNat 4 r.1.length ++ bytesOfNat 8 (k.lastPass - off) ++ bytesOfNat 8 (k.passStart - off) ++
        (sortBy (fun (x : Launch) => x.grid) l).flatMap fun x => bytesOfNat 8 x.grid
      let told := if named = [] then r.2.notifyAll 0xC003 (body 0 [])
        else (named.map fun l => (l.ctx, l.principal)).eraseDups.foldl (fun u x =>
          u.notifyTo (some x.2) x.1 0xC003 (body (((u.ctx? x.1).map fun y => y.clockOff).getD 0) (named.filter fun l => l.ctx = x.1 ∧ l.principal = x.2))) r.2
      let clear := named.foldl (fun u l => u.modLaunch l.grid fun y => { y with cleared := true, heldBody := none }) told
      let asks (u : State) (l : Launch) : Prop := (∃ x, u.ctx? l.ctx = some x ∧ x.p.cancelOnFail = true) ∧ l.completed = false
      ∀ v : State, (∀ l ∈ named, ¬ asks clear l) ∧ v = clear ∨ (∃ l, named = [l] ∧ asks clear l ∧ v = clear.cancelLaunch l) →
        s.failCore coord group cause = (v.modCore coord fun x => { x with launches := [], tasksRun := [] }).gate coord cause) ∧
    (∀ cause,
      let u := (s.setAlm (.core coord) fun a => { a with state := 2, cause := cause, day := s.day }).retireDone coord
      s.gate coord cause = (u.modCore coord fun c => { c with draining := false, testing := false, retireAfter := none, visitNext := false }).kick.sched (u.clock + 1)
        (.emberVisit (Config.coordDie coord))) ∧
    (∀ l : List Task,
      let all := ((l ++ l.flatMap fun k => s.dependents k).eraseDups).filter fun k => k.state ≠ 6
      let u := all.foldl (fun u k => (u.undoTask k).modTask k.die k.id fun x => { x with state := 0, staged := [], team := none, finishedAt := 0 }) s
      s.rollback l = (all, ({ u with tasks := u.tasks.map fun (k : Task) =>
        if k.state = 1 ∧ ∃ p ∈ u.predsOf k, p.finished = false then { k with state := 0 } else k } : State).readyTasks)) ∧
    (let ts := s.resident coord
     let work := (s.ops.filter fun o => ts.any fun t => t.id == o.team).foldl (fun (u : State) o => match o.kind with
       | .spill _ _ => (if u.engBad o (u.chunkWrites o 0) true = none then u.engWrite o o.team (u.chunkWrites o 0) (o.recs.flatMap recBytes) else u).dropOp o
       | .refill q n => (u.modQueue o.team q fun x => { x with reserved := x.reserved - n, refill := none }).dropOp o
       | _ => u) s
     s.resetCore coord = (ts.map fun t => t.launch).eraseDups.foldl (fun u l => u.failLaunch l) work) ∧
    (∀ l, s.launch? l.grid = some l → (l.completed = true → s.failLaunch l.grid = s) ∧
      (l.completed = false →
        let mine := s.teams.filter fun t => t.launch = l.grid ∧ t.place ≠ .ended
        let quiet : State := { s with steers := s.steers.filter fun y => match y.region with
          | .group t _ _ | .team t _ => mine.all fun x => x.id != t
          | .grid a => a != l.grid }
        let d := (quiet.stopWaiting l.grid).dropTasks l.grid
        let stop := d.2.cancelInside (d.2.inside (.grid l.grid)) (fun t => t.launch == l.grid) (isMember (.grid l.grid))
        let out := mine.foldl (fun u t => match u.team? t.id with
          | some y => u.exitTeam y
          | none => u) stop
        let x : Rec := { code := 0x14, level := 2, codes := 1#64 <<< 0x14, clock := out.ctxClock l.ctx }
        s.failLaunch l.grid = (out.modLaunch l.grid fun y =>
          { y with
            exceptions := match y.exceptions with
              | some e => some { e.merge x with clock := x.clock, level := 2 }
              | none => some x
            fate := if y.fate = 3 then 3 else 1 }).sched (out.clock + 1) (.launchComplete l.grid)))

/-- R278, R283, R315 to R319, R321, R328: the passes, and what a failed pass and a reset core do. Model's choices: log 14, 15, 46. -/
def Obligations.emberPassesRun : Prop := Claims.passesRun ∧ Claims.failedCoresAreActedOn


/-- R316, R329: a margin reading is recorded, and a unit below its floor at its highest offset is retired; the re-plan of each unit takes the
lowest offset with 20 ps of slack above the floor; a new window starts the counts of corrected errors anew. Model's choices: log 48, 54, 76. -/
def Obligations.marginsAndWindows : Prop :=
  ∀ (s : State), s.power = true →
    (∀ coord m domain, Config.coordOk coord = true →
      let die := Config.coordDie coord
      let x : UnitId := if domain then .quadrant die (quadrantOf coord) else .core coord
      let u := s.setAlm x fun a => { a with margin := m % 65536 }
      let v : State := { u with flash := { u.flash with margins := u.flash.margins ++ [(unitKey x, u.day, (m : Int))] } }
      ((v.alm x).floor ≤ (v.alm x).margin ∨ v.inEffect x < (v.alm x).vmax → becomes (.marginReading coord m domain) s v) ∧
      ((v.alm x).margin < (v.alm x).floor → (v.alm x).vmax ≤ v.inEffect x →
        becomes (.marginReading coord m domain) s (if domain then v.retireQuadrant die (quadrantOf coord) 3 else v.startRetire coord 3))) ∧
    (∃ t, becomes .replan s t ∧ t.power = true ∧ t.agenda = s.agenda ++ [(s.clock + s.flash.replanDays * Config.ccPerDay, .replan)] ∧ t.dram = s.dram ∧ t.teams = s.teams ∧
      ∀ u ∈ marginUnits, (s.alm u).state ≠ 2 →
        let enough (v : Nat) : Prop := v ≤ (s.alm u).vmax ∧ (s.alm u).floor + 20 ≤ s.slackAt u v
        ((∃ v, enough v) → enough (t.alm u).vstep ∧ ∀ v, enough v → (t.alm u).vstep ≤ v) ∧ ((∀ v, ¬ enough v) → (t.alm u).vstep = (s.alm u).vmax)) ∧
    becomes .cecWindowEnd s (({ s with
        flash := { s.flash with alm := s.flash.alm.map (fun (x : UnitId × AlmRec) => (x.1, { x.2 with cec := 0 })), lineCec := [] }
        cores := s.cores.map fun (c : Core) => { c with kaMiss := 0 } } : State).sched (s.clock + 30 * Config.ccPerDay) .cecWindowEnd)


/-- R322, R325, R326, R180, R324: a corrected error of a scrub read moves its unit's count and that of its line or row, and at the third
the place is given up; at 64 a slice is raised to DEC-TED. An uncorrectable one poisons its block, or spoils its register, and moves the
count of uncorrectable errors. Re-encoding, row copies and rehoming end. Model's choices: log 48, 69, 77, 84. -/
def Obligations.errorsAreCountedAndRepaired : Prop :=
  ∀ (s : State) (u : UnitId),
    (s.power = true → (match u with
        | .core _ | .slice _ | .teamMem _ | .bank _ _ _ => Config.coordOk (Config.unitCoord u) = true
        | _ => False) → ∀ line,
      let place := match u with
        | .bank _ _ _ => Config.freeRowOf (unitKey u) line
        | _ => line
      let n := ((s.flash.lineCec.find? fun x => x.1 == u && x.2.1 == place).map fun x => x.2.2).getD 0 + 1
      let rest := s.flash.lineCec.filter fun x => !(x.1 == u && x.2.1 == place)
      let v := s.setAlm u fun a => { a with cec := (a.cec + 1) % 2 ^ 32 }
      let w : State := { v with flash := { v.flash with lineCec := if n < 3 then (u, place, n) :: rest else rest } }
      let calm (y : State) : Prop := (∀ c, u = .slice c → (y.alm u).cec < 64) ∧ ∀ c l b, u = .bank c l b →
        (((List.range 8).flatMap fun l => (List.range 32).map fun b => UnitId.bank c l b).map fun b => (y.alm b).cec).sum < 64
      let d := s.setAlm u fun a => { a with uec := (a.uec + 1) % 65536 }
      let hit (b : Nat) : State :=
        ({ d with dram := { d.dram with poison := if d.dram.poison.contains b then d.dram.poison else d.dram.poison ++ [b] } } : State).pageNotice 1 0 (b / 64)
      becomes (.scrubRead u line .clean) s s ∧
      (n < 3 → calm w → becomes (.scrubRead u line .corrected) s w) ∧
      (∀ c, n < 3 → u = .slice c → 64 ≤ (w.alm u).cec → becomes (.scrubRead u line .corrected) s (w.startEcc u)) ∧
      (3 ≤ n → (∀ c, u = .core c → becomes (.scrubRead u line .corrected) s w) ∧
        (∀ c, u = .teamMem c → becomes (.scrubRead u line .corrected) s (w.spareTmLine c line)) ∧
        (∀ c, u = .slice c → calm (w.disableLine c line) → becomes (.scrubRead u line .corrected) s (w.disableLine c line)) ∧
        (∀ c l b, u = .bank c l b → calm (w.spareRow u place) → becomes (.scrubRead u line .corrected) s (w.spareRow u place))) ∧
      (∀ c, u = .core c → becomes (.scrubRead u line .uncorrectable) s (d.spoilRegister c line)) ∧
      (∀ c t, u = .teamMem c → (d.resident c)[(Config.freeTeamBlock (unitKey u) line).1]? = some t →
        let b := (Config.freeTeamBlock (unitKey u) line).2
        becomes (.scrubRead u line .uncorrectable) s (d.modTeam t.id fun x =>
          { x with tm := { x.tm with mem := { x.tm.mem with poison := if x.tm.mem.poison.contains b then x.tm.mem.poison else x.tm.mem.poison ++ [b] } } })) ∧
      (∀ c, u = .slice c → becomes (.scrubRead u line .uncorrectable) s (hit (Config.freeLineBlock (unitKey u) line))) ∧
      (∀ c l b, u = .bank c l b → becomes (.scrubRead u line .uncorrectable) s ((hit (Config.freeLineBlock (unitKey u) line)).spareRow u place))) ∧
    ((s.alm u).ecc = 2 →
      let v := s.setAlm u fun a => { a with ecc := 1, day := s.day }
      becomes (.eccReencode u) s (match u with
        | .slice c => if v.fewWays c then v.retireSlice c 6 else v
        | _ => v)) ∧
    (∀ row, (u, row) ∈ s.rowCopies → becomes (.repairRowCopyComplete u row) s
      (({ s with rowCopies := s.rowCopies.filter fun x => x != (u, row), flash := { s.flash with rows := s.flash.rows ++ [(u, row)] } } : State).setAlm u
        fun a => { a with spare := a.spare - 1 })) ∧
    (∀ coord x, (s.rehoming.find? fun y => y.1 == coord) = some x → becomes (.sliceRehomeComplete coord) s
      (({ s with rehoming := s.rehoming.filter fun y => y.1 != coord } : State).setUnit (.slice coord) 2 x.2))


/-- A NOTICE of KIND 4: die, sensor, layer, row, temperature (R337). -/
def Sys2Proof.Machine.heatNotice (die sensor layer row : Nat) (temp : Int) : List Byte :=
  bytesOfNat 4 4 ++ bytesOfNat 1 die ++ bytesOfNat 1 sensor ++ bytesOfNat 1 layer ++ bytesOfNat 1 row ++ bytesOfNat 2 (temp % 65536).toNat ++ bytesOfNat 6 0
/-- R327, R335, R346, R349, R350: lanes and links, heat, the leader, forced ends, and power. Model's choices: log 14, 28, 52, 53, 83, 91. -/
def Obligations.linksHeatAndPower : Prop :=
  ∀ (s : State),
    (∀ l, s.power = true → becomes (.laneSpare l) s (s.failLane l)) ∧
    (∀ l, (s.link l).training = true → becomes (.linkRetrainComplete l) s (s.modLink l fun x => { x with training := false })) ∧
    (∀ die l temp row, s.power = true → die < 4 → (row = 0 ∧ temp ≤ 100 ∨ row = 1 ∧ 100 < temp ∧ temp ≤ 110) → spGet 0 s.issueRow die ≠ row →
      let u : State := { s with flash := { s.flash with thermal := s.flash.thermal ++ [(die, 8, row)] } }
      becomes (.thermalRowChange die true l temp) s
        ((Config.dieCoords die).foldl (fun s c => s.stay c) ((u.setIssueRow die row).notifyAll 0xC007 (heatNotice die 1 0 row temp))).kick) ∧
    (∀ die l temp, s.power = true → die < 4 → 110 < temp → temp ≤ 120 → spGet 0 s.issueRow die ≠ 2 →
      let u : State := { s with flash := { s.flash with thermal := s.flash.thermal ++ [(die, 8, 2)] } }
      becomes (.thermalRowChange die true l temp) s
        ((Config.dieCoords die).foldl (fun s c => s.pushOut c) ((u.setIssueRow die 2).notifyAll 0xC007 (heatNotice die 1 0 2 temp)))) ∧
    (∀ die l temp, s.power = true → die < 4 → l < 8 → 105 < temp → spGet 0 s.refreshRow (8 * die + l) ≠ 3 →
      ∃ t, becomes (.thermalRowChange die false l temp) s t ∧ t.power = false ∧ t.flash.thermal = s.flash.thermal ++ [(die, l, 3)] ∧ t.teams = [] ∧
        ∀ x ∈ s.sessions, x.principal.isSome = true → ∃ m ∈ t.outbox, m.session = some x.id ∧ m.code = 0xC007 ∧ m.body = pad8 (heatNotice die 0 l 3 temp)) ∧
    (∀ coord, s.pushOut coord = (s.resident coord).foldl (fun u t =>
      (t.groups.foldl (fun u g => if g.phase = .parked then u.sched (u.clock + 1) (.groupEvict ⟨t.id, g.slot⟩) else u) u).sched (s.clock + 1) (.teamLeave t.id)) s) ∧
    (∀ die row,
      let on (c : Core) : Bool := Config.coordDie c.coord == die && c.testing
      (s.setIssueRow die row).issueRow = spPut 0 s.issueRow die row ∧ (s.setIssueRow die row).teams = s.teams ∧ (s.setIssueRow die row).dram = s.dram ∧
      (s.setIssueRow die row).cores = s.cores.map (fun (c : Core) => if on c then { c with passLeft := s.passNow c.coord, passMark := s.clock } else c)) ∧
    (∀ die l temp, s.power = true → die < 4 → 120 < temp → spGet 0 s.issueRow die ≠ 3 →
      ∃ t, becomes (.thermalRowChange die true l temp) s t ∧ t.power = false ∧ t.flash.thermal = s.flash.thermal ++ [(die, 8, 3)] ∧
        ∀ x ∈ s.sessions, x.principal.isSome = true → ∃ m ∈ t.outbox, m.session = some x.id ∧ m.code = 0xC007 ∧ m.body = pad8 (heatNotice die 1 0 3 temp)) ∧
    (∀ die l temp row, s.power = true → die < 4 → l < 8 → (row = 0 ∧ temp ≤ 85 ∨ row = 1 ∧ 85 < temp ∧ temp ≤ 95 ∨ row = 2 ∧ 95 < temp ∧ temp ≤ 105) →
      spGet 0 s.refreshRow (8 * die + l) ≠ row →
      let u : State := { s with flash := { s.flash with thermal := s.flash.thermal ++ [(die, l, row)] }, refreshRow := spPut 0 s.refreshRow (8 * die + l) row }
      becomes (.thermalRowChange die false l temp) s (u.notifyAll 0xC007 (heatNotice die 0 l row temp))) ∧
    (∀ d, (s.mgmtOk.filter fun x => x != s.leader).head? = some d → ∃ t, becomes .leaderTakeover s t ∧ t.leader = d ∧ t.sessions = [] ∧
      t.mgmtOk = s.mgmtOk.filter (fun x => x != s.leader) ∧ t.replayable = s.replies ∧ t.era = s.nextSession ∧
      (∀ m, m ∈ t.heldMsgs → m.session = none ∨ m ∈ s.heldMsgs) ∧ t.contexts = s.contexts ∧ t.launches = s.launches ∧ t.dram = s.dram) ∧
    (∀ lid l, s.launch? lid = some l → l.completed = false → l.cancelled = true →
      let u := s.modLaunch lid fun y => { y with fate := 3 }
      let cs := ((u.teams.filter fun t => t.launch == lid && t.place == .resident).map fun t => t.coord).eraseDups
      becomes (.forcedEnd lid) s ((cs.foldl (fun s c => s.resetCore c) u).failLaunch lid)) ∧
    (∃ t, becomes .powerLoss s t ∧ t.power = false ∧ t.flash = { s.flash with dayBase := s.day } ∧ t.dram = {} ∧ t.contexts = [] ∧ t.teams = [] ∧ t.agenda = []) ∧
    (s.power = false → ∃ t, becomes (.powerOn []) s t ∧ t.power = true ∧ t.leader = 0 ∧ t.mgmtOk = [0, 1, 2, 3] ∧ t.clock = 0 ∧ t.dram = {} ∧ t.contexts = [] ∧
      t.sessions = [] ∧ t.teams = [] ∧ t.flash.keys = s.flash.keys ∧ ((∀ x ∈ s.flash.alm, x.2.ecc ≠ 2) → t.agenda =
        [(1, .emberVisit 0), (1, .emberVisit 1), (1, .emberVisit 2), (1, .emberVisit 3), (s.flash.replanDays * Config.ccPerDay, .replan), (30 * Config.ccPerDay, .cecWindowEnd)])) ∧
    (∀ n, s.power = false → 7 ≤ n → n ≤ 8 → ∃ t, becomes (.powerOn [n]) s t ∧ t.power = false ∧ t.flash.failures = s.flash.failures ++ [n]) ∧
    (∀ n, s.power = false → 1 ≤ n → n ≤ 4 → becomes (.powerOn [n]) s { s with flash := { s.flash with failures := s.flash.failures ++ [n] } }) ∧
    (∀ n, s.power = false → n = 5 ∨ n = 6 →
      let up : State := { State.reset with flash := s.flash, leader := 0, mgmtOk := [0, 1, 2, 3], inbox := s.inbox, outbox := s.outbox, free := s.free,
                                           nextSession := s.nextSession }
      becomes (.powerOn [n]) s { s with flash := { up.applyAlmanac.flash with failures := up.applyAlmanac.flash.failures ++ [n] } }) ∧
    (let gone (u : State) (x : UnitId) (cause : Nat) : State :=
       if (u.alm x).state = 2 then u else u.setAlm x fun a => { a with state := 2, cause := cause, day := u.day }
     s.applyAlmanac = Config.allCoords.foldl (fun u c =>
       if (u.alm (.quadrant (Config.coordDie c) (quadrantOf c))).state = 2 then gone (gone u (.core c) 9) (.slice c) 9
       else if u.fewWays c then gone u (.slice c) 6 else u) s)


/-- R334: OPEN gives a session with a nonce; AUTH binds it to the principal whose key made the MAC, and its held messages go out; CLOSE
and the loss of a session end it, and nothing else. -/
def Claims.sessionsOpenAuthenticateClose : Prop :=
  ∀ (s : State) (h : Hdr), s.power = true → Config.hdrOk h = true →
    (∀ port, s.livePort port = true → s.sessions.length < 64 →
      let n := Config.nonce s.nextSession
      becomes (.openS h port) s
        { s with sessions := s.sessions ++ [⟨s.nextSession, port, n, none⟩], nextSession := s.nextSession + 1,
                 outbox := s.outbox ++ [{ code := 0x8001, form := h.form, session := some s.nextSession, ctx := h.ctx, tag := h.tag, body := pad8 (bytesOfNat 4 0 ++ n), at_ := s.clock }] }) ∧
    (∀ x p mac, s.session? h.session = some x → p < 16 →
      (mac = hmacSha256 (spGet [] s.flash.keys p) x.nonce → becomes (.authS h p mac none) s
        ((({ s with sessions := s.sessions.map fun (y : Session) => if y.id = x.id then { y with principal := some p } else y } : State).reply h 2 0 []).deliver x.id p)) ∧
      (mac ≠ hmacSha256 (spGet [] s.flash.keys p) x.nonce → becomes (.authS h p mac none) s (s.reply h 2 2 []))) ∧
    (∀ x, s.session? h.session = some x → becomes (.closeS h) s ((s.reply h 3 0 []).endSession h.session)) ∧
    (∀ n, becomes (.sessionLoss n) s { s with sessions := s.sessions.filter fun y => y.id != n })


/-- R333, R334: what every command of a context meets before its own checks: no reply without a session, and the STATUS of a header
out of range, of no authentication, of no such context and of another principal's context, in this order. A debug command of a context
without a debug session gets 3 (R344). -/
def Claims.commandsAreChecked : Prop :=
  ∀ (s : State) (h : Hdr), s.power = true →
    ∀ (va n k m r : Nat) (w : W64) (b : Bool) (bytes : List Byte) (map : MapBody) (img : ImgBody) (l : LaunchBody) (rk : RankBody) (wr : Option (Nat × TreeEntry))
      (hl : HaltTarget) (g : GRef) (at_ : Option Nat),
    let debug : List (Instr × Nat) := [(.haltG h hl b, 0x0091), (.resume h hl, 0x0092), (.step h g, 0x0093), (.breakSet h n at_, 0x0094), (.stateRead h g, 0x0095)]
    let plain : List (Instr × Nat) :=
      [(.ctxDestroy h, 0x0011), (.mapVa h map, 0x0020), (.unmap h va n, 0x0021), (.memRead h va n, 0x0022), (.memWrite h va bytes, 0x0023),
       (.keySet h k bytes, 0x0024), (.keyClear h k, 0x0025), (.imgLoad h img, 0x0030), (.imgDrop h n, 0x0031), (.launch h l, 0x0040), (.cancel h n, 0x0041),
       (.ringState h, 0x0050), (.queueState h n k m r, 0x0051), (.reply h n w k, 0x0058), (.faultRefuse h n, 0x0059), (.rankmap h rk, 0x0080),
       (.tree h n wr, 0x0081), (.attach h b, 0x0090)]
    (∀ x ∈ debug, ∀ c, onContext s h x.2 c → c.debug = none → becomes x.1 s (s.reply h x.2 3 [])) ∧
    ∀ x ∈ plain ++ debug,
      (s.session? h.session = none → becomes x.1 s s) ∧
      (∀ y, s.session? h.session = some y →
        (Config.hdrOk h = false → becomes x.1 s (s.reply h x.2 1 [])) ∧
        (Config.hdrOk h = true → y.principal = none → becomes x.1 s (s.reply h x.2 2 []))) ∧
      (∀ p, commandOk s h x.2 p →
        (s.ctx? h.ctx = none → becomes x.1 s (s.reply h x.2 3 [])) ∧
        (∀ c, s.ctx? h.ctx = some c → c.principal ≠ p → becomes x.1 s (s.reply h x.2 2 [])))


/-- R333, R334: sessions, and what every command of a context meets first. Model's choices: log 24, 49, 56, 89. -/
def Obligations.sessionsAndHeaders : Prop := Claims.sessionsOpenAuthenticateClose ∧ Claims.commandsAreChecked

/-- R336, R338, R339, R241, R243: contexts, mappings, the host's reads and writes, and keys. Model's choices: log 3, 24, 50, 51, 55, 71. -/
def Obligations.contextCommands : Prop :=
  ∀ (s : State) (h : Hdr),
    (∀ x p n, commandOk s h 0x0010 p → ((List.range 256).find? fun n => (s.ctx? n).isNone) = some n →
      let q := if h.form = 0 then Config.basicCtx else x
      64 ≤ q.ring → q.ring ≤ 65536 →
      (∀ f u, s.takeAny (n % 4) 512 = some (f, u) → becomes (.ctxCreate h x) s
        (({ u with contexts := u.contexts ++ [{ id := n, principal := p, p := q, root := f }] } : State).reply h 0x0010 0 (bytesOfNat 4 n))) ∧
      (s.takeAny (n % 4) 512 = none → becomes (.ctxCreate h x) s (s.reply h 0x0010 4 []))) ∧
    (∀ c, onContext s h 0x0011 c → c.dying = none →
      becomes (.ctxDestroy h) s
        ((((s.modCtx c.id fun y => { y with dying := some (Hdr.of h c.principal) }).launches.filter fun l => l.ctx == c.id && !l.completed).foldl
          (fun v l => (v.cancelLaunch l).sched (v.clock + Config.ccPerMs) (.forcedEnd l.grid))
          (s.modCtx c.id fun y => { y with dying := some (Hdr.of h c.principal) })).endContext c.id)) ∧
    (∀ x c, onContext s h 0x0020 c → mapBad h x = false → (x.key = 0 ∨ ((spGet {} s.keys x.key).used = true ∧ (spGet {} s.keys x.key).owner = c.id)) →
      let va := x.va % 2 ^ 57
      (s.overlaps c va x.len = false → ∀ u, State.mapPages x c.root (x.len / x.page) va s = some u →
        becomes (.mapVa h x) s ((u.serveRange c.id va x.len).reply h 0x0020 0 [])) ∧
      (s.overlaps c va x.len = true → x.remap = true → ∀ d u, s.dropRange c va x.len = some d → State.mapPages x c.root (x.len / x.page) va d.1 = some u →
        becomes (.mapVa h x) s ((u.serveRange c.id va x.len).shoot c.id va x.len (some (Hdr.of h c.principal, 0x0020)) d.2 none)) ∧
      (s.overlaps c va x.len = true → x.remap = false → becomes (.mapVa h x) s (s.reply h 0x0020 7 []))) ∧
    (∀ va len c, onContext s h 0x0021 c → va % 4096 = 0 → len % 4096 = 0 → 0 < len → canonical va = true → canonical (va + len - 1) = true →
      s.overlaps c (va % 2 ^ 57) len = true →
      (∀ d, s.dropRange c (va % 2 ^ 57) len = some d →
        becomes (.unmap h va len) s (d.1.shoot c.id (va % 2 ^ 57) len (some (Hdr.of h c.principal, 0x0021)) d.2 none)) ∧
      (s.dropRange c (va % 2 ^ 57) len = none → becomes (.unmap h va len) s (s.reply h 0x0021 4 []))) ∧
    (∀ va len c, onContext s h 0x0022 c → len ≤ 1048576 → canonical va = true → canonical (va + len - 1) = true → s.mappedAll c.id va len (fun _ => true) = true →
      becomes (.memRead h va len) s (s.reply h 0x0022 0 (s.ctxBytes c.id va len))) ∧
    (∀ va b c, onContext s h 0x0023 c → b.length ≤ 1048576 → canonical va = true → canonical (va + b.length - 1) = true →
      s.mappedAll c.id va b.length (fun _ => true) = true → becomes (.memWrite h va b) s ((s.ctxStore c.id va b).reply h 0x0023 0 [])) ∧
    (∀ slot m c, onContext s h 0x0024 c → 1 ≤ slot → slot ≤ 8191 → m.length = 64 →
      ((spGet {} s.keys slot).used = true → (spGet {} s.keys slot).owner = c.id ∧ s.namesKey c slot = false) →
      becomes (.keySet h slot m) s (({ s with keys := spPut {} s.keys slot { owner := c.id, used := true, material := m } } : State).reply h 0x0024 0 [])) ∧
    (∀ slot c, onContext s h 0x0025 c → 1 ≤ slot → slot ≤ 8191 → (spGet {} s.keys slot).used = true → (spGet {} s.keys slot).owner = c.id → (∀ x ∈ s.contexts, s.namesKey x slot = false) →
      becomes (.keyClear h slot) s (({ s with keys := spPut {} s.keys slot {} } : State).reply h 0x0025 0 []))


/-- R340 to R342, R236, R238: images, launches, and the answers to calls and faults. -/
def Claims.launchesAndAnswers : Prop :=
  ∀ (s : State) (h : Hdr) (c : Ctx),
    (∀ x, onContext s h 0x0030 c → x.image = 0 → x.offset = 0 → x.bytes.length ≤ 1048576 → x.bytes.length ≤ imageSize x →
      (x.final = true → x.bytes.length = imageSize x) → canonical x.codeBase = true → canonical x.dataVa = true →
      s.mappedAll c.id x.codeBase x.codeSize pteCode = true → s.mappedAll c.id x.dataVa x.dataSize (fun l => pteRd l && pteWr l) = true →
      let im : Image := { num := s.nextImage, ctx := c.id, body := { x with bytes := [] } }
      becomes (.imgLoad h x) s (({ s with images := s.images ++ [im], nextImage := s.nextImage + 1 } : State).addPart h im x)) ∧
    (∀ im, onContext s h 0x0031 c → s.image? im.num = some im → im.ctx = c.id → (∀ l ∈ s.launches, l.body.image = im.num → l.completed = true) →
      becomes (.imgDrop h im.num) s
        ((({ s with images := s.images.filter fun y => y.num != im.num } : State).freeFrames (im.copies.flatMap fun (x : Nat × List Nat) => x.2)).reply h 0x0031 0 [])) ∧
    (∀ x, onContext s h 0x0040 c → c.dying = none →
      (s.launchStatus c x = 0 → becomes (.launch h x) s ((s.acceptLaunch c x).reply h 0x0040 0 (bytesOfNat 8 s.nextGrid))) ∧
      (s.launchStatus c x ≠ 0 → becomes (.launch h x) s (s.reply h 0x0040 (s.launchStatus c x) []))) ∧
    (∀ l, onContext s h 0x0041 c → s.launch? l.grid = some l → l.ctx = c.id →
      (l.completed = false → becomes (.cancel h l.grid) s ((s.cancelLaunch l).reply h 0x0041 0 [])) ∧
      (l.completed = true → becomes (.cancel h l.grid) s (s.reply h 0x0041 8 []))) ∧
    (onContext s h 0x0050 c → becomes (.ringState h) s
      (s.reply h 0x0050 0 (bytesOfNat 8 c.forwarded ++ bytesOfNat 8 c.nextSeq ++ bytesOfNat 4 c.ring.length ++ bytesOfNat 4 c.calls.length))) ∧
    (∀ grid cluster pos q t x, onContext s h 0x0051 c →
      (s.teams.find? fun t => t.launch == grid && t.cluster == cluster && t.pos == pos && t.ctx == c.id && t.place != .ended) = some t → t.queues[q]? = some x →
      becomes (.queueState h grid cluster pos q) s
        (s.reply h 0x0051 0 (bytesOfNat 8 x.head ++ bytesOfNat 8 x.tail ++ bytesOfNat 4 x.chip.length ++ bytesOfNat 4 (x.tail - x.head)))) ∧
    (∀ seq value st, onContext s h 0x0058 c → (st = 0 ∨ st = 0x14 ∨ (0x100 ≤ st ∧ st ≤ 65535)) →
      ((∃ x ∈ c.calls, x.1 = seq) → becomes (.reply h seq value st) s ((s.applyReply c.id seq value st).reply h 0x0058 0 [])) ∧
      ((∀ x ∈ c.calls, x.1 ≠ seq) → becomes (.reply h seq value st) s (s.reply h 0x0058 (if seq < c.nextSeq then 8 else 3) []))) ∧
    (∀ f, onContext s h 0x0059 c → (s.faults.find? fun x => x.id == f.id && x.ctx == c.id) = some f →
      (f.state = 0 → becomes (.faultRefuse h f.id) s ((s.endFault f).reply h 0x0059 0 [])) ∧
      (f.state ≠ 0 → becomes (.faultRefuse h f.id) s (s.reply h 0x0059 8 [])))


/-- R340, R69, R74: a later part of an image continues its stream and gives no field of the first message; one that does not is refused with 1 and
the image keeps what it has. The bytes join the stream; with FINAL the whole stream must be there, the image is checked, its code and data are
written and it is usable, or it is dropped with 6. What passes the check has every relocation inside its segment and every kernel at the
start of an instruction. -/
def Claims.imagesAreLoadedInParts : Prop :=
  (∀ (s : State) (h : Hdr) (c : Ctx) (x : ImgBody), onContext s h 0x0030 c → x.bytes.length ≤ 1048576 → x.image ≠ 0 →
    (s.image? x.image = none → becomes (.imgLoad h x) s (s.reply h 0x0030 3 [])) ∧
    (∀ im, s.image? x.image = some im →
      let wrong := im.final = true ∨ x.offset ≠ im.got.length ∨ imageSize im.body < im.got.length + x.bytes.length ∨
        x.codeBase ≠ 0 ∨ x.dataVa ≠ 0 ∨ x.codeSize ≠ 0 ∨ x.dataSize ≠ 0 ∨ x.kSize ≠ 0 ∨ x.rCount ≠ 0
      (im.ctx ≠ c.id → becomes (.imgLoad h x) s (s.reply h 0x0030 3 [])) ∧
      (im.ctx = c.id → wrong → becomes (.imgLoad h x) s (s.reply h 0x0030 1 [])) ∧
      (im.ctx = c.id → ¬ wrong → becomes (.imgLoad h x) s (s.addPart h im x)))) ∧
  (∀ (s : State) (h : Hdr) (im : Image) (x : ImgBody),
    let all := { im with got := im.got ++ x.bytes }
    let put (y : Image) : State := { s with images := s.images.map fun (z : Image) => if z.num = im.num then y else z }
    (x.final = false → s.addPart h im x = (put all).reply h 0x0030 0 (bytesOfNat 4 im.num)) ∧
    (x.final = true → all.got.length ≠ imageSize im.body → s.addPart h im x = s.reply h 0x0030 1 []) ∧
    (x.final = true → all.got.length = imageSize im.body →
      (all.checked = none → s.addPart h im x = ({ s with images := (put all).images.filter fun y => y.num ≠ im.num } : State).reply h 0x0030 6 []) ∧
      (∀ y, all.checked = some y →
        let v : State := { s with images := (put all).images.map fun (z : Image) => if z.num = im.num then y else z }
        s.addPart h im x = ((v.ctxStore im.ctx im.body.codeBase all.code).ctxStore im.ctx im.body.dataVa all.data).reply h 0x0030 0 (bytesOfNat 4 im.num)))) ∧
  ∀ (im y : Image), im.checked = some y → y = { im with final := true, kerns := y.kerns, roles := y.roles, relocs := y.relocs } ∧
    (∀ r ∈ y.relocs, r.2 ≤ 1 ∧ r.1 < (if r.2 = 0 then im.body.codeSize else im.body.dataSize)) ∧
    (∀ k ∈ y.kerns, k.entry ∈ instrStarts (im.body.codeSize / 4 + 1) 0 im.code)

/-- R20, R46, R68, R75, R225, R271, R340 to R342: the checks of LAUNCH in their order with their STATUS: 3 for no such image or kernel of the
context, 1 for a field out of range, 5 for a shape that no die can hold, 6 for what R341 lists, 4 for a tree without room. An accepted launch has
the next GRIDID and its clusters wait in the leader's list, in order; firmware writes the data address into its argument block. CANCEL
keeps what has not been dispatched from being so, discards the tasks that no team runs, and throws E_CANCELLED in every resident group. -/
def Claims.launchesAreCheckedAcceptedCancelled : Prop :=
  ∀ (s : State) (c : Ctx),
    (∀ (x : LaunchBody),
      ((∀ im, s.image? x.image = some im → im.ctx ≠ c.id ∨ im.final = false) → s.launchStatus c x = 3) ∧
      ∀ im, s.image? x.image = some im → im.ctx = c.id → im.final = true →
        (im.kerns[x.kernel]? = none → s.launchStatus c x = 3) ∧
        ∀ k, im.kerns[x.kernel]? = some k →
          let teams := x.clusters * k.cw * k.ch
          let badRing (base cap : Nat) : Prop := cap ≠ 0 ∧ ¬ (canonical base = true ∧ base % 32 = 0 ∧ canonical (base + 32 * cap * teams - 1) = true ∧
            s.mappedAll c.id base (32 * cap * teams) (fun l => pteRd l && pteWr l) = true)
          let coord (r : Nat × Nat) : Nat := ((if r.2 = 0 then im.code else im.data).getD r.1 0).toNat
          let fields := x.lanes = 0 ∨ k.width * k.groups < x.lanes ∨ x.clusters = 0 ∨ 65536 < x.clusters ∨ x.abuf % 2048 ≠ 0 ∨ x.wbuf % 2048 ≠ 0 ∨ x.cbuf % 2048 ≠ 0
          let shape := ∀ d, d < 4 → s.shapeFits d k.cw k.ch = false
          let refused := (∃ r ∈ im.relocs, k.ch ≤ Config.coordRow (coord r) ∨ k.cw ≤ Config.coordCol (coord r)) ∨
            (∃ q, q < 4 ∧ badRing (x.qBase.getD q 0) (k.qcap.getD q 0)) ∨ badRing x.srBase x.srCap ∨ 1048576 < x.abuf ∨ 2097152 < x.wbuf ∨ 524288 < x.cbuf ∨
            524288 < k.slots * k.width * k.regs * 4 ∨ 2048 < k.slots * k.width ∨ (x.flags.getLsbD 1 = true ∧ (x.clusters ≤ x.cteam ∨ k.cw * k.ch ≤ x.cpos)) ∨
            ((∃ r ∈ im.relocs, r.2 ≠ 0) ∧ 1 < x.clusters) ∨
            ¬ (canonical x.args = true ∧ canonical (x.args + 7) = true ∧ s.mappedAll c.id x.args 8 (fun l => pteRd l && pteWr l) = true)
          let full := x.cgrp ≠ 0 ∧ s.treeFits c x.cgrp (maskRanks x.rbase x.memb.toNat) = false
          (fields → s.launchStatus c x = 1) ∧ (¬ fields → shape → s.launchStatus c x = 5) ∧ (¬ fields → ¬ shape → refused → s.launchStatus c x = 6) ∧
          (¬ fields → ¬ shape → ¬ refused → full → s.launchStatus c x = 4) ∧ (¬ fields → ¬ shape → ¬ refused → ¬ full → s.launchStatus c x = 0)) ∧
    (∀ d w h, s.shapeFits d w h = true ↔ 1 ≤ w ∧ w ≤ 8 ∧ 1 ≤ h ∧ h ≤ 6 ∧ w * h ≤ 12 ∧ ∃ o ∈ origins d w h, ∀ k ∈ rectCores o w h, s.offered k = true) ∧
    (∀ (x : LaunchBody) im, s.image? x.image = some im →
      let u := s.ctxStore c.id x.args (bytesOfNat 8 im.body.dataVa)
      s.acceptLaunch c x = ({ u with
        launches := u.launches ++ [{ grid := s.nextGrid, ctx := c.id, body := x, kern := im.kerns.getD x.kernel {}, waiting := x.clusters, principal := c.principal }]
        nextGrid := u.nextGrid + 1
        leadList := u.leadList ++ (List.range x.clusters).map fun i => { launch := s.nextGrid, cluster := i, urgent := c.p.urgent } } : State).sched
          (u.clock + 1) .clusterAssign) ∧
    (∀ l : Launch,
      let a := (s.modLaunch l.grid fun y => { y with cancelled := true }).stopWaiting l.grid
      let b := (a.tasks.filter fun k => k.launch = l.grid ∧ k.team = none ∧ k.finished = false).foldl (fun u k => (u.discard k).2) a
      s.cancelLaunch l = (b.throwCancelled l.grid).sched ((b.throwCancelled l.grid).clock + 1) (.launchComplete l.grid)) ∧
    (∀ g,
      let u := s.stopWaiting g
      let its (t : Nat) : Prop := ∃ x, s.team? t = some x ∧ x.launch = g
      u.leadList = s.leadList.filter (fun w => w.launch ≠ g) ∧ u.dieList = s.dieList.filter (fun w => w.launch ≠ g) ∧
      (∀ l, s.launch? g = some l → (u.launch? g).map (fun y => y.waiting) = some 0) ∧
      (∀ k x, x ∈ (u.core k).spawnq → x ∈ (s.core k).spawnq ∧ ¬ its x.1) ∧ (∀ k x, x ∈ (s.core k).spawnq → ¬ its x.1 → x ∈ (u.core k).spawnq) ∧
      (∀ k p, p ∈ (u.core k).packs ↔ p ∈ (s.core k).packs ∧ ¬ its p.team)) ∧
    ∀ g,
      let ts := s.teams.filter fun t => t.launch = g ∧ t.place ≠ .ended
      let on := (ts.filter fun t => t.place = .resident).flatMap fun t =>
        (t.groups.filter fun y => y.live ≠ 0 ∧ y.phase ≠ .evicted ∧ y.phase ≠ .exited).map fun y => (⟨t.id, y.slot⟩ : GRef)
      (ts = [] → s.throwCancelled g = s) ∧ (on ≠ [] → s.throwCancelled g = on.foldl (fun u r => u.raiseStopped r 0x14 0) s) ∧
      (∀ t rest, ts = t :: rest → on = [] →
        ((∀ x ∈ ts, ∀ y ∈ x.groups, y.phase = .exited) → s.throwCancelled g = s.raiseNobody t 0x14 0) ∧
        ((∃ x ∈ ts, ∃ y ∈ x.groups, y.phase ≠ .exited) → s.throwCancelled g = s)) ∧
      (∀ r y code value, s.group? r = some y → midWord y = false →
        s.raiseStopped r code value = s.raise r ((lanesOf y.live).map fun l => ⟨l, code, (y.pc l).toNat, value⟩)) ∧
      (∀ r y code value, s.group? r = some y → midWord y = true →
        s.raiseStopped r code value = s.modGroup r fun z => { z with owed := z.owed ++ [{ code := code, value := value, cc := s.clock }] })

/-- R20, R69, R74, R75, R225, R236, R238, R340 to R342: images, launches, cancellation, and the answers to calls and faults. Model's choices: log 24, 25, 40, 51, 73, 81, 90, 97. -/
def Obligations.launchCommands : Prop := Claims.launchesAndAnswers ∧ Claims.imagesAreLoadedInParts ∧ Claims.launchesAreCheckedAcceptedCancelled


/-- R315, R322, R328, R330, R346, R272, R286, R343: the almanac, sparing and retirement by command, rank maps, trees and quanta. -/
def Claims.almanacMapsAndTrees : Prop :=
  ∀ (s : State) (h : Hdr) (p : Nat),
    (∀ u, commandOk s h 0x0060 p → (unitOk u = true → becomes (.almRead h u) s (s.reply h 0x0060 0 (almBytes u (s.alm u)))) ∧
      (unitOk u = false → becomes (.almRead h u) s (s.reply h 0x0060 3 []))) ∧
    (∀ k f, commandOk s h 0x0061 p → Config.coordOk k = true → f ≤ 65535 →
      becomes (.almWrite h (.core k) f) s ((s.setAlm (.core k) fun a => { a with floor := f }).reply h 0x0061 0 [])) ∧
    (∀ k, commandOk s h 0x0061 p → Config.coordOk k = true →
      becomes (.almWriteEcc h (.slice k) 1) s ((s.startEcc (.slice k)).reply h 0x0061 0 []) ∧ becomes (.almWriteEcc h (.slice k) 0) s (s.reply h 0x0061 0 [])) ∧
    (commandOk s h 0x0062 p →
      let n (d : Nat) : Nat := ((Config.dieCoords d).filter fun c => s.offered c).length
      let body := bytesOfNat 4 (n 0 + n 1 + n 2 + n 3) ++ bytesOfNat 4 (n 0) ++ bytesOfNat 4 (n 1) ++ bytesOfNat 4 (n 2) ++ bytesOfNat 4 (n 3)
      becomes (.health h none) s (s.reply h 0x0062 0 body) ∧
      (∀ d, h.form = 1 → 0 < d → becomes (.health h (some d)) s ((s.setReplan d).reply h 0x0062 0 body))) ∧
    (∀ l, commandOk s h 0x0070 p → h.form = 1 → linkOk l = true →
      ((s.link l).spareUsed = false → becomes (.spare h (.lane l)) s ((s.failLane l).reply h 0x0070 0 [])) ∧
      ((s.link l).spareUsed = true → becomes (.spare h (.lane l)) s (s.reply h 0x0070 4 []))) ∧
    (∀ k, commandOk s h 0x0071 p → h.form = 1 → Config.coordOk k = true →
      ((s.alm (.core k)).state = 2 → becomes (.retire h (.core k)) s (s.reply h 0x0071 8 [])) ∧
      ((s.alm (.core k)).state ≠ 2 → s.coreHalted k = false →
        becomes (.retire h (.core k)) s (({ s with retiring := s.retiring ++ [(Hdr.of h p, [k])] } : State).startRetire k 8))) ∧
    (∀ x c, onContext s h 0x0080 c → x.group = none → c.colls = [] → (∀ l ∈ s.launches, l.ctx ≠ c.id ∨ l.completed = true ∨ l.body.cgrp = 0) →
      becomes (.rankmap h x) s ((s.modCtx c.id fun y =>
        { y with rank := x.rank, ranks := x.endpoints, hasRanks := true,
                 lost := y.lost.filter fun r => (c.ranks.find? fun e => e.1 == r) == (x.endpoints.find? fun e => e.1 == r) }).reply h 0x0080 0 [])) ∧
    (∀ g c, onContext s h 0x0081 c →
      ((∀ x ∈ s.groupsOf c, x.1 ≠ g) → becomes (.tree h g none) s (s.reply h 0x0081 3 [])) ∧
      ((∃ x ∈ s.groupsOf c, x.1 = g) → becomes (.tree h g none) s
        (let es := (List.range 12).flatMap fun n => ((s.switch n).entries.filter fun e => e.cgrp == g).map fun e => (n, e)
         s.reply h 0x0081 0 (bytesOfNat 4 (s.homeOf g) ++ bytesOfNat 4 es.length ++ es.flatMap fun x => bytesOfNat 8 x.1 ++ bytesOfNat 8 (TreeEntry.word x.2))))) ∧
    (∀ die q, commandOk s h 0x0088 p → h.form = 1 → die < 4 → q.length = 4 → (∀ n ∈ q, n % 2048 = 0 ∧ 2048 ≤ n ∧ n ≤ 65536) →
      becomes (.engineQ h die q) s (((List.range 16).foldl (fun s e => s.modEngine (die * 16 + e) fun x => { x with quantum := q }) s).reply h 0x0088 0 []))


/-- R180, R286, R288, R322, R325, R326, R328, R329, R343, R346, R355: a row is spared while a repair row is left that no copy under way takes, else its
frames are retired; a line of team memory takes a spare line, else its core is retired. A retired quadrant takes its cores and slices with it;
the command is answered when they are out of service. A rank map may establish a group, whose members it must know and whose tree must fit; trees
whose members moved are built anew. The expert form writes a tree entry where there is room among 64. -/
def Claims.sparingRetirementAndGroups : Prop :=
  ∀ (s : State) (h : Hdr) (p : Nat),
    (∀ c l b row, commandOk s h 0x0070 p → h.form = 1 →
      let u : UnitId := .bank c l b
      let known := (u, row) ∈ s.rowCopies ∨ (u, row) ∈ s.flash.rows
      (unitOk u = false → becomes (.spare h (.row c l b row)) s (s.reply h 0x0070 3 [])) ∧
      (unitOk u = true → known → becomes (.spare h (.row c l b row)) s (s.reply h 0x0070 8 [])) ∧
      (unitOk u = true → ¬ known → (s.alm u).spare = 0 → becomes (.spare h (.row c l b row)) s (s.reply h 0x0070 4 [])) ∧
      (unitOk u = true → ¬ known → (s.alm u).spare ≠ 0 → becomes (.spare h (.row c l b row)) s ((s.spareRow u row).reply h 0x0070 0 []))) ∧
    (∀ u row,
      ((u, row) ∈ s.rowCopies → s.spareRow u row = s) ∧
      ((u, row) ∉ s.rowCopies → (s.rowCopies.filter fun x => x.1 = u).length < (s.alm u).spare →
        s.spareRow u row = ({ s with rowCopies := s.rowCopies ++ [(u, row)] } : State).after 1 (.repairRowCopyComplete u row)) ∧
      ((u, row) ∉ s.rowCopies → (s.alm u).spare ≤ (s.rowCopies.filter fun x => x.1 = u).length →
        s.spareRow u row = (Config.freeRowFrames (unitKey u) row).foldl (fun v f => v.retireFrame f) s)) ∧
    (∀ c line, commandOk s h 0x0070 p → h.form = 1 →
      let u : UnitId := .teamMem c
      (Config.coordOk c = false → becomes (.spare h (.line c line)) s (s.reply h 0x0070 3 [])) ∧
      (Config.coordOk c = true → (c, line) ∈ s.flash.tmLines → becomes (.spare h (.line c line)) s (s.reply h 0x0070 8 [])) ∧
      (Config.coordOk c = true → (c, line) ∉ s.flash.tmLines → (s.alm u).spare = 0 → becomes (.spare h (.line c line)) s (s.reply h 0x0070 4 [])) ∧
      (Config.coordOk c = true → (c, line) ∉ s.flash.tmLines → (s.alm u).spare ≠ 0 →
        becomes (.spare h (.line c line)) s ((({ s with flash := { s.flash with tmLines := s.flash.tmLines ++ [(c, line)] } } : State).setAlm u fun a =>
          { a with spare := a.spare - 1 }).reply h 0x0070 0 [])) ∧
      ((s.alm u).spare = 0 → s.spareTmLine c line = s.startRetire c 5)) ∧
    (∀ d q, commandOk s h 0x0071 p → h.form = 1 →
      let cs := (Config.dieCoords d).filter fun c => quadrantOf c = q
      let left := cs.filter fun c => (s.alm (.core c)).state ≠ 2
      let go (u : State) : State := u.retireQuadrant d q 8
      (4 ≤ d ∨ 4 ≤ q → becomes (.retire h (.quadrant d q)) s (s.reply h 0x0071 3 [])) ∧
      (d < 4 → q < 4 →
        ((s.alm (.quadrant d q)).state = 2 → becomes (.retire h (.quadrant d q)) s (s.reply h 0x0071 8 [])) ∧
        ((s.alm (.quadrant d q)).state ≠ 2 →
          ((∃ c ∈ left, s.coreHalted c = true) → becomes (.retire h (.quadrant d q)) s (s.reply h 0x0071 7 [])) ∧
          ((∀ c ∈ left, s.coreHalted c = false) →
            (left = [] → becomes (.retire h (.quadrant d q)) s ((go s).reply h 0x0071 0 [])) ∧
            (left ≠ [] → becomes (.retire h (.quadrant d q)) s (go { s with retiring := s.retiring ++ [(Hdr.of h p, left)] }))))) ∧
      ((s.alm (.quadrant d q)).state ≠ 2 → s.retireQuadrant d q 8 =
        cs.foldl (fun v c => (v.startRetire c 9).retireSlice c 9) (s.setAlm (.quadrant d q) fun a => { a with state := 2, cause := 8, day := s.day }))) ∧
    (∀ k cause,
      ((s.alm (.core k)).state = 2 → s.startRetire k cause = s) ∧
      ((s.alm (.core k)).state = 1 → s.startRetire k cause = (s.setAlm (.core k) fun a => { a with state := 2, cause := cause, day := s.day }).retireDone k) ∧
      ((s.alm (.core k)).state ≠ 1 → (s.alm (.core k)).state ≠ 2 →
        let u := s.modCore k fun c => { c with retireAfter := some (if cause = 4 then 4 else c.retireAfter.getD cause) }
        ((s.core k).draining = true ∨ (s.core k).testing = true → s.startRetire k cause = u) ∧
        ((s.core k).draining = false → (s.core k).testing = false → s.startRetire k cause = u.drain k))) ∧
    (∀ (x : RankBody) c g ms, onContext s h 0x0080 c → x.group = some (g, ms) →
      let map (y : Ctx) : Ctx := { y with rank := x.rank, ranks := x.endpoints, hasRanks := true }
      let known := ∀ r ∈ ms, r = x.rank ∨ ∃ e ∈ x.endpoints, e.1 = r
      let same (r : Nat) : Bool := (c.ranks.find? fun e => e.1 == r) == (x.endpoints.find? fun e => e.1 == r)
      let u := s.modCtx c.id fun y => { map y with lost := y.lost.filter same }
      let v := ((u.groupsOf c).filter fun z => z.2.any fun r => !same r).foldl (fun v z => v.buildTree c.id z.1 z.2) u
      (¬ known → becomes (.rankmap h x) s (s.reply h 0x0080 3 [])) ∧
      (known → s.treeFits (map c) g ms = false → becomes (.rankmap h x) s (s.reply h 0x0080 4 [])) ∧
      (known → s.treeFits (map c) g ms = true → becomes (.rankmap h x) s
        (((v.modCtx c.id fun y => { y with colls := (y.colls.filter fun (z : Nat × List Nat × Nat) => z.1 ≠ g) ++ [(g, ms, 0)] }).establish c.id g ms).reply h 0x0080 0 []))) ∧
    (∀ g sw e c, onContext s h 0x0081 c → (∃ x ∈ s.groupsOf c, x.1 = g) →
      let rest := (s.switch sw).entries.filter fun y => y.cgrp ≠ g
      (h.form = 0 ∨ 12 ≤ sw ∨ e.cgrp ≠ g → becomes (.tree h g (some (sw, e))) s (s.reply h 0x0081 1 [])) ∧
      (h.form ≠ 0 → sw < 12 → e.cgrp = g →
        (64 ≤ rest.length → becomes (.tree h g (some (sw, e))) s (s.reply h 0x0081 4 [])) ∧
        (rest.length < 64 → becomes (.tree h g (some (sw, e))) s ((s.modSwitch sw fun w => { w with entries := rest ++ [e] }).reply h 0x0081 0 []))))

/-- R180, R272, R286, R288, R315, R322, R325, R326, R328 to R330, R343, R346: the almanac, sparing, retirement, rank maps, groups, trees and quanta. Model's choices: log 25, 45, 47, 51, 83. -/
def Obligations.serviceCommands : Prop := Claims.almanacMapsAndTrees ∧ Claims.sparingRetirementAndGroups


/-- R222, R223, R344, R345: a debug session attaches, halts, resumes and steps groups, sets breakpoints, and reads a stopped group. Model's choices: log 25, 51, 62, 78. -/
def Obligations.debugCommands : Prop :=
  ∀ (s : State) (h : Hdr) (c : Ctx),
    (∀ freeze, onContext s h 0x0090 c → (freeze = true → h.form = 1) →
      let bps := match c.debug with
        | some d => d.bps
        | none => []
      becomes (.attach h freeze) s ((s.modCtx c.id fun y => { y with debug := some ⟨h.session, freeze, bps⟩ }).reply h 0x0090 0 [])) ∧
    (∀ d x off, onDebug s h 0x0091 c d → (off = true → h.form = 1) → s.named c.id x ≠ [] →
      becomes (.haltG h x off) s (((s.named c.id x).foldl (fun s g => s.haltOne off g) s).reply h 0x0091 0 [])) ∧
    (∀ d x, onDebug s h 0x0092 c d → s.named c.id x ≠ [] →
      becomes (.resume h x) s (((s.named c.id x).foldl (fun s g => s.resumeOne g) s).reply h 0x0092 0 [])) ∧
    (∀ d g gr, onDebug s h 0x0093 c d → s.named c.id (.group g) ≠ [] → s.group? g = some gr → gr.halted = true →
      becomes (.step h g) s (((s.resumeOne g).modGroup g fun y => { y with haltDue := 3 }).reply h 0x0093 0 [])) ∧
    (∀ d n a, onDebug s h 0x0094 c d → n < 8 →
      becomes (.breakSet h n (some a)) s ((s.modCtx c.id fun y => { y with debug := some { d with bps := (d.bps.filter fun b => b.1 ≠ n) ++ [(n, a)] } }).reply h 0x0094 0 []) ∧
      becomes (.breakSet h n none) s ((s.modCtx c.id fun y => { y with debug := some { d with bps := d.bps.filter fun b => b.1 ≠ n } }).reply h 0x0094 0 [])) ∧
    (∀ d g t gr, onDebug s h 0x0095 c d → s.team? g.team = some t → t.ctx = c.id → t.place ≠ .ended → s.group? g = some gr → gr.phase ≠ .exited →
      (gr.halted = true ∨ gr.phase = .evicted) →
      let locks := if t.place = .away then [] else s.lockRecords t.coord
      becomes (.stateRead h g) s (s.reply h 0x0095 0 (groupBytes t.kern.regs gr ++ bytesOfNat 4 locks.length ++ locks.flatMap (bytesOfNat 16))))


namespace Sys2Proof.Machine
/-- The lanes of Exec whose guard bit is set, and those of them in the present half (R29, R24). -/
def guarded (c : Cur) (gr : Group) (w : Full) : List Nat := (lanesOf c.exec).filter fun l => guardOf c gr w.grd.val l
def present (c : Cur) (gr : Group) (w : Full) : List Nat := halfLanes gr.width c.half (guarded c gr w)
/-- The lanes whose role is checked in this half: all of a once word's at its last half (R34, R107, R351). -/
def roleLanes (op : Op) (w : Full) (c : Cur) (gr : Group) : List Nat :=
  if issueKind op w = .once then (if gr.width = 64 ∧ c.half = 0 then [] else guarded c gr w) else present c gr w
/-- The lanes whose sources are checked in this half: a word that reads all of P reads it in each half (R94, R351). -/
def readersOf (op : Op) (w : Full) (c : Cur) (gr : Group) : List Nat :=
  if issueKind op w = .cross ∧ op ≠ .perm ∧ op ≠ .shfl ∧ op ≠ .bcast then guarded c gr w else roleLanes op w c gr
/-- What the word sees before its port entries: a per-lane word's first half is read through its latch (R351). -/
def viewOf (op : Op) (w : Full) (c : Cur) (t : Team) (gr : Group) : Iss :=
  { g := c.g, t := t, gr := gr, cur := if issueKind op w = .perLane then c else { c with latch := none }, op := op, w := w,
    lanes := guarded c gr w, half := present c gr w }
/-- The check of what its lanes read (R94), a lane that PERM, SHFL or BCAST selects supplying its A too (R150). -/
def sourcesOf (op : Op) (w : Full) (c : Cur) (t : Team) (gr : Group) : Except (List LaneThrow) Bool :=
  checkSources (viewOf op w c t gr).reads c.pc (readersOf op w c gr)
/-- Everything of the machine but its teams, cores, steering, tasks, messages and agenda. -/
def State.rest (s : State) : State :=
  { s with teams := [], cores := [], steers := [], tasks := [], outbox := [], heldMsgs := [], agenda := [], todo := [], cur := none }
/-- A team without its groups: its memory and buffers, their lines, records, barriers, stages, queues, reservations. -/
def Team.rest (t : Team) : Team := { t with groups := [] }
/-- A core without what issuing a word touches: the quarters' occupancy and the entries of its input queues. -/
def Core.rest (c : Core) : Core := { c with busyTo := [], qi := c.qi.map fun q => { q with entries := [] } }
/-- What a group holds but its registers' marks, its landings and its scheduling. -/
def Group.values (y : Group) : W64 × W64 × W64 × List TryEntry × Nat × Nat × Bool × Option (List Nat × Nat) :=
  (y.mode, y.live, y.launched, y.tries, y.role, y.width, y.spawned, y.caught)
/-- The machine around a word that only reads and lands registers. -/
structure Undisturbed (s t : State) : Prop where
  rest : t.rest = s.rest
  teams : t.teams.map Team.rest = s.teams.map Team.rest
  cores : ∀ c, (t.core c).rest = (s.core c).rest
  groups : ∀ g, (t.group? g).map Group.values = (s.group? g).map Group.values
  regs : ∀ g l n, (t.group? g).map (fun y => ((y.regs.getV l n).val, (y.regs.getS n).val, y.regs.getK n, y.regs.getM l n)) =
    (s.group? g).map fun y => ((y.regs.getV l n).val, (y.regs.getS n).val, y.regs.getK n, y.regs.getM l n)
/-- The words that only read registers and ports and land registers or port entries. -/
def registerWords : List Op :=
  scalarOps ++ [.scmp, .sget] ++ vectorIntOps ++ [.icmp, .sel, .mov, .movk, .idot4] ++ fpOps ++ fpPlainOps ++ [.fcmp, .cvt, .cbdec, .obdec] ++
  [.perm, .shfl, .bcast, .vote, .matchI, .scan, .lred, .elect] ++ [.mclr, .macc, .maccw, .mmerge, .mlane, .mget, .mput, .mnorm] ++ [.nop, .getmode]
/-- The destinations that a word's D, and C where it is one, name (R92, R132). -/
def inDest (w : Full) (x : LDst) : Prop :=
  match x with
  | .v _ n => ∃ r k, w.d = .v r ∧ k < 4 ∧ n = r.val + k
  | .s n => ∃ r, w.d = .s r ∧ n = r.val
  | .k n _ => ∃ r, (w.d = .k r ∨ w.c = .k r) ∧ n = r.val
  | .m _ n => ∃ r, w.d = .m r ∧ n = r.val
  | .qo q => ∃ r, w.d = .qo r ∧ q = r.val
end Sys2Proof.Machine
open Sys2Proof Sys2Proof.Machine

/-- R107, R34, R94: the checks in their order: a malformed word throws E_ILLEGAL by every lane of Exec whatever its guard, then the role,
then the sources, with a fault before a stall; the ready half of a word that acts once, or per lane, waits for its second (R351). -/
def Claims.failingWordsThrowInOrder : Prop :=
  ∀ op s w c t gr, s.cur = some c → s.team? c.g.team = some t → s.group? c.g = some gr →
    let shaped := runsOk op w t.kern.regs = true ∧ widthOk op w gr.width t.kern.regs = true
    (¬ shaped → exec (.ofFull op w) s = .next (s.issueThrows c gr t.coord (classX op) w.yld w.gap.toNat ((lanesOf c.exec).map fun l => ⟨l, 0x01, c.pc, rawValue c.raw⟩))) ∧
    (shaped → roleOk op gr.role = false → roleLanes op w c gr ≠ [] →
      exec (.ofFull op w) s = .next (s.issueThrows c gr t.coord (classX op) w.yld w.gap.toNat ((roleLanes op w c gr).map fun l => ⟨l, 0x04, c.pc, BitVec.ofNat 64 op.code⟩))) ∧
    (shaped → (roleOk op gr.role = true ∨ roleLanes op w c gr = []) → (∀ l, sourcesOf op w c t gr = .error l → exec (.ofFull op w) s =
        .next ((s.loseRegs c.g t.ctx ((viewOf op w c t gr).spoiled l)).issueThrows c gr t.coord (classX op) w.yld w.gap.toNat l)) ∧
      (sourcesOf op w c t gr = .ok true → exec (.ofFull op w) s = .next (s.issueStalls c t.coord gr.quarter))) ∧
    (∀ i core, AtIssue s op w c i core → onlyWaits op w c i → exec (.ofFull op w) s = .next (s.halfDone c t.coord gr.quarter gr.regs []))


/-- R107, R91: a word with no failing check is at its issue: its view has the guarded lanes, and each lane of the present half its own
entries of the input ports in ascending lane order. -/
def Claims.soundWordsAreAtTheirIssue : Prop :=
  ∀ op s w c t gr, s.cur = some c → s.team? c.g.team = some t → s.group? c.g = some gr → runsOk op w t.kern.regs = true →
    widthOk op w gr.width t.kern.regs = true → (roleOk op gr.role = true ∨ roleLanes op w c gr = []) → sourcesOf op w c t gr = .ok false → qoRoom s t.coord w.d (present c gr w).length = true →
    ((∀ q, w.a ≠ .qi q ∧ w.b ≠ .qi q ∧ w.c ≠ .qi q) →
      ∃ i, AtIssue s op w c i (s.core t.coord) ∧ i.t = t ∧ i.gr = gr ∧ i.lanes = guarded c gr w ∧ i.half = present c gr w ∧ i.pops = []) ∧
    (∀ q, w.a = .qi q → (∀ r, w.b ≠ .qi r ∧ w.c ≠ .qi r) → ∀ y, (s.core t.coord).qi[q.val]? = some y → (present c gr w).length ≤ y.entries.length →
      ∃ i core, AtIssue s op w c i core ∧ i.lanes = guarded c gr w ∧ i.half = present c gr w ∧
        (∀ j (h : j < (present c gr w).length), i.rd (present c gr w)[j] w.a false = (y.entries.getD j 0).setWidth 64) ∧
        (core.qi[q.val]?).map (fun z => z.entries) = some (y.entries.drop (present c gr w).length))


/-- R107, R34, R91, R94, R351: the checks of an issuing word come in their order, and a word that passes them is at its issue. Model's choices: log 12, 13, 64, 65, 66. -/
def Obligations.checksComeInOrder : Prop := Claims.failingWordsThrowInOrder ∧ Claims.soundWordsAreAtTheirIssue


/-- R94: of a lane's checked registers the first void one throws E_VOID, else the first empty one whose operand does not wait E_EMPTY, else the
first with a failed check E_ECC, else the word stalls for an empty one; the value is the field. Model's choices: log 13. -/
def Obligations.sourcesFailInOrder : Prop :=
  ∀ (l : List (Nat × Bool × SrcSt)),
    ((∀ x ∈ l, x.2.2 = .ok) → srcOutcome l = .fine) ∧
    (∀ pre x post, l = pre ++ x :: post → x.2.2 = .void → (∀ y ∈ pre, y.2.2 ≠ .void) → srcOutcome l = .fail 0x03 x.1) ∧
    (∀ pre x post, l = pre ++ x :: post → x.2.2 = .empty → x.2.1 = false → (∀ y ∈ l, y.2.2 ≠ .void) → (∀ y ∈ pre, ¬ (y.2.2 = .empty ∧ y.2.1 = false)) →
      srcOutcome l = .fail 0x02 x.1) ∧
    (∀ pre x post, l = pre ++ x :: post → x.2.2 = .bad → (∀ y ∈ l, y.2.2 ≠ .void ∧ ¬ (y.2.2 = .empty ∧ y.2.1 = false)) → (∀ y ∈ pre, y.2.2 ≠ .bad) →
      srcOutcome l = .fail 0x0D x.1) ∧
    ((∀ y ∈ l, y.2.2 = .ok ∨ (y.2.2 = .empty ∧ y.2.1 = true)) → (∃ y ∈ l, y.2.2 = .empty) → srcOutcome l = .stall)


/-- THE FRAME OF A REGISTER WORD: whatever it does (land, throw, stall, wait for its second half), no register has another value yet, and
memory, other groups, special and exception registers and the rest of the machine are as before; what is to land, or is held for its
second half, are the word's destinations and what its first half holds (R107). -/
def Obligations.registerWordsDisturbNothing : Prop :=
  ∀ op ∈ registerWords, ∀ s w c t, s.cur = some c → s.team? c.g.team ≠ none → s.group? c.g ≠ none → exec (.ofFull op w) s = .next t →
    Undisturbed s t ∧
    (∀ g, g ≠ c.g → (t.group? g).map (fun y => y.land) = (s.group? g).map fun y => y.land) ∧
    (∀ y y', s.group? c.g = some y → t.group? c.g = some y' →
      let held := (y.second.map fun z => z.held).getD []
      (∃ l, y'.land = y.land ++ l ∧ ∀ x ∈ l, inDest w x.dst ∨ x ∈ held) ∧ (∀ z, y'.second = some z → y.second = some z ∨ ∀ x ∈ z.held, inDest w x.dst))


namespace Sys2Proof.Machine
/-- Memory outside the bytes of these entries reads as before. -/
def performedOnly (s t : State) (l : List PathEntry) : Prop :=
  (∀ a, (∀ e ∈ l, ¬ (e.space = 0 ∧ e.pa ≤ a ∧ a < e.pa + e.size)) → t.dram.read1 a = s.dram.read1 a) ∧
  (∀ x ∈ s.teams, ∃ y ∈ t.teams, y.id = x.id ∧ ∀ sp ∈ [1, 2, 3, 4], ∀ a,
    (∀ e ∈ l, ¬ (e.space ≠ 0 ∧ x.id = e.byw.g.team ∧ sp = (if e.space = 1 ∨ e.space = 2 ∨ e.space = 3 then e.space else 4) ∧ e.addr ≤ a ∧ a < e.addr + e.size)) →
    (y.buf sp).mem.read1 a = (x.buf sp).mem.read1 a)
end Sys2Proof.Machine
open Sys2Proof Sys2Proof.Machine

/-- THE FRAME OF A STORE: the issue of ST, STREL, ATOM or RED changes no register's value, no mode, record or byte of global memory; of a
team's memory and buffers ST and STREL change the own team's bytes in their space that the lanes' accesses name, and no other byte. When
entries of the store path are performed, every byte of memory outside their bytes reads as before; a task that meets an uncorrectable error
there is rolled back instead (R283). Model's choices: log 16. -/
def Obligations.storesWriteTheirBytesOnly : Prop :=
  (∀ op ∈ [Op.st, .strel, .atom, .red], ∀ s w c i core t, AtIssue s op w c i core → w.wf op = true → exec (.ofFull op w) s = .next t →
    let f := memForm op i
    t.dram = s.dram ∧ t.teams.map (fun x => x.recs) = s.teams.map (fun x => x.recs) ∧
    (∀ g, (t.group? g).map Group.values = (s.group? g).map Group.values) ∧
    (∀ g l n, (t.group? g).map (fun y => ((y.regs.getV l n).val, (y.regs.getS n).val, y.regs.getK n, y.regs.getM l n)) =
      (s.group? g).map fun y => ((y.regs.getV l n).val, (y.regs.getS n).val, y.regs.getK n, y.regs.getM l n)) ∧
    (∀ x ∈ s.teams, ∃ y ∈ t.teams, y.id = x.id ∧ ∀ sp ∈ [1, 2, 3, 4], ∀ a,
      ¬ ((op = .st ∨ op = .strel) ∧ sp ≠ 4 ∧ sp = f.space ∧ x.id = i.t.id ∧ ∃ b ∈ f.accs, b.addr ≤ a ∧ a < b.addr + b.size) →
      (y.buf sp).mem.read1 a = (x.buf sp).mem.read1 a)) ∧
  (∀ s id t e, s.entry? id = some e → e.kind = .st ∨ e.kind = .atom ∨ e.kind = .red ∨ e.kind = .stat →
    (∀ x ∈ e :: s.mates e, (s.ownerRead x).2 = false ∨ ∀ m, s.team? x.byw.g.team = some m → m.task = none) →
    (exec (.storeAck id) s = .next t ∨ exec (.storePathRelease id) s = .next t → performedOnly s t [e]) ∧
    (exec (.atomAtOwner id) s = .next t → performedOnly s t (e :: s.mates e)))


/-- R55, R91, R93, R95, R96: what a landing writes is what the register reads then, full; k0 reads true and ignores writes; no other register
changes. A landing in an output queue changes no register: when it is due its entry is pushed at the end of its core's queue, and nowhere else. Model's choices: log 108. -/
def Obligations.landingsWriteTheirRegister : Prop :=
  ∀ (r : Regs) (x : Landing),
    (∀ l n, x.dst = .v l n → spWf ({} : VReg) r.v = true → l < 64 → n < 256 → (r.land x).getV l n = ⟨x.val.setWidth 32, ⟨true, false⟩⟩ ∧
      (∀ a b, a < 64 → b < 256 → (a, b) ≠ (l, n) → (r.land x).getV a b = r.getV a b) ∧ (r.land x).s = r.s ∧ (r.land x).k = r.k ∧ (r.land x).m = r.m) ∧
    (∀ n, x.dst = .s n → spWf ({} : SReg) r.s = true → (r.land x).getS n = ⟨x.val, ⟨true, false⟩⟩ ∧ (∀ a, a ≠ n → (r.land x).getS a = r.getS a) ∧
      (r.land x).v = r.v ∧ (r.land x).k = r.k ∧ (r.land x).m = r.m) ∧
    (∀ n m, x.dst = .k n m → spWf (0 : W64) r.k = true → (r.land x).getK 0 = BitVec.allOnes 64 ∧
      (n ≠ 0 → (r.land x).getK n = (r.getK n &&& ~~~m) ||| (x.val &&& m)) ∧ (∀ a, a ≠ n → (r.land x).getK a = r.getK a) ∧
      (r.land x).v = r.v ∧ (r.land x).s = r.s ∧ (r.land x).m = r.m) ∧
    (∀ l n, x.dst = .m l n → spWf emptyTriple r.m = true → l < 64 → n < 8 → (r.land x).getM l n = x.tri ∧
      (∀ a b, a < 64 → b < 8 → (a, b) ≠ (l, n) → (r.land x).getM a b = r.getM a b) ∧ (r.land x).v = r.v ∧ (r.land x).s = r.s ∧ (r.land x).k = r.k) ∧
    (∀ q, x.dst = .qo q → r.land x = r ∧ ∀ (s : State) (t : Team), t.place ≠ .away →
      ((t.groups.flatMap fun g => dueLandings s.clock g.land) = [x] → s.pushDue t = s.pushQo t q (x.val.setWidth 32)) ∧
      ∀ w, (s.pushQo t q w).teams = s.teams ∧ (∀ c, c ≠ t.coord → (s.pushQo t q w).core c = s.core c) ∧
        (∀ y, (s.core t.coord).qo[q]? = some y → ((s.pushQo t q w).core t.coord).qo[q]? = some { y with entries := y.entries ++ [w] }) ∧
        (∀ p, p ≠ q → ((s.pushQo t q w).core t.coord).qo[p]? = (s.core t.coord).qo[p]?) ∧ ((s.pushQo t q w).core t.coord).qi = (s.core t.coord).qi)


/-- R5, R28, R83, R85, R107, R241, R242: A STEP RUNS THE DECODED INSTRUCTION: the parcels at the group's IssuePC, read little-endian through the TLB, decode
to it, and step is its exec, its pages touched; what is no instruction throws E_ILLEGAL. Model's choices: log 9, 10, 65. -/
def Obligations.stepRunsTheDecodedInstruction : Prop :=
  ∀ (s : State) (c : Cur) (t : Team) (gr : Group), s.power = true → s.cur = some c → s.team? c.g.team = some t → s.group? c.g = some gr →
    (∀ raw i n, c.fetched = false → s.fetchAt t c.pc = .word raw → decodeBytes (parcelBytes raw) = .ok (i, n) →
      step s = exec i { s.touchCode t c.pc raw.length with cur := some { c with len := n, raw := raw, fetched := true } }) ∧
    (∀ raw e, c.fetched = false → s.fetchAt t c.pc = .word raw → decodeBytes (parcelBytes raw) = .error e →
      step s = .next (s.issueThrows { c with raw := raw } gr t.coord false false 0 ((lanesOf c.exec).map fun l => ⟨l, 0x01, c.pc, rawValue raw⟩))) ∧
    (∀ i x, c.pc + 4 * i < s.codeSize t → s.tlb? t (s.codeBase t + c.pc + 4 * i) false = some x → pteCode x.leaf = true →
      s.dram.poisoned x.pa 4 = false →
      s.parcel t c.pc i = .word [((s.dram.read1 (x.pa + 3) ++ s.dram.read1 (x.pa + 2)) ++ (s.dram.read1 (x.pa + 1) ++ s.dram.read1 x.pa) : BitVec 32)])


/-- R36, R39, R95, R228, R244, R350, R356: without a word at issue, a due event comes before a quarter's choice among groups that are Ready or
Stalled as their next word goes, that before an input, that before a WAITGE's deadline, that before an answer to a service call, its time-out
before the host's, that before an eviction that is due, that before the next cc, in which what is due has landed: so of a throw and an answer in one
cc the throw comes first. Without power only POWER_ON acts. Model's choices: log 5, 7, 52, 57, 85. -/
def Obligations.stepsComeInOrder : Prop :=
  ∀ (s : State),
    (∀ i, isAnswer i = true ↔ (∃ h q v st, i = .reply h q v st) ∨ ∃ c q, i = .serviceTimeout c q) ∧
    (s.power = true → s.cur = none →
      (∀ x, dueEntry s.clock (s.agenda.filter fun y => !isAnswer y.2) = some x → step s = exec x.2 { s with agenda := s.agenda.erase x } ∧ x ∈ s.agenda ∧
        x.1 ≤ s.clock ∧ isAnswer x.2 = false ∧ ∀ y ∈ s.agenda, isAnswer y.2 = false → x.1 ≤ y.1) ∧
      ((∀ x ∈ s.agenda, isAnswer x.2 = false → s.clock < x.1) →
        (∀ p rest, s.todo = p :: rest → step s = exec (.issueSelect p.1 p.2 (Config.freeBit s.free)) { s.restall p.1 p.2 with todo := rest }) ∧
        (s.todo = [] →
          (∀ pre i post, s.inbox = pre ++ i :: post → (∀ y ∈ pre, isAnswer y = true) → isAnswer i = false → step s = exec i { s with inbox := pre ++ post }) ∧
          ((∀ i ∈ s.inbox, isAnswer i = true) →
            (∀ g, s.deadlineDue = some g → step s = exec (.waitgeTimeout g) s) ∧
            (s.deadlineDue = none →
              (∀ x, dueEntry s.clock s.agenda = some x → step s = exec x.2 { s with agenda := s.agenda.erase x } ∧ x ∈ s.agenda ∧ x.1 ≤ s.clock) ∧
              ((∀ x ∈ s.agenda, s.clock < x.1) →
                (∀ i rest, s.inbox = i :: rest → step s = exec i { s with inbox := rest }) ∧
                (s.inbox = [] → (∀ g, s.evictDue = some g → step s = exec (.groupEvict g) s) ∧
                  (s.evictDue = none → ∃ t, step s = .next t ∧ t.clock = s.clock + 1 ∧ t.todo = s.quarters ∧ t.dram = s.dram ∧ t.agenda = s.agenda ∧
                    ∀ g, t.group? g = (s.group? g).map (Group.settle (s.clock + 1)))))))))) ∧
    (s.power = false → (∀ l rest, s.inbox = .powerOn l :: rest → step s = exec (.powerOn l) { s with inbox := rest }) ∧
      (∀ i rest, s.inbox = i :: rest → (∀ l, i ≠ .powerOn l) → step s = .next { s with inbox := rest }))


/-- A step from a state whose agenda and inputs hold only events and commands answers a next state: never a fault, never a refusal. Model's choices: log 5, 58. -/
def Obligations.everyStepGoesOn : Prop := ∀ s : State, s.eventsOnly → s.goesOn


/-- Memory stays in its one form under every step. Model's choices: log 22. -/
def Obligations.memoryStaysCanonical : Prop := ∀ s t : State, s.memWf → step s = .next t → t.memWf


/-- Right after reset memory is canonical and every byte of it reads 0, no team runs, the sources of steps hold only events, and the next
step goes on (R350). Model's choices: log 1, 5, 22. -/
def Obligations.resetIsQuiet : Prop :=
  State.reset.memWf ∧ State.reset.eventsOnly ∧ State.reset.goesOn ∧ (∀ a, State.reset.dram.read1 a = 0) ∧ State.reset.teams = [] ∧ State.reset.contexts = [] ∧
  State.reset.sessions = [] ∧ State.reset.cur = none ∧ State.reset.power = true ∧ State.reset.leader = 0 ∧
  (∀ c, (State.reset.core c).l1 = [] ∧ (State.reset.core c).tlb = []) ∧ (∀ r : Regs, r = {} → (∀ l n, r.getV l n = ⟨0, ⟨true, false⟩⟩) ∧ ∀ n, r.getS n = ⟨0, ⟨true, false⟩⟩)


/-- Every well-formed instruction word decodes to itself, at its own length (R83 to R86, R97 to R99). -/
def Obligations.decodingReadsWhatIsEncoded : Prop :=
  ∀ i b rest, i.wf = true → encode i = some b → decodeBytes (b ++ rest) = .ok (i, b.length)


/-- What decodes is well formed, and encodes to the bytes it was read from: no word means two instructions, none has two encodings. -/
def Obligations.encodingsAreUnique : Prop :=
  ∀ l i n, decodeBytes l = .ok (i, n) → i.wf = true ∧ n ≤ l.length ∧ encode i = some (l.take n)


namespace Sys2Proof.Machine
/-- Words of every family, by their parcels, with what R84 to R88, R97 to R99 and R103 say they are. -/
def writtenWords : List (List W32 × Instr) :=
  [([0x14058001, 0x00C01038], .sadd ⟨0, .i64, .s 1, .s 2, .s 3, .v 0, true, true, false, 0, false, 0, none⟩),
   ([0xFC118013, 0x0080106B, 0x80000001], .sand ⟨0, .i64, .s 4, .lit, .s 6, .v 0, false, true, false, 0, false, 0, some 0x80000001⟩),
   ([0x401C8091, 0x01C14090], .imad ⟨0, .i16, .v 7, .v 8, .v 9, .v 10, true, true, true, 0, false, 0, none⟩),
   ([0xF87A014F, 0x014437F0, 0x3F800000], .ffma ⟨0, .f32, .v 30, .v 31, .lit, .v 33, true, false, true, 0, false, 0, some 0x3F800000⟩),
   ([0x78B925E1, 0x00787C11], .cvt ⟨9, .i8, .v 46, .v 47, .imm 1, .imm 3, true, false, false, 0, false, 0, none⟩),
   ([0xE8F00A05, 0x00781C11], .shfl ⟨2, .i32, .v 60, .v 61, .imm 1, .imm 0, true, false, false, 0, false, 0, none⟩),
   ([0x41161255, 0x00001FFA], .mget ⟨4, .f32, .v 69, .m 0, .imm 63, .v 0, false, false, false, 0, false, 0, none⟩),
   ([0xE1322261, 0x00F60508], .ld ⟨8, .f32, .v 76, .s 28, .v 80, .imm (-16), true, true, false, 0, false, 0, none⟩),
   ([0xF8000303, 0x0000000B, 0xFFFFFFFE], .bra ⟨0, .i32, .v 0, .lit, .v 0, .v 0, false, false, false, 0, false, 0, some 0xFFFFFFFE⟩),
   ([0x18003725, 0x01E4B249], .waitge ⟨13, .i32, .v 0, .s 35, .s 36, .s 37, true, true, true, 0, false, 0, none⟩),
   ([0x3F002781, 0x01E53289], .cpy ⟨9, .i32, .imm 0, .s 39, .s 40, .s 41, true, true, true, 0, false, 0, none⟩),
   ([0x01A41B95, 0x00282000], .qpop ⟨6, .i32, .v 105, .v 0, .v 0, .k 1, false, false, false, 0, false, 0, none⟩),
   ([0xB4D6ABD9, 0x01E71379], .mdrain ⟨10, .f16, .s 53, .s 54, .s 55, .s 56, true, true, true, 0, false, 0, none⟩),
   ([0x800A0928], .iaddImmS32 9 10 0x80),
   ([0xFFFFFE38], .braS32 0xFFFFFE),
   ([0xB2080406, 0x02048292], .iaddPair ⟨⟨4, 8, false, 1⟩, 3, true, .fmul, ⟨5, 9, false, 2⟩⟩)]
end Sys2Proof.Machine
open Sys2Proof Sys2Proof.Machine

/-- R84 to R88, R97 to R99, R103: words of every family decode to the instruction they stand for, at their length. -/
def Obligations.writtenWordsDecode : Prop :=
  ∀ x ∈ writtenWords, decodeBytes (parcelBytes x.1) = .ok (x.2, 4 * x.1.length)
end

