-- ==== Sys2Proof/Laws/Frames.lean ====
section
/-! SUPPORT. Firmware finds frames while any are left (R338, R281), wherever it starts looking. -/
namespace Sys2Proof.Machine

/-- An aligned run of n frames is found on a die while fewer frames are busy than it has runs: each busy frame lies in one run. -/
theorem State.takeRun_some (s : State) (die n : Nat) (hn : 0 < n) (h : (s.framesUsed ++ s.framesBad).length < Config.framesPerDie / n) :
    ∃ b, die * Config.framesPerDie ≤ b ∧ s.takeRun die n =
      some (b, { s with framesUsed := (List.range n).map (fun j => b + j) ++ s.framesUsed, dram := s.dram.clear (b * 4096) (n * 4096), free := s.free + 1 }) := by
  unfold State.takeRun
  generalize Config.framesPerDie = F at h ⊢
  dsimp only
  generalize hk : F / n = k at h ⊢
  generalize hb : s.framesUsed ++ s.framesBad = busy at h ⊢
  split
  · rename_i hf
    exfalso
    rw [List.find?_eq_none] at hf
    simp only [List.mem_range, Bool.not_eq_true', List.any_eq_false, not_forall, Bool.and_eq_true, decide_eq_true_eq] at hf
    rw [show min k (busy.length + 1) = busy.length + 1 by omega] at hf
    have key : ∀ i ∈ Finset.range (busy.length + 1), (Config.freeFrame s.free + i) % k ∈ (busy.map fun f => (f - die * F) / n).toFinset := by
      intro i hi
      obtain ⟨f, hm, h2⟩ := hf i (Finset.mem_range.mp hi)
      obtain ⟨h2, h3⟩ := not_not.mp h2
      refine List.mem_toFinset.mpr (List.mem_map.mpr ⟨f, hm, ?_⟩)
      generalize (Config.freeFrame s.free + i) % k = r at h2 h3 ⊢
      refine (Nat.div_eq_iff hn).mpr ?_
      have : r * n = n * r := Nat.mul_comm ..
      omega
    have hc : (busy.map fun f => (f - die * F) / n).toFinset.card < (Finset.range (busy.length + 1)).card := by
      rw [Finset.card_range]
      exact Nat.lt_succ_of_le (le_trans (List.toFinset_card_le _) (by rw [List.length_map]))
    obtain ⟨a, ha, b, hb', hab, he⟩ := Finset.exists_ne_map_eq_of_card_lt_of_maps_to hc key
    rw [Finset.mem_range] at ha hb'
    have : a % k = b % k := Nat.ModEq.add_left_cancel' _ he
    rw [Nat.mod_eq_of_lt (by omega), Nat.mod_eq_of_lt (by omega)] at this
    exact hab this
  · exact ⟨_, Nat.le_add_right .., rfl⟩
/-- None is found when every frame is in use. -/
theorem State.takeRun_none (s : State) (die n : Nat) (hd : die < 4) (hn : 0 < n) (hn' : n ≤ Config.framesPerDie)
    (h : ∀ f, f < 4 * Config.framesPerDie → f ∈ s.framesUsed) : s.takeRun die n = none := by
  unfold State.takeRun
  generalize Config.framesPerDie = F at h hn' ⊢
  dsimp only
  split
  · rfl
  · rename_i i hi
    exfalso
    have hi' := List.find?_some hi
    have hk : 0 < F / n := Nat.div_pos hn' hn
    have hr := Nat.mod_lt (Config.freeFrame s.free + i) hk
    generalize (Config.freeFrame s.free + i) % (F / n) = r at hi' hr
    have h1 : n * (r + 1) ≤ F := le_trans (Nat.mul_le_mul_left n hr) (Nat.mul_div_le F n)
    have h2 : die * F + F ≤ 4 * F := by nlinarith
    have h3 : n * (r + 1) = n * r + n := by ring
    rw [Bool.not_eq_true', List.any_eq_false] at hi'
    refine hi' (die * F + n * r) (List.mem_append_left _ (h _ (by omega))) ?_
    simp only [Bool.and_eq_true, decide_eq_true_eq]
    omega
theorem State.takeAny_none (s : State) (die n : Nat) (hn : 0 < n) (hn' : n ≤ Config.framesPerDie)
    (h : ∀ f, f < 4 * Config.framesPerDie → f ∈ s.framesUsed) : s.takeAny die n = none := by
  unfold State.takeAny
  rw [List.findSome?_eq_none_iff]
  exact fun j _ => s.takeRun_none _ n (Nat.mod_lt _ (by omega)) hn hn' h
/-- A page is found on a die while fewer frames are busy than it has. -/
theorem State.takeRun_one (s : State) (die : Nat) (h : (s.framesUsed ++ s.framesBad).length < Config.framesPerDie) :
    ∃ b u, s.takeRun die 1 = some (b, u) ∧ u.framesUsed = b :: s.framesUsed ∧ u.framesBad = s.framesBad := by
  obtain ⟨b, -, h⟩ := s.takeRun_some die 1 Nat.one_pos (by rwa [Nat.div_one])
  exact ⟨b, _, h, rfl, rfl⟩
theorem State.takeAny_one (s : State) (die : Nat) (h : (s.framesUsed ++ s.framesBad).length < Config.framesPerDie) :
    ∃ b u, s.takeAny die 1 = some (b, u) ∧ u.framesUsed = b :: s.framesUsed ∧ u.framesBad = s.framesBad := by
  obtain ⟨b, u, h1, h2⟩ := s.takeRun_one ((die + 0) % 4) h
  refine ⟨b, u, ?_, h2⟩
  unfold State.takeAny
  rw [show List.range 4 = [0, 1, 2, 3] from rfl, List.findSome?_cons, h1]
/-- n pages are found while that many are left on each die. -/
theorem State.takeFrames_some (n : Nat) (s : State) (die : Nat) (h : (s.framesUsed ++ s.framesBad).length + n ≤ Config.framesPerDie) :
    ∃ l u, State.takeFrames n s die = some (l, u) ∧ l.length = n ∧ u.framesUsed.length = s.framesUsed.length + n ∧ u.framesBad = s.framesBad := by
  induction n generalizing s with
  | zero => exact ⟨[], s, rfl, rfl, rfl, rfl⟩
  | succ n ih =>
    obtain ⟨b, u, h1, h2, h3⟩ := s.takeAny_one die (by omega)
    obtain ⟨l, v, h4, h5, h6, h7⟩ := ih u (by rw [h2, h3]; simp only [List.length_append, List.length_cons] at h ⊢; omega)
    refine ⟨b :: l, v, ?_, by rw [List.length_cons, h5], by rw [h6, h2, List.length_cons]; omega, by rw [h7, h3]⟩
    unfold State.takeFrames
    simp only [h1, h4, Option.map_some]
/-- So are the frames of tiles to rename (R281). -/
theorem State.renameTiles_some (l : List Nat) (s : State) (die : Nat) (h : (s.framesUsed ++ s.framesBad).length + 16 * l.length ≤ Config.framesPerDie) :
    ∃ st u, State.renameTiles l s die = some (st, u) ∧ st.length = l.length := by
  induction l generalizing s with
  | nil => exact ⟨[], s, rfl, rfl⟩
  | cons t l ih =>
    simp only [List.length_append, List.length_cons] at h
    obtain ⟨fs, u, h1, -, h2, h3⟩ := State.takeFrames_some 16 s die (by simp only [List.length_append]; omega)
    obtain ⟨st, v, h4, h5⟩ := ih u (by simp only [List.length_append]; rw [h2, h3]; omega)
    refine ⟨(t, fs) :: st, v, ?_, by rw [List.length_cons, List.length_cons, h5]⟩
    unfold State.renameTiles
    simp only [h1, h4, Option.map_some]
end Sys2Proof.Machine
end

