-- ==== Sys2Proof/Laws/Issue.lean ====
section
/-! SUPPORT. What issuing a word can do, once for every word: a meaning that answers a state, throws, a stall or a hold. -/
namespace Sys2Proof.Machine

/-- What the view of a word that passes its checks holds. -/
theorem preIssue_view {s : State} {c : Cur} {t : Team} {gr : Group} {op : Op} {w : Full} {k : IKind} {i : Iss} {core : Core}
    (h : preIssue s c t gr op w k = .go i core) :
    i.g = c.g ∧ i.t = t ∧ i.gr = gr ∧ i.op = op ∧ i.w = w ∧
    i.cur = (if k = .perLane then c else { c with latch := none }) ∧
    i.lanes = (lanesOf c.exec).filter (fun l => guardOf c gr w.grd.val l) ∧
    i.half = halfLanes gr.width c.half ((lanesOf c.exec).filter fun l => guardOf c gr w.grd.val l) := by
  unfold preIssue at h
  dsimp only at h
  repeat' split at h
  all_goals first
    | (cases h; exact ⟨rfl, rfl, rfl, rfl, rfl, by simp_all, rfl, rfl⟩)
    | exact absurd h (by simp)

section
variable {s : State} {op : Op} {w : Full} {c : Cur} {i : Iss} {core : Core}

theorem AtIssue.g (h : AtIssue s op w c i core) : i.g = c.g := (preIssue_view h.checks).1
theorem AtIssue.op_eq (h : AtIssue s op w c i core) : i.op = op := (preIssue_view h.checks).2.2.2.1
theorem AtIssue.w_eq (h : AtIssue s op w c i core) : i.w = w := (preIssue_view h.checks).2.2.2.2.1
theorem AtIssue.lanes (h : AtIssue s op w c i core) : i.lanes = (lanesOf c.exec).filter (fun l => guardOf c i.gr w.grd.val l) :=
  (preIssue_view h.checks).2.2.2.2.2.2.1

/-- Only per-lane words read through a latch: every other view reads the registers as they stand (R351). -/
theorem AtIssue.now (h : AtIssue s op w c i core) (hk : issueKind op w ≠ .perLane) : i.now = i := by
  have hc := (preIssue_view h.checks).2.2.2.2.2.1
  rw [if_neg hk] at hc
  cases i
  simp only at hc
  subst hc
  rfl

/-- A word's meaning answers a state. -/
theorem issueFull_ok {body : Iss → State → Body} {s3 : State} (h : AtIssue s op w c i core) (hw : ¬ onlyWaits op w c i)
    (hb : body i (s.entered c i core) = .ok s3) : issueFull op w (issueKind op w) body c s = s3.left op w c i := by
  unfold issueFull
  rw [h.team, h.group]
  simp only [h.checks]
  unfold onlyWaits firstHalf at hw
  rw [if_neg hw]
  unfold State.entered at hb
  dsimp only at hb
  rw [hb]
  rfl
/-- A word's meaning throws: the word has issued without effect. -/
theorem issueFull_throws {body : Iss → State → Body} {l : List LaneThrow} (h : AtIssue s op w c i core) (hw : ¬ onlyWaits op w c i)
    (hb : body i (s.entered c i core) = .throws l) :
    issueFull op w (issueKind op w) body c s = s.issueThrows c i.gr i.t.coord (classX op) w.yld w.gap.toNat l := by
  unfold issueFull
  rw [h.team, h.group]
  simp only [h.checks]
  unfold onlyWaits firstHalf at hw
  rw [if_neg hw]
  unfold State.entered at hb
  dsimp only at hb
  rw [hb]
/-- The first half of a word that acts once, or per lane, waits for the second (R351). -/
theorem issueFull_half {body : Iss → State → Body} (h : AtIssue s op w c i core) (hw : onlyWaits op w c i) :
    issueFull op w (issueKind op w) body c s = s.halfDone c i.t.coord i.gr.quarter i.gr.regs [] := by
  unfold issueFull
  rw [h.team, h.group]
  simp only [h.checks]
  unfold onlyWaits firstHalf at hw
  rw [if_pos hw]
/-- A word whose checks throw. -/
theorem issueFull_checked {body : Iss → State → Body} {t : Team} {gr : Group} {k : IKind} {l : List LaneThrow} {lost : List Nat} (ht : s.team? c.g.team = some t)
    (hg : s.group? c.g = some gr) (hp : preIssue s c t gr op w k = .throws l lost) :
    issueFull op w k body c s = (s.loseRegs c.g t.ctx lost).issueThrows c gr t.coord (classX op) w.yld w.gap.toNat l := by
  unfold issueFull
  rw [ht, hg]
  simp only [hp]
/-- A word whose checks stall. -/
theorem issueFull_stall {body : Iss → State → Body} {t : Team} {gr : Group} {k : IKind} (ht : s.team? c.g.team = some t)
    (hg : s.group? c.g = some gr) (hp : preIssue s c t gr op w k = .stall) :
    issueFull op w k body c s = s.issueStalls c t.coord gr.quarter := by
  unfold issueFull
  rw [ht, hg]
  simp only [hp]
/-- A full word is executed for the word now issuing. -/
theorem execFull_next {k : IKind} {body : Iss → State → Body} (hc : s.cur = some c) :
    execFull op k body w s = .next (issueFull op w k body c s) := by
  unfold execFull onIssue
  rw [hc]
/-- The next state of a word whose meaning answers a state. -/
theorem execFull_ok {body : Iss → State → Body} {f : State → State} (h : AtIssue s op w c i core) (hw : ¬ onlyWaits op w c i)
    (hb : body i (s.entered c i core) = .ok (f (s.entered c i core))) :
    execFull op (issueKind op w) body w s = .next (issuedWith s op w c i core f) := by
  rw [execFull_next h.cur, issueFull_ok h hw hb]
  rfl
end

end Sys2Proof.Machine
end

