-- ==== Sys2Proof/Laws/MemWord.lean ====
section
/-! SUPPORT. What a memory word that passed its checks does (R161): on team memory or a buffer, and through the TLB. -/
namespace Sys2Proof.Machine

/-- The acts that read what is in memory: they wait for absent lines (R162). -/
def MemAct.reads (a : MemAct) : Bool :=
  match a with
  | .ld _ | .atom _ _ => true
  | _ => false

theorem starter_g (s : State) (g : GRef) (m : W64) (pc : Nat) : (s.starter g m pc).g = g := by
  unfold State.starter
  split <;> rfl

/-- On team memory or a buffer, with every line that is read present, the word acts. -/
theorem enterWord_local {u : State} {c : Cur} {i : Iss} {mw : MemWord} (hs : mw.space ≠ 0)
    (hp : mw.act.reads = true → linesPresent u i mw.space mw.accs) (hg : mw.byw.g = c.g) :
    u.enterWord i.t mw = .ok (actsAt u c i mw (mw.accs.map fun a => (a, a.addr))) := by
  unfold State.enterWord
  rw [if_neg hs]
  dsimp only
  have key : ∀ (P : List Nat) (a : Acc), a ∈ mw.accs → mw.act.reads = true →
      (∀ l ∈ P, l ∈ ((((u.team? i.t.id).getD i.t).buf mw.space).absent ++ (((u.team? i.t.id).getD i.t).buf mw.space).orphan)) →
      ∀ l ∈ (if (decide (mw.space = 3) || decide (mw.space = 1) && decide (0x7E800 ≤ a.addr)) = true then [] else linesOf a.addr a.size), l ∉ P := by
    intro P a ha hr hP l hl hm
    rcases hp hr a ha with h | h | h
    · simp [h] at hl
    · simp [h.1, h.2] at hl
    · split at hl
      · cases hl
      · exact h l hl (hP l hm)
  rw [if_neg, if_neg]
  · rw [hg]; rfl
  · intro hh
    rw [List.any_eq_true] at hh
    obtain ⟨a, ha, hx⟩ := hh
    rw [Bool.and_eq_true, List.any_eq_true] at hx
    obtain ⟨hr, l, hl, hm⟩ := hx
    exact key _ a ha hr (fun l h => List.mem_append_left _ h) l hl (List.contains_iff_mem.mp hm)
  · intro hh
    rw [Bool.not_eq_true', List.isEmpty_eq_false_iff_exists_mem] at hh
    obtain ⟨a, hh⟩ := hh
    rw [List.mem_filter, Bool.and_eq_true, List.any_eq_true] at hh
    obtain ⟨ha, hr, l, hl, hm⟩ := hh
    exact key _ a ha hr (fun l h => List.mem_append_right _ h) l hl (List.contains_iff_mem.mp hm)

/-- Through the TLB, with every page there and permitted, the word acts. -/
theorem enterWord_global {u : State} {c : Cur} {i : Iss} {mw : MemWord} {tr : List Trans} (hs : mw.space = 0) (hc : mw.act ≠ .code)
    (ht : translates u i mw.act.needs.1 mw.act.needs.2 mw.accs tr) (hg : mw.byw.g = c.g) :
    u.enterWord i.t mw = .ok (actsAt (touched u i mw.accs tr) c i mw ((mw.accs.zip tr).map fun p => (p.1, p.2.pa))) := by
  obtain ⟨hl, ht⟩ := ht
  have hz : (mw.accs.map fun a => (a, u.tlb? i.t a.addr mw.act.needs.2)) = (mw.accs.zip tr).map fun p => (p.1, some p.2) := by
    apply List.ext_getElem (by simp [hl])
    intro n h1 h2
    simp only [List.length_map, List.length_zip] at h1 h2
    have := ht (mw.accs[n], tr[n]'(by omega)) (by
      rw [List.mem_iff_getElem]
      exact ⟨n, by simp; omega, by simp⟩)
    simp [this.1]
  unfold State.enterWord
  rw [if_pos hs]
  dsimp only
  rw [hz]
  rw [if_neg, if_neg]
  · rw [hg, List.foldl_map, List.map_map]
    rfl
  · intro hh
    rw [Bool.not_eq_true', List.isEmpty_eq_false_iff_exists_mem] at hh
    obtain ⟨x, hh⟩ := hh
    rw [List.mem_filter, List.mem_map] at hh
    obtain ⟨⟨p, hp, rfl⟩, hh⟩ := hh
    have hx := ht p hp
    have hcode : (mw.act == MemAct.code) = false := by simpa using hc
    cases h1 : mw.act.needs.1 <;> cases h2 : mw.act.needs.2 <;> simp_all
  · intro hh
    rw [Bool.not_eq_true', List.isEmpty_eq_false_iff_exists_mem] at hh
    obtain ⟨x, hh⟩ := hh
    rw [List.mem_filter, List.mem_map] at hh
    obtain ⟨⟨p, hp, rfl⟩, hh⟩ := hh
    cases hh

section
variable {s : State} {op : Op} {w : Full} {c : Cur} {i : Iss} {core : Core}

theorem AtIssue.pc (h : AtIssue s op w c i core) : i.cur.pc = c.pc := by rw [(preIssue_view h.checks).2.2.2.2.2.1]; split <;> rfl
theorem AtIssue.exec (h : AtIssue s op w c i core) : i.cur.exec = c.exec := by rw [(preIssue_view h.checks).2.2.2.2.2.1]; split <;> rfl
theorem AtIssue.len (h : AtIssue s op w c i core) : i.cur.len = c.len := by rw [(preIssue_view h.checks).2.2.2.2.2.1]; split <;> rfl
theorem AtIssue.raw (h : AtIssue s op w c i core) : i.cur.raw = c.raw := by rw [(preIssue_view h.checks).2.2.2.2.2.1]; split <;> rfl
theorem AtIssue.half (h : AtIssue s op w c i core) : i.cur.half = c.half := by rw [(preIssue_view h.checks).2.2.2.2.2.1]; split <;> rfl

/-- No page misses the TLB: there is nothing to walk for. -/
theorem walksFull_none (u : State) (coord ctx : Nat) : u.walksFull coord ctx [] = false := rfl
theorem missing_local (u : State) (i : Iss) {space : Nat} (wr : Bool) (accs : List Acc) (hs : space ≠ 0) : u.missing i.t space wr accs = [] := by
  unfold State.missing
  rw [if_neg hs]
theorem missing_global {u : State} {i : Iss} {rd wr : Bool} {accs : List Acc} {tr : List Trans} (ht : translates u i rd wr accs tr) :
    u.missing i.t 0 wr accs = [] := by
  unfold State.missing
  rw [if_pos rfl, List.map_eq_nil_iff, List.filter_eq_nil_iff]
  intro a ha hn
  obtain ⟨n, h, rfl⟩ := List.mem_iff_getElem.mp ha
  have := ht.2 (accs[n], tr[n]'(by rw [ht.1]; exact h)) (List.mem_iff_getElem.mpr ⟨n, by simp [ht.1, h], by simp⟩)
  simp [this.1] at hn

theorem startWord_local (h : AtIssue s op w c i core) {u : State} {act : MemAct} {space : Nat} {dst : MDst} {accs : List Acc} {lanes : List Nat}
    (hs : space ≠ 0) (hp : act.reads = true → linesPresent (marked u c.g dst accs lanes) i space accs) :
    startWord i u act space dst accs lanes =
      .ok (actsAt (marked u c.g dst accs lanes) c i (memWordOf u c i act space dst accs lanes) (accs.map fun a => (a, a.addr))) := by
  have e := enterWord_local (u := marked u c.g dst accs lanes) (c := c) (i := i) (mw := memWordOf u c i act space dst accs lanes) hs hp (starter_g u c.g _ _)
  unfold startWord
  dsimp only
  rw [h.g, h.pc, h.exec, missing_local _ i _ _ hs, walksFull_none, if_neg Bool.false_ne_true]
  unfold memWordOf marked at e ⊢
  dsimp only at e ⊢
  rw [e]
theorem startWord_global (h : AtIssue s op w c i core) {u : State} {act : MemAct} {dst : MDst} {accs : List Acc} {lanes : List Nat} {tr : List Trans}
    (hc : act ≠ .code) (ht : translates (marked u c.g dst accs lanes) i act.needs.1 act.needs.2 accs tr) :
    startWord i u act 0 dst accs lanes =
      .ok (actsAt (touched (marked u c.g dst accs lanes) i accs tr) c i (memWordOf u c i act 0 dst accs lanes) ((accs.zip tr).map fun p => (p.1, p.2.pa))) := by
  have e := enterWord_global (u := marked u c.g dst accs lanes) (c := c) (i := i) (mw := memWordOf u c i act 0 dst accs lanes) rfl hc ht (starter_g u c.g _ _)
  have hm := missing_global ht
  unfold startWord
  dsimp only
  rw [h.g, h.pc, h.exec]
  unfold memWordOf marked at e ⊢
  unfold marked at hm
  dsimp only at e hm ⊢
  rw [hm, walksFull_none, if_neg Bool.false_ne_true, e]
end

end Sys2Proof.Machine
end

