-- ==== Sys2Proof/Laws/Memory.lean ====
section
/-! SUPPORT. Sorted maps and memory: a read after a write, and that every operation keeps the one form. -/
namespace Sys2Proof.Machine

/-! Sorted maps. -/

theorem spWfFrom_mono {α : Type} [DecidableEq α] {d : α} {l : Sparse α} {a b : Nat} (h : spWfFrom d b l = true) (hab : a ≤ b) :
    spWfFrom d a l = true := by
  cases l with
  | nil => rfl
  | cons x t =>
    obtain ⟨k, v⟩ := x
    simp only [spWfFrom, Bool.and_eq_true, decide_eq_true_eq] at h ⊢
    exact ⟨⟨Nat.le_trans hab h.1.1, h.1.2⟩, h.2⟩
/-- Below every key the default is read. -/
theorem spGet_below {α : Type} [DecidableEq α] {d : α} {l : Sparse α} {lo n : Nat} (h : spWfFrom d lo l = true) (hn : n < lo) :
    spGet d l n = d := by
  induction l generalizing lo with
  | nil => rfl
  | cons x t ih =>
    obtain ⟨k, v⟩ := x
    simp only [spWfFrom, Bool.and_eq_true, decide_eq_true_eq] at h
    have : k ≠ n := by omega
    simp only [spGet, this, if_false]
    exact ih h.2 (by omega)
theorem spGet_spPut {α : Type} [DecidableEq α] {d : α} {l : Sparse α} (v : α) (n : Nat) {lo : Nat} (h : spWfFrom d lo l = true) :
    spGet d (spPut d l n v) n = v := by
  induction l generalizing lo with
  | nil => by_cases hv : v = d <;> simp [spPut, spGet, hv]
  | cons x t ih =>
    obtain ⟨k, w⟩ := x
    have hw := h
    simp only [spWfFrom, Bool.and_eq_true, decide_eq_true_eq] at h
    simp only [spPut]
    split
    · by_cases hv : v = d
      · simp only [hv, if_true]
        exact spGet_below (lo := k) (by simp only [spWfFrom, Bool.and_eq_true, decide_eq_true_eq]; exact ⟨⟨Nat.le_refl _, h.1.2⟩, h.2⟩) ‹_›
      · simp [hv, spGet]
    · split
      · subst n
        by_cases hv : v = d
        · simp only [hv, if_true]
          exact spGet_below h.2 (Nat.lt_succ_self _)
        · simp [hv, spGet]
      · have : k ≠ n := by omega
        simp only [spGet, this, if_false]
        exact ih h.2
theorem spGet_spPut_ne {α : Type} [DecidableEq α] {d : α} {l : Sparse α} (v : α) {n a : Nat} (hne : a ≠ n) :
    spGet d (spPut d l n v) a = spGet d l a := by
  induction l with
  | nil => by_cases hv : v = d <;> simp [spPut, spGet, hv, Ne.symm hne]
  | cons x t ih =>
    obtain ⟨k, w⟩ := x
    simp only [spPut]
    split
    · by_cases hv : v = d <;> simp [hv, spGet, Ne.symm hne]
    · split
      · subst n
        by_cases hv : v = d <;> simp [hv, spGet, Ne.symm hne]
      · simp [spGet, ih]
theorem spWfFrom_spPut {α : Type} [DecidableEq α] {d : α} {l : Sparse α} {lo n : Nat} (v : α) (h : spWfFrom d lo l = true) (hn : lo ≤ n) :
    spWfFrom d lo (spPut d l n v) = true := by
  induction l generalizing lo with
  | nil => by_cases hv : v = d <;> simp [spPut, spWfFrom, hv, hn]
  | cons x t ih =>
    obtain ⟨k, w⟩ := x
    have hw := h
    simp only [spWfFrom, Bool.and_eq_true, decide_eq_true_eq] at h
    simp only [spPut]
    split
    · by_cases hv : v = d
      · simpa [hv] using hw
      · simp only [hv, if_false, spWfFrom, Bool.and_eq_true, decide_eq_true_eq]
        refine ⟨⟨hn, by simp⟩, ⟨⟨by omega, h.1.2⟩, h.2⟩⟩
    · split
      · subst n
        by_cases hv : v = d
        · simp only [hv, if_true]
          exact spWfFrom_mono h.2 (by omega)
        · simp only [hv, if_false, spWfFrom, Bool.and_eq_true, decide_eq_true_eq]
          exact ⟨⟨hn, by simp⟩, h.2⟩
      · simp only [spWfFrom, Bool.and_eq_true, decide_eq_true_eq]
        exact ⟨⟨h.1.1, h.1.2⟩, ih h.2 (by omega)⟩
theorem spWf_spPut {α : Type} [DecidableEq α] {d : α} {l : Sparse α} (n : Nat) (v : α) (h : spWf d l = true) : spWf d (spPut d l n v) = true :=
  spWfFrom_spPut v h (Nat.zero_le n)
theorem spWfFrom_filter {α : Type} [DecidableEq α] {d : α} {l : Sparse α} {lo : Nat} (p : Nat × α → Bool) (h : spWfFrom d lo l = true) :
    spWfFrom d lo (l.filter p) = true := by
  induction l generalizing lo with
  | nil => exact h
  | cons x t ih =>
    obtain ⟨k, w⟩ := x
    have hw := h
    simp only [spWfFrom, Bool.and_eq_true, decide_eq_true_eq] at h
    by_cases hp : p (k, w) = true
    · simp only [List.filter_cons_of_pos hp, spWfFrom, Bool.and_eq_true, decide_eq_true_eq]
      exact ⟨h.1, ih h.2⟩
    · rw [List.filter_cons_of_neg hp]
      exact spWfFrom_mono (ih h.2) (by omega)
theorem spWf_nil {α : Type} [DecidableEq α] (d : α) : spWf d ([] : Sparse α) = true := rfl

/-! Memory: reads after writes. -/

theorem Mem.read1_write1 (m : Mem) (a : Nat) (b : Byte) (h : m.wf = true) : (m.write1 a b).read1 a = b := spGet_spPut b a h
theorem Mem.read1_write1_ne (m : Mem) {a c : Nat} (b : Byte) (h : c ≠ a) : (m.write1 a b).read1 c = m.read1 c := spGet_spPut_ne b h
@[simp] theorem Mem.wf_write1 (m : Mem) (a : Nat) (b : Byte) (h : m.wf = true) : (m.write1 a b).wf = true := spWf_spPut a b h
@[simp] theorem Mem.wf_put (m : Mem) (a : Nat) (l : List Byte) (h : m.wf = true) : (m.put a l).wf = true := by
  induction l generalizing m a with
  | nil => exact h
  | cons b t ih => exact ih _ _ (m.wf_write1 a b h)
@[simp] theorem Mem.wf_writeBytes (m : Mem) (a : Nat) (l : List Byte) (h : m.wf = true) : (m.writeBytes a l).wf = true := m.wf_put a l h
theorem Mem.wf_writeN (m : Mem) (a n x : Nat) (h : m.wf = true) : (m.writeN a n x).wf = true := m.wf_writeBytes a _ h
@[simp] theorem Mem.wf_clear (m : Mem) (a n : Nat) (h : m.wf = true) : (m.clear a n).wf = true := spWfFrom_filter _ h
@[simp] theorem Mem.wf_poison (m : Mem) (l : List Nat) : ({ m with poison := l } : Mem).wf = m.wf := rfl
@[simp] theorem Mem.wf_empty : ({} : Mem).wf = true := rfl
theorem Mem.read1_put_ne (m : Mem) (a c : Nat) (l : List Byte) (h : c < a ∨ a + l.length ≤ c) : (m.put a l).read1 c = m.read1 c := by
  induction l generalizing m a with
  | nil => rfl
  | cons b t ih =>
    simp only [List.length_cons] at h
    simp only [Mem.put]
    rw [ih _ _ (by omega), Mem.read1_write1_ne m b (by omega)]
/-- A write leaves every byte outside it alone. -/
theorem Mem.read1_writeBytes_ne (m : Mem) (a c : Nat) (l : List Byte) (h : c < a ∨ a + l.length ≤ c) :
    (m.writeBytes a l).read1 c = m.read1 c := m.read1_put_ne a c l h
theorem Mem.read1_put (m : Mem) (a i : Nat) (l : List Byte) (h : m.wf = true) (hi : i < l.length) :
    (m.put a l).read1 (a + i) = l[i] := by
  induction l generalizing m a i with
  | nil => simp at hi
  | cons b t ih =>
    simp only [Mem.put]
    cases i with
    | zero =>
      rw [Nat.add_zero, Mem.read1_put_ne _ _ _ _ (by omega)]
      exact m.read1_write1 a b h
    | succ i =>
      have := ih (m.write1 a b) (a + 1) i (m.wf_write1 a b h) (by simpa using hi)
      rw [Nat.add_assoc, Nat.add_comm 1 i] at this
      simpa using this
/-- A read after a write gives the bytes written. -/
theorem Mem.read1_writeBytes (m : Mem) (a i : Nat) (l : List Byte) (h : m.wf = true) (hi : i < l.length) :
    (m.writeBytes a l).read1 (a + i) = l[i] := m.read1_put a i l h hi
@[simp] theorem Mem.bytes_length (m : Mem) (a n : Nat) : (m.bytes a n).length = n := by
  induction n generalizing a with
  | zero => rfl
  | succ n ih => simp [Mem.bytes, ih]
theorem Mem.bytes_getElem (m : Mem) (a n i : Nat) (hi : i < n) : (m.bytes a n)[i]'(by simpa using hi) = m.read1 (a + i) := by
  induction n generalizing a i with
  | zero => omega
  | succ n ih =>
    cases i with
    | zero => rfl
    | succ i =>
      have := ih (a + 1) i (by omega)
      rw [show a + (i + 1) = a + 1 + i by omega]
      simpa [Mem.bytes] using this
theorem Mem.bytes_writeBytes (m : Mem) (a : Nat) (l : List Byte) (h : m.wf = true) : (m.writeBytes a l).bytes a l.length = l := by
  apply List.ext_getElem
  · simp
  · intro i h1 h2
    rw [Mem.bytes_getElem _ _ _ _ h2, Mem.read1_writeBytes m a i l h h2]

/-! Numbers and bytes (R5). -/

@[simp] theorem bytesOfNat_length (n x : Nat) : (bytesOfNat n x).length = n := by
  induction n generalizing x with
  | zero => rfl
  | succ n ih => simp [bytesOfNat, ih]
theorem natOfBytes_bytesOfNat (n x : Nat) : natOfBytes (bytesOfNat n x) = x % 2 ^ (8 * n) := by
  induction n generalizing x with
  | zero => simp [bytesOfNat, natOfBytes, Nat.mod_one]
  | succ n ih =>
    simp only [bytesOfNat, natOfBytes, ih, BitVec.toNat_ofNat]
    rw [show 8 * (n + 1) = 8 + 8 * n by omega, Nat.pow_add]
    have := Nat.mod_mul (x := x) (a := 2 ^ 8) (b := 2 ^ (8 * n))
    exact this.symm
/-- What a write of a number reads back as. -/
theorem Mem.readN_writeN (m : Mem) (a n x : Nat) (h : m.wf = true) : (m.writeN a n x).readN a n = x % 2 ^ (8 * n) := by
  have := m.bytes_writeBytes a (bytesOfNat n x) h
  rw [bytesOfNat_length] at this
  unfold Mem.readN Mem.writeN
  rw [this, natOfBytes_bytesOfNat]

/-! Registers (R93, R96). -/

@[simp] theorem Regs.getK_zero (r : Regs) : r.getK 0 = BitVec.allOnes 64 := rfl
@[simp] theorem Regs.setK_zero (r : Regs) (lanes bits : W64) : r.setK 0 lanes bits = r := rfl
@[simp] theorem Regs.setK_v (r : Regs) (n : Nat) (lanes bits : W64) : (r.setK n lanes bits).v = r.v := by unfold Regs.setK; split <;> rfl
@[simp] theorem Regs.setK_s (r : Regs) (n : Nat) (lanes bits : W64) : (r.setK n lanes bits).s = r.s := by unfold Regs.setK; split <;> rfl
@[simp] theorem Regs.setK_m (r : Regs) (n : Nat) (lanes bits : W64) : (r.setK n lanes bits).m = r.m := by unfold Regs.setK; split <;> rfl
@[simp] theorem Regs.writeV_s (r : Regs) (l n : Nat) (x : W32) : (r.writeV l n x).s = r.s := rfl
@[simp] theorem Regs.writeV_k (r : Regs) (l n : Nat) (x : W32) : (r.writeV l n x).k = r.k := rfl
@[simp] theorem Regs.writeV_m (r : Regs) (l n : Nat) (x : W32) : (r.writeV l n x).m = r.m := rfl
@[simp] theorem Regs.writeS_v (r : Regs) (n : Nat) (x : W64) : (r.writeS n x).v = r.v := rfl
@[simp] theorem Regs.writeS_k (r : Regs) (n : Nat) (x : W64) : (r.writeS n x).k = r.k := rfl
@[simp] theorem Regs.writeS_m (r : Regs) (n : Nat) (x : W64) : (r.writeS n x).m = r.m := rfl
theorem Regs.getV_writeV (r : Regs) (l n : Nat) (x : W32) (h : spWf ({} : VReg) r.v = true) : (r.writeV l n x).getV l n = ⟨x, {}⟩ :=
  spGet_spPut _ _ h
theorem Regs.getV_writeV_ne (r : Regs) (l n a b : Nat) (x : W32) (h : a * 256 + b ≠ l * 256 + n) : (r.writeV l n x).getV a b = r.getV a b :=
  spGet_spPut_ne _ h
theorem Regs.getS_writeS (r : Regs) (n : Nat) (x : W64) (h : spWf ({} : SReg) r.s = true) : (r.writeS n x).getS n = ⟨x, {}⟩ :=
  spGet_spPut _ _ h
theorem Regs.getS_writeS_ne (r : Regs) (n a : Nat) (x : W64) (h : a ≠ n) : (r.writeS n x).getS a = r.getS a := spGet_spPut_ne _ h

end Sys2Proof.Machine
end

