-- ==== Sys2Proof/Laws/State.lean ====
section
/-! SUPPORT. One lemma for each field of State under each plain update, true by rfl, so that no later proof unfolds a record
update; and the lookups that an update leaves alone. -/
namespace Sys2Proof.Machine

/-! modTeam. -/
@[simp] theorem State.modTeam_clock (s : State) (t : Nat) (f : Team → Team) : (s.modTeam t f).clock = s.clock := rfl
@[simp] theorem State.modTeam_power (s : State) (t : Nat) (f : Team → Team) : (s.modTeam t f).power = s.power := rfl
@[simp] theorem State.modTeam_leader (s : State) (t : Nat) (f : Team → Team) : (s.modTeam t f).leader = s.leader := rfl
@[simp] theorem State.modTeam_mgmtOk (s : State) (t : Nat) (f : Team → Team) : (s.modTeam t f).mgmtOk = s.mgmtOk := rfl
@[simp] theorem State.modTeam_dram (s : State) (t : Nat) (f : Team → Team) : (s.modTeam t f).dram = s.dram := rfl
@[simp] theorem State.modTeam_framesUsed (s : State) (t : Nat) (f : Team → Team) : (s.modTeam t f).framesUsed = s.framesUsed := rfl
@[simp] theorem State.modTeam_framesBad (s : State) (t : Nat) (f : Team → Team) : (s.modTeam t f).framesBad = s.framesBad := rfl
@[simp] theorem State.modTeam_keys (s : State) (t : Nat) (f : Team → Team) : (s.modTeam t f).keys = s.keys := rfl
@[simp] theorem State.modTeam_contexts (s : State) (t : Nat) (f : Team → Team) : (s.modTeam t f).contexts = s.contexts := rfl
@[simp] theorem State.modTeam_sessions (s : State) (t : Nat) (f : Team → Team) : (s.modTeam t f).sessions = s.sessions := rfl
@[simp] theorem State.modTeam_images (s : State) (t : Nat) (f : Team → Team) : (s.modTeam t f).images = s.images := rfl
@[simp] theorem State.modTeam_launches (s : State) (t : Nat) (f : Team → Team) : (s.modTeam t f).launches = s.launches := rfl
@[simp] theorem State.modTeam_clusters (s : State) (t : Nat) (f : Team → Team) : (s.modTeam t f).clusters = s.clusters := rfl
@[simp] theorem State.modTeam_teams (s : State) (t : Nat) (f : Team → Team) : (s.modTeam t f).teams = s.teams.map fun x => if x.id = t then f x else x := rfl
@[simp] theorem State.modTeam_cores (s : State) (t : Nat) (f : Team → Team) : (s.modTeam t f).cores = s.cores := rfl
@[simp] theorem State.modTeam_leadList (s : State) (t : Nat) (f : Team → Team) : (s.modTeam t f).leadList = s.leadList := rfl
@[simp] theorem State.modTeam_dieList (s : State) (t : Nat) (f : Team → Team) : (s.modTeam t f).dieList = s.dieList := rfl
@[simp] theorem State.modTeam_vigil (s : State) (t : Nat) (f : Team → Team) : (s.modTeam t f).vigil = s.vigil := rfl
@[simp] theorem State.modTeam_tasks (s : State) (t : Nat) (f : Team → Team) : (s.modTeam t f).tasks = s.tasks := rfl
@[simp] theorem State.modTeam_loads (s : State) (t : Nat) (f : Team → Team) : (s.modTeam t f).loads = s.loads := rfl
@[simp] theorem State.modTeam_path (s : State) (t : Nat) (f : Team → Team) : (s.modTeam t f).path = s.path := rfl
@[simp] theorem State.modTeam_atoms (s : State) (t : Nat) (f : Team → Team) : (s.modTeam t f).atoms = s.atoms := rfl
@[simp] theorem State.modTeam_walks (s : State) (t : Nat) (f : Team → Team) : (s.modTeam t f).walks = s.walks := rfl
@[simp] theorem State.modTeam_faults (s : State) (t : Nat) (f : Team → Team) : (s.modTeam t f).faults = s.faults := rfl
@[simp] theorem State.modTeam_adds (s : State) (t : Nat) (f : Team → Team) : (s.modTeam t f).adds = s.adds := rfl
@[simp] theorem State.modTeam_ops (s : State) (t : Nat) (f : Team → Team) : (s.modTeam t f).ops = s.ops := rfl
@[simp] theorem State.modTeam_engines (s : State) (t : Nat) (f : Team → Team) : (s.modTeam t f).engines = s.engines := rfl
@[simp] theorem State.modTeam_locks (s : State) (t : Nat) (f : Team → Team) : (s.modTeam t f).locks = s.locks := rfl
@[simp] theorem State.modTeam_steals (s : State) (t : Nat) (f : Team → Team) : (s.modTeam t f).steals = s.steals := rfl
@[simp] theorem State.modTeam_shoots (s : State) (t : Nat) (f : Team → Team) : (s.modTeam t f).shoots = s.shoots := rfl
@[simp] theorem State.modTeam_steers (s : State) (t : Nat) (f : Team → Team) : (s.modTeam t f).steers = s.steers := rfl
@[simp] theorem State.modTeam_switches (s : State) (t : Nat) (f : Team → Team) : (s.modTeam t f).switches = s.switches := rfl
@[simp] theorem State.modTeam_links (s : State) (t : Nat) (f : Team → Team) : (s.modTeam t f).links = s.links := rfl
@[simp] theorem State.modTeam_ports (s : State) (t : Nat) (f : Team → Team) : (s.modTeam t f).ports = s.ports := rfl
@[simp] theorem State.modTeam_flash (s : State) (t : Nat) (f : Team → Team) : (s.modTeam t f).flash = s.flash := rfl
@[simp] theorem State.modTeam_refreshRow (s : State) (t : Nat) (f : Team → Team) : (s.modTeam t f).refreshRow = s.refreshRow := rfl
@[simp] theorem State.modTeam_issueRow (s : State) (t : Nat) (f : Team → Team) : (s.modTeam t f).issueRow = s.issueRow := rfl
@[simp] theorem State.modTeam_ember (s : State) (t : Nat) (f : Team → Team) : (s.modTeam t f).ember = s.ember := rfl
@[simp] theorem State.modTeam_rowCopies (s : State) (t : Nat) (f : Team → Team) : (s.modTeam t f).rowCopies = s.rowCopies := rfl
@[simp] theorem State.modTeam_rehoming (s : State) (t : Nat) (f : Team → Team) : (s.modTeam t f).rehoming = s.rehoming := rfl
@[simp] theorem State.modTeam_replies (s : State) (t : Nat) (f : Team → Team) : (s.modTeam t f).replies = s.replies := rfl
@[simp] theorem State.modTeam_replayable (s : State) (t : Nat) (f : Team → Team) : (s.modTeam t f).replayable = s.replayable := rfl
@[simp] theorem State.modTeam_era (s : State) (t : Nat) (f : Team → Team) : (s.modTeam t f).era = s.era := rfl
@[simp] theorem State.modTeam_retiring (s : State) (t : Nat) (f : Team → Team) : (s.modTeam t f).retiring = s.retiring := rfl
@[simp] theorem State.modTeam_outbox (s : State) (t : Nat) (f : Team → Team) : (s.modTeam t f).outbox = s.outbox := rfl
@[simp] theorem State.modTeam_heldMsgs (s : State) (t : Nat) (f : Team → Team) : (s.modTeam t f).heldMsgs = s.heldMsgs := rfl
@[simp] theorem State.modTeam_nextId (s : State) (t : Nat) (f : Team → Team) : (s.modTeam t f).nextId = s.nextId := rfl
@[simp] theorem State.modTeam_nextTeam (s : State) (t : Nat) (f : Team → Team) : (s.modTeam t f).nextTeam = s.nextTeam := rfl
@[simp] theorem State.modTeam_nextUid (s : State) (t : Nat) (f : Team → Team) : (s.modTeam t f).nextUid = s.nextUid := rfl
@[simp] theorem State.modTeam_nextGrid (s : State) (t : Nat) (f : Team → Team) : (s.modTeam t f).nextGrid = s.nextGrid := rfl
@[simp] theorem State.modTeam_nextImage (s : State) (t : Nat) (f : Team → Team) : (s.modTeam t f).nextImage = s.nextImage := rfl
@[simp] theorem State.modTeam_nextFault (s : State) (t : Nat) (f : Team → Team) : (s.modTeam t f).nextFault = s.nextFault := rfl
@[simp] theorem State.modTeam_nextSession (s : State) (t : Nat) (f : Team → Team) : (s.modTeam t f).nextSession = s.nextSession := rfl
@[simp] theorem State.modTeam_nextTask (s : State) (t : Nat) (f : Team → Team) : (s.modTeam t f).nextTask = s.nextTask := rfl
@[simp] theorem State.modTeam_agenda (s : State) (t : Nat) (f : Team → Team) : (s.modTeam t f).agenda = s.agenda := rfl
@[simp] theorem State.modTeam_inbox (s : State) (t : Nat) (f : Team → Team) : (s.modTeam t f).inbox = s.inbox := rfl
@[simp] theorem State.modTeam_todo (s : State) (t : Nat) (f : Team → Team) : (s.modTeam t f).todo = s.todo := rfl
@[simp] theorem State.modTeam_cur (s : State) (t : Nat) (f : Team → Team) : (s.modTeam t f).cur = s.cur := rfl
@[simp] theorem State.modTeam_free (s : State) (t : Nat) (f : Team → Team) : (s.modTeam t f).free = s.free := rfl

/-! modGroup. -/
@[simp] theorem State.modGroup_clock (s : State) (g : GRef) (f : Group → Group) : (s.modGroup g f).clock = s.clock := rfl
@[simp] theorem State.modGroup_power (s : State) (g : GRef) (f : Group → Group) : (s.modGroup g f).power = s.power := rfl
@[simp] theorem State.modGroup_leader (s : State) (g : GRef) (f : Group → Group) : (s.modGroup g f).leader = s.leader := rfl
@[simp] theorem State.modGroup_mgmtOk (s : State) (g : GRef) (f : Group → Group) : (s.modGroup g f).mgmtOk = s.mgmtOk := rfl
@[simp] theorem State.modGroup_dram (s : State) (g : GRef) (f : Group → Group) : (s.modGroup g f).dram = s.dram := rfl
@[simp] theorem State.modGroup_framesUsed (s : State) (g : GRef) (f : Group → Group) : (s.modGroup g f).framesUsed = s.framesUsed := rfl
@[simp] theorem State.modGroup_framesBad (s : State) (g : GRef) (f : Group → Group) : (s.modGroup g f).framesBad = s.framesBad := rfl
@[simp] theorem State.modGroup_keys (s : State) (g : GRef) (f : Group → Group) : (s.modGroup g f).keys = s.keys := rfl
@[simp] theorem State.modGroup_contexts (s : State) (g : GRef) (f : Group → Group) : (s.modGroup g f).contexts = s.contexts := rfl
@[simp] theorem State.modGroup_sessions (s : State) (g : GRef) (f : Group → Group) : (s.modGroup g f).sessions = s.sessions := rfl
@[simp] theorem State.modGroup_images (s : State) (g : GRef) (f : Group → Group) : (s.modGroup g f).images = s.images := rfl
@[simp] theorem State.modGroup_launches (s : State) (g : GRef) (f : Group → Group) : (s.modGroup g f).launches = s.launches := rfl
@[simp] theorem State.modGroup_clusters (s : State) (g : GRef) (f : Group → Group) : (s.modGroup g f).clusters = s.clusters := rfl
@[simp] theorem State.modGroup_teams (s : State) (g : GRef) (f : Group → Group) : (s.modGroup g f).teams = s.teams.map fun x => if x.id = g.team then x.modGroup g.slot f else x := rfl
@[simp] theorem State.modGroup_cores (s : State) (g : GRef) (f : Group → Group) : (s.modGroup g f).cores = s.cores := rfl
@[simp] theorem State.modGroup_leadList (s : State) (g : GRef) (f : Group → Group) : (s.modGroup g f).leadList = s.leadList := rfl
@[simp] theorem State.modGroup_dieList (s : State) (g : GRef) (f : Group → Group) : (s.modGroup g f).dieList = s.dieList := rfl
@[simp] theorem State.modGroup_vigil (s : State) (g : GRef) (f : Group → Group) : (s.modGroup g f).vigil = s.vigil := rfl
@[simp] theorem State.modGroup_tasks (s : State) (g : GRef) (f : Group → Group) : (s.modGroup g f).tasks = s.tasks := rfl
@[simp] theorem State.modGroup_loads (s : State) (g : GRef) (f : Group → Group) : (s.modGroup g f).loads = s.loads := rfl
@[simp] theorem State.modGroup_path (s : State) (g : GRef) (f : Group → Group) : (s.modGroup g f).path = s.path := rfl
@[simp] theorem State.modGroup_atoms (s : State) (g : GRef) (f : Group → Group) : (s.modGroup g f).atoms = s.atoms := rfl
@[simp] theorem State.modGroup_walks (s : State) (g : GRef) (f : Group → Group) : (s.modGroup g f).walks = s.walks := rfl
@[simp] theorem State.modGroup_faults (s : State) (g : GRef) (f : Group → Group) : (s.modGroup g f).faults = s.faults := rfl
@[simp] theorem State.modGroup_adds (s : State) (g : GRef) (f : Group → Group) : (s.modGroup g f).adds = s.adds := rfl
@[simp] theorem State.modGroup_ops (s : State) (g : GRef) (f : Group → Group) : (s.modGroup g f).ops = s.ops := rfl
@[simp] theorem State.modGroup_engines (s : State) (g : GRef) (f : Group → Group) : (s.modGroup g f).engines = s.engines := rfl
@[simp] theorem State.modGroup_locks (s : State) (g : GRef) (f : Group → Group) : (s.modGroup g f).locks = s.locks := rfl
@[simp] theorem State.modGroup_steals (s : State) (g : GRef) (f : Group → Group) : (s.modGroup g f).steals = s.steals := rfl
@[simp] theorem State.modGroup_shoots (s : State) (g : GRef) (f : Group → Group) : (s.modGroup g f).shoots = s.shoots := rfl
@[simp] theorem State.modGroup_steers (s : State) (g : GRef) (f : Group → Group) : (s.modGroup g f).steers = s.steers := rfl
@[simp] theorem State.modGroup_switches (s : State) (g : GRef) (f : Group → Group) : (s.modGroup g f).switches = s.switches := rfl
@[simp] theorem State.modGroup_links (s : State) (g : GRef) (f : Group → Group) : (s.modGroup g f).links = s.links := rfl
@[simp] theorem State.modGroup_ports (s : State) (g : GRef) (f : Group → Group) : (s.modGroup g f).ports = s.ports := rfl
@[simp] theorem State.modGroup_flash (s : State) (g : GRef) (f : Group → Group) : (s.modGroup g f).flash = s.flash := rfl
@[simp] theorem State.modGroup_refreshRow (s : State) (g : GRef) (f : Group → Group) : (s.modGroup g f).refreshRow = s.refreshRow := rfl
@[simp] theorem State.modGroup_issueRow (s : State) (g : GRef) (f : Group → Group) : (s.modGroup g f).issueRow = s.issueRow := rfl
@[simp] theorem State.modGroup_ember (s : State) (g : GRef) (f : Group → Group) : (s.modGroup g f).ember = s.ember := rfl
@[simp] theorem State.modGroup_rowCopies (s : State) (g : GRef) (f : Group → Group) : (s.modGroup g f).rowCopies = s.rowCopies := rfl
@[simp] theorem State.modGroup_rehoming (s : State) (g : GRef) (f : Group → Group) : (s.modGroup g f).rehoming = s.rehoming := rfl
@[simp] theorem State.modGroup_replies (s : State) (g : GRef) (f : Group → Group) : (s.modGroup g f).replies = s.replies := rfl
@[simp] theorem State.modGroup_replayable (s : State) (g : GRef) (f : Group → Group) : (s.modGroup g f).replayable = s.replayable := rfl
@[simp] theorem State.modGroup_era (s : State) (g : GRef) (f : Group → Group) : (s.modGroup g f).era = s.era := rfl
@[simp] theorem State.modGroup_retiring (s : State) (g : GRef) (f : Group → Group) : (s.modGroup g f).retiring = s.retiring := rfl
@[simp] theorem State.modGroup_outbox (s : State) (g : GRef) (f : Group → Group) : (s.modGroup g f).outbox = s.outbox := rfl
@[simp] theorem State.modGroup_heldMsgs (s : State) (g : GRef) (f : Group → Group) : (s.modGroup g f).heldMsgs = s.heldMsgs := rfl
@[simp] theorem State.modGroup_nextId (s : State) (g : GRef) (f : Group → Group) : (s.modGroup g f).nextId = s.nextId := rfl
@[simp] theorem State.modGroup_nextTeam (s : State) (g : GRef) (f : Group → Group) : (s.modGroup g f).nextTeam = s.nextTeam := rfl
@[simp] theorem State.modGroup_nextUid (s : State) (g : GRef) (f : Group → Group) : (s.modGroup g f).nextUid = s.nextUid := rfl
@[simp] theorem State.modGroup_nextGrid (s : State) (g : GRef) (f : Group → Group) : (s.modGroup g f).nextGrid = s.nextGrid := rfl
@[simp] theorem State.modGroup_nextImage (s : State) (g : GRef) (f : Group → Group) : (s.modGroup g f).nextImage = s.nextImage := rfl
@[simp] theorem State.modGroup_nextFault (s : State) (g : GRef) (f : Group → Group) : (s.modGroup g f).nextFault = s.nextFault := rfl
@[simp] theorem State.modGroup_nextSession (s : State) (g : GRef) (f : Group → Group) : (s.modGroup g f).nextSession = s.nextSession := rfl
@[simp] theorem State.modGroup_nextTask (s : State) (g : GRef) (f : Group → Group) : (s.modGroup g f).nextTask = s.nextTask := rfl
@[simp] theorem State.modGroup_agenda (s : State) (g : GRef) (f : Group → Group) : (s.modGroup g f).agenda = s.agenda := rfl
@[simp] theorem State.modGroup_inbox (s : State) (g : GRef) (f : Group → Group) : (s.modGroup g f).inbox = s.inbox := rfl
@[simp] theorem State.modGroup_todo (s : State) (g : GRef) (f : Group → Group) : (s.modGroup g f).todo = s.todo := rfl
@[simp] theorem State.modGroup_cur (s : State) (g : GRef) (f : Group → Group) : (s.modGroup g f).cur = s.cur := rfl
@[simp] theorem State.modGroup_free (s : State) (g : GRef) (f : Group → Group) : (s.modGroup g f).free = s.free := rfl

/-! modCore. -/
@[simp] theorem State.modCore_clock (s : State) (c : Nat) (f : Core → Core) : (s.modCore c f).clock = s.clock := rfl
@[simp] theorem State.modCore_power (s : State) (c : Nat) (f : Core → Core) : (s.modCore c f).power = s.power := rfl
@[simp] theorem State.modCore_leader (s : State) (c : Nat) (f : Core → Core) : (s.modCore c f).leader = s.leader := rfl
@[simp] theorem State.modCore_mgmtOk (s : State) (c : Nat) (f : Core → Core) : (s.modCore c f).mgmtOk = s.mgmtOk := rfl
@[simp] theorem State.modCore_dram (s : State) (c : Nat) (f : Core → Core) : (s.modCore c f).dram = s.dram := rfl
@[simp] theorem State.modCore_framesUsed (s : State) (c : Nat) (f : Core → Core) : (s.modCore c f).framesUsed = s.framesUsed := rfl
@[simp] theorem State.modCore_framesBad (s : State) (c : Nat) (f : Core → Core) : (s.modCore c f).framesBad = s.framesBad := rfl
@[simp] theorem State.modCore_keys (s : State) (c : Nat) (f : Core → Core) : (s.modCore c f).keys = s.keys := rfl
@[simp] theorem State.modCore_contexts (s : State) (c : Nat) (f : Core → Core) : (s.modCore c f).contexts = s.contexts := rfl
@[simp] theorem State.modCore_sessions (s : State) (c : Nat) (f : Core → Core) : (s.modCore c f).sessions = s.sessions := rfl
@[simp] theorem State.modCore_images (s : State) (c : Nat) (f : Core → Core) : (s.modCore c f).images = s.images := rfl
@[simp] theorem State.modCore_launches (s : State) (c : Nat) (f : Core → Core) : (s.modCore c f).launches = s.launches := rfl
@[simp] theorem State.modCore_clusters (s : State) (c : Nat) (f : Core → Core) : (s.modCore c f).clusters = s.clusters := rfl
@[simp] theorem State.modCore_teams (s : State) (c : Nat) (f : Core → Core) : (s.modCore c f).teams = s.teams := rfl
@[simp] theorem State.modCore_cores (s : State) (c : Nat) (f : Core → Core) : (s.modCore c f).cores = f (s.core c) :: s.cores.filter fun x => x.coord != c := rfl
@[simp] theorem State.modCore_leadList (s : State) (c : Nat) (f : Core → Core) : (s.modCore c f).leadList = s.leadList := rfl
@[simp] theorem State.modCore_dieList (s : State) (c : Nat) (f : Core → Core) : (s.modCore c f).dieList = s.dieList := rfl
@[simp] theorem State.modCore_vigil (s : State) (c : Nat) (f : Core → Core) : (s.modCore c f).vigil = s.vigil := rfl
@[simp] theorem State.modCore_tasks (s : State) (c : Nat) (f : Core → Core) : (s.modCore c f).tasks = s.tasks := rfl
@[simp] theorem State.modCore_loads (s : State) (c : Nat) (f : Core → Core) : (s.modCore c f).loads = s.loads := rfl
@[simp] theorem State.modCore_path (s : State) (c : Nat) (f : Core → Core) : (s.modCore c f).path = s.path := rfl
@[simp] theorem State.modCore_atoms (s : State) (c : Nat) (f : Core → Core) : (s.modCore c f).atoms = s.atoms := rfl
@[simp] theorem State.modCore_walks (s : State) (c : Nat) (f : Core → Core) : (s.modCore c f).walks = s.walks := rfl
@[simp] theorem State.modCore_faults (s : State) (c : Nat) (f : Core → Core) : (s.modCore c f).faults = s.faults := rfl
@[simp] theorem State.modCore_adds (s : State) (c : Nat) (f : Core → Core) : (s.modCore c f).adds = s.adds := rfl
@[simp] theorem State.modCore_ops (s : State) (c : Nat) (f : Core → Core) : (s.modCore c f).ops = s.ops := rfl
@[simp] theorem State.modCore_engines (s : State) (c : Nat) (f : Core → Core) : (s.modCore c f).engines = s.engines := rfl
@[simp] theorem State.modCore_locks (s : State) (c : Nat) (f : Core → Core) : (s.modCore c f).locks = s.locks := rfl
@[simp] theorem State.modCore_steals (s : State) (c : Nat) (f : Core → Core) : (s.modCore c f).steals = s.steals := rfl
@[simp] theorem State.modCore_shoots (s : State) (c : Nat) (f : Core → Core) : (s.modCore c f).shoots = s.shoots := rfl
@[simp] theorem State.modCore_steers (s : State) (c : Nat) (f : Core → Core) : (s.modCore c f).steers = s.steers := rfl
@[simp] theorem State.modCore_switches (s : State) (c : Nat) (f : Core → Core) : (s.modCore c f).switches = s.switches := rfl
@[simp] theorem State.modCore_links (s : State) (c : Nat) (f : Core → Core) : (s.modCore c f).links = s.links := rfl
@[simp] theorem State.modCore_ports (s : State) (c : Nat) (f : Core → Core) : (s.modCore c f).ports = s.ports := rfl
@[simp] theorem State.modCore_flash (s : State) (c : Nat) (f : Core → Core) : (s.modCore c f).flash = s.flash := rfl
@[simp] theorem State.modCore_refreshRow (s : State) (c : Nat) (f : Core → Core) : (s.modCore c f).refreshRow = s.refreshRow := rfl
@[simp] theorem State.modCore_issueRow (s : State) (c : Nat) (f : Core → Core) : (s.modCore c f).issueRow = s.issueRow := rfl
@[simp] theorem State.modCore_ember (s : State) (c : Nat) (f : Core → Core) : (s.modCore c f).ember = s.ember := rfl
@[simp] theorem State.modCore_rowCopies (s : State) (c : Nat) (f : Core → Core) : (s.modCore c f).rowCopies = s.rowCopies := rfl
@[simp] theorem State.modCore_rehoming (s : State) (c : Nat) (f : Core → Core) : (s.modCore c f).rehoming = s.rehoming := rfl
@[simp] theorem State.modCore_replies (s : State) (c : Nat) (f : Core → Core) : (s.modCore c f).replies = s.replies := rfl
@[simp] theorem State.modCore_replayable (s : State) (c : Nat) (f : Core → Core) : (s.modCore c f).replayable = s.replayable := rfl
@[simp] theorem State.modCore_era (s : State) (c : Nat) (f : Core → Core) : (s.modCore c f).era = s.era := rfl
@[simp] theorem State.modCore_retiring (s : State) (c : Nat) (f : Core → Core) : (s.modCore c f).retiring = s.retiring := rfl
@[simp] theorem State.modCore_outbox (s : State) (c : Nat) (f : Core → Core) : (s.modCore c f).outbox = s.outbox := rfl
@[simp] theorem State.modCore_heldMsgs (s : State) (c : Nat) (f : Core → Core) : (s.modCore c f).heldMsgs = s.heldMsgs := rfl
@[simp] theorem State.modCore_nextId (s : State) (c : Nat) (f : Core → Core) : (s.modCore c f).nextId = s.nextId := rfl
@[simp] theorem State.modCore_nextTeam (s : State) (c : Nat) (f : Core → Core) : (s.modCore c f).nextTeam = s.nextTeam := rfl
@[simp] theorem State.modCore_nextUid (s : State) (c : Nat) (f : Core → Core) : (s.modCore c f).nextUid = s.nextUid := rfl
@[simp] theorem State.modCore_nextGrid (s : State) (c : Nat) (f : Core → Core) : (s.modCore c f).nextGrid = s.nextGrid := rfl
@[simp] theorem State.modCore_nextImage (s : State) (c : Nat) (f : Core → Core) : (s.modCore c f).nextImage = s.nextImage := rfl
@[simp] theorem State.modCore_nextFault (s : State) (c : Nat) (f : Core → Core) : (s.modCore c f).nextFault = s.nextFault := rfl
@[simp] theorem State.modCore_nextSession (s : State) (c : Nat) (f : Core → Core) : (s.modCore c f).nextSession = s.nextSession := rfl
@[simp] theorem State.modCore_nextTask (s : State) (c : Nat) (f : Core → Core) : (s.modCore c f).nextTask = s.nextTask := rfl
@[simp] theorem State.modCore_agenda (s : State) (c : Nat) (f : Core → Core) : (s.modCore c f).agenda = s.agenda := rfl
@[simp] theorem State.modCore_inbox (s : State) (c : Nat) (f : Core → Core) : (s.modCore c f).inbox = s.inbox := rfl
@[simp] theorem State.modCore_todo (s : State) (c : Nat) (f : Core → Core) : (s.modCore c f).todo = s.todo := rfl
@[simp] theorem State.modCore_cur (s : State) (c : Nat) (f : Core → Core) : (s.modCore c f).cur = s.cur := rfl
@[simp] theorem State.modCore_free (s : State) (c : Nat) (f : Core → Core) : (s.modCore c f).free = s.free := rfl

/-! modLaunch. -/
@[simp] theorem State.modLaunch_clock (s : State) (g : Nat) (f : Launch → Launch) : (s.modLaunch g f).clock = s.clock := rfl
@[simp] theorem State.modLaunch_power (s : State) (g : Nat) (f : Launch → Launch) : (s.modLaunch g f).power = s.power := rfl
@[simp] theorem State.modLaunch_leader (s : State) (g : Nat) (f : Launch → Launch) : (s.modLaunch g f).leader = s.leader := rfl
@[simp] theorem State.modLaunch_mgmtOk (s : State) (g : Nat) (f : Launch → Launch) : (s.modLaunch g f).mgmtOk = s.mgmtOk := rfl
@[simp] theorem State.modLaunch_dram (s : State) (g : Nat) (f : Launch → Launch) : (s.modLaunch g f).dram = s.dram := rfl
@[simp] theorem State.modLaunch_framesUsed (s : State) (g : Nat) (f : Launch → Launch) : (s.modLaunch g f).framesUsed = s.framesUsed := rfl
@[simp] theorem State.modLaunch_framesBad (s : State) (g : Nat) (f : Launch → Launch) : (s.modLaunch g f).framesBad = s.framesBad := rfl
@[simp] theorem State.modLaunch_keys (s : State) (g : Nat) (f : Launch → Launch) : (s.modLaunch g f).keys = s.keys := rfl
@[simp] theorem State.modLaunch_contexts (s : State) (g : Nat) (f : Launch → Launch) : (s.modLaunch g f).contexts = s.contexts := rfl
@[simp] theorem State.modLaunch_sessions (s : State) (g : Nat) (f : Launch → Launch) : (s.modLaunch g f).sessions = s.sessions := rfl
@[simp] theorem State.modLaunch_images (s : State) (g : Nat) (f : Launch → Launch) : (s.modLaunch g f).images = s.images := rfl
@[simp] theorem State.modLaunch_launches (s : State) (g : Nat) (f : Launch → Launch) : (s.modLaunch g f).launches = s.launches.map fun x => if x.grid = g then f x else x := rfl
@[simp] theorem State.modLaunch_clusters (s : State) (g : Nat) (f : Launch → Launch) : (s.modLaunch g f).clusters = s.clusters := rfl
@[simp] theorem State.modLaunch_teams (s : State) (g : Nat) (f : Launch → Launch) : (s.modLaunch g f).teams = s.teams := rfl
@[simp] theorem State.modLaunch_cores (s : State) (g : Nat) (f : Launch → Launch) : (s.modLaunch g f).cores = s.cores := rfl
@[simp] theorem State.modLaunch_leadList (s : State) (g : Nat) (f : Launch → Launch) : (s.modLaunch g f).leadList = s.leadList := rfl
@[simp] theorem State.modLaunch_dieList (s : State) (g : Nat) (f : Launch → Launch) : (s.modLaunch g f).dieList = s.dieList := rfl
@[simp] theorem State.modLaunch_vigil (s : State) (g : Nat) (f : Launch → Launch) : (s.modLaunch g f).vigil = s.vigil := rfl
@[simp] theorem State.modLaunch_tasks (s : State) (g : Nat) (f : Launch → Launch) : (s.modLaunch g f).tasks = s.tasks := rfl
@[simp] theorem State.modLaunch_loads (s : State) (g : Nat) (f : Launch → Launch) : (s.modLaunch g f).loads = s.loads := rfl
@[simp] theorem State.modLaunch_path (s : State) (g : Nat) (f : Launch → Launch) : (s.modLaunch g f).path = s.path := rfl
@[simp] theorem State.modLaunch_atoms (s : State) (g : Nat) (f : Launch → Launch) : (s.modLaunch g f).atoms = s.atoms := rfl
@[simp] theorem State.modLaunch_walks (s : State) (g : Nat) (f : Launch → Launch) : (s.modLaunch g f).walks = s.walks := rfl
@[simp] theorem State.modLaunch_faults (s : State) (g : Nat) (f : Launch → Launch) : (s.modLaunch g f).faults = s.faults := rfl
@[simp] theorem State.modLaunch_adds (s : State) (g : Nat) (f : Launch → Launch) : (s.modLaunch g f).adds = s.adds := rfl
@[simp] theorem State.modLaunch_ops (s : State) (g : Nat) (f : Launch → Launch) : (s.modLaunch g f).ops = s.ops := rfl
@[simp] theorem State.modLaunch_engines (s : State) (g : Nat) (f : Launch → Launch) : (s.modLaunch g f).engines = s.engines := rfl
@[simp] theorem State.modLaunch_locks (s : State) (g : Nat) (f : Launch → Launch) : (s.modLaunch g f).locks = s.locks := rfl
@[simp] theorem State.modLaunch_steals (s : State) (g : Nat) (f : Launch → Launch) : (s.modLaunch g f).steals = s.steals := rfl
@[simp] theorem State.modLaunch_shoots (s : State) (g : Nat) (f : Launch → Launch) : (s.modLaunch g f).shoots = s.shoots := rfl
@[simp] theorem State.modLaunch_steers (s : State) (g : Nat) (f : Launch → Launch) : (s.modLaunch g f).steers = s.steers := rfl
@[simp] theorem State.modLaunch_switches (s : State) (g : Nat) (f : Launch → Launch) : (s.modLaunch g f).switches = s.switches := rfl
@[simp] theorem State.modLaunch_links (s : State) (g : Nat) (f : Launch → Launch) : (s.modLaunch g f).links = s.links := rfl
@[simp] theorem State.modLaunch_ports (s : State) (g : Nat) (f : Launch → Launch) : (s.modLaunch g f).ports = s.ports := rfl
@[simp] theorem State.modLaunch_flash (s : State) (g : Nat) (f : Launch → Launch) : (s.modLaunch g f).flash = s.flash := rfl
@[simp] theorem State.modLaunch_refreshRow (s : State) (g : Nat) (f : Launch → Launch) : (s.modLaunch g f).refreshRow = s.refreshRow := rfl
@[simp] theorem State.modLaunch_issueRow (s : State) (g : Nat) (f : Launch → Launch) : (s.modLaunch g f).issueRow = s.issueRow := rfl
@[simp] theorem State.modLaunch_ember (s : State) (g : Nat) (f : Launch → Launch) : (s.modLaunch g f).ember = s.ember := rfl
@[simp] theorem State.modLaunch_rowCopies (s : State) (g : Nat) (f : Launch → Launch) : (s.modLaunch g f).rowCopies = s.rowCopies := rfl
@[simp] theorem State.modLaunch_rehoming (s : State) (g : Nat) (f : Launch → Launch) : (s.modLaunch g f).rehoming = s.rehoming := rfl
@[simp] theorem State.modLaunch_replies (s : State) (g : Nat) (f : Launch → Launch) : (s.modLaunch g f).replies = s.replies := rfl
@[simp] theorem State.modLaunch_replayable (s : State) (g : Nat) (f : Launch → Launch) : (s.modLaunch g f).replayable = s.replayable := rfl
@[simp] theorem State.modLaunch_era (s : State) (g : Nat) (f : Launch → Launch) : (s.modLaunch g f).era = s.era := rfl
@[simp] theorem State.modLaunch_retiring (s : State) (g : Nat) (f : Launch → Launch) : (s.modLaunch g f).retiring = s.retiring := rfl
@[simp] theorem State.modLaunch_outbox (s : State) (g : Nat) (f : Launch → Launch) : (s.modLaunch g f).outbox = s.outbox := rfl
@[simp] theorem State.modLaunch_heldMsgs (s : State) (g : Nat) (f : Launch → Launch) : (s.modLaunch g f).heldMsgs = s.heldMsgs := rfl
@[simp] theorem State.modLaunch_nextId (s : State) (g : Nat) (f : Launch → Launch) : (s.modLaunch g f).nextId = s.nextId := rfl
@[simp] theorem State.modLaunch_nextTeam (s : State) (g : Nat) (f : Launch → Launch) : (s.modLaunch g f).nextTeam = s.nextTeam := rfl
@[simp] theorem State.modLaunch_nextUid (s : State) (g : Nat) (f : Launch → Launch) : (s.modLaunch g f).nextUid = s.nextUid := rfl
@[simp] theorem State.modLaunch_nextGrid (s : State) (g : Nat) (f : Launch → Launch) : (s.modLaunch g f).nextGrid = s.nextGrid := rfl
@[simp] theorem State.modLaunch_nextImage (s : State) (g : Nat) (f : Launch → Launch) : (s.modLaunch g f).nextImage = s.nextImage := rfl
@[simp] theorem State.modLaunch_nextFault (s : State) (g : Nat) (f : Launch → Launch) : (s.modLaunch g f).nextFault = s.nextFault := rfl
@[simp] theorem State.modLaunch_nextSession (s : State) (g : Nat) (f : Launch → Launch) : (s.modLaunch g f).nextSession = s.nextSession := rfl
@[simp] theorem State.modLaunch_nextTask (s : State) (g : Nat) (f : Launch → Launch) : (s.modLaunch g f).nextTask = s.nextTask := rfl
@[simp] theorem State.modLaunch_agenda (s : State) (g : Nat) (f : Launch → Launch) : (s.modLaunch g f).agenda = s.agenda := rfl
@[simp] theorem State.modLaunch_inbox (s : State) (g : Nat) (f : Launch → Launch) : (s.modLaunch g f).inbox = s.inbox := rfl
@[simp] theorem State.modLaunch_todo (s : State) (g : Nat) (f : Launch → Launch) : (s.modLaunch g f).todo = s.todo := rfl
@[simp] theorem State.modLaunch_cur (s : State) (g : Nat) (f : Launch → Launch) : (s.modLaunch g f).cur = s.cur := rfl
@[simp] theorem State.modLaunch_free (s : State) (g : Nat) (f : Launch → Launch) : (s.modLaunch g f).free = s.free := rfl

/-! modCtx. -/
@[simp] theorem State.modCtx_clock (s : State) (c : Nat) (f : Ctx → Ctx) : (s.modCtx c f).clock = s.clock := rfl
@[simp] theorem State.modCtx_power (s : State) (c : Nat) (f : Ctx → Ctx) : (s.modCtx c f).power = s.power := rfl
@[simp] theorem State.modCtx_leader (s : State) (c : Nat) (f : Ctx → Ctx) : (s.modCtx c f).leader = s.leader := rfl
@[simp] theorem State.modCtx_mgmtOk (s : State) (c : Nat) (f : Ctx → Ctx) : (s.modCtx c f).mgmtOk = s.mgmtOk := rfl
@[simp] theorem State.modCtx_dram (s : State) (c : Nat) (f : Ctx → Ctx) : (s.modCtx c f).dram = s.dram := rfl
@[simp] theorem State.modCtx_framesUsed (s : State) (c : Nat) (f : Ctx → Ctx) : (s.modCtx c f).framesUsed = s.framesUsed := rfl
@[simp] theorem State.modCtx_framesBad (s : State) (c : Nat) (f : Ctx → Ctx) : (s.modCtx c f).framesBad = s.framesBad := rfl
@[simp] theorem State.modCtx_keys (s : State) (c : Nat) (f : Ctx → Ctx) : (s.modCtx c f).keys = s.keys := rfl
@[simp] theorem State.modCtx_contexts (s : State) (c : Nat) (f : Ctx → Ctx) : (s.modCtx c f).contexts = s.contexts.map fun x => if x.id = c then f x else x := rfl
@[simp] theorem State.modCtx_sessions (s : State) (c : Nat) (f : Ctx → Ctx) : (s.modCtx c f).sessions = s.sessions := rfl
@[simp] theorem State.modCtx_images (s : State) (c : Nat) (f : Ctx → Ctx) : (s.modCtx c f).images = s.images := rfl
@[simp] theorem State.modCtx_launches (s : State) (c : Nat) (f : Ctx → Ctx) : (s.modCtx c f).launches = s.launches := rfl
@[simp] theorem State.modCtx_clusters (s : State) (c : Nat) (f : Ctx → Ctx) : (s.modCtx c f).clusters = s.clusters := rfl
@[simp] theorem State.modCtx_teams (s : State) (c : Nat) (f : Ctx → Ctx) : (s.modCtx c f).teams = s.teams := rfl
@[simp] theorem State.modCtx_cores (s : State) (c : Nat) (f : Ctx → Ctx) : (s.modCtx c f).cores = s.cores := rfl
@[simp] theorem State.modCtx_leadList (s : State) (c : Nat) (f : Ctx → Ctx) : (s.modCtx c f).leadList = s.leadList := rfl
@[simp] theorem State.modCtx_dieList (s : State) (c : Nat) (f : Ctx → Ctx) : (s.modCtx c f).dieList = s.dieList := rfl
@[simp] theorem State.modCtx_vigil (s : State) (c : Nat) (f : Ctx → Ctx) : (s.modCtx c f).vigil = s.vigil := rfl
@[simp] theorem State.modCtx_tasks (s : State) (c : Nat) (f : Ctx → Ctx) : (s.modCtx c f).tasks = s.tasks := rfl
@[simp] theorem State.modCtx_loads (s : State) (c : Nat) (f : Ctx → Ctx) : (s.modCtx c f).loads = s.loads := rfl
@[simp] theorem State.modCtx_path (s : State) (c : Nat) (f : Ctx → Ctx) : (s.modCtx c f).path = s.path := rfl
@[simp] theorem State.modCtx_atoms (s : State) (c : Nat) (f : Ctx → Ctx) : (s.modCtx c f).atoms = s.atoms := rfl
@[simp] theorem State.modCtx_walks (s : State) (c : Nat) (f : Ctx → Ctx) : (s.modCtx c f).walks = s.walks := rfl
@[simp] theorem State.modCtx_faults (s : State) (c : Nat) (f : Ctx → Ctx) : (s.modCtx c f).faults = s.faults := rfl
@[simp] theorem State.modCtx_adds (s : State) (c : Nat) (f : Ctx → Ctx) : (s.modCtx c f).adds = s.adds := rfl
@[simp] theorem State.modCtx_ops (s : State) (c : Nat) (f : Ctx → Ctx) : (s.modCtx c f).ops = s.ops := rfl
@[simp] theorem State.modCtx_engines (s : State) (c : Nat) (f : Ctx → Ctx) : (s.modCtx c f).engines = s.engines := rfl
@[simp] theorem State.modCtx_locks (s : State) (c : Nat) (f : Ctx → Ctx) : (s.modCtx c f).locks = s.locks := rfl
@[simp] theorem State.modCtx_steals (s : State) (c : Nat) (f : Ctx → Ctx) : (s.modCtx c f).steals = s.steals := rfl
@[simp] theorem State.modCtx_shoots (s : State) (c : Nat) (f : Ctx → Ctx) : (s.modCtx c f).shoots = s.shoots := rfl
@[simp] theorem State.modCtx_steers (s : State) (c : Nat) (f : Ctx → Ctx) : (s.modCtx c f).steers = s.steers := rfl
@[simp] theorem State.modCtx_switches (s : State) (c : Nat) (f : Ctx → Ctx) : (s.modCtx c f).switches = s.switches := rfl
@[simp] theorem State.modCtx_links (s : State) (c : Nat) (f : Ctx → Ctx) : (s.modCtx c f).links = s.links := rfl
@[simp] theorem State.modCtx_ports (s : State) (c : Nat) (f : Ctx → Ctx) : (s.modCtx c f).ports = s.ports := rfl
@[simp] theorem State.modCtx_flash (s : State) (c : Nat) (f : Ctx → Ctx) : (s.modCtx c f).flash = s.flash := rfl
@[simp] theorem State.modCtx_refreshRow (s : State) (c : Nat) (f : Ctx → Ctx) : (s.modCtx c f).refreshRow = s.refreshRow := rfl
@[simp] theorem State.modCtx_issueRow (s : State) (c : Nat) (f : Ctx → Ctx) : (s.modCtx c f).issueRow = s.issueRow := rfl
@[simp] theorem State.modCtx_ember (s : State) (c : Nat) (f : Ctx → Ctx) : (s.modCtx c f).ember = s.ember := rfl
@[simp] theorem State.modCtx_rowCopies (s : State) (c : Nat) (f : Ctx → Ctx) : (s.modCtx c f).rowCopies = s.rowCopies := rfl
@[simp] theorem State.modCtx_rehoming (s : State) (c : Nat) (f : Ctx → Ctx) : (s.modCtx c f).rehoming = s.rehoming := rfl
@[simp] theorem State.modCtx_replies (s : State) (c : Nat) (f : Ctx → Ctx) : (s.modCtx c f).replies = s.replies := rfl
@[simp] theorem State.modCtx_replayable (s : State) (c : Nat) (f : Ctx → Ctx) : (s.modCtx c f).replayable = s.replayable := rfl
@[simp] theorem State.modCtx_era (s : State) (c : Nat) (f : Ctx → Ctx) : (s.modCtx c f).era = s.era := rfl
@[simp] theorem State.modCtx_retiring (s : State) (c : Nat) (f : Ctx → Ctx) : (s.modCtx c f).retiring = s.retiring := rfl
@[simp] theorem State.modCtx_outbox (s : State) (c : Nat) (f : Ctx → Ctx) : (s.modCtx c f).outbox = s.outbox := rfl
@[simp] theorem State.modCtx_heldMsgs (s : State) (c : Nat) (f : Ctx → Ctx) : (s.modCtx c f).heldMsgs = s.heldMsgs := rfl
@[simp] theorem State.modCtx_nextId (s : State) (c : Nat) (f : Ctx → Ctx) : (s.modCtx c f).nextId = s.nextId := rfl
@[simp] theorem State.modCtx_nextTeam (s : State) (c : Nat) (f : Ctx → Ctx) : (s.modCtx c f).nextTeam = s.nextTeam := rfl
@[simp] theorem State.modCtx_nextUid (s : State) (c : Nat) (f : Ctx → Ctx) : (s.modCtx c f).nextUid = s.nextUid := rfl
@[simp] theorem State.modCtx_nextGrid (s : State) (c : Nat) (f : Ctx → Ctx) : (s.modCtx c f).nextGrid = s.nextGrid := rfl
@[simp] theorem State.modCtx_nextImage (s : State) (c : Nat) (f : Ctx → Ctx) : (s.modCtx c f).nextImage = s.nextImage := rfl
@[simp] theorem State.modCtx_nextFault (s : State) (c : Nat) (f : Ctx → Ctx) : (s.modCtx c f).nextFault = s.nextFault := rfl
@[simp] theorem State.modCtx_nextSession (s : State) (c : Nat) (f : Ctx → Ctx) : (s.modCtx c f).nextSession = s.nextSession := rfl
@[simp] theorem State.modCtx_nextTask (s : State) (c : Nat) (f : Ctx → Ctx) : (s.modCtx c f).nextTask = s.nextTask := rfl
@[simp] theorem State.modCtx_agenda (s : State) (c : Nat) (f : Ctx → Ctx) : (s.modCtx c f).agenda = s.agenda := rfl
@[simp] theorem State.modCtx_inbox (s : State) (c : Nat) (f : Ctx → Ctx) : (s.modCtx c f).inbox = s.inbox := rfl
@[simp] theorem State.modCtx_todo (s : State) (c : Nat) (f : Ctx → Ctx) : (s.modCtx c f).todo = s.todo := rfl
@[simp] theorem State.modCtx_cur (s : State) (c : Nat) (f : Ctx → Ctx) : (s.modCtx c f).cur = s.cur := rfl
@[simp] theorem State.modCtx_free (s : State) (c : Nat) (f : Ctx → Ctx) : (s.modCtx c f).free = s.free := rfl

/-! modCluster. -/
@[simp] theorem State.modCluster_clock (s : State) (l c : Nat) (f : Cluster → Cluster) : (s.modCluster l c f).clock = s.clock := rfl
@[simp] theorem State.modCluster_power (s : State) (l c : Nat) (f : Cluster → Cluster) : (s.modCluster l c f).power = s.power := rfl
@[simp] theorem State.modCluster_leader (s : State) (l c : Nat) (f : Cluster → Cluster) : (s.modCluster l c f).leader = s.leader := rfl
@[simp] theorem State.modCluster_mgmtOk (s : State) (l c : Nat) (f : Cluster → Cluster) : (s.modCluster l c f).mgmtOk = s.mgmtOk := rfl
@[simp] theorem State.modCluster_dram (s : State) (l c : Nat) (f : Cluster → Cluster) : (s.modCluster l c f).dram = s.dram := rfl
@[simp] theorem State.modCluster_framesUsed (s : State) (l c : Nat) (f : Cluster → Cluster) : (s.modCluster l c f).framesUsed = s.framesUsed := rfl
@[simp] theorem State.modCluster_framesBad (s : State) (l c : Nat) (f : Cluster → Cluster) : (s.modCluster l c f).framesBad = s.framesBad := rfl
@[simp] theorem State.modCluster_keys (s : State) (l c : Nat) (f : Cluster → Cluster) : (s.modCluster l c f).keys = s.keys := rfl
@[simp] theorem State.modCluster_contexts (s : State) (l c : Nat) (f : Cluster → Cluster) : (s.modCluster l c f).contexts = s.contexts := rfl
@[simp] theorem State.modCluster_sessions (s : State) (l c : Nat) (f : Cluster → Cluster) : (s.modCluster l c f).sessions = s.sessions := rfl
@[simp] theorem State.modCluster_images (s : State) (l c : Nat) (f : Cluster → Cluster) : (s.modCluster l c f).images = s.images := rfl
@[simp] theorem State.modCluster_launches (s : State) (l c : Nat) (f : Cluster → Cluster) : (s.modCluster l c f).launches = s.launches := rfl
@[simp] theorem State.modCluster_clusters (s : State) (l c : Nat) (f : Cluster → Cluster) : (s.modCluster l c f).clusters = s.clusters.map fun x => if x.launch = l ∧ x.id = c then f x else x := rfl
@[simp] theorem State.modCluster_teams (s : State) (l c : Nat) (f : Cluster → Cluster) : (s.modCluster l c f).teams = s.teams := rfl
@[simp] theorem State.modCluster_cores (s : State) (l c : Nat) (f : Cluster → Cluster) : (s.modCluster l c f).cores = s.cores := rfl
@[simp] theorem State.modCluster_leadList (s : State) (l c : Nat) (f : Cluster → Cluster) : (s.modCluster l c f).leadList = s.leadList := rfl
@[simp] theorem State.modCluster_dieList (s : State) (l c : Nat) (f : Cluster → Cluster) : (s.modCluster l c f).dieList = s.dieList := rfl
@[simp] theorem State.modCluster_vigil (s : State) (l c : Nat) (f : Cluster → Cluster) : (s.modCluster l c f).vigil = s.vigil := rfl
@[simp] theorem State.modCluster_tasks (s : State) (l c : Nat) (f : Cluster → Cluster) : (s.modCluster l c f).tasks = s.tasks := rfl
@[simp] theorem State.modCluster_loads (s : State) (l c : Nat) (f : Cluster → Cluster) : (s.modCluster l c f).loads = s.loads := rfl
@[simp] theorem State.modCluster_path (s : State) (l c : Nat) (f : Cluster → Cluster) : (s.modCluster l c f).path = s.path := rfl
@[simp] theorem State.modCluster_atoms (s : State) (l c : Nat) (f : Cluster → Cluster) : (s.modCluster l c f).atoms = s.atoms := rfl
@[simp] theorem State.modCluster_walks (s : State) (l c : Nat) (f : Cluster → Cluster) : (s.modCluster l c f).walks = s.walks := rfl
@[simp] theorem State.modCluster_faults (s : State) (l c : Nat) (f : Cluster → Cluster) : (s.modCluster l c f).faults = s.faults := rfl
@[simp] theorem State.modCluster_adds (s : State) (l c : Nat) (f : Cluster → Cluster) : (s.modCluster l c f).adds = s.adds := rfl
@[simp] theorem State.modCluster_ops (s : State) (l c : Nat) (f : Cluster → Cluster) : (s.modCluster l c f).ops = s.ops := rfl
@[simp] theorem State.modCluster_engines (s : State) (l c : Nat) (f : Cluster → Cluster) : (s.modCluster l c f).engines = s.engines := rfl
@[simp] theorem State.modCluster_locks (s : State) (l c : Nat) (f : Cluster → Cluster) : (s.modCluster l c f).locks = s.locks := rfl
@[simp] theorem State.modCluster_steals (s : State) (l c : Nat) (f : Cluster → Cluster) : (s.modCluster l c f).steals = s.steals := rfl
@[simp] theorem State.modCluster_shoots (s : State) (l c : Nat) (f : Cluster → Cluster) : (s.modCluster l c f).shoots = s.shoots := rfl
@[simp] theorem State.modCluster_steers (s : State) (l c : Nat) (f : Cluster → Cluster) : (s.modCluster l c f).steers = s.steers := rfl
@[simp] theorem State.modCluster_switches (s : State) (l c : Nat) (f : Cluster → Cluster) : (s.modCluster l c f).switches = s.switches := rfl
@[simp] theorem State.modCluster_links (s : State) (l c : Nat) (f : Cluster → Cluster) : (s.modCluster l c f).links = s.links := rfl
@[simp] theorem State.modCluster_ports (s : State) (l c : Nat) (f : Cluster → Cluster) : (s.modCluster l c f).ports = s.ports := rfl
@[simp] theorem State.modCluster_flash (s : State) (l c : Nat) (f : Cluster → Cluster) : (s.modCluster l c f).flash = s.flash := rfl
@[simp] theorem State.modCluster_refreshRow (s : State) (l c : Nat) (f : Cluster → Cluster) : (s.modCluster l c f).refreshRow = s.refreshRow := rfl
@[simp] theorem State.modCluster_issueRow (s : State) (l c : Nat) (f : Cluster → Cluster) : (s.modCluster l c f).issueRow = s.issueRow := rfl
@[simp] theorem State.modCluster_ember (s : State) (l c : Nat) (f : Cluster → Cluster) : (s.modCluster l c f).ember = s.ember := rfl
@[simp] theorem State.modCluster_rowCopies (s : State) (l c : Nat) (f : Cluster → Cluster) : (s.modCluster l c f).rowCopies = s.rowCopies := rfl
@[simp] theorem State.modCluster_rehoming (s : State) (l c : Nat) (f : Cluster → Cluster) : (s.modCluster l c f).rehoming = s.rehoming := rfl
@[simp] theorem State.modCluster_replies (s : State) (l c : Nat) (f : Cluster → Cluster) : (s.modCluster l c f).replies = s.replies := rfl
@[simp] theorem State.modCluster_replayable (s : State) (l c : Nat) (f : Cluster → Cluster) : (s.modCluster l c f).replayable = s.replayable := rfl
@[simp] theorem State.modCluster_era (s : State) (l c : Nat) (f : Cluster → Cluster) : (s.modCluster l c f).era = s.era := rfl
@[simp] theorem State.modCluster_retiring (s : State) (l c : Nat) (f : Cluster → Cluster) : (s.modCluster l c f).retiring = s.retiring := rfl
@[simp] theorem State.modCluster_outbox (s : State) (l c : Nat) (f : Cluster → Cluster) : (s.modCluster l c f).outbox = s.outbox := rfl
@[simp] theorem State.modCluster_heldMsgs (s : State) (l c : Nat) (f : Cluster → Cluster) : (s.modCluster l c f).heldMsgs = s.heldMsgs := rfl
@[simp] theorem State.modCluster_nextId (s : State) (l c : Nat) (f : Cluster → Cluster) : (s.modCluster l c f).nextId = s.nextId := rfl
@[simp] theorem State.modCluster_nextTeam (s : State) (l c : Nat) (f : Cluster → Cluster) : (s.modCluster l c f).nextTeam = s.nextTeam := rfl
@[simp] theorem State.modCluster_nextUid (s : State) (l c : Nat) (f : Cluster → Cluster) : (s.modCluster l c f).nextUid = s.nextUid := rfl
@[simp] theorem State.modCluster_nextGrid (s : State) (l c : Nat) (f : Cluster → Cluster) : (s.modCluster l c f).nextGrid = s.nextGrid := rfl
@[simp] theorem State.modCluster_nextImage (s : State) (l c : Nat) (f : Cluster → Cluster) : (s.modCluster l c f).nextImage = s.nextImage := rfl
@[simp] theorem State.modCluster_nextFault (s : State) (l c : Nat) (f : Cluster → Cluster) : (s.modCluster l c f).nextFault = s.nextFault := rfl
@[simp] theorem State.modCluster_nextSession (s : State) (l c : Nat) (f : Cluster → Cluster) : (s.modCluster l c f).nextSession = s.nextSession := rfl
@[simp] theorem State.modCluster_nextTask (s : State) (l c : Nat) (f : Cluster → Cluster) : (s.modCluster l c f).nextTask = s.nextTask := rfl
@[simp] theorem State.modCluster_agenda (s : State) (l c : Nat) (f : Cluster → Cluster) : (s.modCluster l c f).agenda = s.agenda := rfl
@[simp] theorem State.modCluster_inbox (s : State) (l c : Nat) (f : Cluster → Cluster) : (s.modCluster l c f).inbox = s.inbox := rfl
@[simp] theorem State.modCluster_todo (s : State) (l c : Nat) (f : Cluster → Cluster) : (s.modCluster l c f).todo = s.todo := rfl
@[simp] theorem State.modCluster_cur (s : State) (l c : Nat) (f : Cluster → Cluster) : (s.modCluster l c f).cur = s.cur := rfl
@[simp] theorem State.modCluster_free (s : State) (l c : Nat) (f : Cluster → Cluster) : (s.modCluster l c f).free = s.free := rfl

/-! modOp. -/
@[simp] theorem State.modOp_clock (s : State) (i : Nat) (f : EOp → EOp) : (s.modOp i f).clock = s.clock := rfl
@[simp] theorem State.modOp_power (s : State) (i : Nat) (f : EOp → EOp) : (s.modOp i f).power = s.power := rfl
@[simp] theorem State.modOp_leader (s : State) (i : Nat) (f : EOp → EOp) : (s.modOp i f).leader = s.leader := rfl
@[simp] theorem State.modOp_mgmtOk (s : State) (i : Nat) (f : EOp → EOp) : (s.modOp i f).mgmtOk = s.mgmtOk := rfl
@[simp] theorem State.modOp_dram (s : State) (i : Nat) (f : EOp → EOp) : (s.modOp i f).dram = s.dram := rfl
@[simp] theorem State.modOp_framesUsed (s : State) (i : Nat) (f : EOp → EOp) : (s.modOp i f).framesUsed = s.framesUsed := rfl
@[simp] theorem State.modOp_framesBad (s : State) (i : Nat) (f : EOp → EOp) : (s.modOp i f).framesBad = s.framesBad := rfl
@[simp] theorem State.modOp_keys (s : State) (i : Nat) (f : EOp → EOp) : (s.modOp i f).keys = s.keys := rfl
@[simp] theorem State.modOp_contexts (s : State) (i : Nat) (f : EOp → EOp) : (s.modOp i f).contexts = s.contexts := rfl
@[simp] theorem State.modOp_sessions (s : State) (i : Nat) (f : EOp → EOp) : (s.modOp i f).sessions = s.sessions := rfl
@[simp] theorem State.modOp_images (s : State) (i : Nat) (f : EOp → EOp) : (s.modOp i f).images = s.images := rfl
@[simp] theorem State.modOp_launches (s : State) (i : Nat) (f : EOp → EOp) : (s.modOp i f).launches = s.launches := rfl
@[simp] theorem State.modOp_clusters (s : State) (i : Nat) (f : EOp → EOp) : (s.modOp i f).clusters = s.clusters := rfl
@[simp] theorem State.modOp_teams (s : State) (i : Nat) (f : EOp → EOp) : (s.modOp i f).teams = s.teams := rfl
@[simp] theorem State.modOp_cores (s : State) (i : Nat) (f : EOp → EOp) : (s.modOp i f).cores = s.cores := rfl
@[simp] theorem State.modOp_leadList (s : State) (i : Nat) (f : EOp → EOp) : (s.modOp i f).leadList = s.leadList := rfl
@[simp] theorem State.modOp_dieList (s : State) (i : Nat) (f : EOp → EOp) : (s.modOp i f).dieList = s.dieList := rfl
@[simp] theorem State.modOp_vigil (s : State) (i : Nat) (f : EOp → EOp) : (s.modOp i f).vigil = s.vigil := rfl
@[simp] theorem State.modOp_tasks (s : State) (i : Nat) (f : EOp → EOp) : (s.modOp i f).tasks = s.tasks := rfl
@[simp] theorem State.modOp_loads (s : State) (i : Nat) (f : EOp → EOp) : (s.modOp i f).loads = s.loads := rfl
@[simp] theorem State.modOp_path (s : State) (i : Nat) (f : EOp → EOp) : (s.modOp i f).path = s.path := rfl
@[simp] theorem State.modOp_atoms (s : State) (i : Nat) (f : EOp → EOp) : (s.modOp i f).atoms = s.atoms := rfl
@[simp] theorem State.modOp_walks (s : State) (i : Nat) (f : EOp → EOp) : (s.modOp i f).walks = s.walks := rfl
@[simp] theorem State.modOp_faults (s : State) (i : Nat) (f : EOp → EOp) : (s.modOp i f).faults = s.faults := rfl
@[simp] theorem State.modOp_adds (s : State) (i : Nat) (f : EOp → EOp) : (s.modOp i f).adds = s.adds := rfl
@[simp] theorem State.modOp_ops (s : State) (i : Nat) (f : EOp → EOp) : (s.modOp i f).ops = s.ops.map fun x => if x.id = i then f x else x := rfl
@[simp] theorem State.modOp_engines (s : State) (i : Nat) (f : EOp → EOp) : (s.modOp i f).engines = s.engines := rfl
@[simp] theorem State.modOp_locks (s : State) (i : Nat) (f : EOp → EOp) : (s.modOp i f).locks = s.locks := rfl
@[simp] theorem State.modOp_steals (s : State) (i : Nat) (f : EOp → EOp) : (s.modOp i f).steals = s.steals := rfl
@[simp] theorem State.modOp_shoots (s : State) (i : Nat) (f : EOp → EOp) : (s.modOp i f).shoots = s.shoots := rfl
@[simp] theorem State.modOp_steers (s : State) (i : Nat) (f : EOp → EOp) : (s.modOp i f).steers = s.steers := rfl
@[simp] theorem State.modOp_switches (s : State) (i : Nat) (f : EOp → EOp) : (s.modOp i f).switches = s.switches := rfl
@[simp] theorem State.modOp_links (s : State) (i : Nat) (f : EOp → EOp) : (s.modOp i f).links = s.links := rfl
@[simp] theorem State.modOp_ports (s : State) (i : Nat) (f : EOp → EOp) : (s.modOp i f).ports = s.ports := rfl
@[simp] theorem State.modOp_flash (s : State) (i : Nat) (f : EOp → EOp) : (s.modOp i f).flash = s.flash := rfl
@[simp] theorem State.modOp_refreshRow (s : State) (i : Nat) (f : EOp → EOp) : (s.modOp i f).refreshRow = s.refreshRow := rfl
@[simp] theorem State.modOp_issueRow (s : State) (i : Nat) (f : EOp → EOp) : (s.modOp i f).issueRow = s.issueRow := rfl
@[simp] theorem State.modOp_ember (s : State) (i : Nat) (f : EOp → EOp) : (s.modOp i f).ember = s.ember := rfl
@[simp] theorem State.modOp_rowCopies (s : State) (i : Nat) (f : EOp → EOp) : (s.modOp i f).rowCopies = s.rowCopies := rfl
@[simp] theorem State.modOp_rehoming (s : State) (i : Nat) (f : EOp → EOp) : (s.modOp i f).rehoming = s.rehoming := rfl
@[simp] theorem State.modOp_replies (s : State) (i : Nat) (f : EOp → EOp) : (s.modOp i f).replies = s.replies := rfl
@[simp] theorem State.modOp_replayable (s : State) (i : Nat) (f : EOp → EOp) : (s.modOp i f).replayable = s.replayable := rfl
@[simp] theorem State.modOp_era (s : State) (i : Nat) (f : EOp → EOp) : (s.modOp i f).era = s.era := rfl
@[simp] theorem State.modOp_retiring (s : State) (i : Nat) (f : EOp → EOp) : (s.modOp i f).retiring = s.retiring := rfl
@[simp] theorem State.modOp_outbox (s : State) (i : Nat) (f : EOp → EOp) : (s.modOp i f).outbox = s.outbox := rfl
@[simp] theorem State.modOp_heldMsgs (s : State) (i : Nat) (f : EOp → EOp) : (s.modOp i f).heldMsgs = s.heldMsgs := rfl
@[simp] theorem State.modOp_nextId (s : State) (i : Nat) (f : EOp → EOp) : (s.modOp i f).nextId = s.nextId := rfl
@[simp] theorem State.modOp_nextTeam (s : State) (i : Nat) (f : EOp → EOp) : (s.modOp i f).nextTeam = s.nextTeam := rfl
@[simp] theorem State.modOp_nextUid (s : State) (i : Nat) (f : EOp → EOp) : (s.modOp i f).nextUid = s.nextUid := rfl
@[simp] theorem State.modOp_nextGrid (s : State) (i : Nat) (f : EOp → EOp) : (s.modOp i f).nextGrid = s.nextGrid := rfl
@[simp] theorem State.modOp_nextImage (s : State) (i : Nat) (f : EOp → EOp) : (s.modOp i f).nextImage = s.nextImage := rfl
@[simp] theorem State.modOp_nextFault (s : State) (i : Nat) (f : EOp → EOp) : (s.modOp i f).nextFault = s.nextFault := rfl
@[simp] theorem State.modOp_nextSession (s : State) (i : Nat) (f : EOp → EOp) : (s.modOp i f).nextSession = s.nextSession := rfl
@[simp] theorem State.modOp_nextTask (s : State) (i : Nat) (f : EOp → EOp) : (s.modOp i f).nextTask = s.nextTask := rfl
@[simp] theorem State.modOp_agenda (s : State) (i : Nat) (f : EOp → EOp) : (s.modOp i f).agenda = s.agenda := rfl
@[simp] theorem State.modOp_inbox (s : State) (i : Nat) (f : EOp → EOp) : (s.modOp i f).inbox = s.inbox := rfl
@[simp] theorem State.modOp_todo (s : State) (i : Nat) (f : EOp → EOp) : (s.modOp i f).todo = s.todo := rfl
@[simp] theorem State.modOp_cur (s : State) (i : Nat) (f : EOp → EOp) : (s.modOp i f).cur = s.cur := rfl
@[simp] theorem State.modOp_free (s : State) (i : Nat) (f : EOp → EOp) : (s.modOp i f).free = s.free := rfl

/-! sched. -/
@[simp] theorem State.sched_clock (s : State) (t : Nat) (i : Instr) : (s.sched t i).clock = s.clock := rfl
@[simp] theorem State.sched_power (s : State) (t : Nat) (i : Instr) : (s.sched t i).power = s.power := rfl
@[simp] theorem State.sched_leader (s : State) (t : Nat) (i : Instr) : (s.sched t i).leader = s.leader := rfl
@[simp] theorem State.sched_mgmtOk (s : State) (t : Nat) (i : Instr) : (s.sched t i).mgmtOk = s.mgmtOk := rfl
@[simp] theorem State.sched_dram (s : State) (t : Nat) (i : Instr) : (s.sched t i).dram = s.dram := rfl
@[simp] theorem State.sched_framesUsed (s : State) (t : Nat) (i : Instr) : (s.sched t i).framesUsed = s.framesUsed := rfl
@[simp] theorem State.sched_framesBad (s : State) (t : Nat) (i : Instr) : (s.sched t i).framesBad = s.framesBad := rfl
@[simp] theorem State.sched_keys (s : State) (t : Nat) (i : Instr) : (s.sched t i).keys = s.keys := rfl
@[simp] theorem State.sched_contexts (s : State) (t : Nat) (i : Instr) : (s.sched t i).contexts = s.contexts := rfl
@[simp] theorem State.sched_sessions (s : State) (t : Nat) (i : Instr) : (s.sched t i).sessions = s.sessions := rfl
@[simp] theorem State.sched_images (s : State) (t : Nat) (i : Instr) : (s.sched t i).images = s.images := rfl
@[simp] theorem State.sched_launches (s : State) (t : Nat) (i : Instr) : (s.sched t i).launches = s.launches := rfl
@[simp] theorem State.sched_clusters (s : State) (t : Nat) (i : Instr) : (s.sched t i).clusters = s.clusters := rfl
@[simp] theorem State.sched_teams (s : State) (t : Nat) (i : Instr) : (s.sched t i).teams = s.teams := rfl
@[simp] theorem State.sched_cores (s : State) (t : Nat) (i : Instr) : (s.sched t i).cores = s.cores := rfl
@[simp] theorem State.sched_leadList (s : State) (t : Nat) (i : Instr) : (s.sched t i).leadList = s.leadList := rfl
@[simp] theorem State.sched_dieList (s : State) (t : Nat) (i : Instr) : (s.sched t i).dieList = s.dieList := rfl
@[simp] theorem State.sched_vigil (s : State) (t : Nat) (i : Instr) : (s.sched t i).vigil = s.vigil := rfl
@[simp] theorem State.sched_tasks (s : State) (t : Nat) (i : Instr) : (s.sched t i).tasks = s.tasks := rfl
@[simp] theorem State.sched_loads (s : State) (t : Nat) (i : Instr) : (s.sched t i).loads = s.loads := rfl
@[simp] theorem State.sched_path (s : State) (t : Nat) (i : Instr) : (s.sched t i).path = s.path := rfl
@[simp] theorem State.sched_atoms (s : State) (t : Nat) (i : Instr) : (s.sched t i).atoms = s.atoms := rfl
@[simp] theorem State.sched_walks (s : State) (t : Nat) (i : Instr) : (s.sched t i).walks = s.walks := rfl
@[simp] theorem State.sched_faults (s : State) (t : Nat) (i : Instr) : (s.sched t i).faults = s.faults := rfl
@[simp] theorem State.sched_adds (s : State) (t : Nat) (i : Instr) : (s.sched t i).adds = s.adds := rfl
@[simp] theorem State.sched_ops (s : State) (t : Nat) (i : Instr) : (s.sched t i).ops = s.ops := rfl
@[simp] theorem State.sched_engines (s : State) (t : Nat) (i : Instr) : (s.sched t i).engines = s.engines := rfl
@[simp] theorem State.sched_locks (s : State) (t : Nat) (i : Instr) : (s.sched t i).locks = s.locks := rfl
@[simp] theorem State.sched_steals (s : State) (t : Nat) (i : Instr) : (s.sched t i).steals = s.steals := rfl
@[simp] theorem State.sched_shoots (s : State) (t : Nat) (i : Instr) : (s.sched t i).shoots = s.shoots := rfl
@[simp] theorem State.sched_steers (s : State) (t : Nat) (i : Instr) : (s.sched t i).steers = s.steers := rfl
@[simp] theorem State.sched_switches (s : State) (t : Nat) (i : Instr) : (s.sched t i).switches = s.switches := rfl
@[simp] theorem State.sched_links (s : State) (t : Nat) (i : Instr) : (s.sched t i).links = s.links := rfl
@[simp] theorem State.sched_ports (s : State) (t : Nat) (i : Instr) : (s.sched t i).ports = s.ports := rfl
@[simp] theorem State.sched_flash (s : State) (t : Nat) (i : Instr) : (s.sched t i).flash = s.flash := rfl
@[simp] theorem State.sched_refreshRow (s : State) (t : Nat) (i : Instr) : (s.sched t i).refreshRow = s.refreshRow := rfl
@[simp] theorem State.sched_issueRow (s : State) (t : Nat) (i : Instr) : (s.sched t i).issueRow = s.issueRow := rfl
@[simp] theorem State.sched_ember (s : State) (t : Nat) (i : Instr) : (s.sched t i).ember = s.ember := rfl
@[simp] theorem State.sched_rowCopies (s : State) (t : Nat) (i : Instr) : (s.sched t i).rowCopies = s.rowCopies := rfl
@[simp] theorem State.sched_rehoming (s : State) (t : Nat) (i : Instr) : (s.sched t i).rehoming = s.rehoming := rfl
@[simp] theorem State.sched_replies (s : State) (t : Nat) (i : Instr) : (s.sched t i).replies = s.replies := rfl
@[simp] theorem State.sched_replayable (s : State) (t : Nat) (i : Instr) : (s.sched t i).replayable = s.replayable := rfl
@[simp] theorem State.sched_era (s : State) (t : Nat) (i : Instr) : (s.sched t i).era = s.era := rfl
@[simp] theorem State.sched_retiring (s : State) (t : Nat) (i : Instr) : (s.sched t i).retiring = s.retiring := rfl
@[simp] theorem State.sched_outbox (s : State) (t : Nat) (i : Instr) : (s.sched t i).outbox = s.outbox := rfl
@[simp] theorem State.sched_heldMsgs (s : State) (t : Nat) (i : Instr) : (s.sched t i).heldMsgs = s.heldMsgs := rfl
@[simp] theorem State.sched_nextId (s : State) (t : Nat) (i : Instr) : (s.sched t i).nextId = s.nextId := rfl
@[simp] theorem State.sched_nextTeam (s : State) (t : Nat) (i : Instr) : (s.sched t i).nextTeam = s.nextTeam := rfl
@[simp] theorem State.sched_nextUid (s : State) (t : Nat) (i : Instr) : (s.sched t i).nextUid = s.nextUid := rfl
@[simp] theorem State.sched_nextGrid (s : State) (t : Nat) (i : Instr) : (s.sched t i).nextGrid = s.nextGrid := rfl
@[simp] theorem State.sched_nextImage (s : State) (t : Nat) (i : Instr) : (s.sched t i).nextImage = s.nextImage := rfl
@[simp] theorem State.sched_nextFault (s : State) (t : Nat) (i : Instr) : (s.sched t i).nextFault = s.nextFault := rfl
@[simp] theorem State.sched_nextSession (s : State) (t : Nat) (i : Instr) : (s.sched t i).nextSession = s.nextSession := rfl
@[simp] theorem State.sched_nextTask (s : State) (t : Nat) (i : Instr) : (s.sched t i).nextTask = s.nextTask := rfl
@[simp] theorem State.sched_agenda (s : State) (t : Nat) (i : Instr) : (s.sched t i).agenda = s.agenda ++ [(t, i)] := rfl
@[simp] theorem State.sched_inbox (s : State) (t : Nat) (i : Instr) : (s.sched t i).inbox = s.inbox := rfl
@[simp] theorem State.sched_todo (s : State) (t : Nat) (i : Instr) : (s.sched t i).todo = s.todo := rfl
@[simp] theorem State.sched_cur (s : State) (t : Nat) (i : Instr) : (s.sched t i).cur = s.cur := rfl
@[simp] theorem State.sched_free (s : State) (t : Nat) (i : Instr) : (s.sched t i).free = s.free := rfl

/-! after. -/
@[simp] theorem State.after_clock (s : State) (n : Nat) (i : Instr) : (s.after n i).clock = s.clock := rfl
@[simp] theorem State.after_power (s : State) (n : Nat) (i : Instr) : (s.after n i).power = s.power := rfl
@[simp] theorem State.after_leader (s : State) (n : Nat) (i : Instr) : (s.after n i).leader = s.leader := rfl
@[simp] theorem State.after_mgmtOk (s : State) (n : Nat) (i : Instr) : (s.after n i).mgmtOk = s.mgmtOk := rfl
@[simp] theorem State.after_dram (s : State) (n : Nat) (i : Instr) : (s.after n i).dram = s.dram := rfl
@[simp] theorem State.after_framesUsed (s : State) (n : Nat) (i : Instr) : (s.after n i).framesUsed = s.framesUsed := rfl
@[simp] theorem State.after_framesBad (s : State) (n : Nat) (i : Instr) : (s.after n i).framesBad = s.framesBad := rfl
@[simp] theorem State.after_keys (s : State) (n : Nat) (i : Instr) : (s.after n i).keys = s.keys := rfl
@[simp] theorem State.after_contexts (s : State) (n : Nat) (i : Instr) : (s.after n i).contexts = s.contexts := rfl
@[simp] theorem State.after_sessions (s : State) (n : Nat) (i : Instr) : (s.after n i).sessions = s.sessions := rfl
@[simp] theorem State.after_images (s : State) (n : Nat) (i : Instr) : (s.after n i).images = s.images := rfl
@[simp] theorem State.after_launches (s : State) (n : Nat) (i : Instr) : (s.after n i).launches = s.launches := rfl
@[simp] theorem State.after_clusters (s : State) (n : Nat) (i : Instr) : (s.after n i).clusters = s.clusters := rfl
@[simp] theorem State.after_teams (s : State) (n : Nat) (i : Instr) : (s.after n i).teams = s.teams := rfl
@[simp] theorem State.after_cores (s : State) (n : Nat) (i : Instr) : (s.after n i).cores = s.cores := rfl
@[simp] theorem State.after_leadList (s : State) (n : Nat) (i : Instr) : (s.after n i).leadList = s.leadList := rfl
@[simp] theorem State.after_dieList (s : State) (n : Nat) (i : Instr) : (s.after n i).dieList = s.dieList := rfl
@[simp] theorem State.after_vigil (s : State) (n : Nat) (i : Instr) : (s.after n i).vigil = s.vigil := rfl
@[simp] theorem State.after_tasks (s : State) (n : Nat) (i : Instr) : (s.after n i).tasks = s.tasks := rfl
@[simp] theorem State.after_loads (s : State) (n : Nat) (i : Instr) : (s.after n i).loads = s.loads := rfl
@[simp] theorem State.after_path (s : State) (n : Nat) (i : Instr) : (s.after n i).path = s.path := rfl
@[simp] theorem State.after_atoms (s : State) (n : Nat) (i : Instr) : (s.after n i).atoms = s.atoms := rfl
@[simp] theorem State.after_walks (s : State) (n : Nat) (i : Instr) : (s.after n i).walks = s.walks := rfl
@[simp] theorem State.after_faults (s : State) (n : Nat) (i : Instr) : (s.after n i).faults = s.faults := rfl
@[simp] theorem State.after_adds (s : State) (n : Nat) (i : Instr) : (s.after n i).adds = s.adds := rfl
@[simp] theorem State.after_ops (s : State) (n : Nat) (i : Instr) : (s.after n i).ops = s.ops := rfl
@[simp] theorem State.after_engines (s : State) (n : Nat) (i : Instr) : (s.after n i).engines = s.engines := rfl
@[simp] theorem State.after_locks (s : State) (n : Nat) (i : Instr) : (s.after n i).locks = s.locks := rfl
@[simp] theorem State.after_steals (s : State) (n : Nat) (i : Instr) : (s.after n i).steals = s.steals := rfl
@[simp] theorem State.after_shoots (s : State) (n : Nat) (i : Instr) : (s.after n i).shoots = s.shoots := rfl
@[simp] theorem State.after_steers (s : State) (n : Nat) (i : Instr) : (s.after n i).steers = s.steers := rfl
@[simp] theorem State.after_switches (s : State) (n : Nat) (i : Instr) : (s.after n i).switches = s.switches := rfl
@[simp] theorem State.after_links (s : State) (n : Nat) (i : Instr) : (s.after n i).links = s.links := rfl
@[simp] theorem State.after_ports (s : State) (n : Nat) (i : Instr) : (s.after n i).ports = s.ports := rfl
@[simp] theorem State.after_flash (s : State) (n : Nat) (i : Instr) : (s.after n i).flash = s.flash := rfl
@[simp] theorem State.after_refreshRow (s : State) (n : Nat) (i : Instr) : (s.after n i).refreshRow = s.refreshRow := rfl
@[simp] theorem State.after_issueRow (s : State) (n : Nat) (i : Instr) : (s.after n i).issueRow = s.issueRow := rfl
@[simp] theorem State.after_ember (s : State) (n : Nat) (i : Instr) : (s.after n i).ember = s.ember := rfl
@[simp] theorem State.after_rowCopies (s : State) (n : Nat) (i : Instr) : (s.after n i).rowCopies = s.rowCopies := rfl
@[simp] theorem State.after_rehoming (s : State) (n : Nat) (i : Instr) : (s.after n i).rehoming = s.rehoming := rfl
@[simp] theorem State.after_replies (s : State) (n : Nat) (i : Instr) : (s.after n i).replies = s.replies := rfl
@[simp] theorem State.after_replayable (s : State) (n : Nat) (i : Instr) : (s.after n i).replayable = s.replayable := rfl
@[simp] theorem State.after_era (s : State) (n : Nat) (i : Instr) : (s.after n i).era = s.era := rfl
@[simp] theorem State.after_retiring (s : State) (n : Nat) (i : Instr) : (s.after n i).retiring = s.retiring := rfl
@[simp] theorem State.after_outbox (s : State) (n : Nat) (i : Instr) : (s.after n i).outbox = s.outbox := rfl
@[simp] theorem State.after_heldMsgs (s : State) (n : Nat) (i : Instr) : (s.after n i).heldMsgs = s.heldMsgs := rfl
@[simp] theorem State.after_nextId (s : State) (n : Nat) (i : Instr) : (s.after n i).nextId = s.nextId := rfl
@[simp] theorem State.after_nextTeam (s : State) (n : Nat) (i : Instr) : (s.after n i).nextTeam = s.nextTeam := rfl
@[simp] theorem State.after_nextUid (s : State) (n : Nat) (i : Instr) : (s.after n i).nextUid = s.nextUid := rfl
@[simp] theorem State.after_nextGrid (s : State) (n : Nat) (i : Instr) : (s.after n i).nextGrid = s.nextGrid := rfl
@[simp] theorem State.after_nextImage (s : State) (n : Nat) (i : Instr) : (s.after n i).nextImage = s.nextImage := rfl
@[simp] theorem State.after_nextFault (s : State) (n : Nat) (i : Instr) : (s.after n i).nextFault = s.nextFault := rfl
@[simp] theorem State.after_nextSession (s : State) (n : Nat) (i : Instr) : (s.after n i).nextSession = s.nextSession := rfl
@[simp] theorem State.after_nextTask (s : State) (n : Nat) (i : Instr) : (s.after n i).nextTask = s.nextTask := rfl
@[simp] theorem State.after_agenda (s : State) (n : Nat) (i : Instr) : (s.after n i).agenda = s.agenda ++ [(s.clock + n + Config.freeDelay s.free, i)] := rfl
@[simp] theorem State.after_inbox (s : State) (n : Nat) (i : Instr) : (s.after n i).inbox = s.inbox := rfl
@[simp] theorem State.after_todo (s : State) (n : Nat) (i : Instr) : (s.after n i).todo = s.todo := rfl
@[simp] theorem State.after_cur (s : State) (n : Nat) (i : Instr) : (s.after n i).cur = s.cur := rfl
@[simp] theorem State.after_free (s : State) (n : Nat) (i : Instr) : (s.after n i).free = s.free + 1 := rfl

/-! again. -/
@[simp] theorem State.again_clock (s : State) (i : Instr) : (s.again i).clock = s.clock := rfl
@[simp] theorem State.again_power (s : State) (i : Instr) : (s.again i).power = s.power := rfl
@[simp] theorem State.again_leader (s : State) (i : Instr) : (s.again i).leader = s.leader := rfl
@[simp] theorem State.again_mgmtOk (s : State) (i : Instr) : (s.again i).mgmtOk = s.mgmtOk := rfl
@[simp] theorem State.again_dram (s : State) (i : Instr) : (s.again i).dram = s.dram := rfl
@[simp] theorem State.again_framesUsed (s : State) (i : Instr) : (s.again i).framesUsed = s.framesUsed := rfl
@[simp] theorem State.again_framesBad (s : State) (i : Instr) : (s.again i).framesBad = s.framesBad := rfl
@[simp] theorem State.again_keys (s : State) (i : Instr) : (s.again i).keys = s.keys := rfl
@[simp] theorem State.again_contexts (s : State) (i : Instr) : (s.again i).contexts = s.contexts := rfl
@[simp] theorem State.again_sessions (s : State) (i : Instr) : (s.again i).sessions = s.sessions := rfl
@[simp] theorem State.again_images (s : State) (i : Instr) : (s.again i).images = s.images := rfl
@[simp] theorem State.again_launches (s : State) (i : Instr) : (s.again i).launches = s.launches := rfl
@[simp] theorem State.again_clusters (s : State) (i : Instr) : (s.again i).clusters = s.clusters := rfl
@[simp] theorem State.again_teams (s : State) (i : Instr) : (s.again i).teams = s.teams := rfl
@[simp] theorem State.again_cores (s : State) (i : Instr) : (s.again i).cores = s.cores := rfl
@[simp] theorem State.again_leadList (s : State) (i : Instr) : (s.again i).leadList = s.leadList := rfl
@[simp] theorem State.again_dieList (s : State) (i : Instr) : (s.again i).dieList = s.dieList := rfl
@[simp] theorem State.again_vigil (s : State) (i : Instr) : (s.again i).vigil = s.vigil := rfl
@[simp] theorem State.again_tasks (s : State) (i : Instr) : (s.again i).tasks = s.tasks := rfl
@[simp] theorem State.again_loads (s : State) (i : Instr) : (s.again i).loads = s.loads := rfl
@[simp] theorem State.again_path (s : State) (i : Instr) : (s.again i).path = s.path := rfl
@[simp] theorem State.again_atoms (s : State) (i : Instr) : (s.again i).atoms = s.atoms := rfl
@[simp] theorem State.again_walks (s : State) (i : Instr) : (s.again i).walks = s.walks := rfl
@[simp] theorem State.again_faults (s : State) (i : Instr) : (s.again i).faults = s.faults := rfl
@[simp] theorem State.again_adds (s : State) (i : Instr) : (s.again i).adds = s.adds := rfl
@[simp] theorem State.again_ops (s : State) (i : Instr) : (s.again i).ops = s.ops := rfl
@[simp] theorem State.again_engines (s : State) (i : Instr) : (s.again i).engines = s.engines := rfl
@[simp] theorem State.again_locks (s : State) (i : Instr) : (s.again i).locks = s.locks := rfl
@[simp] theorem State.again_steals (s : State) (i : Instr) : (s.again i).steals = s.steals := rfl
@[simp] theorem State.again_shoots (s : State) (i : Instr) : (s.again i).shoots = s.shoots := rfl
@[simp] theorem State.again_steers (s : State) (i : Instr) : (s.again i).steers = s.steers := rfl
@[simp] theorem State.again_switches (s : State) (i : Instr) : (s.again i).switches = s.switches := rfl
@[simp] theorem State.again_links (s : State) (i : Instr) : (s.again i).links = s.links := rfl
@[simp] theorem State.again_ports (s : State) (i : Instr) : (s.again i).ports = s.ports := rfl
@[simp] theorem State.again_flash (s : State) (i : Instr) : (s.again i).flash = s.flash := rfl
@[simp] theorem State.again_refreshRow (s : State) (i : Instr) : (s.again i).refreshRow = s.refreshRow := rfl
@[simp] theorem State.again_issueRow (s : State) (i : Instr) : (s.again i).issueRow = s.issueRow := rfl
@[simp] theorem State.again_ember (s : State) (i : Instr) : (s.again i).ember = s.ember := rfl
@[simp] theorem State.again_rowCopies (s : State) (i : Instr) : (s.again i).rowCopies = s.rowCopies := rfl
@[simp] theorem State.again_rehoming (s : State) (i : Instr) : (s.again i).rehoming = s.rehoming := rfl
@[simp] theorem State.again_replies (s : State) (i : Instr) : (s.again i).replies = s.replies := rfl
@[simp] theorem State.again_replayable (s : State) (i : Instr) : (s.again i).replayable = s.replayable := rfl
@[simp] theorem State.again_era (s : State) (i : Instr) : (s.again i).era = s.era := rfl
@[simp] theorem State.again_retiring (s : State) (i : Instr) : (s.again i).retiring = s.retiring := rfl
@[simp] theorem State.again_outbox (s : State) (i : Instr) : (s.again i).outbox = s.outbox := rfl
@[simp] theorem State.again_heldMsgs (s : State) (i : Instr) : (s.again i).heldMsgs = s.heldMsgs := rfl
@[simp] theorem State.again_nextId (s : State) (i : Instr) : (s.again i).nextId = s.nextId := rfl
@[simp] theorem State.again_nextTeam (s : State) (i : Instr) : (s.again i).nextTeam = s.nextTeam := rfl
@[simp] theorem State.again_nextUid (s : State) (i : Instr) : (s.again i).nextUid = s.nextUid := rfl
@[simp] theorem State.again_nextGrid (s : State) (i : Instr) : (s.again i).nextGrid = s.nextGrid := rfl
@[simp] theorem State.again_nextImage (s : State) (i : Instr) : (s.again i).nextImage = s.nextImage := rfl
@[simp] theorem State.again_nextFault (s : State) (i : Instr) : (s.again i).nextFault = s.nextFault := rfl
@[simp] theorem State.again_nextSession (s : State) (i : Instr) : (s.again i).nextSession = s.nextSession := rfl
@[simp] theorem State.again_nextTask (s : State) (i : Instr) : (s.again i).nextTask = s.nextTask := rfl
@[simp] theorem State.again_agenda (s : State) (i : Instr) : (s.again i).agenda = s.agenda ++ [(s.clock + 1, i)] := rfl
@[simp] theorem State.again_inbox (s : State) (i : Instr) : (s.again i).inbox = s.inbox := rfl
@[simp] theorem State.again_todo (s : State) (i : Instr) : (s.again i).todo = s.todo := rfl
@[simp] theorem State.again_cur (s : State) (i : Instr) : (s.again i).cur = s.cur := rfl
@[simp] theorem State.again_free (s : State) (i : Instr) : (s.again i).free = s.free := rfl

/-! dropL1. -/
@[simp] theorem State.dropL1_clock (s : State) (c : Nat) : (s.dropL1 c).clock = s.clock := rfl
@[simp] theorem State.dropL1_power (s : State) (c : Nat) : (s.dropL1 c).power = s.power := rfl
@[simp] theorem State.dropL1_leader (s : State) (c : Nat) : (s.dropL1 c).leader = s.leader := rfl
@[simp] theorem State.dropL1_mgmtOk (s : State) (c : Nat) : (s.dropL1 c).mgmtOk = s.mgmtOk := rfl
@[simp] theorem State.dropL1_dram (s : State) (c : Nat) : (s.dropL1 c).dram = s.dram := rfl
@[simp] theorem State.dropL1_framesUsed (s : State) (c : Nat) : (s.dropL1 c).framesUsed = s.framesUsed := rfl
@[simp] theorem State.dropL1_framesBad (s : State) (c : Nat) : (s.dropL1 c).framesBad = s.framesBad := rfl
@[simp] theorem State.dropL1_keys (s : State) (c : Nat) : (s.dropL1 c).keys = s.keys := rfl
@[simp] theorem State.dropL1_contexts (s : State) (c : Nat) : (s.dropL1 c).contexts = s.contexts := rfl
@[simp] theorem State.dropL1_sessions (s : State) (c : Nat) : (s.dropL1 c).sessions = s.sessions := rfl
@[simp] theorem State.dropL1_images (s : State) (c : Nat) : (s.dropL1 c).images = s.images := rfl
@[simp] theorem State.dropL1_launches (s : State) (c : Nat) : (s.dropL1 c).launches = s.launches := rfl
@[simp] theorem State.dropL1_clusters (s : State) (c : Nat) : (s.dropL1 c).clusters = s.clusters := rfl
@[simp] theorem State.dropL1_teams (s : State) (c : Nat) : (s.dropL1 c).teams = s.teams := rfl
@[simp] theorem State.dropL1_cores (s : State) (c : Nat) : (s.dropL1 c).cores = { s.core c with l1 := [] } :: s.cores.filter fun x => x.coord != c := rfl
@[simp] theorem State.dropL1_leadList (s : State) (c : Nat) : (s.dropL1 c).leadList = s.leadList := rfl
@[simp] theorem State.dropL1_dieList (s : State) (c : Nat) : (s.dropL1 c).dieList = s.dieList := rfl
@[simp] theorem State.dropL1_vigil (s : State) (c : Nat) : (s.dropL1 c).vigil = s.vigil := rfl
@[simp] theorem State.dropL1_tasks (s : State) (c : Nat) : (s.dropL1 c).tasks = s.tasks := rfl
@[simp] theorem State.dropL1_loads (s : State) (c : Nat) : (s.dropL1 c).loads = s.loads := rfl
@[simp] theorem State.dropL1_path (s : State) (c : Nat) : (s.dropL1 c).path = s.path := rfl
@[simp] theorem State.dropL1_atoms (s : State) (c : Nat) : (s.dropL1 c).atoms = s.atoms := rfl
@[simp] theorem State.dropL1_walks (s : State) (c : Nat) : (s.dropL1 c).walks = s.walks := rfl
@[simp] theorem State.dropL1_faults (s : State) (c : Nat) : (s.dropL1 c).faults = s.faults := rfl
@[simp] theorem State.dropL1_adds (s : State) (c : Nat) : (s.dropL1 c).adds = s.adds := rfl
@[simp] theorem State.dropL1_ops (s : State) (c : Nat) : (s.dropL1 c).ops = s.ops := rfl
@[simp] theorem State.dropL1_engines (s : State) (c : Nat) : (s.dropL1 c).engines = s.engines := rfl
@[simp] theorem State.dropL1_locks (s : State) (c : Nat) : (s.dropL1 c).locks = s.locks := rfl
@[simp] theorem State.dropL1_steals (s : State) (c : Nat) : (s.dropL1 c).steals = s.steals := rfl
@[simp] theorem State.dropL1_shoots (s : State) (c : Nat) : (s.dropL1 c).shoots = s.shoots := rfl
@[simp] theorem State.dropL1_steers (s : State) (c : Nat) : (s.dropL1 c).steers = s.steers := rfl
@[simp] theorem State.dropL1_switches (s : State) (c : Nat) : (s.dropL1 c).switches = s.switches := rfl
@[simp] theorem State.dropL1_links (s : State) (c : Nat) : (s.dropL1 c).links = s.links := rfl
@[simp] theorem State.dropL1_ports (s : State) (c : Nat) : (s.dropL1 c).ports = s.ports := rfl
@[simp] theorem State.dropL1_flash (s : State) (c : Nat) : (s.dropL1 c).flash = s.flash := rfl
@[simp] theorem State.dropL1_refreshRow (s : State) (c : Nat) : (s.dropL1 c).refreshRow = s.refreshRow := rfl
@[simp] theorem State.dropL1_issueRow (s : State) (c : Nat) : (s.dropL1 c).issueRow = s.issueRow := rfl
@[simp] theorem State.dropL1_ember (s : State) (c : Nat) : (s.dropL1 c).ember = s.ember := rfl
@[simp] theorem State.dropL1_rowCopies (s : State) (c : Nat) : (s.dropL1 c).rowCopies = s.rowCopies := rfl
@[simp] theorem State.dropL1_rehoming (s : State) (c : Nat) : (s.dropL1 c).rehoming = s.rehoming := rfl
@[simp] theorem State.dropL1_replies (s : State) (c : Nat) : (s.dropL1 c).replies = s.replies := rfl
@[simp] theorem State.dropL1_replayable (s : State) (c : Nat) : (s.dropL1 c).replayable = s.replayable := rfl
@[simp] theorem State.dropL1_era (s : State) (c : Nat) : (s.dropL1 c).era = s.era := rfl
@[simp] theorem State.dropL1_retiring (s : State) (c : Nat) : (s.dropL1 c).retiring = s.retiring := rfl
@[simp] theorem State.dropL1_outbox (s : State) (c : Nat) : (s.dropL1 c).outbox = s.outbox := rfl
@[simp] theorem State.dropL1_heldMsgs (s : State) (c : Nat) : (s.dropL1 c).heldMsgs = s.heldMsgs := rfl
@[simp] theorem State.dropL1_nextId (s : State) (c : Nat) : (s.dropL1 c).nextId = s.nextId := rfl
@[simp] theorem State.dropL1_nextTeam (s : State) (c : Nat) : (s.dropL1 c).nextTeam = s.nextTeam := rfl
@[simp] theorem State.dropL1_nextUid (s : State) (c : Nat) : (s.dropL1 c).nextUid = s.nextUid := rfl
@[simp] theorem State.dropL1_nextGrid (s : State) (c : Nat) : (s.dropL1 c).nextGrid = s.nextGrid := rfl
@[simp] theorem State.dropL1_nextImage (s : State) (c : Nat) : (s.dropL1 c).nextImage = s.nextImage := rfl
@[simp] theorem State.dropL1_nextFault (s : State) (c : Nat) : (s.dropL1 c).nextFault = s.nextFault := rfl
@[simp] theorem State.dropL1_nextSession (s : State) (c : Nat) : (s.dropL1 c).nextSession = s.nextSession := rfl
@[simp] theorem State.dropL1_nextTask (s : State) (c : Nat) : (s.dropL1 c).nextTask = s.nextTask := rfl
@[simp] theorem State.dropL1_agenda (s : State) (c : Nat) : (s.dropL1 c).agenda = s.agenda := rfl
@[simp] theorem State.dropL1_inbox (s : State) (c : Nat) : (s.dropL1 c).inbox = s.inbox := rfl
@[simp] theorem State.dropL1_todo (s : State) (c : Nat) : (s.dropL1 c).todo = s.todo := rfl
@[simp] theorem State.dropL1_cur (s : State) (c : Nat) : (s.dropL1 c).cur = s.cur := rfl
@[simp] theorem State.dropL1_free (s : State) (c : Nat) : (s.dropL1 c).free = s.free := rfl

/-! wakeGroup. -/
@[simp] theorem State.wakeGroup_clock (s : State) (g : GRef) : (s.wakeGroup g).clock = s.clock := rfl
@[simp] theorem State.wakeGroup_power (s : State) (g : GRef) : (s.wakeGroup g).power = s.power := rfl
@[simp] theorem State.wakeGroup_leader (s : State) (g : GRef) : (s.wakeGroup g).leader = s.leader := rfl
@[simp] theorem State.wakeGroup_mgmtOk (s : State) (g : GRef) : (s.wakeGroup g).mgmtOk = s.mgmtOk := rfl
@[simp] theorem State.wakeGroup_dram (s : State) (g : GRef) : (s.wakeGroup g).dram = s.dram := rfl
@[simp] theorem State.wakeGroup_framesUsed (s : State) (g : GRef) : (s.wakeGroup g).framesUsed = s.framesUsed := rfl
@[simp] theorem State.wakeGroup_framesBad (s : State) (g : GRef) : (s.wakeGroup g).framesBad = s.framesBad := rfl
@[simp] theorem State.wakeGroup_keys (s : State) (g : GRef) : (s.wakeGroup g).keys = s.keys := rfl
@[simp] theorem State.wakeGroup_contexts (s : State) (g : GRef) : (s.wakeGroup g).contexts = s.contexts := rfl
@[simp] theorem State.wakeGroup_sessions (s : State) (g : GRef) : (s.wakeGroup g).sessions = s.sessions := rfl
@[simp] theorem State.wakeGroup_images (s : State) (g : GRef) : (s.wakeGroup g).images = s.images := rfl
@[simp] theorem State.wakeGroup_launches (s : State) (g : GRef) : (s.wakeGroup g).launches = s.launches := rfl
@[simp] theorem State.wakeGroup_clusters (s : State) (g : GRef) : (s.wakeGroup g).clusters = s.clusters := rfl
@[simp] theorem State.wakeGroup_teams (s : State) (g : GRef) : (s.wakeGroup g).teams = s.teams.map fun x => if x.id = g.team then x.modGroup g.slot Group.woken else x := rfl
@[simp] theorem State.wakeGroup_cores (s : State) (g : GRef) : (s.wakeGroup g).cores = s.cores := rfl
@[simp] theorem State.wakeGroup_leadList (s : State) (g : GRef) : (s.wakeGroup g).leadList = s.leadList := rfl
@[simp] theorem State.wakeGroup_dieList (s : State) (g : GRef) : (s.wakeGroup g).dieList = s.dieList := rfl
@[simp] theorem State.wakeGroup_vigil (s : State) (g : GRef) : (s.wakeGroup g).vigil = s.vigil := rfl
@[simp] theorem State.wakeGroup_tasks (s : State) (g : GRef) : (s.wakeGroup g).tasks = s.tasks := rfl
@[simp] theorem State.wakeGroup_loads (s : State) (g : GRef) : (s.wakeGroup g).loads = s.loads := rfl
@[simp] theorem State.wakeGroup_path (s : State) (g : GRef) : (s.wakeGroup g).path = s.path := rfl
@[simp] theorem State.wakeGroup_atoms (s : State) (g : GRef) : (s.wakeGroup g).atoms = s.atoms := rfl
@[simp] theorem State.wakeGroup_walks (s : State) (g : GRef) : (s.wakeGroup g).walks = s.walks := rfl
@[simp] theorem State.wakeGroup_faults (s : State) (g : GRef) : (s.wakeGroup g).faults = s.faults := rfl
@[simp] theorem State.wakeGroup_adds (s : State) (g : GRef) : (s.wakeGroup g).adds = s.adds := rfl
@[simp] theorem State.wakeGroup_ops (s : State) (g : GRef) : (s.wakeGroup g).ops = s.ops := rfl
@[simp] theorem State.wakeGroup_engines (s : State) (g : GRef) : (s.wakeGroup g).engines = s.engines := rfl
@[simp] theorem State.wakeGroup_locks (s : State) (g : GRef) : (s.wakeGroup g).locks = s.locks := rfl
@[simp] theorem State.wakeGroup_steals (s : State) (g : GRef) : (s.wakeGroup g).steals = s.steals := rfl
@[simp] theorem State.wakeGroup_shoots (s : State) (g : GRef) : (s.wakeGroup g).shoots = s.shoots := rfl
@[simp] theorem State.wakeGroup_steers (s : State) (g : GRef) : (s.wakeGroup g).steers = s.steers := rfl
@[simp] theorem State.wakeGroup_switches (s : State) (g : GRef) : (s.wakeGroup g).switches = s.switches := rfl
@[simp] theorem State.wakeGroup_links (s : State) (g : GRef) : (s.wakeGroup g).links = s.links := rfl
@[simp] theorem State.wakeGroup_ports (s : State) (g : GRef) : (s.wakeGroup g).ports = s.ports := rfl
@[simp] theorem State.wakeGroup_flash (s : State) (g : GRef) : (s.wakeGroup g).flash = s.flash := rfl
@[simp] theorem State.wakeGroup_refreshRow (s : State) (g : GRef) : (s.wakeGroup g).refreshRow = s.refreshRow := rfl
@[simp] theorem State.wakeGroup_issueRow (s : State) (g : GRef) : (s.wakeGroup g).issueRow = s.issueRow := rfl
@[simp] theorem State.wakeGroup_ember (s : State) (g : GRef) : (s.wakeGroup g).ember = s.ember := rfl
@[simp] theorem State.wakeGroup_rowCopies (s : State) (g : GRef) : (s.wakeGroup g).rowCopies = s.rowCopies := rfl
@[simp] theorem State.wakeGroup_rehoming (s : State) (g : GRef) : (s.wakeGroup g).rehoming = s.rehoming := rfl
@[simp] theorem State.wakeGroup_replies (s : State) (g : GRef) : (s.wakeGroup g).replies = s.replies := rfl
@[simp] theorem State.wakeGroup_replayable (s : State) (g : GRef) : (s.wakeGroup g).replayable = s.replayable := rfl
@[simp] theorem State.wakeGroup_era (s : State) (g : GRef) : (s.wakeGroup g).era = s.era := rfl
@[simp] theorem State.wakeGroup_retiring (s : State) (g : GRef) : (s.wakeGroup g).retiring = s.retiring := rfl
@[simp] theorem State.wakeGroup_outbox (s : State) (g : GRef) : (s.wakeGroup g).outbox = s.outbox := rfl
@[simp] theorem State.wakeGroup_heldMsgs (s : State) (g : GRef) : (s.wakeGroup g).heldMsgs = s.heldMsgs := rfl
@[simp] theorem State.wakeGroup_nextId (s : State) (g : GRef) : (s.wakeGroup g).nextId = s.nextId := rfl
@[simp] theorem State.wakeGroup_nextTeam (s : State) (g : GRef) : (s.wakeGroup g).nextTeam = s.nextTeam := rfl
@[simp] theorem State.wakeGroup_nextUid (s : State) (g : GRef) : (s.wakeGroup g).nextUid = s.nextUid := rfl
@[simp] theorem State.wakeGroup_nextGrid (s : State) (g : GRef) : (s.wakeGroup g).nextGrid = s.nextGrid := rfl
@[simp] theorem State.wakeGroup_nextImage (s : State) (g : GRef) : (s.wakeGroup g).nextImage = s.nextImage := rfl
@[simp] theorem State.wakeGroup_nextFault (s : State) (g : GRef) : (s.wakeGroup g).nextFault = s.nextFault := rfl
@[simp] theorem State.wakeGroup_nextSession (s : State) (g : GRef) : (s.wakeGroup g).nextSession = s.nextSession := rfl
@[simp] theorem State.wakeGroup_nextTask (s : State) (g : GRef) : (s.wakeGroup g).nextTask = s.nextTask := rfl
@[simp] theorem State.wakeGroup_agenda (s : State) (g : GRef) : (s.wakeGroup g).agenda = s.agenda := rfl
@[simp] theorem State.wakeGroup_inbox (s : State) (g : GRef) : (s.wakeGroup g).inbox = s.inbox := rfl
@[simp] theorem State.wakeGroup_todo (s : State) (g : GRef) : (s.wakeGroup g).todo = s.todo := rfl
@[simp] theorem State.wakeGroup_cur (s : State) (g : GRef) : (s.wakeGroup g).cur = s.cur := rfl
@[simp] theorem State.wakeGroup_free (s : State) (g : GRef) : (s.wakeGroup g).free = s.free := rfl

/-! unlock. -/
@[simp] theorem State.unlock_clock (s : State) (o : Nat) : (s.unlock o).clock = s.clock := rfl
@[simp] theorem State.unlock_power (s : State) (o : Nat) : (s.unlock o).power = s.power := rfl
@[simp] theorem State.unlock_leader (s : State) (o : Nat) : (s.unlock o).leader = s.leader := rfl
@[simp] theorem State.unlock_mgmtOk (s : State) (o : Nat) : (s.unlock o).mgmtOk = s.mgmtOk := rfl
@[simp] theorem State.unlock_dram (s : State) (o : Nat) : (s.unlock o).dram = s.dram := rfl
@[simp] theorem State.unlock_framesUsed (s : State) (o : Nat) : (s.unlock o).framesUsed = s.framesUsed := rfl
@[simp] theorem State.unlock_framesBad (s : State) (o : Nat) : (s.unlock o).framesBad = s.framesBad := rfl
@[simp] theorem State.unlock_keys (s : State) (o : Nat) : (s.unlock o).keys = s.keys := rfl
@[simp] theorem State.unlock_contexts (s : State) (o : Nat) : (s.unlock o).contexts = s.contexts := rfl
@[simp] theorem State.unlock_sessions (s : State) (o : Nat) : (s.unlock o).sessions = s.sessions := rfl
@[simp] theorem State.unlock_images (s : State) (o : Nat) : (s.unlock o).images = s.images := rfl
@[simp] theorem State.unlock_launches (s : State) (o : Nat) : (s.unlock o).launches = s.launches := rfl
@[simp] theorem State.unlock_clusters (s : State) (o : Nat) : (s.unlock o).clusters = s.clusters := rfl
@[simp] theorem State.unlock_teams (s : State) (o : Nat) : (s.unlock o).teams = s.teams := rfl
@[simp] theorem State.unlock_cores (s : State) (o : Nat) : (s.unlock o).cores = s.cores := rfl
@[simp] theorem State.unlock_leadList (s : State) (o : Nat) : (s.unlock o).leadList = s.leadList := rfl
@[simp] theorem State.unlock_dieList (s : State) (o : Nat) : (s.unlock o).dieList = s.dieList := rfl
@[simp] theorem State.unlock_vigil (s : State) (o : Nat) : (s.unlock o).vigil = s.vigil := rfl
@[simp] theorem State.unlock_tasks (s : State) (o : Nat) : (s.unlock o).tasks = s.tasks := rfl
@[simp] theorem State.unlock_loads (s : State) (o : Nat) : (s.unlock o).loads = s.loads := rfl
@[simp] theorem State.unlock_path (s : State) (o : Nat) : (s.unlock o).path = s.path := rfl
@[simp] theorem State.unlock_atoms (s : State) (o : Nat) : (s.unlock o).atoms = s.atoms := rfl
@[simp] theorem State.unlock_walks (s : State) (o : Nat) : (s.unlock o).walks = s.walks := rfl
@[simp] theorem State.unlock_faults (s : State) (o : Nat) : (s.unlock o).faults = s.faults := rfl
@[simp] theorem State.unlock_adds (s : State) (o : Nat) : (s.unlock o).adds = s.adds := rfl
@[simp] theorem State.unlock_ops (s : State) (o : Nat) : (s.unlock o).ops = s.ops := rfl
@[simp] theorem State.unlock_engines (s : State) (o : Nat) : (s.unlock o).engines = s.engines := rfl
@[simp] theorem State.unlock_locks (s : State) (o : Nat) : (s.unlock o).locks = s.locks.filter fun k => k.op != o := rfl
@[simp] theorem State.unlock_steals (s : State) (o : Nat) : (s.unlock o).steals = s.steals := rfl
@[simp] theorem State.unlock_shoots (s : State) (o : Nat) : (s.unlock o).shoots = s.shoots := rfl
@[simp] theorem State.unlock_steers (s : State) (o : Nat) : (s.unlock o).steers = s.steers := rfl
@[simp] theorem State.unlock_switches (s : State) (o : Nat) : (s.unlock o).switches = s.switches := rfl
@[simp] theorem State.unlock_links (s : State) (o : Nat) : (s.unlock o).links = s.links := rfl
@[simp] theorem State.unlock_ports (s : State) (o : Nat) : (s.unlock o).ports = s.ports := rfl
@[simp] theorem State.unlock_flash (s : State) (o : Nat) : (s.unlock o).flash = s.flash := rfl
@[simp] theorem State.unlock_refreshRow (s : State) (o : Nat) : (s.unlock o).refreshRow = s.refreshRow := rfl
@[simp] theorem State.unlock_issueRow (s : State) (o : Nat) : (s.unlock o).issueRow = s.issueRow := rfl
@[simp] theorem State.unlock_ember (s : State) (o : Nat) : (s.unlock o).ember = s.ember := rfl
@[simp] theorem State.unlock_rowCopies (s : State) (o : Nat) : (s.unlock o).rowCopies = s.rowCopies := rfl
@[simp] theorem State.unlock_rehoming (s : State) (o : Nat) : (s.unlock o).rehoming = s.rehoming := rfl
@[simp] theorem State.unlock_replies (s : State) (o : Nat) : (s.unlock o).replies = s.replies := rfl
@[simp] theorem State.unlock_replayable (s : State) (o : Nat) : (s.unlock o).replayable = s.replayable := rfl
@[simp] theorem State.unlock_era (s : State) (o : Nat) : (s.unlock o).era = s.era := rfl
@[simp] theorem State.unlock_retiring (s : State) (o : Nat) : (s.unlock o).retiring = s.retiring := rfl
@[simp] theorem State.unlock_outbox (s : State) (o : Nat) : (s.unlock o).outbox = s.outbox := rfl
@[simp] theorem State.unlock_heldMsgs (s : State) (o : Nat) : (s.unlock o).heldMsgs = s.heldMsgs := rfl
@[simp] theorem State.unlock_nextId (s : State) (o : Nat) : (s.unlock o).nextId = s.nextId := rfl
@[simp] theorem State.unlock_nextTeam (s : State) (o : Nat) : (s.unlock o).nextTeam = s.nextTeam := rfl
@[simp] theorem State.unlock_nextUid (s : State) (o : Nat) : (s.unlock o).nextUid = s.nextUid := rfl
@[simp] theorem State.unlock_nextGrid (s : State) (o : Nat) : (s.unlock o).nextGrid = s.nextGrid := rfl
@[simp] theorem State.unlock_nextImage (s : State) (o : Nat) : (s.unlock o).nextImage = s.nextImage := rfl
@[simp] theorem State.unlock_nextFault (s : State) (o : Nat) : (s.unlock o).nextFault = s.nextFault := rfl
@[simp] theorem State.unlock_nextSession (s : State) (o : Nat) : (s.unlock o).nextSession = s.nextSession := rfl
@[simp] theorem State.unlock_nextTask (s : State) (o : Nat) : (s.unlock o).nextTask = s.nextTask := rfl
@[simp] theorem State.unlock_agenda (s : State) (o : Nat) : (s.unlock o).agenda = s.agenda := rfl
@[simp] theorem State.unlock_inbox (s : State) (o : Nat) : (s.unlock o).inbox = s.inbox := rfl
@[simp] theorem State.unlock_todo (s : State) (o : Nat) : (s.unlock o).todo = s.todo := rfl
@[simp] theorem State.unlock_cur (s : State) (o : Nat) : (s.unlock o).cur = s.cur := rfl
@[simp] theorem State.unlock_free (s : State) (o : Nat) : (s.unlock o).free = s.free := rfl

/-! endEntry. -/
@[simp] theorem State.endEntry_clock (s : State) (i : Nat) : (s.endEntry i).clock = s.clock := rfl
@[simp] theorem State.endEntry_power (s : State) (i : Nat) : (s.endEntry i).power = s.power := rfl
@[simp] theorem State.endEntry_leader (s : State) (i : Nat) : (s.endEntry i).leader = s.leader := rfl
@[simp] theorem State.endEntry_mgmtOk (s : State) (i : Nat) : (s.endEntry i).mgmtOk = s.mgmtOk := rfl
@[simp] theorem State.endEntry_dram (s : State) (i : Nat) : (s.endEntry i).dram = s.dram := rfl
@[simp] theorem State.endEntry_framesUsed (s : State) (i : Nat) : (s.endEntry i).framesUsed = s.framesUsed := rfl
@[simp] theorem State.endEntry_framesBad (s : State) (i : Nat) : (s.endEntry i).framesBad = s.framesBad := rfl
@[simp] theorem State.endEntry_keys (s : State) (i : Nat) : (s.endEntry i).keys = s.keys := rfl
@[simp] theorem State.endEntry_contexts (s : State) (i : Nat) : (s.endEntry i).contexts = s.contexts := rfl
@[simp] theorem State.endEntry_sessions (s : State) (i : Nat) : (s.endEntry i).sessions = s.sessions := rfl
@[simp] theorem State.endEntry_images (s : State) (i : Nat) : (s.endEntry i).images = s.images := rfl
@[simp] theorem State.endEntry_launches (s : State) (i : Nat) : (s.endEntry i).launches = s.launches := rfl
@[simp] theorem State.endEntry_clusters (s : State) (i : Nat) : (s.endEntry i).clusters = s.clusters := rfl
@[simp] theorem State.endEntry_teams (s : State) (i : Nat) : (s.endEntry i).teams = s.teams := rfl
@[simp] theorem State.endEntry_cores (s : State) (i : Nat) : (s.endEntry i).cores = s.cores := rfl
@[simp] theorem State.endEntry_leadList (s : State) (i : Nat) : (s.endEntry i).leadList = s.leadList := rfl
@[simp] theorem State.endEntry_dieList (s : State) (i : Nat) : (s.endEntry i).dieList = s.dieList := rfl
@[simp] theorem State.endEntry_vigil (s : State) (i : Nat) : (s.endEntry i).vigil = s.vigil := rfl
@[simp] theorem State.endEntry_tasks (s : State) (i : Nat) : (s.endEntry i).tasks = s.tasks := rfl
@[simp] theorem State.endEntry_loads (s : State) (i : Nat) : (s.endEntry i).loads = s.loads := rfl
@[simp] theorem State.endEntry_path (s : State) (i : Nat) : (s.endEntry i).path = s.path.filter fun e => e.id != i := rfl
@[simp] theorem State.endEntry_atoms (s : State) (i : Nat) : (s.endEntry i).atoms = s.atoms := rfl
@[simp] theorem State.endEntry_walks (s : State) (i : Nat) : (s.endEntry i).walks = s.walks := rfl
@[simp] theorem State.endEntry_faults (s : State) (i : Nat) : (s.endEntry i).faults = s.faults := rfl
@[simp] theorem State.endEntry_adds (s : State) (i : Nat) : (s.endEntry i).adds = s.adds := rfl
@[simp] theorem State.endEntry_ops (s : State) (i : Nat) : (s.endEntry i).ops = s.ops := rfl
@[simp] theorem State.endEntry_engines (s : State) (i : Nat) : (s.endEntry i).engines = s.engines := rfl
@[simp] theorem State.endEntry_locks (s : State) (i : Nat) : (s.endEntry i).locks = s.locks := rfl
@[simp] theorem State.endEntry_steals (s : State) (i : Nat) : (s.endEntry i).steals = s.steals := rfl
@[simp] theorem State.endEntry_shoots (s : State) (i : Nat) : (s.endEntry i).shoots = s.shoots := rfl
@[simp] theorem State.endEntry_steers (s : State) (i : Nat) : (s.endEntry i).steers = s.steers := rfl
@[simp] theorem State.endEntry_switches (s : State) (i : Nat) : (s.endEntry i).switches = s.switches := rfl
@[simp] theorem State.endEntry_links (s : State) (i : Nat) : (s.endEntry i).links = s.links := rfl
@[simp] theorem State.endEntry_ports (s : State) (i : Nat) : (s.endEntry i).ports = s.ports := rfl
@[simp] theorem State.endEntry_flash (s : State) (i : Nat) : (s.endEntry i).flash = s.flash := rfl
@[simp] theorem State.endEntry_refreshRow (s : State) (i : Nat) : (s.endEntry i).refreshRow = s.refreshRow := rfl
@[simp] theorem State.endEntry_issueRow (s : State) (i : Nat) : (s.endEntry i).issueRow = s.issueRow := rfl
@[simp] theorem State.endEntry_ember (s : State) (i : Nat) : (s.endEntry i).ember = s.ember := rfl
@[simp] theorem State.endEntry_rowCopies (s : State) (i : Nat) : (s.endEntry i).rowCopies = s.rowCopies := rfl
@[simp] theorem State.endEntry_rehoming (s : State) (i : Nat) : (s.endEntry i).rehoming = s.rehoming := rfl
@[simp] theorem State.endEntry_replies (s : State) (i : Nat) : (s.endEntry i).replies = s.replies := rfl
@[simp] theorem State.endEntry_replayable (s : State) (i : Nat) : (s.endEntry i).replayable = s.replayable := rfl
@[simp] theorem State.endEntry_era (s : State) (i : Nat) : (s.endEntry i).era = s.era := rfl
@[simp] theorem State.endEntry_retiring (s : State) (i : Nat) : (s.endEntry i).retiring = s.retiring := rfl
@[simp] theorem State.endEntry_outbox (s : State) (i : Nat) : (s.endEntry i).outbox = s.outbox := rfl
@[simp] theorem State.endEntry_heldMsgs (s : State) (i : Nat) : (s.endEntry i).heldMsgs = s.heldMsgs := rfl
@[simp] theorem State.endEntry_nextId (s : State) (i : Nat) : (s.endEntry i).nextId = s.nextId := rfl
@[simp] theorem State.endEntry_nextTeam (s : State) (i : Nat) : (s.endEntry i).nextTeam = s.nextTeam := rfl
@[simp] theorem State.endEntry_nextUid (s : State) (i : Nat) : (s.endEntry i).nextUid = s.nextUid := rfl
@[simp] theorem State.endEntry_nextGrid (s : State) (i : Nat) : (s.endEntry i).nextGrid = s.nextGrid := rfl
@[simp] theorem State.endEntry_nextImage (s : State) (i : Nat) : (s.endEntry i).nextImage = s.nextImage := rfl
@[simp] theorem State.endEntry_nextFault (s : State) (i : Nat) : (s.endEntry i).nextFault = s.nextFault := rfl
@[simp] theorem State.endEntry_nextSession (s : State) (i : Nat) : (s.endEntry i).nextSession = s.nextSession := rfl
@[simp] theorem State.endEntry_nextTask (s : State) (i : Nat) : (s.endEntry i).nextTask = s.nextTask := rfl
@[simp] theorem State.endEntry_agenda (s : State) (i : Nat) : (s.endEntry i).agenda = s.agenda := rfl
@[simp] theorem State.endEntry_inbox (s : State) (i : Nat) : (s.endEntry i).inbox = s.inbox := rfl
@[simp] theorem State.endEntry_todo (s : State) (i : Nat) : (s.endEntry i).todo = s.todo := rfl
@[simp] theorem State.endEntry_cur (s : State) (i : Nat) : (s.endEntry i).cur = s.cur := rfl
@[simp] theorem State.endEntry_free (s : State) (i : Nat) : (s.endEntry i).free = s.free := rfl

/-! setMode. -/
@[simp] theorem State.setMode_clock (s : State) (g : GRef) (m : W64) : (s.setMode g m).clock = s.clock := rfl
@[simp] theorem State.setMode_power (s : State) (g : GRef) (m : W64) : (s.setMode g m).power = s.power := rfl
@[simp] theorem State.setMode_leader (s : State) (g : GRef) (m : W64) : (s.setMode g m).leader = s.leader := rfl
@[simp] theorem State.setMode_mgmtOk (s : State) (g : GRef) (m : W64) : (s.setMode g m).mgmtOk = s.mgmtOk := rfl
@[simp] theorem State.setMode_dram (s : State) (g : GRef) (m : W64) : (s.setMode g m).dram = s.dram := rfl
@[simp] theorem State.setMode_framesUsed (s : State) (g : GRef) (m : W64) : (s.setMode g m).framesUsed = s.framesUsed := rfl
@[simp] theorem State.setMode_framesBad (s : State) (g : GRef) (m : W64) : (s.setMode g m).framesBad = s.framesBad := rfl
@[simp] theorem State.setMode_keys (s : State) (g : GRef) (m : W64) : (s.setMode g m).keys = s.keys := rfl
@[simp] theorem State.setMode_contexts (s : State) (g : GRef) (m : W64) : (s.setMode g m).contexts = s.contexts := rfl
@[simp] theorem State.setMode_sessions (s : State) (g : GRef) (m : W64) : (s.setMode g m).sessions = s.sessions := rfl
@[simp] theorem State.setMode_images (s : State) (g : GRef) (m : W64) : (s.setMode g m).images = s.images := rfl
@[simp] theorem State.setMode_launches (s : State) (g : GRef) (m : W64) : (s.setMode g m).launches = s.launches := rfl
@[simp] theorem State.setMode_clusters (s : State) (g : GRef) (m : W64) : (s.setMode g m).clusters = s.clusters := rfl
@[simp] theorem State.setMode_teams (s : State) (g : GRef) (m : W64) : (s.setMode g m).teams = s.teams.map fun x => if x.id = g.team then x.modGroup g.slot fun y => { y with mode := m &&& modeBits } else x := rfl
@[simp] theorem State.setMode_cores (s : State) (g : GRef) (m : W64) : (s.setMode g m).cores = s.cores := rfl
@[simp] theorem State.setMode_leadList (s : State) (g : GRef) (m : W64) : (s.setMode g m).leadList = s.leadList := rfl
@[simp] theorem State.setMode_dieList (s : State) (g : GRef) (m : W64) : (s.setMode g m).dieList = s.dieList := rfl
@[simp] theorem State.setMode_vigil (s : State) (g : GRef) (m : W64) : (s.setMode g m).vigil = s.vigil := rfl
@[simp] theorem State.setMode_tasks (s : State) (g : GRef) (m : W64) : (s.setMode g m).tasks = s.tasks := rfl
@[simp] theorem State.setMode_loads (s : State) (g : GRef) (m : W64) : (s.setMode g m).loads = s.loads := rfl
@[simp] theorem State.setMode_path (s : State) (g : GRef) (m : W64) : (s.setMode g m).path = s.path := rfl
@[simp] theorem State.setMode_atoms (s : State) (g : GRef) (m : W64) : (s.setMode g m).atoms = s.atoms := rfl
@[simp] theorem State.setMode_walks (s : State) (g : GRef) (m : W64) : (s.setMode g m).walks = s.walks := rfl
@[simp] theorem State.setMode_faults (s : State) (g : GRef) (m : W64) : (s.setMode g m).faults = s.faults := rfl
@[simp] theorem State.setMode_adds (s : State) (g : GRef) (m : W64) : (s.setMode g m).adds = s.adds := rfl
@[simp] theorem State.setMode_ops (s : State) (g : GRef) (m : W64) : (s.setMode g m).ops = s.ops := rfl
@[simp] theorem State.setMode_engines (s : State) (g : GRef) (m : W64) : (s.setMode g m).engines = s.engines := rfl
@[simp] theorem State.setMode_locks (s : State) (g : GRef) (m : W64) : (s.setMode g m).locks = s.locks := rfl
@[simp] theorem State.setMode_steals (s : State) (g : GRef) (m : W64) : (s.setMode g m).steals = s.steals := rfl
@[simp] theorem State.setMode_shoots (s : State) (g : GRef) (m : W64) : (s.setMode g m).shoots = s.shoots := rfl
@[simp] theorem State.setMode_steers (s : State) (g : GRef) (m : W64) : (s.setMode g m).steers = s.steers := rfl
@[simp] theorem State.setMode_switches (s : State) (g : GRef) (m : W64) : (s.setMode g m).switches = s.switches := rfl
@[simp] theorem State.setMode_links (s : State) (g : GRef) (m : W64) : (s.setMode g m).links = s.links := rfl
@[simp] theorem State.setMode_ports (s : State) (g : GRef) (m : W64) : (s.setMode g m).ports = s.ports := rfl
@[simp] theorem State.setMode_flash (s : State) (g : GRef) (m : W64) : (s.setMode g m).flash = s.flash := rfl
@[simp] theorem State.setMode_refreshRow (s : State) (g : GRef) (m : W64) : (s.setMode g m).refreshRow = s.refreshRow := rfl
@[simp] theorem State.setMode_issueRow (s : State) (g : GRef) (m : W64) : (s.setMode g m).issueRow = s.issueRow := rfl
@[simp] theorem State.setMode_ember (s : State) (g : GRef) (m : W64) : (s.setMode g m).ember = s.ember := rfl
@[simp] theorem State.setMode_rowCopies (s : State) (g : GRef) (m : W64) : (s.setMode g m).rowCopies = s.rowCopies := rfl
@[simp] theorem State.setMode_rehoming (s : State) (g : GRef) (m : W64) : (s.setMode g m).rehoming = s.rehoming := rfl
@[simp] theorem State.setMode_replies (s : State) (g : GRef) (m : W64) : (s.setMode g m).replies = s.replies := rfl
@[simp] theorem State.setMode_replayable (s : State) (g : GRef) (m : W64) : (s.setMode g m).replayable = s.replayable := rfl
@[simp] theorem State.setMode_era (s : State) (g : GRef) (m : W64) : (s.setMode g m).era = s.era := rfl
@[simp] theorem State.setMode_retiring (s : State) (g : GRef) (m : W64) : (s.setMode g m).retiring = s.retiring := rfl
@[simp] theorem State.setMode_outbox (s : State) (g : GRef) (m : W64) : (s.setMode g m).outbox = s.outbox := rfl
@[simp] theorem State.setMode_heldMsgs (s : State) (g : GRef) (m : W64) : (s.setMode g m).heldMsgs = s.heldMsgs := rfl
@[simp] theorem State.setMode_nextId (s : State) (g : GRef) (m : W64) : (s.setMode g m).nextId = s.nextId := rfl
@[simp] theorem State.setMode_nextTeam (s : State) (g : GRef) (m : W64) : (s.setMode g m).nextTeam = s.nextTeam := rfl
@[simp] theorem State.setMode_nextUid (s : State) (g : GRef) (m : W64) : (s.setMode g m).nextUid = s.nextUid := rfl
@[simp] theorem State.setMode_nextGrid (s : State) (g : GRef) (m : W64) : (s.setMode g m).nextGrid = s.nextGrid := rfl
@[simp] theorem State.setMode_nextImage (s : State) (g : GRef) (m : W64) : (s.setMode g m).nextImage = s.nextImage := rfl
@[simp] theorem State.setMode_nextFault (s : State) (g : GRef) (m : W64) : (s.setMode g m).nextFault = s.nextFault := rfl
@[simp] theorem State.setMode_nextSession (s : State) (g : GRef) (m : W64) : (s.setMode g m).nextSession = s.nextSession := rfl
@[simp] theorem State.setMode_nextTask (s : State) (g : GRef) (m : W64) : (s.setMode g m).nextTask = s.nextTask := rfl
@[simp] theorem State.setMode_agenda (s : State) (g : GRef) (m : W64) : (s.setMode g m).agenda = s.agenda := rfl
@[simp] theorem State.setMode_inbox (s : State) (g : GRef) (m : W64) : (s.setMode g m).inbox = s.inbox := rfl
@[simp] theorem State.setMode_todo (s : State) (g : GRef) (m : W64) : (s.setMode g m).todo = s.todo := rfl
@[simp] theorem State.setMode_cur (s : State) (g : GRef) (m : W64) : (s.setMode g m).cur = s.cur := rfl
@[simp] theorem State.setMode_free (s : State) (g : GRef) (m : W64) : (s.setMode g m).free = s.free := rfl

/-! land. -/
@[simp] theorem State.land_clock (s : State) (g : GRef) (n : Nat) (l : List (LDst × W64)) : (s.land g n l).clock = s.clock := rfl
@[simp] theorem State.land_power (s : State) (g : GRef) (n : Nat) (l : List (LDst × W64)) : (s.land g n l).power = s.power := rfl
@[simp] theorem State.land_leader (s : State) (g : GRef) (n : Nat) (l : List (LDst × W64)) : (s.land g n l).leader = s.leader := rfl
@[simp] theorem State.land_mgmtOk (s : State) (g : GRef) (n : Nat) (l : List (LDst × W64)) : (s.land g n l).mgmtOk = s.mgmtOk := rfl
@[simp] theorem State.land_dram (s : State) (g : GRef) (n : Nat) (l : List (LDst × W64)) : (s.land g n l).dram = s.dram := rfl
@[simp] theorem State.land_framesUsed (s : State) (g : GRef) (n : Nat) (l : List (LDst × W64)) : (s.land g n l).framesUsed = s.framesUsed := rfl
@[simp] theorem State.land_framesBad (s : State) (g : GRef) (n : Nat) (l : List (LDst × W64)) : (s.land g n l).framesBad = s.framesBad := rfl
@[simp] theorem State.land_keys (s : State) (g : GRef) (n : Nat) (l : List (LDst × W64)) : (s.land g n l).keys = s.keys := rfl
@[simp] theorem State.land_contexts (s : State) (g : GRef) (n : Nat) (l : List (LDst × W64)) : (s.land g n l).contexts = s.contexts := rfl
@[simp] theorem State.land_sessions (s : State) (g : GRef) (n : Nat) (l : List (LDst × W64)) : (s.land g n l).sessions = s.sessions := rfl
@[simp] theorem State.land_images (s : State) (g : GRef) (n : Nat) (l : List (LDst × W64)) : (s.land g n l).images = s.images := rfl
@[simp] theorem State.land_launches (s : State) (g : GRef) (n : Nat) (l : List (LDst × W64)) : (s.land g n l).launches = s.launches := rfl
@[simp] theorem State.land_clusters (s : State) (g : GRef) (n : Nat) (l : List (LDst × W64)) : (s.land g n l).clusters = s.clusters := rfl
@[simp] theorem State.land_teams (s : State) (g : GRef) (n : Nat) (l : List (LDst × W64)) : (s.land g n l).teams = s.teams.map fun x => if x.id = g.team then x.modGroup g.slot fun y => { y with land := y.land ++ l.map fun z => ⟨s.clock + n, s.clock, z.1, z.2, emptyTriple⟩ } else x := rfl
@[simp] theorem State.land_cores (s : State) (g : GRef) (n : Nat) (l : List (LDst × W64)) : (s.land g n l).cores = s.cores := rfl
@[simp] theorem State.land_leadList (s : State) (g : GRef) (n : Nat) (l : List (LDst × W64)) : (s.land g n l).leadList = s.leadList := rfl
@[simp] theorem State.land_dieList (s : State) (g : GRef) (n : Nat) (l : List (LDst × W64)) : (s.land g n l).dieList = s.dieList := rfl
@[simp] theorem State.land_vigil (s : State) (g : GRef) (n : Nat) (l : List (LDst × W64)) : (s.land g n l).vigil = s.vigil := rfl
@[simp] theorem State.land_tasks (s : State) (g : GRef) (n : Nat) (l : List (LDst × W64)) : (s.land g n l).tasks = s.tasks := rfl
@[simp] theorem State.land_loads (s : State) (g : GRef) (n : Nat) (l : List (LDst × W64)) : (s.land g n l).loads = s.loads := rfl
@[simp] theorem State.land_path (s : State) (g : GRef) (n : Nat) (l : List (LDst × W64)) : (s.land g n l).path = s.path := rfl
@[simp] theorem State.land_atoms (s : State) (g : GRef) (n : Nat) (l : List (LDst × W64)) : (s.land g n l).atoms = s.atoms := rfl
@[simp] theorem State.land_walks (s : State) (g : GRef) (n : Nat) (l : List (LDst × W64)) : (s.land g n l).walks = s.walks := rfl
@[simp] theorem State.land_faults (s : State) (g : GRef) (n : Nat) (l : List (LDst × W64)) : (s.land g n l).faults = s.faults := rfl
@[simp] theorem State.land_adds (s : State) (g : GRef) (n : Nat) (l : List (LDst × W64)) : (s.land g n l).adds = s.adds := rfl
@[simp] theorem State.land_ops (s : State) (g : GRef) (n : Nat) (l : List (LDst × W64)) : (s.land g n l).ops = s.ops := rfl
@[simp] theorem State.land_engines (s : State) (g : GRef) (n : Nat) (l : List (LDst × W64)) : (s.land g n l).engines = s.engines := rfl
@[simp] theorem State.land_locks (s : State) (g : GRef) (n : Nat) (l : List (LDst × W64)) : (s.land g n l).locks = s.locks := rfl
@[simp] theorem State.land_steals (s : State) (g : GRef) (n : Nat) (l : List (LDst × W64)) : (s.land g n l).steals = s.steals := rfl
@[simp] theorem State.land_shoots (s : State) (g : GRef) (n : Nat) (l : List (LDst × W64)) : (s.land g n l).shoots = s.shoots := rfl
@[simp] theorem State.land_steers (s : State) (g : GRef) (n : Nat) (l : List (LDst × W64)) : (s.land g n l).steers = s.steers := rfl
@[simp] theorem State.land_switches (s : State) (g : GRef) (n : Nat) (l : List (LDst × W64)) : (s.land g n l).switches = s.switches := rfl
@[simp] theorem State.land_links (s : State) (g : GRef) (n : Nat) (l : List (LDst × W64)) : (s.land g n l).links = s.links := rfl
@[simp] theorem State.land_ports (s : State) (g : GRef) (n : Nat) (l : List (LDst × W64)) : (s.land g n l).ports = s.ports := rfl
@[simp] theorem State.land_flash (s : State) (g : GRef) (n : Nat) (l : List (LDst × W64)) : (s.land g n l).flash = s.flash := rfl
@[simp] theorem State.land_refreshRow (s : State) (g : GRef) (n : Nat) (l : List (LDst × W64)) : (s.land g n l).refreshRow = s.refreshRow := rfl
@[simp] theorem State.land_issueRow (s : State) (g : GRef) (n : Nat) (l : List (LDst × W64)) : (s.land g n l).issueRow = s.issueRow := rfl
@[simp] theorem State.land_ember (s : State) (g : GRef) (n : Nat) (l : List (LDst × W64)) : (s.land g n l).ember = s.ember := rfl
@[simp] theorem State.land_rowCopies (s : State) (g : GRef) (n : Nat) (l : List (LDst × W64)) : (s.land g n l).rowCopies = s.rowCopies := rfl
@[simp] theorem State.land_rehoming (s : State) (g : GRef) (n : Nat) (l : List (LDst × W64)) : (s.land g n l).rehoming = s.rehoming := rfl
@[simp] theorem State.land_replies (s : State) (g : GRef) (n : Nat) (l : List (LDst × W64)) : (s.land g n l).replies = s.replies := rfl
@[simp] theorem State.land_replayable (s : State) (g : GRef) (n : Nat) (l : List (LDst × W64)) : (s.land g n l).replayable = s.replayable := rfl
@[simp] theorem State.land_era (s : State) (g : GRef) (n : Nat) (l : List (LDst × W64)) : (s.land g n l).era = s.era := rfl
@[simp] theorem State.land_retiring (s : State) (g : GRef) (n : Nat) (l : List (LDst × W64)) : (s.land g n l).retiring = s.retiring := rfl
@[simp] theorem State.land_outbox (s : State) (g : GRef) (n : Nat) (l : List (LDst × W64)) : (s.land g n l).outbox = s.outbox := rfl
@[simp] theorem State.land_heldMsgs (s : State) (g : GRef) (n : Nat) (l : List (LDst × W64)) : (s.land g n l).heldMsgs = s.heldMsgs := rfl
@[simp] theorem State.land_nextId (s : State) (g : GRef) (n : Nat) (l : List (LDst × W64)) : (s.land g n l).nextId = s.nextId := rfl
@[simp] theorem State.land_nextTeam (s : State) (g : GRef) (n : Nat) (l : List (LDst × W64)) : (s.land g n l).nextTeam = s.nextTeam := rfl
@[simp] theorem State.land_nextUid (s : State) (g : GRef) (n : Nat) (l : List (LDst × W64)) : (s.land g n l).nextUid = s.nextUid := rfl
@[simp] theorem State.land_nextGrid (s : State) (g : GRef) (n : Nat) (l : List (LDst × W64)) : (s.land g n l).nextGrid = s.nextGrid := rfl
@[simp] theorem State.land_nextImage (s : State) (g : GRef) (n : Nat) (l : List (LDst × W64)) : (s.land g n l).nextImage = s.nextImage := rfl
@[simp] theorem State.land_nextFault (s : State) (g : GRef) (n : Nat) (l : List (LDst × W64)) : (s.land g n l).nextFault = s.nextFault := rfl
@[simp] theorem State.land_nextSession (s : State) (g : GRef) (n : Nat) (l : List (LDst × W64)) : (s.land g n l).nextSession = s.nextSession := rfl
@[simp] theorem State.land_nextTask (s : State) (g : GRef) (n : Nat) (l : List (LDst × W64)) : (s.land g n l).nextTask = s.nextTask := rfl
@[simp] theorem State.land_agenda (s : State) (g : GRef) (n : Nat) (l : List (LDst × W64)) : (s.land g n l).agenda = s.agenda := rfl
@[simp] theorem State.land_inbox (s : State) (g : GRef) (n : Nat) (l : List (LDst × W64)) : (s.land g n l).inbox = s.inbox := rfl
@[simp] theorem State.land_todo (s : State) (g : GRef) (n : Nat) (l : List (LDst × W64)) : (s.land g n l).todo = s.todo := rfl
@[simp] theorem State.land_cur (s : State) (g : GRef) (n : Nat) (l : List (LDst × W64)) : (s.land g n l).cur = s.cur := rfl
@[simp] theorem State.land_free (s : State) (g : GRef) (n : Nat) (l : List (LDst × W64)) : (s.land g n l).free = s.free := rfl

/-! landM. -/
@[simp] theorem State.landM_clock (s : State) (g : GRef) (n : Nat) (l : List (Nat × Nat × Triple)) : (s.landM g n l).clock = s.clock := rfl
@[simp] theorem State.landM_power (s : State) (g : GRef) (n : Nat) (l : List (Nat × Nat × Triple)) : (s.landM g n l).power = s.power := rfl
@[simp] theorem State.landM_leader (s : State) (g : GRef) (n : Nat) (l : List (Nat × Nat × Triple)) : (s.landM g n l).leader = s.leader := rfl
@[simp] theorem State.landM_mgmtOk (s : State) (g : GRef) (n : Nat) (l : List (Nat × Nat × Triple)) : (s.landM g n l).mgmtOk = s.mgmtOk := rfl
@[simp] theorem State.landM_dram (s : State) (g : GRef) (n : Nat) (l : List (Nat × Nat × Triple)) : (s.landM g n l).dram = s.dram := rfl
@[simp] theorem State.landM_framesUsed (s : State) (g : GRef) (n : Nat) (l : List (Nat × Nat × Triple)) : (s.landM g n l).framesUsed = s.framesUsed := rfl
@[simp] theorem State.landM_framesBad (s : State) (g : GRef) (n : Nat) (l : List (Nat × Nat × Triple)) : (s.landM g n l).framesBad = s.framesBad := rfl
@[simp] theorem State.landM_keys (s : State) (g : GRef) (n : Nat) (l : List (Nat × Nat × Triple)) : (s.landM g n l).keys = s.keys := rfl
@[simp] theorem State.landM_contexts (s : State) (g : GRef) (n : Nat) (l : List (Nat × Nat × Triple)) : (s.landM g n l).contexts = s.contexts := rfl
@[simp] theorem State.landM_sessions (s : State) (g : GRef) (n : Nat) (l : List (Nat × Nat × Triple)) : (s.landM g n l).sessions = s.sessions := rfl
@[simp] theorem State.landM_images (s : State) (g : GRef) (n : Nat) (l : List (Nat × Nat × Triple)) : (s.landM g n l).images = s.images := rfl
@[simp] theorem State.landM_launches (s : State) (g : GRef) (n : Nat) (l : List (Nat × Nat × Triple)) : (s.landM g n l).launches = s.launches := rfl
@[simp] theorem State.landM_clusters (s : State) (g : GRef) (n : Nat) (l : List (Nat × Nat × Triple)) : (s.landM g n l).clusters = s.clusters := rfl
@[simp] theorem State.landM_teams (s : State) (g : GRef) (n : Nat) (l : List (Nat × Nat × Triple)) : (s.landM g n l).teams = s.teams.map fun x => if x.id = g.team then x.modGroup g.slot fun y => { y with land := y.land ++ l.map fun z => ⟨s.clock + n, s.clock, .m z.1 z.2.1, 0, z.2.2⟩ } else x := rfl
@[simp] theorem State.landM_cores (s : State) (g : GRef) (n : Nat) (l : List (Nat × Nat × Triple)) : (s.landM g n l).cores = s.cores := rfl
@[simp] theorem State.landM_leadList (s : State) (g : GRef) (n : Nat) (l : List (Nat × Nat × Triple)) : (s.landM g n l).leadList = s.leadList := rfl
@[simp] theorem State.landM_dieList (s : State) (g : GRef) (n : Nat) (l : List (Nat × Nat × Triple)) : (s.landM g n l).dieList = s.dieList := rfl
@[simp] theorem State.landM_vigil (s : State) (g : GRef) (n : Nat) (l : List (Nat × Nat × Triple)) : (s.landM g n l).vigil = s.vigil := rfl
@[simp] theorem State.landM_tasks (s : State) (g : GRef) (n : Nat) (l : List (Nat × Nat × Triple)) : (s.landM g n l).tasks = s.tasks := rfl
@[simp] theorem State.landM_loads (s : State) (g : GRef) (n : Nat) (l : List (Nat × Nat × Triple)) : (s.landM g n l).loads = s.loads := rfl
@[simp] theorem State.landM_path (s : State) (g : GRef) (n : Nat) (l : List (Nat × Nat × Triple)) : (s.landM g n l).path = s.path := rfl
@[simp] theorem State.landM_atoms (s : State) (g : GRef) (n : Nat) (l : List (Nat × Nat × Triple)) : (s.landM g n l).atoms = s.atoms := rfl
@[simp] theorem State.landM_walks (s : State) (g : GRef) (n : Nat) (l : List (Nat × Nat × Triple)) : (s.landM g n l).walks = s.walks := rfl
@[simp] theorem State.landM_faults (s : State) (g : GRef) (n : Nat) (l : List (Nat × Nat × Triple)) : (s.landM g n l).faults = s.faults := rfl
@[simp] theorem State.landM_adds (s : State) (g : GRef) (n : Nat) (l : List (Nat × Nat × Triple)) : (s.landM g n l).adds = s.adds := rfl
@[simp] theorem State.landM_ops (s : State) (g : GRef) (n : Nat) (l : List (Nat × Nat × Triple)) : (s.landM g n l).ops = s.ops := rfl
@[simp] theorem State.landM_engines (s : State) (g : GRef) (n : Nat) (l : List (Nat × Nat × Triple)) : (s.landM g n l).engines = s.engines := rfl
@[simp] theorem State.landM_locks (s : State) (g : GRef) (n : Nat) (l : List (Nat × Nat × Triple)) : (s.landM g n l).locks = s.locks := rfl
@[simp] theorem State.landM_steals (s : State) (g : GRef) (n : Nat) (l : List (Nat × Nat × Triple)) : (s.landM g n l).steals = s.steals := rfl
@[simp] theorem State.landM_shoots (s : State) (g : GRef) (n : Nat) (l : List (Nat × Nat × Triple)) : (s.landM g n l).shoots = s.shoots := rfl
@[simp] theorem State.landM_steers (s : State) (g : GRef) (n : Nat) (l : List (Nat × Nat × Triple)) : (s.landM g n l).steers = s.steers := rfl
@[simp] theorem State.landM_switches (s : State) (g : GRef) (n : Nat) (l : List (Nat × Nat × Triple)) : (s.landM g n l).switches = s.switches := rfl
@[simp] theorem State.landM_links (s : State) (g : GRef) (n : Nat) (l : List (Nat × Nat × Triple)) : (s.landM g n l).links = s.links := rfl
@[simp] theorem State.landM_ports (s : State) (g : GRef) (n : Nat) (l : List (Nat × Nat × Triple)) : (s.landM g n l).ports = s.ports := rfl
@[simp] theorem State.landM_flash (s : State) (g : GRef) (n : Nat) (l : List (Nat × Nat × Triple)) : (s.landM g n l).flash = s.flash := rfl
@[simp] theorem State.landM_refreshRow (s : State) (g : GRef) (n : Nat) (l : List (Nat × Nat × Triple)) : (s.landM g n l).refreshRow = s.refreshRow := rfl
@[simp] theorem State.landM_issueRow (s : State) (g : GRef) (n : Nat) (l : List (Nat × Nat × Triple)) : (s.landM g n l).issueRow = s.issueRow := rfl
@[simp] theorem State.landM_ember (s : State) (g : GRef) (n : Nat) (l : List (Nat × Nat × Triple)) : (s.landM g n l).ember = s.ember := rfl
@[simp] theorem State.landM_rowCopies (s : State) (g : GRef) (n : Nat) (l : List (Nat × Nat × Triple)) : (s.landM g n l).rowCopies = s.rowCopies := rfl
@[simp] theorem State.landM_rehoming (s : State) (g : GRef) (n : Nat) (l : List (Nat × Nat × Triple)) : (s.landM g n l).rehoming = s.rehoming := rfl
@[simp] theorem State.landM_replies (s : State) (g : GRef) (n : Nat) (l : List (Nat × Nat × Triple)) : (s.landM g n l).replies = s.replies := rfl
@[simp] theorem State.landM_replayable (s : State) (g : GRef) (n : Nat) (l : List (Nat × Nat × Triple)) : (s.landM g n l).replayable = s.replayable := rfl
@[simp] theorem State.landM_era (s : State) (g : GRef) (n : Nat) (l : List (Nat × Nat × Triple)) : (s.landM g n l).era = s.era := rfl
@[simp] theorem State.landM_retiring (s : State) (g : GRef) (n : Nat) (l : List (Nat × Nat × Triple)) : (s.landM g n l).retiring = s.retiring := rfl
@[simp] theorem State.landM_outbox (s : State) (g : GRef) (n : Nat) (l : List (Nat × Nat × Triple)) : (s.landM g n l).outbox = s.outbox := rfl
@[simp] theorem State.landM_heldMsgs (s : State) (g : GRef) (n : Nat) (l : List (Nat × Nat × Triple)) : (s.landM g n l).heldMsgs = s.heldMsgs := rfl
@[simp] theorem State.landM_nextId (s : State) (g : GRef) (n : Nat) (l : List (Nat × Nat × Triple)) : (s.landM g n l).nextId = s.nextId := rfl
@[simp] theorem State.landM_nextTeam (s : State) (g : GRef) (n : Nat) (l : List (Nat × Nat × Triple)) : (s.landM g n l).nextTeam = s.nextTeam := rfl
@[simp] theorem State.landM_nextUid (s : State) (g : GRef) (n : Nat) (l : List (Nat × Nat × Triple)) : (s.landM g n l).nextUid = s.nextUid := rfl
@[simp] theorem State.landM_nextGrid (s : State) (g : GRef) (n : Nat) (l : List (Nat × Nat × Triple)) : (s.landM g n l).nextGrid = s.nextGrid := rfl
@[simp] theorem State.landM_nextImage (s : State) (g : GRef) (n : Nat) (l : List (Nat × Nat × Triple)) : (s.landM g n l).nextImage = s.nextImage := rfl
@[simp] theorem State.landM_nextFault (s : State) (g : GRef) (n : Nat) (l : List (Nat × Nat × Triple)) : (s.landM g n l).nextFault = s.nextFault := rfl
@[simp] theorem State.landM_nextSession (s : State) (g : GRef) (n : Nat) (l : List (Nat × Nat × Triple)) : (s.landM g n l).nextSession = s.nextSession := rfl
@[simp] theorem State.landM_nextTask (s : State) (g : GRef) (n : Nat) (l : List (Nat × Nat × Triple)) : (s.landM g n l).nextTask = s.nextTask := rfl
@[simp] theorem State.landM_agenda (s : State) (g : GRef) (n : Nat) (l : List (Nat × Nat × Triple)) : (s.landM g n l).agenda = s.agenda := rfl
@[simp] theorem State.landM_inbox (s : State) (g : GRef) (n : Nat) (l : List (Nat × Nat × Triple)) : (s.landM g n l).inbox = s.inbox := rfl
@[simp] theorem State.landM_todo (s : State) (g : GRef) (n : Nat) (l : List (Nat × Nat × Triple)) : (s.landM g n l).todo = s.todo := rfl
@[simp] theorem State.landM_cur (s : State) (g : GRef) (n : Nat) (l : List (Nat × Nat × Triple)) : (s.landM g n l).cur = s.cur := rfl
@[simp] theorem State.landM_free (s : State) (g : GRef) (n : Nat) (l : List (Nat × Nat × Triple)) : (s.landM g n l).free = s.free := rfl

/-! park. -/
@[simp] theorem State.park_clock (s : State) (g : GRef) (w : Wake) (b : Starter) : (s.park g w b).clock = s.clock := rfl
@[simp] theorem State.park_power (s : State) (g : GRef) (w : Wake) (b : Starter) : (s.park g w b).power = s.power := rfl
@[simp] theorem State.park_leader (s : State) (g : GRef) (w : Wake) (b : Starter) : (s.park g w b).leader = s.leader := rfl
@[simp] theorem State.park_mgmtOk (s : State) (g : GRef) (w : Wake) (b : Starter) : (s.park g w b).mgmtOk = s.mgmtOk := rfl
@[simp] theorem State.park_dram (s : State) (g : GRef) (w : Wake) (b : Starter) : (s.park g w b).dram = s.dram := rfl
@[simp] theorem State.park_framesUsed (s : State) (g : GRef) (w : Wake) (b : Starter) : (s.park g w b).framesUsed = s.framesUsed := rfl
@[simp] theorem State.park_framesBad (s : State) (g : GRef) (w : Wake) (b : Starter) : (s.park g w b).framesBad = s.framesBad := rfl
@[simp] theorem State.park_keys (s : State) (g : GRef) (w : Wake) (b : Starter) : (s.park g w b).keys = s.keys := rfl
@[simp] theorem State.park_contexts (s : State) (g : GRef) (w : Wake) (b : Starter) : (s.park g w b).contexts = s.contexts := rfl
@[simp] theorem State.park_sessions (s : State) (g : GRef) (w : Wake) (b : Starter) : (s.park g w b).sessions = s.sessions := rfl
@[simp] theorem State.park_images (s : State) (g : GRef) (w : Wake) (b : Starter) : (s.park g w b).images = s.images := rfl
@[simp] theorem State.park_launches (s : State) (g : GRef) (w : Wake) (b : Starter) : (s.park g w b).launches = s.launches := rfl
@[simp] theorem State.park_clusters (s : State) (g : GRef) (w : Wake) (b : Starter) : (s.park g w b).clusters = s.clusters := rfl
@[simp] theorem State.park_teams (s : State) (g : GRef) (w : Wake) (b : Starter) : (s.park g w b).teams = s.teams.map fun x => if x.id = g.team then x.modGroup g.slot fun y => { y with phase := if y.phase = .evicted then .evicted else .parked, wake := some w, wakeBy := b, wakeMet := false } else x := rfl
@[simp] theorem State.park_cores (s : State) (g : GRef) (w : Wake) (b : Starter) : (s.park g w b).cores = s.cores := rfl
@[simp] theorem State.park_leadList (s : State) (g : GRef) (w : Wake) (b : Starter) : (s.park g w b).leadList = s.leadList := rfl
@[simp] theorem State.park_dieList (s : State) (g : GRef) (w : Wake) (b : Starter) : (s.park g w b).dieList = s.dieList := rfl
@[simp] theorem State.park_vigil (s : State) (g : GRef) (w : Wake) (b : Starter) : (s.park g w b).vigil = s.vigil := rfl
@[simp] theorem State.park_tasks (s : State) (g : GRef) (w : Wake) (b : Starter) : (s.park g w b).tasks = s.tasks := rfl
@[simp] theorem State.park_loads (s : State) (g : GRef) (w : Wake) (b : Starter) : (s.park g w b).loads = s.loads := rfl
@[simp] theorem State.park_path (s : State) (g : GRef) (w : Wake) (b : Starter) : (s.park g w b).path = s.path := rfl
@[simp] theorem State.park_atoms (s : State) (g : GRef) (w : Wake) (b : Starter) : (s.park g w b).atoms = s.atoms := rfl
@[simp] theorem State.park_walks (s : State) (g : GRef) (w : Wake) (b : Starter) : (s.park g w b).walks = s.walks := rfl
@[simp] theorem State.park_faults (s : State) (g : GRef) (w : Wake) (b : Starter) : (s.park g w b).faults = s.faults := rfl
@[simp] theorem State.park_adds (s : State) (g : GRef) (w : Wake) (b : Starter) : (s.park g w b).adds = s.adds := rfl
@[simp] theorem State.park_ops (s : State) (g : GRef) (w : Wake) (b : Starter) : (s.park g w b).ops = s.ops := rfl
@[simp] theorem State.park_engines (s : State) (g : GRef) (w : Wake) (b : Starter) : (s.park g w b).engines = s.engines := rfl
@[simp] theorem State.park_locks (s : State) (g : GRef) (w : Wake) (b : Starter) : (s.park g w b).locks = s.locks := rfl
@[simp] theorem State.park_steals (s : State) (g : GRef) (w : Wake) (b : Starter) : (s.park g w b).steals = s.steals := rfl
@[simp] theorem State.park_shoots (s : State) (g : GRef) (w : Wake) (b : Starter) : (s.park g w b).shoots = s.shoots := rfl
@[simp] theorem State.park_steers (s : State) (g : GRef) (w : Wake) (b : Starter) : (s.park g w b).steers = s.steers := rfl
@[simp] theorem State.park_switches (s : State) (g : GRef) (w : Wake) (b : Starter) : (s.park g w b).switches = s.switches := rfl
@[simp] theorem State.park_links (s : State) (g : GRef) (w : Wake) (b : Starter) : (s.park g w b).links = s.links := rfl
@[simp] theorem State.park_ports (s : State) (g : GRef) (w : Wake) (b : Starter) : (s.park g w b).ports = s.ports := rfl
@[simp] theorem State.park_flash (s : State) (g : GRef) (w : Wake) (b : Starter) : (s.park g w b).flash = s.flash := rfl
@[simp] theorem State.park_refreshRow (s : State) (g : GRef) (w : Wake) (b : Starter) : (s.park g w b).refreshRow = s.refreshRow := rfl
@[simp] theorem State.park_issueRow (s : State) (g : GRef) (w : Wake) (b : Starter) : (s.park g w b).issueRow = s.issueRow := rfl
@[simp] theorem State.park_ember (s : State) (g : GRef) (w : Wake) (b : Starter) : (s.park g w b).ember = s.ember := rfl
@[simp] theorem State.park_rowCopies (s : State) (g : GRef) (w : Wake) (b : Starter) : (s.park g w b).rowCopies = s.rowCopies := rfl
@[simp] theorem State.park_rehoming (s : State) (g : GRef) (w : Wake) (b : Starter) : (s.park g w b).rehoming = s.rehoming := rfl
@[simp] theorem State.park_replies (s : State) (g : GRef) (w : Wake) (b : Starter) : (s.park g w b).replies = s.replies := rfl
@[simp] theorem State.park_replayable (s : State) (g : GRef) (w : Wake) (b : Starter) : (s.park g w b).replayable = s.replayable := rfl
@[simp] theorem State.park_era (s : State) (g : GRef) (w : Wake) (b : Starter) : (s.park g w b).era = s.era := rfl
@[simp] theorem State.park_retiring (s : State) (g : GRef) (w : Wake) (b : Starter) : (s.park g w b).retiring = s.retiring := rfl
@[simp] theorem State.park_outbox (s : State) (g : GRef) (w : Wake) (b : Starter) : (s.park g w b).outbox = s.outbox := rfl
@[simp] theorem State.park_heldMsgs (s : State) (g : GRef) (w : Wake) (b : Starter) : (s.park g w b).heldMsgs = s.heldMsgs := rfl
@[simp] theorem State.park_nextId (s : State) (g : GRef) (w : Wake) (b : Starter) : (s.park g w b).nextId = s.nextId := rfl
@[simp] theorem State.park_nextTeam (s : State) (g : GRef) (w : Wake) (b : Starter) : (s.park g w b).nextTeam = s.nextTeam := rfl
@[simp] theorem State.park_nextUid (s : State) (g : GRef) (w : Wake) (b : Starter) : (s.park g w b).nextUid = s.nextUid := rfl
@[simp] theorem State.park_nextGrid (s : State) (g : GRef) (w : Wake) (b : Starter) : (s.park g w b).nextGrid = s.nextGrid := rfl
@[simp] theorem State.park_nextImage (s : State) (g : GRef) (w : Wake) (b : Starter) : (s.park g w b).nextImage = s.nextImage := rfl
@[simp] theorem State.park_nextFault (s : State) (g : GRef) (w : Wake) (b : Starter) : (s.park g w b).nextFault = s.nextFault := rfl
@[simp] theorem State.park_nextSession (s : State) (g : GRef) (w : Wake) (b : Starter) : (s.park g w b).nextSession = s.nextSession := rfl
@[simp] theorem State.park_nextTask (s : State) (g : GRef) (w : Wake) (b : Starter) : (s.park g w b).nextTask = s.nextTask := rfl
@[simp] theorem State.park_agenda (s : State) (g : GRef) (w : Wake) (b : Starter) : (s.park g w b).agenda = s.agenda := rfl
@[simp] theorem State.park_inbox (s : State) (g : GRef) (w : Wake) (b : Starter) : (s.park g w b).inbox = s.inbox := rfl
@[simp] theorem State.park_todo (s : State) (g : GRef) (w : Wake) (b : Starter) : (s.park g w b).todo = s.todo := rfl
@[simp] theorem State.park_cur (s : State) (g : GRef) (w : Wake) (b : Starter) : (s.park g w b).cur = s.cur := rfl
@[simp] theorem State.park_free (s : State) (g : GRef) (w : Wake) (b : Starter) : (s.park g w b).free = s.free := rfl

/-! Lookups under updates of other tables. -/
@[simp] theorem State.modTeam_core (s : State) (t : Nat) (f : Team → Team) (a0 : Nat) : (s.modTeam t f).core a0 = s.core a0 := rfl
@[simp] theorem State.modTeam_launchOf (s : State) (t : Nat) (f : Team → Team) (a0 : Nat) : (s.modTeam t f).launch? a0 = s.launch? a0 := rfl
@[simp] theorem State.modTeam_ctxOf (s : State) (t : Nat) (f : Team → Team) (a0 : Nat) : (s.modTeam t f).ctx? a0 = s.ctx? a0 := rfl
@[simp] theorem State.modTeam_clusterOf (s : State) (t : Nat) (f : Team → Team) (a0 b0 : Nat) : (s.modTeam t f).cluster? a0 b0 = s.cluster? a0 b0 := rfl
@[simp] theorem State.modTeam_opOf (s : State) (t : Nat) (f : Team → Team) (a0 : Nat) : (s.modTeam t f).op? a0 = s.op? a0 := rfl
@[simp] theorem State.modTeam_imageOf (s : State) (t : Nat) (f : Team → Team) (a0 : Nat) : (s.modTeam t f).image? a0 = s.image? a0 := rfl
@[simp] theorem State.modGroup_core (s : State) (g : GRef) (f : Group → Group) (a0 : Nat) : (s.modGroup g f).core a0 = s.core a0 := rfl
@[simp] theorem State.modGroup_launchOf (s : State) (g : GRef) (f : Group → Group) (a0 : Nat) : (s.modGroup g f).launch? a0 = s.launch? a0 := rfl
@[simp] theorem State.modGroup_ctxOf (s : State) (g : GRef) (f : Group → Group) (a0 : Nat) : (s.modGroup g f).ctx? a0 = s.ctx? a0 := rfl
@[simp] theorem State.modGroup_clusterOf (s : State) (g : GRef) (f : Group → Group) (a0 b0 : Nat) : (s.modGroup g f).cluster? a0 b0 = s.cluster? a0 b0 := rfl
@[simp] theorem State.modGroup_opOf (s : State) (g : GRef) (f : Group → Group) (a0 : Nat) : (s.modGroup g f).op? a0 = s.op? a0 := rfl
@[simp] theorem State.modGroup_imageOf (s : State) (g : GRef) (f : Group → Group) (a0 : Nat) : (s.modGroup g f).image? a0 = s.image? a0 := rfl
@[simp] theorem State.modCore_teamOf (s : State) (c : Nat) (f : Core → Core) (a0 : Nat) : (s.modCore c f).team? a0 = s.team? a0 := rfl
@[simp] theorem State.modCore_groupOf (s : State) (c : Nat) (f : Core → Core) (a0 : GRef) : (s.modCore c f).group? a0 = s.group? a0 := rfl
@[simp] theorem State.modCore_launchOf (s : State) (c : Nat) (f : Core → Core) (a0 : Nat) : (s.modCore c f).launch? a0 = s.launch? a0 := rfl
@[simp] theorem State.modCore_ctxOf (s : State) (c : Nat) (f : Core → Core) (a0 : Nat) : (s.modCore c f).ctx? a0 = s.ctx? a0 := rfl
@[simp] theorem State.modCore_clusterOf (s : State) (c : Nat) (f : Core → Core) (a0 b0 : Nat) : (s.modCore c f).cluster? a0 b0 = s.cluster? a0 b0 := rfl
@[simp] theorem State.modCore_opOf (s : State) (c : Nat) (f : Core → Core) (a0 : Nat) : (s.modCore c f).op? a0 = s.op? a0 := rfl
@[simp] theorem State.modCore_imageOf (s : State) (c : Nat) (f : Core → Core) (a0 : Nat) : (s.modCore c f).image? a0 = s.image? a0 := rfl
@[simp] theorem State.modCore_resident (s : State) (c : Nat) (f : Core → Core) (a0 : Nat) : (s.modCore c f).resident a0 = s.resident a0 := rfl
@[simp] theorem State.modLaunch_teamOf (s : State) (g : Nat) (f : Launch → Launch) (a0 : Nat) : (s.modLaunch g f).team? a0 = s.team? a0 := rfl
@[simp] theorem State.modLaunch_groupOf (s : State) (g : Nat) (f : Launch → Launch) (a0 : GRef) : (s.modLaunch g f).group? a0 = s.group? a0 := rfl
@[simp] theorem State.modLaunch_core (s : State) (g : Nat) (f : Launch → Launch) (a0 : Nat) : (s.modLaunch g f).core a0 = s.core a0 := rfl
@[simp] theorem State.modLaunch_ctxOf (s : State) (g : Nat) (f : Launch → Launch) (a0 : Nat) : (s.modLaunch g f).ctx? a0 = s.ctx? a0 := rfl
@[simp] theorem State.modLaunch_clusterOf (s : State) (g : Nat) (f : Launch → Launch) (a0 b0 : Nat) : (s.modLaunch g f).cluster? a0 b0 = s.cluster? a0 b0 := rfl
@[simp] theorem State.modLaunch_opOf (s : State) (g : Nat) (f : Launch → Launch) (a0 : Nat) : (s.modLaunch g f).op? a0 = s.op? a0 := rfl
@[simp] theorem State.modLaunch_imageOf (s : State) (g : Nat) (f : Launch → Launch) (a0 : Nat) : (s.modLaunch g f).image? a0 = s.image? a0 := rfl
@[simp] theorem State.modLaunch_resident (s : State) (g : Nat) (f : Launch → Launch) (a0 : Nat) : (s.modLaunch g f).resident a0 = s.resident a0 := rfl
@[simp] theorem State.modCtx_teamOf (s : State) (c : Nat) (f : Ctx → Ctx) (a0 : Nat) : (s.modCtx c f).team? a0 = s.team? a0 := rfl
@[simp] theorem State.modCtx_groupOf (s : State) (c : Nat) (f : Ctx → Ctx) (a0 : GRef) : (s.modCtx c f).group? a0 = s.group? a0 := rfl
@[simp] theorem State.modCtx_core (s : State) (c : Nat) (f : Ctx → Ctx) (a0 : Nat) : (s.modCtx c f).core a0 = s.core a0 := rfl
@[simp] theorem State.modCtx_launchOf (s : State) (c : Nat) (f : Ctx → Ctx) (a0 : Nat) : (s.modCtx c f).launch? a0 = s.launch? a0 := rfl
@[simp] theorem State.modCtx_clusterOf (s : State) (c : Nat) (f : Ctx → Ctx) (a0 b0 : Nat) : (s.modCtx c f).cluster? a0 b0 = s.cluster? a0 b0 := rfl
@[simp] theorem State.modCtx_opOf (s : State) (c : Nat) (f : Ctx → Ctx) (a0 : Nat) : (s.modCtx c f).op? a0 = s.op? a0 := rfl
@[simp] theorem State.modCtx_imageOf (s : State) (c : Nat) (f : Ctx → Ctx) (a0 : Nat) : (s.modCtx c f).image? a0 = s.image? a0 := rfl
@[simp] theorem State.modCtx_resident (s : State) (c : Nat) (f : Ctx → Ctx) (a0 : Nat) : (s.modCtx c f).resident a0 = s.resident a0 := rfl
@[simp] theorem State.modCluster_teamOf (s : State) (l c : Nat) (f : Cluster → Cluster) (a0 : Nat) : (s.modCluster l c f).team? a0 = s.team? a0 := rfl
@[simp] theorem State.modCluster_groupOf (s : State) (l c : Nat) (f : Cluster → Cluster) (a0 : GRef) : (s.modCluster l c f).group? a0 = s.group? a0 := rfl
@[simp] theorem State.modCluster_core (s : State) (l c : Nat) (f : Cluster → Cluster) (a0 : Nat) : (s.modCluster l c f).core a0 = s.core a0 := rfl
@[simp] theorem State.modCluster_launchOf (s : State) (l c : Nat) (f : Cluster → Cluster) (a0 : Nat) : (s.modCluster l c f).launch? a0 = s.launch? a0 := rfl
@[simp] theorem State.modCluster_ctxOf (s : State) (l c : Nat) (f : Cluster → Cluster) (a0 : Nat) : (s.modCluster l c f).ctx? a0 = s.ctx? a0 := rfl
@[simp] theorem State.modCluster_opOf (s : State) (l c : Nat) (f : Cluster → Cluster) (a0 : Nat) : (s.modCluster l c f).op? a0 = s.op? a0 := rfl
@[simp] theorem State.modCluster_imageOf (s : State) (l c : Nat) (f : Cluster → Cluster) (a0 : Nat) : (s.modCluster l c f).image? a0 = s.image? a0 := rfl
@[simp] theorem State.modCluster_resident (s : State) (l c : Nat) (f : Cluster → Cluster) (a0 : Nat) : (s.modCluster l c f).resident a0 = s.resident a0 := rfl
@[simp] theorem State.modOp_teamOf (s : State) (i : Nat) (f : EOp → EOp) (a0 : Nat) : (s.modOp i f).team? a0 = s.team? a0 := rfl
@[simp] theorem State.modOp_groupOf (s : State) (i : Nat) (f : EOp → EOp) (a0 : GRef) : (s.modOp i f).group? a0 = s.group? a0 := rfl
@[simp] theorem State.modOp_core (s : State) (i : Nat) (f : EOp → EOp) (a0 : Nat) : (s.modOp i f).core a0 = s.core a0 := rfl
@[simp] theorem State.modOp_launchOf (s : State) (i : Nat) (f : EOp → EOp) (a0 : Nat) : (s.modOp i f).launch? a0 = s.launch? a0 := rfl
@[simp] theorem State.modOp_ctxOf (s : State) (i : Nat) (f : EOp → EOp) (a0 : Nat) : (s.modOp i f).ctx? a0 = s.ctx? a0 := rfl
@[simp] theorem State.modOp_clusterOf (s : State) (i : Nat) (f : EOp → EOp) (a0 b0 : Nat) : (s.modOp i f).cluster? a0 b0 = s.cluster? a0 b0 := rfl
@[simp] theorem State.modOp_imageOf (s : State) (i : Nat) (f : EOp → EOp) (a0 : Nat) : (s.modOp i f).image? a0 = s.image? a0 := rfl
@[simp] theorem State.modOp_resident (s : State) (i : Nat) (f : EOp → EOp) (a0 : Nat) : (s.modOp i f).resident a0 = s.resident a0 := rfl
@[simp] theorem State.sched_teamOf (s : State) (t : Nat) (i : Instr) (a0 : Nat) : (s.sched t i).team? a0 = s.team? a0 := rfl
@[simp] theorem State.sched_groupOf (s : State) (t : Nat) (i : Instr) (a0 : GRef) : (s.sched t i).group? a0 = s.group? a0 := rfl
@[simp] theorem State.sched_core (s : State) (t : Nat) (i : Instr) (a0 : Nat) : (s.sched t i).core a0 = s.core a0 := rfl
@[simp] theorem State.sched_launchOf (s : State) (t : Nat) (i : Instr) (a0 : Nat) : (s.sched t i).launch? a0 = s.launch? a0 := rfl
@[simp] theorem State.sched_ctxOf (s : State) (t : Nat) (i : Instr) (a0 : Nat) : (s.sched t i).ctx? a0 = s.ctx? a0 := rfl
@[simp] theorem State.sched_clusterOf (s : State) (t : Nat) (i : Instr) (a0 b0 : Nat) : (s.sched t i).cluster? a0 b0 = s.cluster? a0 b0 := rfl
@[simp] theorem State.sched_opOf (s : State) (t : Nat) (i : Instr) (a0 : Nat) : (s.sched t i).op? a0 = s.op? a0 := rfl
@[simp] theorem State.sched_imageOf (s : State) (t : Nat) (i : Instr) (a0 : Nat) : (s.sched t i).image? a0 = s.image? a0 := rfl
@[simp] theorem State.sched_resident (s : State) (t : Nat) (i : Instr) (a0 : Nat) : (s.sched t i).resident a0 = s.resident a0 := rfl
@[simp] theorem State.after_teamOf (s : State) (n : Nat) (i : Instr) (a0 : Nat) : (s.after n i).team? a0 = s.team? a0 := rfl
@[simp] theorem State.after_groupOf (s : State) (n : Nat) (i : Instr) (a0 : GRef) : (s.after n i).group? a0 = s.group? a0 := rfl
@[simp] theorem State.after_core (s : State) (n : Nat) (i : Instr) (a0 : Nat) : (s.after n i).core a0 = s.core a0 := rfl
@[simp] theorem State.after_launchOf (s : State) (n : Nat) (i : Instr) (a0 : Nat) : (s.after n i).launch? a0 = s.launch? a0 := rfl
@[simp] theorem State.after_ctxOf (s : State) (n : Nat) (i : Instr) (a0 : Nat) : (s.after n i).ctx? a0 = s.ctx? a0 := rfl
@[simp] theorem State.after_clusterOf (s : State) (n : Nat) (i : Instr) (a0 b0 : Nat) : (s.after n i).cluster? a0 b0 = s.cluster? a0 b0 := rfl
@[simp] theorem State.after_opOf (s : State) (n : Nat) (i : Instr) (a0 : Nat) : (s.after n i).op? a0 = s.op? a0 := rfl
@[simp] theorem State.after_imageOf (s : State) (n : Nat) (i : Instr) (a0 : Nat) : (s.after n i).image? a0 = s.image? a0 := rfl
@[simp] theorem State.after_resident (s : State) (n : Nat) (i : Instr) (a0 : Nat) : (s.after n i).resident a0 = s.resident a0 := rfl
@[simp] theorem State.again_teamOf (s : State) (i : Instr) (a0 : Nat) : (s.again i).team? a0 = s.team? a0 := rfl
@[simp] theorem State.again_groupOf (s : State) (i : Instr) (a0 : GRef) : (s.again i).group? a0 = s.group? a0 := rfl
@[simp] theorem State.again_core (s : State) (i : Instr) (a0 : Nat) : (s.again i).core a0 = s.core a0 := rfl
@[simp] theorem State.again_launchOf (s : State) (i : Instr) (a0 : Nat) : (s.again i).launch? a0 = s.launch? a0 := rfl
@[simp] theorem State.again_ctxOf (s : State) (i : Instr) (a0 : Nat) : (s.again i).ctx? a0 = s.ctx? a0 := rfl
@[simp] theorem State.again_clusterOf (s : State) (i : Instr) (a0 b0 : Nat) : (s.again i).cluster? a0 b0 = s.cluster? a0 b0 := rfl
@[simp] theorem State.again_opOf (s : State) (i : Instr) (a0 : Nat) : (s.again i).op? a0 = s.op? a0 := rfl
@[simp] theorem State.again_imageOf (s : State) (i : Instr) (a0 : Nat) : (s.again i).image? a0 = s.image? a0 := rfl
@[simp] theorem State.again_resident (s : State) (i : Instr) (a0 : Nat) : (s.again i).resident a0 = s.resident a0 := rfl
@[simp] theorem State.dropL1_teamOf (s : State) (c : Nat) (a0 : Nat) : (s.dropL1 c).team? a0 = s.team? a0 := rfl
@[simp] theorem State.dropL1_groupOf (s : State) (c : Nat) (a0 : GRef) : (s.dropL1 c).group? a0 = s.group? a0 := rfl
@[simp] theorem State.dropL1_launchOf (s : State) (c : Nat) (a0 : Nat) : (s.dropL1 c).launch? a0 = s.launch? a0 := rfl
@[simp] theorem State.dropL1_ctxOf (s : State) (c : Nat) (a0 : Nat) : (s.dropL1 c).ctx? a0 = s.ctx? a0 := rfl
@[simp] theorem State.dropL1_clusterOf (s : State) (c : Nat) (a0 b0 : Nat) : (s.dropL1 c).cluster? a0 b0 = s.cluster? a0 b0 := rfl
@[simp] theorem State.dropL1_opOf (s : State) (c : Nat) (a0 : Nat) : (s.dropL1 c).op? a0 = s.op? a0 := rfl
@[simp] theorem State.dropL1_imageOf (s : State) (c : Nat) (a0 : Nat) : (s.dropL1 c).image? a0 = s.image? a0 := rfl
@[simp] theorem State.dropL1_resident (s : State) (c : Nat) (a0 : Nat) : (s.dropL1 c).resident a0 = s.resident a0 := rfl
@[simp] theorem State.wakeGroup_core (s : State) (g : GRef) (a0 : Nat) : (s.wakeGroup g).core a0 = s.core a0 := rfl
@[simp] theorem State.wakeGroup_launchOf (s : State) (g : GRef) (a0 : Nat) : (s.wakeGroup g).launch? a0 = s.launch? a0 := rfl
@[simp] theorem State.wakeGroup_ctxOf (s : State) (g : GRef) (a0 : Nat) : (s.wakeGroup g).ctx? a0 = s.ctx? a0 := rfl
@[simp] theorem State.wakeGroup_clusterOf (s : State) (g : GRef) (a0 b0 : Nat) : (s.wakeGroup g).cluster? a0 b0 = s.cluster? a0 b0 := rfl
@[simp] theorem State.wakeGroup_opOf (s : State) (g : GRef) (a0 : Nat) : (s.wakeGroup g).op? a0 = s.op? a0 := rfl
@[simp] theorem State.wakeGroup_imageOf (s : State) (g : GRef) (a0 : Nat) : (s.wakeGroup g).image? a0 = s.image? a0 := rfl
@[simp] theorem State.unlock_teamOf (s : State) (o : Nat) (a0 : Nat) : (s.unlock o).team? a0 = s.team? a0 := rfl
@[simp] theorem State.unlock_groupOf (s : State) (o : Nat) (a0 : GRef) : (s.unlock o).group? a0 = s.group? a0 := rfl
@[simp] theorem State.unlock_core (s : State) (o : Nat) (a0 : Nat) : (s.unlock o).core a0 = s.core a0 := rfl
@[simp] theorem State.unlock_launchOf (s : State) (o : Nat) (a0 : Nat) : (s.unlock o).launch? a0 = s.launch? a0 := rfl
@[simp] theorem State.unlock_ctxOf (s : State) (o : Nat) (a0 : Nat) : (s.unlock o).ctx? a0 = s.ctx? a0 := rfl
@[simp] theorem State.unlock_clusterOf (s : State) (o : Nat) (a0 b0 : Nat) : (s.unlock o).cluster? a0 b0 = s.cluster? a0 b0 := rfl
@[simp] theorem State.unlock_opOf (s : State) (o : Nat) (a0 : Nat) : (s.unlock o).op? a0 = s.op? a0 := rfl
@[simp] theorem State.unlock_imageOf (s : State) (o : Nat) (a0 : Nat) : (s.unlock o).image? a0 = s.image? a0 := rfl
@[simp] theorem State.unlock_resident (s : State) (o : Nat) (a0 : Nat) : (s.unlock o).resident a0 = s.resident a0 := rfl
@[simp] theorem State.endEntry_teamOf (s : State) (i : Nat) (a0 : Nat) : (s.endEntry i).team? a0 = s.team? a0 := rfl
@[simp] theorem State.endEntry_groupOf (s : State) (i : Nat) (a0 : GRef) : (s.endEntry i).group? a0 = s.group? a0 := rfl
@[simp] theorem State.endEntry_core (s : State) (i : Nat) (a0 : Nat) : (s.endEntry i).core a0 = s.core a0 := rfl
@[simp] theorem State.endEntry_launchOf (s : State) (i : Nat) (a0 : Nat) : (s.endEntry i).launch? a0 = s.launch? a0 := rfl
@[simp] theorem State.endEntry_ctxOf (s : State) (i : Nat) (a0 : Nat) : (s.endEntry i).ctx? a0 = s.ctx? a0 := rfl
@[simp] theorem State.endEntry_clusterOf (s : State) (i : Nat) (a0 b0 : Nat) : (s.endEntry i).cluster? a0 b0 = s.cluster? a0 b0 := rfl
@[simp] theorem State.endEntry_opOf (s : State) (i : Nat) (a0 : Nat) : (s.endEntry i).op? a0 = s.op? a0 := rfl
@[simp] theorem State.endEntry_imageOf (s : State) (i : Nat) (a0 : Nat) : (s.endEntry i).image? a0 = s.image? a0 := rfl
@[simp] theorem State.endEntry_resident (s : State) (i : Nat) (a0 : Nat) : (s.endEntry i).resident a0 = s.resident a0 := rfl
@[simp] theorem State.setMode_core (s : State) (g : GRef) (m : W64) (a0 : Nat) : (s.setMode g m).core a0 = s.core a0 := rfl
@[simp] theorem State.setMode_launchOf (s : State) (g : GRef) (m : W64) (a0 : Nat) : (s.setMode g m).launch? a0 = s.launch? a0 := rfl
@[simp] theorem State.setMode_ctxOf (s : State) (g : GRef) (m : W64) (a0 : Nat) : (s.setMode g m).ctx? a0 = s.ctx? a0 := rfl
@[simp] theorem State.setMode_clusterOf (s : State) (g : GRef) (m : W64) (a0 b0 : Nat) : (s.setMode g m).cluster? a0 b0 = s.cluster? a0 b0 := rfl
@[simp] theorem State.setMode_opOf (s : State) (g : GRef) (m : W64) (a0 : Nat) : (s.setMode g m).op? a0 = s.op? a0 := rfl
@[simp] theorem State.setMode_imageOf (s : State) (g : GRef) (m : W64) (a0 : Nat) : (s.setMode g m).image? a0 = s.image? a0 := rfl
@[simp] theorem State.land_core (s : State) (g : GRef) (n : Nat) (l : List (LDst × W64)) (a0 : Nat) : (s.land g n l).core a0 = s.core a0 := rfl
@[simp] theorem State.land_launchOf (s : State) (g : GRef) (n : Nat) (l : List (LDst × W64)) (a0 : Nat) : (s.land g n l).launch? a0 = s.launch? a0 := rfl
@[simp] theorem State.land_ctxOf (s : State) (g : GRef) (n : Nat) (l : List (LDst × W64)) (a0 : Nat) : (s.land g n l).ctx? a0 = s.ctx? a0 := rfl
@[simp] theorem State.land_clusterOf (s : State) (g : GRef) (n : Nat) (l : List (LDst × W64)) (a0 b0 : Nat) : (s.land g n l).cluster? a0 b0 = s.cluster? a0 b0 := rfl
@[simp] theorem State.land_opOf (s : State) (g : GRef) (n : Nat) (l : List (LDst × W64)) (a0 : Nat) : (s.land g n l).op? a0 = s.op? a0 := rfl
@[simp] theorem State.land_imageOf (s : State) (g : GRef) (n : Nat) (l : List (LDst × W64)) (a0 : Nat) : (s.land g n l).image? a0 = s.image? a0 := rfl
@[simp] theorem State.landM_core (s : State) (g : GRef) (n : Nat) (l : List (Nat × Nat × Triple)) (a0 : Nat) : (s.landM g n l).core a0 = s.core a0 := rfl
@[simp] theorem State.landM_launchOf (s : State) (g : GRef) (n : Nat) (l : List (Nat × Nat × Triple)) (a0 : Nat) : (s.landM g n l).launch? a0 = s.launch? a0 := rfl
@[simp] theorem State.landM_ctxOf (s : State) (g : GRef) (n : Nat) (l : List (Nat × Nat × Triple)) (a0 : Nat) : (s.landM g n l).ctx? a0 = s.ctx? a0 := rfl
@[simp] theorem State.landM_clusterOf (s : State) (g : GRef) (n : Nat) (l : List (Nat × Nat × Triple)) (a0 b0 : Nat) : (s.landM g n l).cluster? a0 b0 = s.cluster? a0 b0 := rfl
@[simp] theorem State.landM_opOf (s : State) (g : GRef) (n : Nat) (l : List (Nat × Nat × Triple)) (a0 : Nat) : (s.landM g n l).op? a0 = s.op? a0 := rfl
@[simp] theorem State.landM_imageOf (s : State) (g : GRef) (n : Nat) (l : List (Nat × Nat × Triple)) (a0 : Nat) : (s.landM g n l).image? a0 = s.image? a0 := rfl
@[simp] theorem State.park_core (s : State) (g : GRef) (w : Wake) (b : Starter) (a0 : Nat) : (s.park g w b).core a0 = s.core a0 := rfl
@[simp] theorem State.park_launchOf (s : State) (g : GRef) (w : Wake) (b : Starter) (a0 : Nat) : (s.park g w b).launch? a0 = s.launch? a0 := rfl
@[simp] theorem State.park_ctxOf (s : State) (g : GRef) (w : Wake) (b : Starter) (a0 : Nat) : (s.park g w b).ctx? a0 = s.ctx? a0 := rfl
@[simp] theorem State.park_clusterOf (s : State) (g : GRef) (w : Wake) (b : Starter) (a0 b0 : Nat) : (s.park g w b).cluster? a0 b0 = s.cluster? a0 b0 := rfl
@[simp] theorem State.park_opOf (s : State) (g : GRef) (w : Wake) (b : Starter) (a0 : Nat) : (s.park g w b).op? a0 = s.op? a0 := rfl
@[simp] theorem State.park_imageOf (s : State) (g : GRef) (w : Wake) (b : Starter) (a0 : Nat) : (s.park g w b).image? a0 = s.image? a0 := rfl

/-! Looking up what an update changes. -/

theorem State.team?_modTeam (s : State) (t : Nat) (f : Team → Team) (hf : ∀ x : Team, (f x).id = x.id) (a : Nat) :
    (s.modTeam t f).team? a = (s.team? a).map fun x => if x.id = t then f x else x := by
  unfold State.team? State.modTeam
  rw [List.find?_map]
  congr 2
  funext x
  simp only [Function.comp]
  split <;> simp [hf]
theorem State.team?_id {s : State} {a : Nat} {t : Team} (h : s.team? a = some t) : t.id = a := by
  have := List.find?_some h
  simpa using this
theorem Team.group?_slot {t : Team} {a : Nat} {g : Group} (h : t.group? a = some g) : g.slot = a := by
  have := List.find?_some h
  simpa using this
theorem Team.group?_modGroup (t : Team) (n : Nat) (f : Group → Group) (hf : ∀ x : Group, (f x).slot = x.slot) (a : Nat) :
    (t.modGroup n f).group? a = (t.group? a).map fun x => if x.slot = n then f x else x := by
  unfold Team.group? Team.modGroup
  simp only
  rw [List.find?_map]
  congr 2
  funext x
  simp only [Function.comp]
  split <;> simp [hf]
@[simp] theorem Team.modGroup_id (t : Team) (n : Nat) (f : Group → Group) : (t.modGroup n f).id = t.id := rfl
/-- What a group becomes under an update of itself. -/
theorem State.group?_modGroup_self (s : State) (g : GRef) (f : Group → Group) (hf : ∀ x : Group, (f x).slot = x.slot) :
    (s.modGroup g f).group? g = (s.group? g).map f := by
  unfold State.group? State.modGroup
  rw [State.team?_modTeam s g.team (fun t => t.modGroup g.slot f) (fun x => rfl)]
  cases h : s.team? g.team with
  | none => rfl
  | some t =>
    have hid := State.team?_id h
    simp only [Option.map_some, Option.bind_some, hid, if_true]
    rw [Team.group?_modGroup t g.slot f hf]
    cases h2 : t.group? g.slot with
    | none => rfl
    | some x => simp [Team.group?_slot h2]
/-- Other groups are as before. -/
theorem State.group?_modGroup_other (s : State) (g a : GRef) (f : Group → Group) (hf : ∀ x : Group, (f x).slot = x.slot) (h : a ≠ g) :
    (s.modGroup g f).group? a = s.group? a := by
  unfold State.group? State.modGroup
  rw [State.team?_modTeam s g.team (fun t => t.modGroup g.slot f) (fun x => rfl)]
  cases ht : s.team? a.team with
  | none => rfl
  | some t =>
    have hid := State.team?_id ht
    simp only [Option.map_some, Option.bind_some, hid]
    split
    · rename_i he
      rw [Team.group?_modGroup t g.slot f hf]
      cases h2 : t.group? a.slot with
      | none => rfl
      | some x =>
        have hs := Team.group?_slot h2
        have : x.slot ≠ g.slot := by
          intro hx
          apply h
          cases a; cases g
          simp_all
        simp [this]
    · rfl

end Sys2Proof.Machine
end

