-- ==== Sys2Proof/Tests/Slice0.lean ====
section
/-! SUPPORT. Tests on single steps: words written from the spec's tables decode, ill-formed terms are refused, and a concrete
machine meets the hypotheses of every statement (`wit_`). -/
namespace Sys2Proof.Tests
open Sys2Proof Sys2Proof.Machine

/-! The machine of the witnesses: one group of 16 lanes in a team of one, about to issue. -/

def team0 : Team :=
  { placedTeam with tm := { size := 0x80000 }, abuf := { size := 65536 }, wbuf := { size := 65536 }, cbuf := { size := 65536 },
                    queues := [{}, {}, {}, {}], kern := { regs := 248, teamBytes := 0x10000, groups := 1, spawnSlots := 1, rings := 2, stages := [2, 2], target := [64, 64] } }
/-- The machine with its group and its team changed. -/
def mach (f : Group → Group := id) (t : Team → Team := id) (h : State → State := id) : State :=
  h { State.reset.place [] with teams := [{ t team0 with groups := team0.groups.map f }] }
def st : State := mach
/-- A full word without literal; `ws` lists the wait bits of A, B and C from bit 0. -/
def fw (sub : Nat) (ty : Ty) (d a b c : Opnd) (ws : Nat := 7) (grd : Fin 8 := 0) : Full :=
  ⟨BitVec.ofNat 4 sub, ty, d, a, b, c, ws % 2 == 1, ws / 2 % 2 == 1, ws / 4 % 2 == 1, 0, false, grd, none⟩

/-- The word now issuing is at its issue, and its view has a property. -/
def goes (s : State) (op : Op) (w : Full) (p : Cur → Iss → Core → Bool) : Bool :=
  match s.cur with
  | none => false
  | some c =>
    match s.team? c.g.team, s.group? c.g with
    | some t, some gr =>
      (match preIssue s c t gr op w (issueKind op w) with
       | .go i core => p c i core
       | _ => false)
    | _, _ => false
/-- So it is what the statements mean by it. -/
theorem atIssue_of_goes {s : State} {op : Op} {w : Full} {p : Cur → Iss → Core → Bool} (h : goes s op w p = true) :
    ∃ c i core, AtIssue s op w c i core ∧ p c i core = true := by
  unfold goes at h
  split at h
  · cases h
  · rename_i c hc
    split at h
    · rename_i t gr ht hg
      split at h
      · rename_i i core hp
        have hv := preIssue_view hp
        refine ⟨c, i, core, ⟨hc, ?_, ?_, ?_⟩, h⟩
        · rw [hv.2.1]; exact ht
        · rw [hv.2.2.1]; exact hg
        · rw [hv.2.1, hv.2.2.1]; exact hp
      · cases h
    · cases h
/-- Not a first half that only waits, and some lane acts. -/
def acts (op : Op) (w : Full) (c : Cur) (i : Iss) : Bool :=
  !(i.gr.width == 64 && c.half == 0 && (issueKind op w == .once || issueKind op w == .perLane)) && !i.lanes.isEmpty
theorem acts_iff {op : Op} {w : Full} {c : Cur} {i : Iss} (h : acts op w c i = true) : ¬ onlyWaits op w c i ∧ i.lanes ≠ [] := by
  unfold acts at h
  unfold onlyWaits firstHalf
  simp only [Bool.and_eq_true, Bool.not_eq_true', Bool.and_eq_false_iff, beq_eq_false_iff_ne, Bool.or_eq_false_iff, List.isEmpty_eq_false_iff] at h
  exact ⟨by rintro ⟨⟨h1, h2⟩, h3⟩; rcases h.1 with (h4 | h4) | h4
            · exact h4 h1
            · exact h4 h2
            · exact h3.elim h4.1 h4.2, h.2⟩
/-- The word acts in the machine, and more. -/
def acting (s : State) (op : Op) (w : Full) (p : Cur → Iss → Core → Bool := fun _ _ _ => true) : Bool :=
  goes s op w fun c i core => acts op w c i && p c i core
/-- Its guard register reads 0 in every lane. -/
def idle (s : State) (op : Op) (w : Full) : Bool := goes s op { w with grd := 1 } fun _ i _ => i.lanes.isEmpty

/-! The words of the ranges. -/

theorem wit_scalarWords :
    scalarOps.all (fun op => acting st op (fw 0 .i64 (.s 1) (.s 2) (.s 3) (.s 4))) = true ∧
    scalarOps.all (fun op => idle st op (fw 0 .i64 (.s 1) (.s 2) (.s 3) (.s 4))) = true ∧
    [0, 5].all (fun n => acting st .scmp (fw n .i64 (.k 1) (.s 2) (.s 3) (.v 0))) = true ∧
    acting st .sget (fw 0 .i64 (.s 1) (.imm 15) (.v 0) (.v 0)) = true := by decide
def wordAt (b : List Byte) : State := State.reset.place b
theorem wit_modesAndPausesOfTheGroup :
    (let s := wordAt [0x41, 0x08, 0, 0, 0, 0, 0, 0]
     s.power = true ∧ ∃ t ∈ s.teams, s.team? 0 = some t ∧ s.fetchAt t 0 = .word [0x841, 0]) ∧
    [0, 1].all (fun n => acting st .sset (fw n .i64 (.v 0) (.s 2) (.v 0) (.v 0) 1)) = true ∧
    acting st .sset (fw 1 .i64 (.v 0) (.imm (-1)) (.v 0) (.v 0) 0) (fun _ i _ => 65535 < (i.rdOnce i.w.a).toNat) = true ∧
    [0, 3].all (fun n => acting st .setmode (fw n .i32 (.v 0) (.imm 2) (.v 0) (.v 0) 0)) = true ∧
    acting st .getmode (fw 0 .i32 (.s 1) (.v 0) (.v 0) (.v 0) 0) = true ∧ acting st .getmode (fw 0 .i32 (.v 1) (.v 0) (.v 0) (.v 0) 0) = true := by
  decide
theorem wit_vectorIntegerWords :
    vectorIntOps.all (fun op => acting st op (fw 0 .i32 (.v 1) (.v 2) (.v 3) (.v 4))) = true ∧
    [Op.iadd, .isub, .imul, .imad, .iabs, .ineg].all (fun op => acting st op (fw 1 .i16 (.v 1) (.v 2) (.v 3) (.v 4))) = true ∧
    acting st .mov (fw 0 .i64 (.v 2) (.v 4) (.v 0) (.v 0) 1) = true ∧ acting st .mov (fw 0 .f32 (.v 2) .pcv (.v 0) (.v 0) 0) = true ∧
    acting st .sel (fw 0 .f32 (.v 1) (.v 2) (.v 3) (.k 1)) = true ∧ [0, 5].all (fun n => acting st .icmp (fw n .n8 (.k 1) (.v 2) (.v 3) (.v 0) 3)) = true ∧
    acting st .movk (fw 0 .i32 (.v 1) (.k 2) (.v 0) (.v 0) 0) = true ∧ acting st .movk (fw 1 .i32 (.k 1) (.s 2) (.v 0) (.v 0) 1) = true ∧
    acting st .movk (fw 2 .i32 (.k 1) (.s 2) (.v 0) (.v 0) 1) = true ∧ acting st .idot4 (fw 1 .i8 (.v 1) (.v 2) (.v 3) (.v 4)) = true := by
  decide
/-- Some lane's condition is enabled, or none is. -/
def traps (f : Iss → Nat → Nat) (i : Iss) : Bool := i.half.any fun l => f i l &&& (i.gr.mode.toNat / 32 % 32) != 0
def fpConds (op : Op) (i : Iss) (l : Nat) : Nat :=
  (fpSpec op i.w.ty (RMode.ofMode i.gr.mode) (i.rd32 l i.w.a) (i.rd32 l i.w.b) (i.rd32 l i.w.c)).conds.bits
def trapping : State := mach fun g => { g with mode := 0x3E0 }
theorem wit_floatingPointWords :
    fpOps.all (fun op => acting st op (fw 0 (if op = .fdot2 then .bf16 else .f32) (.v 1) (.v 2) (.v 3) (.v 4)) fun _ i _ => !traps (fpConds op) i) = true ∧
    acting trapping .frcp (fw 0 .f32 (.v 1) (.v 2) (.v 0) (.v 0) 1) (fun _ i _ => traps (fpConds .frcp) i) = true ∧
    acting trapping .fadd (fw 0 .f32 (.v 1) (.imm 1) (.v 0) (.v 0) 2) (fun _ i _ => !traps (fpConds .fadd) i) = true ∧
    fpPlainOps.all (fun op => acting st op (fw 0 .f32 (.v 1) (.v 2) (.v 3) (.v 0))) = true ∧
    [0, 7].all (fun n => acting st .fcmp (fw n .f32 (.k 1) (.v 2) (.v 3) (.v 0))) = true := by decide
def cvtConds (i : Iss) (l : Nat) : Nat :=
  let st := tyOfSub i.w.sub
  (cvtBits i.w.ty st (RMode.ofMode i.gr.mode) ((i.rd l i.w.a st.wide).toNat % 2 ^ st.bits)).2.bits
theorem wit_conversionsAndBlocks :
    acting st .cvt (fw 8 .i32 (.v 1) (.v 2) (.v 0) (.v 0) 1) (fun _ i _ => !traps cvtConds i) = true ∧
    acting st .cvt (fw 9 .i8 (.v 1) (.v 2) (.imm 1) (.imm 3) 1) (fun _ i _ => !traps cvtConds i) = true ∧
    acting trapping .cvt (fw 8 .i32 (.v 1) (.imm (-1)) (.v 0) (.v 0) 0) (fun _ i _ => traps cvtConds i) = true ∧
    [0, 1].all (fun n => acting st .cbdec (fw n .cb2 (.v 4) (.v 2) (.v 3) (.v 0) 3)) = true ∧
    acting st .obdec (fw 0 .ob8 (.v 2) (.v 5) (.v 6) (.v 7)) = true ∧ acting st .obdec (fw 0 .ob4 (.v 4) (.v 5) (.v 6) (.v 7)) = true := by decide
def crossConds (c : Conds) (i : Iss) : Bool := c.bits &&& (i.gr.mode.toNat / 32 % 32) != 0
def scanConds (i : Iss) : Bool :=
  crossConds (scanLoop (i.w.sub.toNat % 8) i.w.ty (RMode.ofMode i.gr.mode) (8 ≤ i.w.sub.toNat) (fun l => i.rd32 l i.w.a) i.lanes none noConds).2 i
def lredConds (i : Iss) : Bool :=
  crossConds (treeFold (combine (i.w.sub.toNat % 8) i.w.ty (RMode.ofMode i.gr.mode)) (levels i.gr.width)
    (fun l => (if l ∈ i.lanes then some (i.rd32 l i.w.a) else none, noConds)) 0).2 i
/-- Every lane holds the largest finite f32 in v2, so that sums overflow. -/
def overflowing : State := mach fun g =>
  { g with mode := 0x3E0, regs := { v := (List.range 16).map fun l => (l * 256 + 2, ⟨0x7F7FFFFF, {}⟩) } }
theorem wit_crossLaneWords :
    [Op.perm, .shfl, .bcast].all (fun op => acting st op (fw 0 .i32 (.v 1) (.v 2) (.imm 15) (.imm 0) 1)) = true ∧
    acting st .shfl (fw 1 .i64 (.v 2) (.v 4) (.imm 1) (.v 6) 5) = true ∧
    acting st .bcast (fw 0 .f32 (.s 1) (.v 2) (.imm 3) (.imm 0) 1) = true ∧
    [0, 1].all (fun n => acting st .vote (fw n .i32 (.k 1) (.k 2) (.v 0) (.v 0) 0) fun _ i _ => !i.half.isEmpty) = true ∧
    [2, 3].all (fun n => acting st .vote (fw n .i32 (.s 1) (.k 2) (.v 0) (.v 0) 0) fun _ i _ => i.half.contains (i.lanes.headD 0)) = true ∧
    acting st .matchI (fw 0 .i64 (.v 1) (.v 2) (.v 0) (.v 0) 1) (fun _ i _ => !i.half.isEmpty) = true ∧
    acting st .matchI (fw 1 .i32 (.k 1) (.v 2) (.v 0) (.v 0) 1) (fun _ i _ => !i.half.isEmpty) = true ∧
    acting st .elect (fw 0 .i32 (.k 1) (.v 0) (.v 0) (.v 0) 0) (fun _ i _ => !i.half.isEmpty) = true ∧
    acting st .elect (fw 1 .i32 (.s 1) (.v 0) (.v 0) (.v 0) 0) (fun _ i _ => i.half.contains (i.lanes.headD 0)) = true ∧
    [0, 13].all (fun n => acting st .scan (fw n .i32 (.v 1) (.v 2) (.v 0) (.v 0) 1) fun _ i _ => !scanConds i) = true ∧
    acting overflowing .scan (fw 0 .f32 (.v 1) (.v 2) (.v 0) (.v 0) 1) (fun _ i _ => scanConds i) = true ∧
    [0, 5].all (fun n => acting st .lred (fw n .n32 (.s 1) (.v 2) (.v 0) (.v 0) 1) fun _ i _ => !lredConds i) = true ∧
    acting overflowing .lred (fw 0 .f32 (.v 1) (.v 2) (.v 0) (.v 0) 1) (fun _ i _ => lredConds i) = true := by decide
theorem wit_mlaneMergesByRounds :
    acting st .mlane (fw 0 .i32 (.m 1) (.m 2) (.v 0) (.v 0) 0) (fun c i _ => c.half != 1 && i.gr.width == 16) = true ∧
    idle st .mlane (fw 0 .i32 (.m 1) (.m 2) (.v 0) (.v 0) 0) = true := by decide
theorem wit_statisticsWords :
    triOps.all (fun x => acting st x.1 (fw 0 .f32 (.m 1) (if x.1 = .mmerge then .m 2 else .v 2) (if x.1 = .mmerge then .m 3 else .v 3) (.v 4))) = true ∧
    [0, 4].all (fun n => acting st .mget (fw n .f32 (.v 1) (.m 2) (.v 0) (.v 0) 0)) = true ∧
    acting st .mnorm (fw 0 .f32 (.v 1) (.v 2) (.m 2) (.imm 63) 1) = true := by decide
def pairWord (xa ya : BitVec 8) (immf : Bool) (yop : PairOp) : PairWord := ⟨⟨4, xa, immf, 0⟩, 0, false, yop, ⟨5, ya, false, 0⟩⟩
/-- The registers that the slots read are full, and a lane traps or none does. -/
def pairActs (s : State) (p : PairOp) (w : PairWord) (trap : Bool) : Bool :=
  match s.cur with
  | none => false
  | some c =>
    match s.team? c.g.team, s.group? c.g with
    | some t, some gr =>
      let te (k : Conds) : Bool := k.bits &&& (gr.mode.toNat / 32 % 32) != 0
      let fine (x : PairSlot) : Bool := (slotLanes c gr x).all fun l =>
        decide (srcV gr.regs l x.d.toNat = .ok) && (x.immf || decide (srcV gr.regs l x.a.toNat = .ok))
      let bad (l : Nat) : Bool := ((slotLanes c gr w.x).contains l && te (slotConds p gr w.x l)) || ((slotLanes c gr w.y).contains l && te (slotConds w.yop gr w.y l))
      w.wf && slotOk t.kern.regs w.x && slotOk t.kern.regs w.y && fine w.x && fine w.y && ((lanesOf c.exec).any bad == trap)
    | _, _ => false
theorem wit_shortAndPairWords :
    (shortWords 1 2 3 0).all (fun x => goes st x.2.1 x.2.2 fun _ _ _ => true) = true ∧
    pairOps.all (fun p => pairActs st p (pairWord 8 9 false p) false) = true ∧
    pairActs (mach fun g => { g with mode := 0x3E0, regs := { v := [(4, ⟨0x7F7FFFFF, {}⟩), (8, ⟨0x7F7FFFFF, {}⟩)] } }) .fadd
      (pairWord 8 9 false .iadd) true = true := by decide
/-! Memory. -/

/-- The machine with s registers set. -/
def withS (l : List (Nat × W64)) (g : Group → Group := id) : State := mach fun y => g { y with regs := { y.regs with s := l.map fun x => (x.1, ⟨x.2, {}⟩) } }
/-- Checks 1 to 3 of R161 pass and nothing holds the word. -/
def memPasses (s : State) (op : Op) (f : Iss → MemForm) (store : Bool) (c : Cur) (i : Iss) (core : Core) : Bool :=
  let u := s.entered c i core
  let x := f i
  let load := decide (op = .ld ∨ op = .ldacq ∨ op = .ret)
  !x.accs.isEmpty && !u.orderHold c.g store && !u.noSlots i.t.coord (accSlots x.accs) &&
  (stepChecks u i.t c.pc x.space load x.accs).isEmpty && (!load || u.path.isEmpty)
def lines (s : State) (f : Iss → MemForm) (c : Cur) (i : Iss) (core : Core) : Bool :=
  let u := s.entered c i core
  let x := f i
  let b := (((marked u c.g x.dst x.accs x.lanes).team? i.t.id).getD i.t).buf x.space
  x.accs.all fun a => x.space == 3 || (x.space == 1 && decide (0x7E800 ≤ a.addr)) || (linesOf a.addr a.size).all fun l => !(b.absent ++ b.orphan).contains l
/-- Every page is in the TLB with its permissions. -/
def paged (s : State) (rd wr : Bool) (accs : Iss → List Acc) (c : Cur) (i : Iss) (core : Core) : Bool :=
  (accs i).all fun a =>
    match (s.entered c i core).tlb? i.t a.addr wr with
    | some x => (!rd || pteRd x.leaf) && (!wr || pteWr x.leaf)
    | none => false
def memWit (s : State) (op : Op) (w : Full) : Bool :=
  w.wf op && acting s op w fun c i core =>
    memPasses s op (memForm op) (decide (op = .st ∨ op = .strel ∨ op = .red)) c i core &&
    (if (memForm op i).space = 0 then
       (let f := memForm op i
        paged s f.act.needs.1 f.act.needs.2 (fun i => (memForm op i).accs) c i core)
     else !decide (op = .ld ∨ op = .ldacq ∨ op = .atom) || lines s (memForm op) c i core)
/-- s2 holds a global address, s3 an offset in the team's spaces. -/
def mem : State := withS [(2, 2 ^ 40), (3, 64)]
theorem wit_memoryWords :
    [(Op.ld, 0), (.ldacq, 5), (.st, 0), (.strel, 4)].all (fun x => memWit mem x.1 (fw x.2 .i32 (.v 1) (.s 2) (.v 2) (.imm 4) 3)) = true ∧
    [(Op.ld, 1), (.ld, 2), (.ldacq, 9), (.st, 1), (.strel, 8)].all (fun x => memWit mem x.1 (fw x.2 .i32 (.v 1) (.s 3) (.v 2) (.imm 4) 3)) = true ∧
    memWit mem .ld (fw 9 .f32 (.v 4) (.s 3) (.v 2) (.imm 0) 3) = true ∧ memWit mem .ld (fw 1 .i64 (.s 1) (.s 3) (.imm 0) (.imm 0) 1) = true ∧
    [(Op.atom, 0), (.atom, 8), (.red, 0), (.red, 14)].all (fun x => memWit mem x.1
      (fw x.2 .i32 (if x.1 = .atom then .v 1 else .v 0) (if x.2 < 8 then .s 2 else .s 3) (.v 2) (if x.2 = 14 then .m 1 else .v 4) (if x.2 = 14 then 3 else 7))) = true := by
  decide
/-- A second team of the cluster on the next core. -/
def duo (f : Group → Group := id) (h : State → State := id) : State :=
  let wide (t : Team) : Team := { t with kern := { t.kern with cw := 2 } }
  mach f wide fun s => h { s with teams := s.teams ++ [wide { team0 with id := 2, pos := 1, coord := 1, gen := 3 }] }
def ctmWit (s : State) (op : Op) (w : Full) : Bool := acting s op w fun c i core =>
  let u := s.entered c i core
  let ls := if op = .ld ∧ w.d.isS then i.lanes.take 1 else i.lanes
  let size := if 8 ≤ w.sub.toNat then 16 else w.ty.bits / 8
  !ls.isEmpty && !u.orderHold c.g (decide (op = .st)) && !u.noSlots i.t.coord (ls.map fun l => ((ctmOf u i l).1 + 1, addrOf i l size 0)) && ls.all fun l =>
    i.t.hasCore (ctmOf u i l).1 && (chkTeam i.t (addrOf i l size 0) size (decide (op = .ld))).isNone && addrOf i l size 0 % size == 0
def streamWit (s : State) (op : Op) (w : Full) : Bool := acting s op w fun c i core =>
  let u := s.entered c i core
  let sp := if w.sub.toNat / 4 % 2 = 1 then 1 else 0
  let size := w.ty.bits / 8
  let base := (i.rdOnce w.a).toNat
  let n := (i.rdOnce w.b).toNat
  let ctr := (i.rdOnce w.d).toNat
  let last := (((base : Int) + (n - 1 : Nat) * (i.rdOnce w.c).toInt * size) % 2 ^ 64).toNat
  !u.orderHold c.g false && decide (n < 2 ^ 32) &&
  (n == 0 || ((chkSpace i.t sp base size (op == .ldstrm)).isNone && (chkSpace i.t sp last size (op == .ldstrm)).isNone)) &&
  (ctr == 0 || canonical ctr) && base % size == 0 && ctr % 8 == 0
theorem wit_ctmFenceProbeAndStreamWords :
    [Op.ld, .st].all (fun op => ctmWit (duo fun y => { y with regs := { y.regs with s := [(3, ⟨64, {}⟩)] } }) op (fw 4 .i32 (.v 1) (.s 3) (.v 2) (.imm 1) 3)) = true ∧
    [Op.ld, .st].all (fun op => ctmWit (duo fun y => { y with regs := { y.regs with s := [(3, ⟨64, {}⟩)] } }) op (fw 12 .f32 (.v 4) (.s 3) (.v 2) (.imm 1) 3)) = true ∧
    [0, 1, 2, 14].all (fun n => acting mem .fence (fw n .i32 (.v 0) (.v 0) (.v 0) (.v 0) 0) fun c i core => !(mem.entered c i core).orderHold c.g true) = true ∧
    [0, 1].all (fun n => acting mem .pref (fw n .i32 (.v 0) (.s 2) (.v 2) (.imm 4) 3) fun c i core => !(mem.entered c i core).orderHold c.g true) = true ∧
    [1, 2].all (fun n => acting mem .probe (fw n .i32 (.v 1) (.s 3) (.v 2) (.imm 4) 3) fun c i core =>
      !(mem.entered c i core).orderHold c.g true && i.lanes.all fun l => (chkSpace i.t n (addrOf i l 1 ((i.w.c.constVal i.w.lit).getD 0)) 1 true).isNone) = true ∧
    streamWit (withS [(2, 64), (3, 4)] fun y => { y with role := 1 }) .ldstrm (fw 4 .i32 (.imm 0) (.s 2) (.s 3) (.imm 1) 3) = true ∧
    streamWit (withS [(1, 2 ^ 40), (2, 2 ^ 40), (3, 4)] fun y => { y with role := 2 }) .ststrm (fw 3 .f32 (.s 1) (.s 2) (.s 3) (.imm 1) 3) = true ∧
    streamWit (withS [(2, 64)] fun y => { y with role := 1 }) .ldstrm (fw 4 .i32 (.imm 0) (.s 2) (.s 3) (.imm 1) 3) = true := by decide
/-! Control. -/

theorem wit_branchesGoToTheirTarget :
    acting st .bra ⟨0, .i32, .v 0, .imm 2, .v 0, .v 0, false, false, false, 0, false, 0, none⟩
      (fun c i core => branchTarget c ((i.rdOnce i.w.a).setWidth 32) < (st.entered c i core).codeSize i.t) = true ∧
    acting st .bra (fw 0 .i32 (.v 0) (.imm 3) (.v 0) (.v 0) 0)
      (fun c i core => decide ((st.entered c i core).codeSize i.t = branchTarget c ((i.rdOnce i.w.a).setWidth 32))) = true := by decide
/-- v2 and s4 hold a code offset, s3 an offset in team memory. -/
def target (x : Nat) : State := mach fun y =>
  { y with regs := { v := (List.range 16).map fun l => (l * 256 + 2, ⟨BitVec.ofNat 32 x, {}⟩), s := [(3, ⟨64, {}⟩), (4, ⟨BitVec.ofNat 64 x, {}⟩)] } }
def callForm (i : Iss) : MemForm :=
  ⟨.st none, 1, .none, i.lanes.map fun l => { lane := l, addr := addrOf i l 4 ((i.w.c.constVal i.w.lit).getD 0), size := 4, data := 0 }, []⟩
theorem wit_jmpiGoesToEachLanesTarget :
    acting (target 8) .jmpi (fw 0 .i32 (.v 0) (.v 2) (.v 0) (.v 0) 1) (fun c i core =>
      i.lanes.all fun l => decide ((i.rd32 l i.w.a).toNat % 4 = 0) && decide ((i.rd32 l i.w.a).toNat < ((target 8).entered c i core).codeSize i.t)) = true ∧
    [2, 12].all (fun x => acting (target x) .jmpi (fw 0 .i32 (.v 0) (.v 2) (.v 0) (.v 0) 1) fun c i core =>
      i.lanes.any fun l => !(decide ((i.rd32 l i.w.a).toNat % 4 = 0) && decide ((i.rd32 l i.w.a).toNat < ((target x).entered c i core).codeSize i.t))) = true := by decide
theorem wit_jumpsCallsAndReturns :
    acting (target 8) .jmpi (fw 0 .i32 (.v 0) (.v 2) (.v 0) (.v 0) 1) (fun c i core =>
      i.lanes.all fun l => (targetCode (((target 8).entered c i core).codeSize i.t) (i.rd32 l i.w.a).toNat).isNone) = true ∧
    [2, 12].all (fun x => acting (target x) .jmpi (fw 0 .i32 (.v 0) (.v 2) (.v 0) (.v 0) 1) fun c i core =>
      i.lanes.any fun l => (targetCode (((target x).entered c i core).codeSize i.t) (i.rd32 l i.w.a).toNat).isSome) = true ∧
    [(0, Opnd.imm 1), (1, .s 4)].all (fun x => acting (target 8) .call (fw x.1 .i32 x.2 (.s 3) (.imm 0) (.imm 16) 1) fun c i core =>
      memPasses (target 8) .call callForm true c i core &&
      i.lanes.all fun l => (targetCode (((target 8).entered c i core).codeSize i.t)
        (if i.w.sub = 0 then branchTarget c ((i.rdOnce i.w.d).setWidth 32) else (i.rd32 l i.w.d).toNat)).isNone) = true ∧
    acting (target 8) .ret (fw 0 .i32 (.v 0) (.s 3) (.imm 0) (.imm 16) 1) (fun c i core =>
      memPasses (target 8) .ret callForm false c i core && lines (target 8) callForm c i core) = true := by decide
def debugged : State := mach id id fun s => { s with contexts := s.contexts.map fun c => { c with debug := some ⟨1, false, []⟩ } }
theorem wit_exitPauseAndBreakpoint :
    acting st .exit (fw 0 .i32 (.v 0) (.v 0) (.v 0) (.v 0) 0) = true ∧ idle st .exit (fw 0 .i32 (.v 0) (.v 0) (.v 0) (.v 0) 0) = true ∧
    acting st .nop (fw 0 .i32 (.v 0) (.v 0) (.v 0) (.v 0) 0) = true ∧
    [(0, Opnd.s 2), (0, .imm (-1)), (1, .v 2)].all (fun x => acting st .pause (fw x.1 .i32 (.v 0) x.2 (.v 0) (.v 0) 1)) = true ∧
    acting st .bkpt (fw 0 .i32 (.v 0) (.imm (-1)) (.v 0) (.v 0) 0) (fun _ i _ => decide (0xFFFF < (i.rdOnce i.w.a).toNat)) = true ∧
    acting st .bkpt (fw 0 .i32 (.v 0) (.imm 3) (.v 0) (.v 0) 0) (fun c i core => ((st.entered c i core).ctx? i.t.ctx).all fun x => x.debug == none) = true ∧
    acting debugged .bkpt (fw 0 .i32 (.v 0) (.imm 3) (.v 0) (.v 0) 0) (fun c i core =>
      ((debugged.entered c i core).ctx? i.t.ctx).any fun x => x.debug != none) = true := by decide
def barWit (s : State) (op : Op) (w : Full) (fine : Bool := true) : Bool := acting s op w fun _ i _ =>
  let id := (i.rdOnce w.a).toNat
  let n := (i.rdOnce w.b).toNat
  let b := spGet {} (if op = .barc then i.t.barcs else i.t.bars) id
  (decide (n ≤ 32) && decide (id ≤ (if op = .barc then 7 else 15)) && (n != 0 || !i.gr.spawned) && (b.count == none || b.count == some n)) == fine
def waitWit (s : State) (w : Full) : Bool := acting s .waitge w fun c i core =>
  let u := s.entered c i core
  let a := (i.rdOnce w.a).toNat
  let sp := w.sub.toNat / 8
  !u.orderHold c.g false && (chkSpace i.t sp a 8 true).isNone && a % 8 == 0 &&
  (sp == 1 || match (marked u c.g .none [{ lane := 0, addr := a, size := 8 }] []).tlb? i.t a false with
    | some x => pteRd x.leaf
    | none => false)
theorem wit_barriersAndCounterWaits :
    barWit st .bar (fw 0 .i32 (.v 0) (.imm 15) (.imm 0) (.v 0) 0) = true ∧ barWit st .barc (fw 0 .i32 (.v 0) (.imm 7) (.imm 32) (.v 0) 0) = true ∧
    barWit (mach id fun t => { t with bars := [(3, { inst := 1, count := some 2 })] }) .bar (fw 0 .i32 (.v 0) (.imm 3) (.imm 2) (.v 0) 0) = true ∧
    barWit st .bar (fw 0 .i32 (.v 0) (.imm 16) (.imm 0) (.v 0) 0) false = true ∧ barWit st .barc (fw 0 .i32 (.v 0) (.imm 8) (.imm 0) (.v 0) 0) false = true ∧
    waitWit mem (fw 1 .i32 (.v 0) (.s 2) (.imm 5) (.v 0) 0) = true ∧ waitWit mem (fw 13 .i32 (.v 0) (.s 3) (.imm 5) (.imm 9) 0) = true := by decide
/-- A word of a try region with a target of 8 or the target given. -/
def tryW (sub : Nat) (x : Opnd) : Full := fw sub .i32 (.v 0) x (.v 0) (.v 0) 0
def entry (team : Bool) (n : Nat) : TryEntry := ⟨n, team, 0, 8, 0xFFFF⟩
def withTries (l : List TryEntry) (f : Team → Team := id) : State := mach (fun y => { y with tries := l }) f
theorem wit_tryRegionsAndThrows :
    [0, 1].all (fun n => acting (withTries ((List.range 8).map (entry false))) .tryOpen (tryW n (.imm 2)) fun _ i _ => decide (8 ≤ i.gr.tries.length)) = true ∧
    [0, 1].all (fun n => acting (withTries ((List.range 7).map (entry false))) .tryOpen (tryW n (.imm 2)) fun c i core =>
      decide (i.gr.tries.length < 8) && decide (branchTarget c ((i.rdOnce i.w.a).setWidth 32) < (st.entered c i core).codeSize i.t) &&
      (i.t.regions.find? fun r => r.1 == i.gr.tryTs).isNone) = true ∧
    acting (withTries [] fun t => { t with regions := [(0, 8, none)] }) .tryOpen (tryW 1 (.imm 2)) (fun c i _ =>
      (i.t.regions.find? fun r => r.1 == i.gr.tryTs) == some (i.gr.tryTs, branchTarget c ((i.rdOnce i.w.a).setWidth 32), none)) = true ∧
    acting (withTries [] fun t => { t with regions := [(0, 8, some {})] }) .tryOpen (tryW 1 (.imm 2)) (fun c i _ =>
      (i.t.regions.find? fun r => r.1 == i.gr.tryTs) == some (i.gr.tryTs, branchTarget c ((i.rdOnce i.w.a).setWidth 32), some {})) = true ∧
    acting (withTries [entry true 3]) .tryClose (fw 1 .i32 (.v 0) (.v 0) (.v 0) (.v 0) 0) (fun _ i _ => i.gr.tries.any fun e => e.team) = true ∧
    acting (withTries [entry false 3]) .tryClose (fw 0 .i32 (.v 0) (.v 0) (.v 0) (.v 0) 0) (fun _ i _ =>
      i.lanes.all fun l => (i.gr.tries.find? fun e => e.members.getLsbD l).any fun e => !e.team) = true ∧
    [0x100, 0xFFFF].all (fun n => acting (target n) .throwI (fw 0 .i32 (.v 0) (.v 2) (.imm 1) (.v 0) 1) fun _ i _ =>
      i.lanes.all fun l => decide (0x100 ≤ (i.rd32 l i.w.a).toNat) && decide ((i.rd32 l i.w.a).toNat ≤ 0xFFFF)) = true ∧
    [0xFF, 0x10000].all (fun n => acting (target n) .throwI (fw 0 .i64 (.v 0) (.v 2) (.v 4) (.v 0) 3) fun _ i _ =>
      i.lanes.any fun l => !(decide (0x100 ≤ (i.rd32 l i.w.a).toNat) && decide ((i.rd32 l i.w.a).toNat ≤ 0xFFFF))) = true ∧
    acting (mach fun y => { y with caught := some ([], 0) }) .rethrow (fw 0 .i32 (.v 0) (.v 0) (.v 0) (.v 0) 0) (fun _ i _ => i.gr.caught == some ([], 0)) = true ∧
    acting st .rethrow (fw 0 .i32 (.v 0) (.v 0) (.v 0) (.v 0) 0) (fun _ i _ => i.gr.caught == none) = true := by decide
def spawnAccs (i : Iss) : List Acc := i.lanes.map fun l => { lane := l, addr := (i.rdOnce i.w.c).toNat, size := 8 }
theorem wit_trapsAndSpawns :
    [0, 4].all (fun n => acting st .trap (fw n .i64 (.v 2) (.imm 5) (if n = 0 then .v 0 else .v 4) (.v 0) 2) fun _ i _ => decide ((i.rdOnce i.w.a).toNat ≤ 0xFFFF)) = true ∧
    acting st .trap (fw 0 .i32 (.v 2) (.imm (-1)) (.v 0) (.v 0) 0) (fun _ i _ => decide (0xFFFF < (i.rdOnce i.w.a).toNat)) = true ∧
    acting mem .spawn (fw 4 .i32 (.k 1) (.imm 8) (.v 4) (.s 2) 6) (fun c i core =>
      (i.lanes.all fun l => (targetCode ((mem.entered c i core).codeSize i.t) (i.rd32 l i.w.a).toNat).isNone) && (i.rdOnce i.w.c).toNat % 8 == 0 &&
      canonical (i.rdOnce i.w.c).toNat && paged mem false true spawnAccs c i core) = true := by decide
/-! Engine words. -/

/-- A loader group, s registers and words of memory behind the code page. -/
def loader (l : List (Nat × W64)) (b : List Byte := []) (t : Team → Team := id) (h : State → State := id) : State :=
  mach (fun y => { y with role := 1, regs := { s := l.map fun x => (x.1, ⟨x.2, {}⟩) } }) t fun s => h { s with dram := s.dram.writeBytes (1048576 + 128) b }
def page : W64 := 2 ^ 40 + 128
def ready (s : State) (op : Op) (w : Full) (p : State → Iss → Bool := fun _ _ => true) : Bool :=
  acting s op w fun c i core => !(s.entered c i core).orderHold c.g false && p (s.entered c i core) i
def copyW (sub : Nat) (d : Opnd) : Full := fw sub .i32 d (.s 3) (.s 2) (.imm 63) 3
def sliceOf (u : State) (i : Iss) : Slice := cpySlice u i.w i.cur i
def joins (u : State) (i : Iss) : Option EOp := u.ops.find? fun o => o.team == i.t.id && o.kind == .cpy && o.gathering && o.inst == i.gr.cpys
def begun (stopped : Bool) : EOp :=
  { id := 9, kind := .cpy, coord := 0, team := 0, ctx := 1, launch := 0, cls := 1, target := .none, gathering := true, stopped := stopped }
theorem wit_copiesAndCounters :
    [(1, Opnd.imm 0), (9, .imm 17)].all (fun x => ready (loader [(2, 2 ^ 40), (3, 64)]) .cpy (copyW x.1 x.2) fun u i =>
      !i.gr.spawned && (decide (i.w.sub.toNat < 8) || i.t.hasStage ((sliceOf u i).ctr / 16) ((sliceOf u i).ctr % 16)) && (joins u i).isNone &&
      u.lockRoom i.t.coord (sliceLocks (sliceOf u i) i.t u.nextId).length) = true ∧
    [false, true].all (fun b => ready (loader [(2, 2 ^ 40), (3, 64)] [] id fun s => { s with ops := [begun b] }) .cpy (copyW 1 (.imm 0)) fun u i =>
      (joins u i).any (fun o => o.stopped == b) && u.lockRoom i.t.coord (sliceLocks (sliceOf u i) i.t 9).length) = true ∧
    ready (loader [(2, 2 ^ 40)]) .cpycan (fw 0 .i32 (.v 0) (.s 2) (.v 0) (.v 0) 1)
      (fun _ i => (i.rdOnce i.w.a).toNat % 8 == 0 && canonical (i.rdOnce i.w.a).toNat) = true ∧
    ready (loader [(2, 127)]) .cpycan (fw 1 .i32 (.v 0) (.s 2) (.v 0) (.v 0) 1) (fun _ i => decide ((i.rdOnce i.w.a).toNat ≤ 127)) = true ∧
    acting mem .ctradd (fw 1 .i32 (.v 0) (.s 2) (.imm 1) (.v 0) 1) (fun c i core =>
      let u := mem.entered c i core
      let accs : List Acc := [{ lane := 0, addr := (i.rdOnce i.w.a).toNat, size := 8, data := (i.rdOnce i.w.b).toNat }]
      !u.orderHold c.g false && decide (u.slotsUsed i.t.coord + 1 ≤ 2048) && (stepChecks u i.t c.pc 0 false accs).isEmpty &&
      paged mem false true (fun i => [{ lane := 0, addr := (i.rdOnce i.w.a).toNat, size := 8 }]) c i core) = true := by decide
/-- A shape record: four i32 from one page to another place of it (R253). -/
def shapeBytes : List Byte := natLe 8 (2 ^ 40 + 1024) ++ natLe 8 (2 ^ 40 + 2048) ++ natLe 8 0 ++ natLe 2 4 ++ natLe 2 1 ++ natLe 2 1 ++ natLe 2 1 ++ natLe 12 0 ++ [3, 0, 0, 0]
theorem wit_tensorTransfersEnterTheEngine :
    ready (loader [(2, page)] shapeBytes) .cpyt (fw 0 .i32 (.imm 0) (.s 2) (.v 0) (.v 0) 1) (fun u i =>
      let a := (i.rdOnce i.w.a).toNat
      match u.tlb? i.t a false with
      | none => false
      | some x =>
        let raw := u.dram.bytes x.pa 64
        let r := parseShape raw
        a % 64 == 0 && canonical a && pteRd x.leaf && !u.dram.poisoned x.pa 64 && r.dims == [4, 1, 1, 1] && r.ctr % 8 == 0 && canonical r.ctr && canonical r.src && canonical r.dst &&
        !shapeBad u i.t raw r && u.isDest i.t.ctx r && u.lockRoom i.t.coord 2) = true := by decide
def recd (n : Nat) : QRec := { words := [BitVec.ofNat 32 n] }
def withQ (x : HwQ) (live : W64 := 0xFFFF) : State :=
  mach (fun y => { y with live := live }) (fun t => { t with queues := [x, {}, {}, {}] }) fun s => { s with cur := s.cur.map fun c => { c with exec := live } }
def pushes (x : HwQ) (p : HwQ → Nat → Bool) : Bool := ready (withQ x) .qpush (fw 0 .i32 (.v 8) (.v 0) (.v 0) (.v 0) 0) fun _ i => p (i.t.queues.getD 0 {}) i.lanes.length
def pops (sub : Nat) (x : HwQ) (p : State → Iss → HwQ → Nat → Bool) : Bool :=
  ready (withQ x) .qpop (fw sub .i32 (.v 8) (.v 0) (.v 0) (if sub < 4 then .v 0 else .k 1) 0) fun u i => p u i (i.t.queues.getD 0 {}) i.lanes.length
/-- A group of 64 lanes at its second half. -/
def wide (f : Group → Group := id) (t : Team → Team := id) : State :=
  mach (fun y => f { y with width := 64, live := BitVec.allOnes 64, second := some ⟨0, BitVec.allOnes 64, 8, [], 0, {}, []⟩ }) t fun s =>
    { s with cur := s.cur.map fun c => { c with exec := BitVec.allOnes 64, half := 1, latch := some {} } }
theorem wit_queueWords :
    pushes {} (fun x k => x.tail == x.head && k == min k x.free) = true ∧
    pushes { cap := 64, chip := (List.range 20).map recd } (fun x k => decide (min k x.free < k) && decide (x.tail - x.head + (k - min k x.free) ≤ x.cap)) = true ∧
    ready (wide) .qpush (fw 0 .i32 (.v 8) (.v 0) (.v 0) (.v 0) 0) (fun _ i => decide (32 < i.lanes.length) && (i.t.queues.getD 0 {}).cap == 0) = true ∧
    pops 4 {} (fun _ _ x _ => x.waiters.isEmpty) = true ∧ pops 4 { chip := [recd 1, recd 2] } (fun u i x k => (u.qAvail i.t i.gr.slot x).length < k) = true ∧
    pops 0 {} (fun u i x k => decide (k ≤ 32) && (u.qAvail i.t i.gr.slot x).length < k) = true ∧
    pops 0 { chip := (List.range 16).map recd } (fun u i x k => x.waiters.isEmpty && decide (k ≤ (u.qAvail i.t i.gr.slot x).length)) = true ∧
    ready (wide) .qpop (fw 0 .i32 (.v 8) (.v 0) (.v 0) (.v 0) 0) (fun _ i => decide (32 < i.lanes.length)) = true ∧
    ready duo .qsteal (fw 0 .i32 (.v 8) (.v 0) (.imm 1) (.k 1) 0) (fun _ i => i.t.hasCore 1 && i.t.coord == 0) = true ∧
    [0, 2].all (fun n => ready duo .qsteal (fw 0 .i32 (.v 8) (.v 0) (.imm (BitVec.ofNat 7 n)) (.k 1) 0) fun _ i => n == i.t.coord || !i.t.hasCore n) = true := by
  decide
/-- A descriptor with four ranges read and two written (R264). -/
def descBytes : List Byte := [0, 0, 0, 0, 4, 2, 0, 0]
theorem wit_tasksAreEntered :
    ready (mach (fun y => { y with regs := { s := [(2, ⟨page, {}⟩)] } }) id fun s =>
      { s with dram := s.dram.writeBytes (1048576 + 128) descBytes, images := s.images.map fun m => { m with kerns := [{}] } }) .tsubmit
      (fw 0 .i32 (.v 0) (.s 2) (.v 0) (.v 0) 1) (fun u i =>
        let a := (i.rdOnce i.w.a).toNat
        match u.tlb? i.t a true with
        | none => false
        | some x =>
          let raw := u.dram.bytes x.pa 128
          let f (o n : Nat) : Nat := natOfBytes ((raw.drop o).take n)
          u.released i.g i.t.coord 4 u.nextId && a % 128 == 0 && canonical a && pteRd x.leaf && pteWr x.leaf && !u.dram.poisoned x.pa 128 && f 4 1 == 4 && f 5 1 == 2 && f 6 2 == 0 &&
          (List.range 4).all (fun k => (rangeOf (f (16 + 8 * k) 8)).isSome) && (List.range 2).all (fun k => (rangeOf (f (48 + 8 * k) 8)).isSome) &&
          (match u.launch? i.t.launch with
           | some l =>
             (match u.image? l.body.image with
              | some m => (m.kerns.find? fun k => k.entry == f 0 4).any fun k => k.cw == 1 && k.ch == 1 && k.qcap.all fun n => n == 0
              | none => false)
           | none => false)) = true := by decide
def ringWord (op : Op) (sub : Nat) : Full := fw sub .i32 (.v 0) (.imm 1) (.imm 1) (if op = .rfree then .v 0 else .imm 0) 0
def stageAt (x : Stage) : State := mach id fun t => { t with stages := [(17, x)] }
def ringWit (s : State) (op : Op) (sub : Nat) (p : Stage → Bool) : Bool := ready s op (ringWord op sub) fun u i =>
  i.t.hasStage 1 1 && u.path.isEmpty && p (spGet {} i.t.stages 17)
theorem wit_ringWordsAcquireAndRelease :
    ringWit (stageAt { full := true, count := 64, target := 64 }) .rget 1 (fun x => x.full && !x.phase && !x.poison) = true ∧
    ringWit (stageAt { target := 64 }) .rget 13 (fun x => !x.full && x.count == 0 && !x.phase) = true ∧
    ringWit (stageAt { full := true, target := 64, poison := true }) .rget 5 (fun x => x.full && !x.phase && x.poison) = true ∧
    ringWit (stageAt { target := 64 }) .rget 1 (fun x => !x.full) = true ∧ ringWit (stageAt { target := 64 }) .rput 0 (fun _ => true) = true ∧
    ringWit (stageAt { full := true, target := 64 }) .rfree 0 (fun x => x.full) = true ∧
    ringWit (stageAt { target := 64 }) .rfree 0 (fun x => !x.full) = true := by decide
/-- A reservation record: 64 rows of 32 bf16 elements in the A buffer (R298). -/
def rsvBytes : List Byte := [0, 0, 0, 0, 0, 9, 0, 0, 64, 0, 0, 0, 32, 0, 0, 0]
def rsv0 : Rsv := parseRsv (rsvBytes ++ List.replicate 48 0)
def matReady (s : State) (op : Op) (w : Full) (p : State → Iss → Bool := fun _ _ => true) : Bool :=
  ready s op w fun u i => (u.core i.t.coord).mq.all (fun o => o.kind != 2 || o.coord == i.t.coord) && decide ((u.core i.t.coord).mq.length < 8) && p u i
/-- The machine with reservations in slots 0 and 15, the second sparse or not, for its own team or a pair's. -/
def rsvs (flags : Nat) : State :=
  mach id (fun t => { t with rsvs := [(0, some rsv0), (15, some { rsv0 with flags := flags })] }) fun s =>
    { s with teams := s.teams ++ [{ team0 with id := 2, pos := 1, coord := 1 }], flash := { s.flash with alm := [(.core 0, {}), (.core 1, {})] } }
def isTile (t : Team) (x : Nat) : Bool := x % 256 == 0 && decide (x + 16384 ≤ t.cbuf.size)
def mmaW : Full := fw 0 .i32 (.imm 0) (.imm 0) (.imm 15) (.imm 32) 0
def mmaWit (s : State) (op : Op) (w : Full) (sparse : Bool) (p : State → Iss → Bool := fun _ _ => true) : Bool := matReady s op w fun u i =>
  let lw := (i.rdOnce w.a).toNat % 2 ^ 32
  let rw' := (i.rdOnce w.b).toNat % 2 ^ 32
  let k := (i.rdOnce w.c).toNat % 2 ^ 32
  match spGet none i.t.rsvs (lw % 16), spGet none i.t.rsvs (rw' % 16) with
  | some l, some r =>
    lw / 16 % 2 ^ 12 == 0 && rw' / 16 % 2 ^ 12 == 0 && (decide (11 ≤ l.ty) == decide (11 ≤ r.ty)) && k % kBlock l.ty == 0 && decide (kBlock l.ty ≤ k) &&
    decide (k ≤ 16384) && lw / 2 ^ 16 % kBlock l.ty == 0 && rw' / 2 ^ 16 % kBlock l.ty == 0 && decide (lw / 2 ^ 16 + k ≤ l.klen) &&
    decide (rw' / 2 ^ 16 + k ≤ r.klen) && !rsvSparse l && rsvSparse r == sparse && p u i
  | _, _ => false
def storer (p : W64) (d : List (Nat × W64) := []) : State :=
  mach fun y => { y with role := 2, regs := { s := (3, ⟨p, {}⟩) :: d.map fun x => (x.1, ⟨x.2, {}⟩) } }
def inQueue (n : Nat) (uid : Nat) : State :=
  mach id id fun s => { s with nextId := 10, cores := s.cores.map fun c =>
    { c with mq := [{ id := n, kind := 0, coord := 0, byw := { g := ⟨0, 0⟩, uid := uid }, tile := 0 }] } }
theorem wit_matrixWords :
    matReady (mach (fun y => { y with regs := { s := [(2, ⟨64, {}⟩)] } }) fun t => { t with tm := { t.tm with mem := t.tm.mem.writeBytes 64 rsvBytes } }) .rsv
      (fw 0 .i32 (.v 0) (.imm 15) (.s 2) (.v 0) 2) (fun _ i =>
        let a := (i.rdOnce i.w.b).toNat
        let raw := i.t.tmBytes a 64
        decide ((i.rdOnce i.w.a).toNat ≤ 15) && (spGet none i.t.rsvs 15).isNone && a % 64 == 0 && (chkTeam i.t a 64 true).isNone && !i.t.tm.mem.poisoned a 64 && rsvOk raw (parseRsv raw) && rsvInside (parseRsv raw) (i.t.buf (rsvSpace (parseRsv raw))).size) = true ∧
    matReady (rsvs 0) .rsv (fw 0 .i32 (.v 0) (.imm 15) (.imm 0) (.v 0) 0) (fun _ i => (spGet none i.t.rsvs 15).isSome) = true ∧
    matReady (rsvs 0) .rls (fw 0 .i32 (.v 0) (.imm 15) (.v 0) (.v 0) 0) (fun u i => u.path.isEmpty && (spGet none i.t.rsvs 15).isSome) = true ∧
    [3, 16].all (fun n => matReady (rsvs 0) .rls (fw 0 .i32 (.v 0) (.imm (BitVec.ofNat 7 n)) (.v 0) (.v 0) 0) fun _ i =>
      decide (15 < (i.rdOnce i.w.a).toNat) || (spGet none i.t.rsvs (i.rdOnce i.w.a).toNat).isNone) = true ∧
    matReady st .mzero (fw 0 .i32 (.imm 0) (.v 0) (.v 0) (.v 0) 0) (fun u i => isTile i.t (i.rdOnce i.w.d).toNat && u.lockRoom i.t.coord 1) = true ∧
    mmaWit (rsvs 0) .mma mmaW false = true ∧ mmaWit (rsvs 4) .mmas mmaW true = true ∧
    mmaWit (rsvs 0) .mmap mmaW false (fun u i => (u.followerOf i.t).any fun f => rsvInside rsv0 (f.buf (rsvSpace rsv0)).size && isTile f 0 && f.place != .away) = true ∧
    matReady (storer 0) .mdrain (fw 0 .f32 (.v 8) (.imm 0) (.imm 48) (.v 0) 0) (fun _ i => i.lanes.all fun l => decide ((i.rdOnce i.w.b).toNat % 64 + l < 64)) = true ∧
    [1, 2, 5, 10].all (fun n => matReady (storer 256 [(4, 32768)]) .mdrain (fw n .f32 (.imm 0) (.imm 0) (.s 3) (if n < 4 then .v 0 else .s 4) (if n < 4 then 2 else 6))
      fun _ i => decide ((i.rdOnce i.w.d).toNat + (63 * 256 + 64 * 4) ≤ (i.t.buf 2).size) && decide (n < 4 ∨ 32768 + 1024 ≤ i.t.tm.size)) = true ∧
    acting (inQueue 3 5) .mfence (fw 0 .i32 (.v 0) (.v 0) (.v 0) (.v 0) 0) (fun c i core =>
      !engHold i ((inQueue 3 5).entered c i core) && (((inQueue 3 5).entered c i core).core i.t.coord).mq.all fun o => !(o.byw.g == c.g && o.byw.uid == i.gr.uid)) = true ∧
    acting (inQueue 3 5) .mfence (fw 1 .i32 (.v 0) (.v 0) (.v 0) (.v 0) 0) (fun c i core =>
      !engHold i ((inQueue 3 5).entered c i core) && (((inQueue 3 5).entered c i core).core i.t.coord).mq.any fun o => o.byw.g.team == i.t.id && decide (o.id < i.gr.mfenceFrom ((inQueue 3 5).entered c i core).nextId)) = true := by decide
/-! Events. -/

/-- Every core of the machine is offered, every frame is free. -/
def offer (s : State) : State := { s with framesUsed := [], flash := { s.flash with alm := Config.allCoords.map fun c => (.core c, {}) } }
def steer (r : RegionId) : Steering := { region := r, acc := {}, insts := [], start := 0 }
def gridCatch : State := mach id id fun s =>
  offer { s with
    teams := [], clusters := []
    launches := s.launches.map fun l => { l with fate := 2, kern := { regs := 8 } } }
theorem wit_steering :
    (∀ y ∈ st.steers, y.region ≠ .grid 0) ∧ (∃ y ∈ [steer (.grid 0)], y.region = .grid 0) ∧
    (let s := { withTries [entry false 3] with steers := [steer (.group 0 0 3)] }
     (s.steers.find? fun y => y.region == .group 0 0 3) = some (steer (.group 0 0 3)) ∧ s.membersOf (.group 0 0 3) ≠ [] ∧
     ∀ m ∈ s.membersOf (.group 0 0 3), midWord m.2.1 = false ∧
       ∀ q ∈ (((m.2.1.tries.dropWhile fun e => e.uid != m.2.2.uid).drop 1).map (entryRegion m.1.id m.2.1.slot)) ++ [RegionId.grid m.1.launch], ∀ y ∈ s.steers, y.region ≠ q) ∧
    (let s := { st with steers := [steer (.grid 0)] }
     (∃ l ∈ s.launches, s.launch? 0 = some l ∧ l.completed = false) ∧ ∀ t ∈ s.teams, ∀ g ∈ t.groups, midWord g = false) ∧
    (∃ l ∈ gridCatch.launches, gridCatch.launch? 0 = some l ∧ l.completed = false ∧ l.fate = 2 ∧ gridCatch.cluster? 0 l.body.cteam = none) := by decide
set_option maxRecDepth 8000 in
/-- A die has room for the catch team, and it can be placed. -/
theorem wit_catchTeamPlaced :
    (match gridCatch.launch? 0 with
     | none => false
     | some l =>
       (match (gridCatch.bestDie { gridCatch.needOf { launch := 0, cluster := l.body.cteam, urgent := isUrgent gridCatch l.ctx } l with own := some (0, l.body.cteam) }) with
        | none => false
        | some x => (gridCatch.placeCluster l { launch := 0, cluster := l.body.cteam, urgent := isUrgent gridCatch l.ctx } x.2 l.kern (some l.body.cpos) l.body.catchOff).isSome)) = true := by
  decide
def noCur (s : State) : State := { s with cur := none }
def chosen (s : State) (bp : Option Nat) : Bool :=
  let u := s.lookEvict 0 0
  s.cur.isNone && (match u.choose 0 0 with
    | some (t, g) => (u.modGroup ⟨t.id, g.slot⟩ Group.endDefer).breakAt t g == bp
    | none => false) && decide ((u.core 0).busyTo.getD 0 0 ≤ u.clock) && (u.quarterGroups 0 0).all (fun x => x.2.second.isNone) &&
  spGet 0 u.issueRow (Config.coordDie 0) == 0
def arrival (k : PKind) (ctm : Option (Nat × Nat)) : PathEntry :=
  { id := 7, coord := 0, byw := {}, lane := 0, kind := k, space := if ctm.isSome then 1 else 0, addr := 64, pa := 1048576 + 256, size := 4, data := 5, cmp := 0, op := 0, ty := .i32,
    reg := 1, rel := none, ctm := ctm }
def arriving : State := duo id fun s => { s with path := [arrival .ctm (some (1, 3))] }
def remoteLoad (gen : Nat) : LoadReq :=
  { id := 7, coord := 0, byw := {}, space := 4, dst := .v 1 .i32 false, accs := [{ lane := 0, addr := 64, size := 4 }], acq := none, remote := false, ctm := some (1, gen) }
def waiting (d : Nat) (team : Bool) : State := mach (fun y => { y with phase := .parked, wake := some (.counter team (if team then 64 else 2 ^ 40) 0 1 (some d)) })
theorem wit_issueChoiceAndTimers :
    chosen (noCur st) none = true ∧
    chosen (noCur { st with contexts := st.contexts.map fun c => { c with debug := some ⟨1, false, [(5, 2 ^ 40)]⟩ } }) (some 5) = true ∧
    st.team? 0 ≠ none ∧
    (arriving.loads = [] ∧ arriving.entry? 7 = some (arrival .ctm (some (1, 3))) ∧ arriving.mayPerform (arrival .ctm (some (1, 3))) = true ∧
      ∃ t ∈ arriving.teams, arriving.ctmTarget ⟨0, 0⟩ (1, 3) = some t ∧ arriving.locked t.coord t 1 64 4 false = false) ∧
    (let s := { duo with loads := [remoteLoad 2] }
     (s.loads.find? fun r => r.id == 7 && r.got.isNone) = some (remoteLoad 2) ∧ s.loadWaits (remoteLoad 2) = false ∧ s.ctmTarget ⟨0, 0⟩ (1, 2) = none) ∧
    (let s := { duo with loads := [remoteLoad 3] }
     s.loadWaits (remoteLoad 3) = false ∧ ∃ t ∈ s.teams, s.ctmTarget ⟨0, 0⟩ (1, 3) = some t ∧ probeState t 1 64 = 0 ∧ t.tm.mem.poisoned 64 4 = false) ∧
    (∃ g ∈ ((waiting 0 true).team? 0).toList.flatMap (fun t => t.groups), (waiting 0 true).group? ⟨0, 0⟩ = some g ∧ 0 ≤ (waiting 0 true).ctxClock 1) := by decide
def hdr : Hdr := ⟨0, 24, 0, 9, 1, 0, none, none⟩
def isMapped : Tr → Bool
  | .missing => false
  | _ => true
def walk0 : Walk := ⟨4, 0, 1, 2 ^ 40⟩
def fault0 (va d : Nat) : FaultRec := { id := 3, ctx := 1, va := va, kind := 0, user := .group ⟨0, 0⟩, deadline := d }
def shoot0 (l : List (Nat × Option Nat)) : Shoot := ⟨2, 1, 0, 4096, l, some (hdr, 0x21), [], none⟩
theorem wit_walksFaultsAndShootdowns :
    ({ st with walks := [walk0] } : State).walks.find? (fun x => x.id == 4) = some walk0 ∧
    isMapped (st.walkCtx 1 (2 ^ 40)) = true ∧
    (fault0 0 0).deadline ≤ st.ctxClock 1 ∧ st.ctxClock 1 < (fault0 0 9).deadline ∧
    (∀ l ∈ [[(0, none)], [(0, some 1), (1, none)]], let s := { st with shoots := [shoot0 l] }
      let u := if (0, none) ∈ (shoot0 l).left then s.reachCore (shoot0 l) 0 else s
      let z := (u.shoots.find? fun y => y.id == 2).getD (shoot0 l)
      (s.shoots.find? fun y => y.id == 2 && y.left.any fun l => l.1 == 0) = some (shoot0 l) ∧ (∃ k ∈ s.cores, k.coord = 0) ∧ s.walks = [] ∧
        u.oldAccess 0 (((z.left.find? fun l => l.1 == 0).bind fun l => l.2).getD 0) = false ∧ ((z.left.filter fun l => l.1 != 0) = [] ↔ l = [(0, none)])) := by decide
def load0 : LoadReq :=
  { id := 7, coord := 0, byw := { lanes := 1 }, space := 1, dst := .v 1 .i32 false, accs := [{ lane := 0, addr := 64, size := 4 }], acq := none, remote := false }
def desc0 (out : Bool) (pos : Nat) : StreamDesc :=
  { id := 8, byw := {}, out := out, ty := .i32, team := true, base := 64, count := 2, stride := 1, ctr := 2 ^ 40, pos := pos }
def streaming (out : Bool) (pos : Nat) : State :=
  { st with cores := st.cores.map fun c =>
      if out then { c with qo := [{ entries := [7], descs := [desc0 out pos] }, {}, {}, {}] } else { c with qi := [{ descs := [desc0 out pos] }, {}, {}, {}] } }
def isOk : StreamAcc → Bool
  | .ok _ => true
  | _ => false
/-- A load's value is an instruction address of the image, or is none. -/
def loadsTo (d : MDst) (b : List Byte) (good : Bool) : Bool :=
  let r := { load0 with dst := d }
  let s := mach id (fun t => { t with tm := { t.tm with mem := t.tm.mem.writeBytes 64 b } }) fun s => { s with loads := [r] }
  (s.loads.find? fun x => x.id == 7) == some r && (s.groupBy r.byw).isSome && !s.loadWaits r &&
  match s.team? 0 with
  | some t => (s.loadValues t r).all fun x => x.2.1 == 0 && ((targetCode (s.codeSize t) x.2.2).isNone == good)
  | none => false
theorem wit_memoryEventsPerform :
    [MDst.v 1 .i32 false, .s 1 .i32, .pc 0xFFFF 8].all (fun d => loadsTo d [] true) = true ∧ loadsTo (.pc 0xFFFF 8) [2] false = true ∧
    (∀ k ∈ [PKind.st, .atom], let s := { st with path := [arrival k none] }
      s.entry? 7 = some (arrival k none) ∧ s.mayPerform (arrival k none) = true ∧ s.mayPerformAll (s.mates (arrival k none)) = true ∧
        (s.ownerRead (arrival k none)).2 = false ∧ s.dram.poisoned (1048576 + 256) 4 = false) ∧
    (let e := { arrival .st none with rel := some 5 }
     let s := { st with path := [e] }
     s.mayPerform e = true ∧ s.released e.byw.g 0 5 7 = true) ∧
    (st.liveBy { lanes := 1 }).getLsbD 0 = true ∧
    (∀ out ∈ [false, true], let s := streaming out 0
      (∃ t ∈ s.teams, s.team? 0 = some t ∧ s.streamHeld t (desc0 out 0) = false ∧ isOk (s.streamAcc t (desc0 out 0)) = true ∧ t.tm.mem.poisoned 64 4 = false) ∧
      ((if out then (s.core 0).qo else (s.core 0).qi).getD 0 {}).descs = [desc0 out 0]) ∧
    (streaming true 2).headDesc 8 = some (0, 0, desc0 true 2) ∧ (streaming false 2).headDesc 8 = some (0, 0, desc0 false 2) := by decide
/-! Engines, queues, spawns, clusters, teams, calls, matrices, tasks, switches. -/

def slice0 (len : Nat) : Slice := { slot := 0, sub := 1, ctr := 0, dst := 64, src := 2 ^ 40, len := len, byw := {}, cleared := [] }
def op0 (k : EKind) : EOp := { id := 9, kind := k, coord := 0, team := 0, ctx := 1, launch := 0, cls := 1, target := .none }
def copying (len : Nat) (o : EOp → EOp := id) : State :=
  mach (fun y => { y with role := 1 }) id fun s => { s with ops := [o { op0 .cpy with gathering := true, slices := [slice0 len] }] }
def running (k : EKind) (f : EOp → EOp := id) : EOp := f { op0 k with started := true, running := [0] }
def none? {α : Type} : Option α → Bool
  | none => true
  | some _ => false
def chunking : State :=
  copying 64 fun o => { o with gathering := false, started := true, todo := [0] }
def chunkingEngine : Engine := { id := 0, queues := [[], [9], [], []], cls := 1 }
def engined (s : State) : State := { s with engines := [chunkingEngine] }
/-- Its source's page is not mapped. -/
def unreadable : State :=
  copying 64 fun o => { o with gathering := false, started := true, todo := [0], slices := [{ slice0 64 with src := 2 ^ 41 }] }
def shape0 : Shape := parseShape shapeBytes
theorem wit_enginesRun :
    (∀ len ∈ [64, 63], ∃ o ∈ (copying len).ops, (copying len).op? 9 = some o ∧ o.started = false ∧ (copying len).hasAllSlices o = true ∧ o.stopped = false ∧
      ∃ t ∈ (copying len).teams, (copying len).team? 0 = some t ∧ t.place = .resident ∧
        (len = 64 → sliceBad t (slice0 len) (slice0 len) = none) ∧ (len = 63 → sliceBad t (slice0 len) (slice0 len) ≠ none)) ∧
    (∀ k ∈ [EKind.cpyt shape0 0, .spawnOut 0, .spawnIn 1], let s := mach id id fun s => { s with ops := [op0 k] }
      s.op? 9 = some (op0 k) ∧ (op0 k).started = false ∧ s.path = [] ∧ s.lockRoom 0 1 = true ∧ (∃ t ∈ s.teams, s.team? 0 = some t) ∧ ∀ r ∈ (op0 k).spawns, s.spawnReleased 0 r = true) ∧
    [(chunking, true), (unreadable, false)].all (fun x =>
      let s := engined x.1
      let v := s.modEngine 0 fun e => drrWait s 9 e
      let e := v.engine 0
      decide (e.portFree ≤ s.clock) && decide (e.slots < 32) && (v.drrHead e e.cls).any fun o => o.todo == [0] &&
        none? ((v.modEngine 0 fun y => { y with deficit := modNth y.deficit e.cls fun d => d - v.chunkSize o 0 }).blockOp o 0) == x.2) = true ∧
    -- the port is busy, every slot is taken, nothing may start, nothing is left
    [({ chunkingEngine with portFree := 5 }, [0], false), ({ chunkingEngine with slots := 32 }, [0], false), (chunkingEngine, [0], true), (chunkingEngine, [], false)].all (fun x =>
      let s : State := { copying 64 fun o => { o with gathering := false, started := true, todo := x.2.1, fault := if x.2.2 then some 3 else none } with engines := [x.1] }
      let v := s.modEngine 0 fun e => drrWait s 9 e
      let e := v.engine 0
      (e.queues.flatten.filterMap fun i => v.op? i).all (fun o => o.todo == x.2.1) && none? (v.drrHead e e.cls) == (x.2.2 || x.2.1.isEmpty) &&
      decide (e.portFree = 5) == decide (x.1.portFree = 5) && decide (e.slots = 32) == decide (x.1.slots = 32)) = true ∧
    (let s := engined chunking
     [(0, 2048), (1, 2048), (1, 63)].all (fun x =>
       let e := { chunkingEngine with cls := x.1, visited := decide (x.2 = 63), deficit := [0, x.2, 0, 0] }
       match s.drrHead e e.cls with
       | none => x.1 == 0 && (e.queues.getD e.cls []).isEmpty
       | some o => decide (s.chunkSize o (o.todo.headD 0) ≤ e.deficit.getD e.cls 0) == decide (x.2 = 2048)) = true ∧
     none? (({ s with ops := s.ops.map fun o => { o with fault := some 3 } } : State).drrHead chunkingEngine 1) = true ∧
     (chunkingEngine.queues.getD 1 []).filterMap (fun i => s.op? i) = [] ++ s.ops ++ [] ∧ ∀ o ∈ s.ops, s.mayChunk o = true) := by decide
/-- One operation is in the engine. -/
def opIn (o : EOp) (h : State → State := id) (f : Team → Team := id) : State := mach id f fun s => h { s with ops := [o] }
/-- Chunk c runs, has not landed, and has no fault. -/
def chunkRuns (s : State) (o : EOp) (c : Nat) : Bool :=
  decide (s.op? o.id = some o) && o.running.contains c && !o.written.contains c && none? (s.chunkReady o c) && (s.team? o.team).isSome
/-- Its slice, its drops, and whether its update may be made. -/
def copyRuns (s : State) (x : Slice) (c : Nat) (drops : List Nat) (may : Bool) : Bool :=
  let o := running .cpy fun o => { o with slices := [x], gens := [(0, 9)] }
  let s := { s with ops := [o] }
  chunkRuns s o c && decide ((sortSlices o.slices)[c / 2 ^ 32]? = some x) && s.dropsAt o x == drops && s.updateReady o == may
def ringBody (s : State) : State := { s with launches := s.launches.map fun l => { l with body := { l.body with srBase := 2 ^ 40 + 2048, srCap := 64 } } }
def shapes (s : State) : State := { s with dram := s.dram.writeBytes (1048576 + 128) shapeBytes }
/-- Rank 0 of two. -/
def ranked (s : State) : State := { s with contexts := s.contexts.map fun c => { c with ranks := [(0, 0), (1, 1)] } }
/-- The operation once its chunk 0 is dropped. -/
def lossy (s : State) (o : EOp) : Option EOp :=
  let p := s.poisonOp o.id
  let q := match o.fault with
    | some f => p.withdrawFault f
    | none => p
  let u := q.modOp o.id fun x => { x with todo := [], fault := none, running := x.running.filter fun y => y != 0, lost := x.lost ++ x.todo ++ [0] }
  ((u.leaveEngine o).modEngine (engineOf o.coord) fun e => { e with slots := e.slots - 1 }).op? o.id
theorem wit_enginesWriteAndCount :
    st.team? 0 ≠ none ∧ ((st.team? 0).all fun t => (t.buf 1).mem.wf) = true ∧ [(1, 64, 10), (1, 30, 20), (1, 0, 4)].Pairwise (fun p q => p.2.1 + p.2.2 ≤ q.2.1 ∨ q.2.1 + q.2.2 ≤ p.2.1) ∧
    st.dram.wf = true ∧ (match st.engWalk (op0 .cpy) (2 ^ 40 + 4000) true with
      | .ok _ => true
      | _ => false) = true ∧ st.adds = [] ∧
    (match (st.team? 0).map fun t => st.walkTeam t (2 ^ 40 + 512) true with
      | some (.ok y) => pteWr y.leaf && !st.dram.poisoned y.pa 8
      | _ => false) = true := by decide
theorem wit_chunksCompleteOrDrop :
    copyRuns st (slice0 64) 0 [] true = true ∧ copyRuns { st with path := [arrival .st none] } { slice0 64 with num := 100 } 0 [] false = true ∧
    copyRuns st { slice0 64 with len := 64 + 2 ^ 32 } 0 [0] true = true ∧ copyRuns st { slice0 64 with sub := 2 } 0 [] true = true ∧
    (let o := running .cpy fun o => { o with slices := [slice0 64], written := [0] }
     (opIn o).op? 9 = some o ∧ (opIn o).updateReady o = true) ∧
    (∀ x ∈ [(shape0, false), ({ shape0 with repl := 3, ctr := 2 ^ 40 + 3000 }, true)], let o := running (.cpyt x.1 0)
      let s := opIn o (if x.2 then ranked ∘ shapes else shapes)
      chunkRuns s o 0 = true ∧ x.1.op = 0 ∧ x.1.overlaps = false ∧ s.isDest 1 x.1 = true ∧ s.updateReady o = true ∧ s.toPeers 1 x.1 = x.2) ∧
    (let r := { shape0 with ops := 1, memb := 3, repl := 3, ty := 9 }
     chunkRuns (opIn (running (.cpyt r 0)) shapes) (running (.cpyt r 0)) 0 = true ∧ r.op = 1 ∧ r.overlaps = false) ∧
    (∀ l ∈ [[0, 1], [1]], let o := running (.fill 0 1) fun o => { o with pages := [(1048576, 1052672)], running := l }
      chunkRuns (opIn o) o 1 = true ∧ o.pages[1 / 2]? = some (1048576, 1052672) ∧ none? ((((opIn o).chunkOver o 1).closeOp 9).op? 9) = (l == [1])) ∧
    (let o := running (.spawnOut 0) fun o => { o with spawns := [⟨8, 4, 2 ^ 40, [1, 2, 3, 4], none⟩] }
     chunkRuns (opIn o ringBody) o 0 = true) ∧
    chunkRuns (opIn (running (.spawnIn 2)) (fun s => ringBody { s with dram := s.dram.writeBytes (1048576 + 2048) (natLe 4 8 ++ natLe 4 4) }) fun t => { t with ringTail := 2 })
      (running (.spawnIn 2)) 0 = true ∧
    (let o := running .cpy fun o => { o with running := [0, 1], slices := [slice0 4096] }
     (opIn o).op? 9 = some o ∧ (lossy (opIn o) o).any (fun x => x.running == [1] && x.todo == [] && x.fault == none && x.lost == [0]) = true) ∧
    (let o := running .cpy fun o => { o with slices := [slice0 4096], todo := [1], fault := some 3 }
     (opIn o).op? 9 = some o ∧ (opIn o).adds = [] ∧ (lossy (opIn o) o).any (fun x => x.running == [] && x.todo == [] && x.fault == none && x.lost == [1, 0]) = true) := by decide
/-- A region without members, of a team that is there or is gone. -/
def memberless (t : Nat) : State := { st with steers := [steer (.team t 5)] }
/-- The group waits, and its word was issued by lane 0. -/
def waits (w : Wake) : State := mach fun y => { y with phase := .parked, wake := some w, wakeBy := { lanes := 1 } }
theorem wit_cancellation :
    (∀ t ∈ [0, 9], ((memberless t).steers.find? fun y => y.region == .team t 5) = some (steer (.team t 5)) ∧ (memberless t).membersOf (.team t 5) = [] ∧
      ((memberless t).team? t).isSome = (t == 0) ∧ ((memberless t).team? t).all (fun m => m.task.isNone) = true) ∧
    (∀ w ∈ [Wake.bar 3 0, .barc 7 0, .ring 1 1 0 false 0, .counter true 64 1 0 none, .queue 0, .trapReply, .trapSlot],
      ((waits w).group? ⟨0, 0⟩).any (fun y => y.held.isNone && y.wake == some w && y.wakeBy.lanes == 1 && (waits w).restOf y.wakeBy 1 == 0) = true) ∧
    ([load0.id, 8].Nodup) ∧
    (let o := running .cpy fun o => { o with slices := [slice0 64] }
     (opIn o).op? 9 = some o ∧ ((opIn o).poisonOp 9 |>.poisonTiles o).faults = []) := by decide
def spillOp (st : Bool) : EOp := running (.spill 0 0) fun o => { o with started := st, running := if st then [0] else [], recs := [(recd 1).words] }
def ringed (x : HwQ) (h : State → State := id) : State := mach id (fun t => { t with queues := [{ x with cap := 64, base := 2 ^ 40 + 2048 }, {}, {}, {}] }) h
def steal0 (n : Nat) (got : Option (List W32) := none) : Steal := { id := 6, byw := { lanes := 0xFFFF }, lane := 0, reg := 8, kreg := 1, q := 0, victim := 2, state := n, got := got }
def robbed (n : Nat) (x : HwQ) : State := duo id fun s =>
  { s with steals := [steal0 n], teams := s.teams.map fun t => if t.id = 2 then { t with queues := [x, {}, {}, {}] } else t }
def ringEntry (op : Nat) : PathEntry := { arrival .ring none with op := op, space := 1, addr := 17 }
theorem wit_ringsAndStealsAreServed :
    (∀ b ∈ [false, true], let s := ringed { tail := 1 } fun s => { s with ops := [spillOp b] }
      s.op? 9 = some (spillOp b) ∧ s.team? 0 ≠ none ∧ s.released (spillOp b).byw.g 0 3 9 = true ∧ s.lockRoom 0 1 = true ∧ (b = true → none? (s.chunkReady (spillOp b) 0) = true)) ∧
    (let s := ringed { tail := 2, performed := [0, 1] }
     ∃ t ∈ s.teams, s.team? t.id = some t ∧ t.place = .resident ∧ (t.queue 0).skip.refill = none ∧
       0 < min (t.queue 0).skip.free (runFrom (t.queue 0).skip.performed 32 (t.queue 0).skip.head) ∧ s.lockRoom t.coord 1 = true) ∧
    (let s := ringed { tail := 2, performed := [0, 1], reserved := 2, refill := some 9 } fun s => { s with ops := [running (.refill 0 2)] }
     none? (s.chunkReady (running (.refill 0 2)) 0) = true) ∧
    (∀ x ∈ [({} : HwQ), { chip := [recd 1] }], let s := robbed 0 x
      (s.steals.find? fun x => x.id == 6 && decide (x.state = 0)) = some (steal0 0) ∧ ∃ t ∈ s.teams, s.team? 2 = some t ∧ t.place ≠ .ended ∧ (t.queue 0).avail = x.chip) ∧
    ((robbed 1 {}).liveBy (steal0 1).byw).getLsbD 0 = true ∧ ((robbed 2 {}).steals.find? fun x => x.id == 6 && decide (x.state = 2)) = some (steal0 2) ∧
    (∀ n ∈ [0, 1], let s := { st with path := [ringEntry n] }
      s.entry? 7 = some (ringEntry n) ∧ s.ringReady (ringEntry n) = true) := by decide
def rec0 : SpawnRec := ⟨8, 0, 2 ^ 40, [], none⟩
def pack0 (closed : Bool) : Pack := { id := 3, team := 0, entry := 8, join := 2 ^ 40, recs := [rec0], closed := closed }
def packed (closed : Bool) : State := { st with cores := st.cores.map fun c => { c with packs := [pack0 closed] } }
theorem wit_spawnRecordsBecomeGroups :
    (∃ t ∈ (mach id fun t => { t with savedSpawns := [rec0], ringTail := 1 }).teams, t.place = .resident ∧ t.savedSpawns ≠ [] ∧ t.savedSpawns.length ≤ 64) ∧
    (let s := mach id fun t => { t with ringTail := 2 }
     ∃ t ∈ s.teams, 0 < min (min 64 (256 - s.spawnHeld t.coord)) (t.skipSpawns.ringTail - t.skipSpawns.savedSpawns.length - t.skipSpawns.ringHead) ∧ s.spawnsOut t.skipSpawns = [] ∧
       t.skipSpawns.ringGone = [] ∧ s.ops = []) ∧ st.spawnReleased 0 rec0 = true ∧
    (∀ b ∈ [false, true], (packed b).pack? 3 = some (0, pack0 b) ∧ (pack0 b).due ≤ (packed b).ctxClock 1 ∧ ∃ t ∈ (packed b).teams, t.freeSlot = some 1) := by decide
def waiter (urgent : Bool) : WaitCl := { launch := 0, cluster := 1, urgent := urgent }
def queued (l d : List WaitCl) : State := mach id id fun s => offer { s with leadList := l, dieList := d }
def ending (f : State → State := id) : State := mach (fun y => { y with phase := .exited, live := 0 }) id f
theorem wit_clustersRunAndEnd :
    (let s := ending
     ∃ t ∈ s.teams, s.team? t.id = some t ∧ t.gen ≠ 0xFFFF ∧ t.place ≠ .ended ∧ (∀ g ∈ t.groups, g.phase = .exited) ∧ s.matrixOf t = false ∧ s.copiesOf t = false ∧ s.spawnsOf t = false ∧
       s.gridOpen t = false) ∧
    (let s := mach id (fun t => { t with place := .ended })
     ∃ l ∈ s.launches, s.launch? l.grid = some l ∧ l.completed = false ∧ l.waiting = 0 ∧ (∀ t ∈ s.teams, t.place = .ended) ∧ s.tasks = [] ∧ l.fate ≠ 2 ∧
       s.unperformed l.grid = false ∧ s.steers = []) := by decide
def task0 (n : Nat) (w : List (Nat × Nat)) (st : List (Nat × List Nat)) : Task :=
  { die := 0, id := 2, launch := 0, ctx := 1, desc := 2 ^ 40, entry := 0, join := 0, reads := [], writes := w, state := n, staged := st }
/-- The team of the one launch has ended. -/
def launched (h : State → State := id) (g : Launch → Launch := id) : State :=
  mach id (fun t => { t with place := .ended }) fun s => h { s with launches := s.launches.map g }
def holding (b : Bool) (s : State) : State := { s with contexts := s.contexts.map fun c => { c with p := { c.p with hold := b } } }
theorem wit_launchesEnd :
    (let s := mach (fun y => { y with phase := .exited, live := 0 }) (fun t => { t with task := some (0, 2) }) fun s =>
       { s with tasks := [{ task0 2 [] [] with team := some 0 }] }
     ∃ t ∈ s.teams, t.task = some (0, 2) ∧ s.spawnsOf t = false ∧ s.gridOpen t = false ∧ s.copiesOf t = false ∧ ∃ x ∈ s.tasks, x.die = 0 ∧ x.id = 2 ∧ x.team = some t.id) ∧
    (let s := streaming false 0
     ∃ t ∈ s.teams, s.team? t.id = some t ∧ (((s.streamQs t false).getD 0 {}).descs.any fun d => d.id == 8) = true ∧ ∀ d ∈ ((s.streamQs t false).getD 0 {}).descs, d.fault = none) ∧
    (∀ b ∈ [false, true], ∃ c ∈ (launched (holding b)).contexts, (launched (holding b)).ctx? 1 = some c ∧ c.p.hold = b) ∧
    (((launched fun s => { s with sessions := [⟨4, 0, [], some 0⟩] }).sessions.find? fun x => x.principal.isSome && x.principal == some 0) = some ⟨4, 0, [], some 0⟩) ∧
    launched.heldMsgs = [] ∧ launched.sessions = [] ∧
    (∀ b ∈ [none, some [1, 2]], ∃ l ∈ (launched id fun l => { l with completed := true, heldBody := b }).launches, l.completed = true ∧ l.cleared = false ∧ l.spans = [] ∧ l.heldBody = b) ∧
    (let s := launched id fun l => { l with completed := true, spans := [(0, 5)] }
     ∃ l ∈ s.launches, ∃ x ∈ l.spans, (s.core x.1).lastPass ≤ x.2) ∧
    (∃ c ∈ launched.contexts, launched.ctx? 1 = some c ∧ c.dying = none) := by decide
set_option maxRecDepth 8000 in
/-- The leader's list has a cluster that fits, and so has a die's, urgent or not. -/
theorem wit_clustersFit :
    (let s := queued [waiter false] []
     let u := s.refuseWaiting.cores.foldl (fun u c => u.checkPark c.coord) s.refuseWaiting
     (firstFit (fun (w : WaitCl) => match u.launch? w.launch with
       | some l => (u.bestDie (u.needOf w l)).map fun x => x.1
       | none => none) u.leadList 0).isSome) = true ∧
    (firstFit (fun (w : WaitCl) => match (st.launch? w.launch) with
       | some l => (st.bestDie (st.needOf w l)).map fun x => x.1
       | none => none) [] 0).isNone = true ∧
    ((queued [] [waiter true]).serveList 0 true).isSome = true ∧ ((queued [] [waiter false]).serveList 0 true).isNone = true ∧
    ((queued [] [waiter false]).serveList 0 false).isSome = true ∧
    -- the second of two is taken, unless the first was passed over too often
    firstFit (fun (w : WaitCl) => if w.urgent then some 2 else none) [waiter false, waiter true] 0 = some (1, waiter true, 2) ∧
    firstFit (fun (w : WaitCl) => if w.urgent then some 2 else none) [{ waiter false with passed := 16 }, waiter true] 0 = none ∧
    (match (queued [] [waiter false]).launch? 0 with
     | some l => ((queued [] [waiter false]).placeCluster l (waiter false) 0 l.kern none 0).isSome
     | none => false) = true := by decide
def parked (n : Bool) : State := mach (fun y => { y with phase := .parked, evictNow := true, wake := some .trapReply }) fun t => { t with narrowed := n }
def away : State := mach (fun y => { y with phase := .evicted, wakeMet := true }) (fun t => { t with place := .away, narrowed := false }) offer
theorem wit_teamsLeaveAndReturn :
    (let s := parked false
     ∃ t ∈ s.teams, ∃ g ∈ t.groups, s.team? t.id = some t ∧ s.group? ⟨t.id, g.slot⟩ = some g ∧ g.phase = .parked ∧ t.place = .resident ∧ g.halted = false ∧
       s.frozen t.ctx = false ∧ g.evictNow = true ∧ s.leaving t = false ∧ g.haltOff = false) ∧
    (let s := mach (fun y => { y with phase := .evicted }) fun t => { t with narrowed := true }
     ∃ t ∈ s.teams, t.place = .resident ∧ s.mayLeave t = true) ∧
    (∃ t ∈ away.teams, t.place = .away ∧ (∃ g ∈ t.groups, g.phase = .evicted ∧ (g.wakeMet = true ∨ g.wake = none)) ∧
      (∀ c ∈ away.clusters, ∀ x ∈ rectCores c.origin c.w c.h, away.offered x = true) ∧ away.coreTakes t.coord (t.need away) = true ∧ away.savedFits t t.coord = true ∧ t.coord ∉ away.claims fun _ => true) ∧
    (let s : State := { st with cores := st.cores.map fun c => { c with slices := [(1, 0)] } }
     ((s.core 0).slices.find? fun x => x.1 == 1) = some (1, 0) ∧ 0 ≤ s.ctxClock 1 ∧ ((s.resident 0).filter fun t => t.ctx == 1) ≠ []) := by decide
def calling (f : Ctx → Ctx) (g : Group → Group := id) : State :=
  mach (fun y => g { y with phase := .parked, wake := some .trapSlot, trapBlocks := [[1, 0, 0, 0]] }) id fun s =>
    { s with contexts := s.contexts.map fun c => f { c with p := { c.p with ring := 64 } } }
theorem wit_serviceCallsGoOut :
    (let s := calling id
     ∃ c ∈ s.contexts, s.ctx? 1 = some c ∧ c.ring.length + 1 ≤ c.p.ring ∧ c.p.serviceTimeout = none ∧ ∃ gr ∈ s.teams.flatMap (fun t => t.groups),
       s.group? ⟨0, 0⟩ = some gr ∧ gr.wake = some .trapSlot ∧ gr.trapBlocks.length = 1) ∧
    (let s := calling fun c => { c with ring := [(0, [1])] }
     ∃ c ∈ s.contexts, s.ctx? c.id = some c ∧ c.ring = [(0, [1])]) := by decide
theorem wit_serviceCallsEnd :
    (let s := calling fun c => { c with calls := [(0, ⟨0, 0⟩, 0, 0, true)], p := { c.p with serviceTimeout := some 0 } }
     ∃ c ∈ s.contexts, (c.calls.find? fun y => y.1 == 0) = some (0, ⟨0, 0⟩, 0, 0, true) ∧ c.p.serviceTimeout = some 0 ∧ 0 ≤ s.ctxClock c.id) ∧
    (let s := mach fun y => { y with phase := .evicted, wakeMet := true }
     ∃ t ∈ s.teams, ∃ gr ∈ t.groups, s.group? ⟨0, 0⟩ = some gr ∧ t.place = .resident ∧ gr.phase = .evicted ∧ gr.staysOff = false ∧ s.leaving t = false) := by decide
def mop0 (k n : Nat) (sp : Nat := 0) : MOp :=
  { id := 5, kind := k, coord := 0, byw := { lanes := 1 }, tile := 0, left := some rsv0, right := some rsv0, k := 32, state := n, space := sp, old := [team0.abuf.mem, team0.wbuf.mem] }
def mqueue (o : MOp) (t : Team → Team := id) : State := mach id t fun s => { s with clock := 30, cores := s.cores.map fun c => { c with mq := [o] } }
/-- Its tile holds an error in byte 64 of the C buffer. -/
def badTile (t : Team) : Team := { t with cbuf := { t.cbuf with mem := { t.cbuf.mem with poison := [1] } } }
def bufOf (t : Team) (sp : Nat) : Mem := if sp = 2 then t.abuf.mem else t.wbuf.mem
theorem wit_matrixOperationsRunInOrder :
    (∀ k ∈ [0, 1], let o := mop0 k 0
      let s := mqueue o
      ((s.core 0).mq.find? fun x => decide (x.kind ≠ 4) && decide (x.state = 0)) = some o ∧ (∃ t ∈ s.teams, s.team? o.byw.g.team = some t ∧ s.frozen t.ctx = false) ∧
      o.follower = none ∧ s.arrayReady 0 o = true ∧
      o.kept = [] ∧ o.old = [team0.abuf.mem, team0.wbuf.mem] ∧
      ∀ t ∈ s.teams, lineWith (o.reads true) (s.lineBars o t fun b => b.orphan) = none ∧ lineWith (o.reads true) (s.lineBars o t fun b => b.absent) = none) ∧
    (∀ n ∈ [1, 2], let s := mqueue (mop0 1 n)
      s.mop? 5 = some (mop0 1 n) ∧ (mop0 1 n).busyTo + 24 ≤ s.clock) ∧
    (∀ k ∈ [0, 1], (mop0 k 1).stop (bufOf team0) team0.cbuf.mem true = none) ∧
    (mop0 1 1).stop (bufOf (badTile team0)) (badTile team0).cbuf.mem true = some (0x0D, 64) ∧
    (let o := mop0 4 0 1
     let s := mqueue o
     ((s.core 0).mq.find? fun x => decide (x.kind = 4) && decide (x.state = 0)) = some o ∧ (s.core 0).drainFree ≤ s.clock ∧ aheadOf (s.core 0).mq 5 = [] ∧
     s.path = [] ∧ ∀ t ∈ s.teams, ∀ x ∈ o.drainRuns, t.cbuf.mem.errorAt x.1 x.2 = none) ∧
    ((mop0 4 0 1).drainRuns.findSome? fun x => (badTile team0).cbuf.mem.errorAt x.1 x.2) = some 64 ∧
    (∀ sp ∈ [0, 1], (mqueue (mop0 4 1 sp)).mop? 5 = some (mop0 4 1 sp) ∧ (mop0 4 1 sp).busyTo + 16 ≤ (mqueue (mop0 4 1 sp)).clock) := by decide
def tasked (k : Task) : State := mach id id fun s => { s with tasks := [k], contexts := s.contexts.map fun c => { c with p := { c.p with pool := 64 } } }
set_option maxRecDepth 8000 in
theorem wit_tasksStartAndCommit :
    (let k := task0 1 [] []
     (tasked k).task? 0 2 = some k ∧ k.tiles = [] ∧ (tasked k).ops = []) ∧
    (let k := task0 1 [(2 ^ 40 / 65536, 1)] []
     (tasked k).task? 0 2 = some k ∧ k.tiles ≠ [] ∧ 16 * k.tiles.length ≤ (tasked k).poolLeft 1 ∧ (tasked k).tileNow k (2 ^ 40 / 65536) ≠ []) ∧
    (∀ x ∈ [[], [(2 ^ 40 / 65536, List.range 16)]], let k := task0 3 [(2 ^ 40 / 65536, 1)] x
      (tasked k).task? 0 2 = some k ∧ (tasked k).mayCommit k = true ∧ (tasked k).taskBusy 0 2 = false ∧
        ((k.staged.flatMap fun x => x.2.mapIdx fun j f => (x.1 * 65536 + j * 4096, f)).foldl (fun (a : Option State) p =>
          a.bind fun s => s.setFrame placedRoot p.1 p.2 ((tasked k).walkCtx 1 p.1)) (some (tasked k))).isSome = true) := by decide
def part0 (chunk : Nat) : Contribution :=
  { sw := 0, port := 0, cgrp := 1, seq := 0, chunk := chunk, sig := ⟨1, 0, 1, 1, 1, 0, 0⟩, elems := [1], mismatch := false, space := 0, tileCtr := 0, dsts := [2 ^ 40], z := 4 }
/-- A switch whose 256 slots are taken. -/
def fullSwitch : State :=
  { st with switches := [{ id := 0, slots := (List.range 256).map fun n => ⟨2, 0, n, part0 n, false, [], 0⟩ }] }
def chunk0 : ReducedChunk :=
  { ctx := 1, launch := 0, die := 0, cgrp := 1, seq := 0, tileCtr := 0, space := 0, writes := [(2 ^ 40, 1)], size := 1, op := 0, chunk := 0, mismatch := false, plain := false }
set_option maxRecDepth 4000 in
theorem wit_switchesAndPorts :
    ((part0 0).cgrp, (part0 0).seq) ∉ (st.switch 0).dropped ∧ (st.switch 0).takes (part0 0) = true ∧ (fullSwitch.switch 0).takes (part0 0) = false ∧
    (st.linkOf (part0 0)).training = false ∧ (st.linkOf (part0 0)).retired = false ∧ (st.switch 0).comesDown (part0 0) = false ∧
    (let s := { st with switches := [{ id := 0, entries := [⟨1, true, false, 0, 0x10, 0, 0⟩] }] }
     (s.switch 0).comesDown (part0 0) = true) ∧
    (let s := { st with links := [{ id := .bridge 0, training := true }] }
     (s.linkOf { part0 0 with port := 5 }).training = true ∧ (s.linkOf { part0 0 with port := 5 }).retired = false) ∧
    (let s := { st with switches := [{ id := 0, dropped := [(1, 0)] }] }
     ((part0 0).cgrp, (part0 0).seq) ∈ (s.switch 0).dropped ∧ (s.switch 0).comesDown (part0 0) = false) ∧
    (st.link (.port 15)).retired = false ∧ (st.link (.port 15)).training = false ∧
    (st.heldChunk chunk0 = false ∧ st.deadCall chunk0 = false ∧ st.chunkBad chunk0 = none) ∧
    (let s := mach id id fun s => { s with contexts := s.contexts.map fun c => { c with hasRanks := true, ranks := [(0, 0), (1, 1)] } }
     ∃ c ∈ s.contexts, s.ctx? c.id = some c ∧ 1 ∉ c.lost ∧ 1 ≠ c.me ∧ ∃ x ∈ c.ranks, x.1 = 1) ∧
    (∀ n ∈ [0, 2093056], spGet 0 ({ st with ports := spPut 0 [] 15 n } : State).ports 15 + 4096 ≤ 2097152) ∧
    2097152 < spGet 0 ({ st with ports := spPut 0 [] 15 2093057 } : State).ports 15 + 4096 := by decide
/-- Switch 0 of die 0 in a group's tree: at its root or below port 5, for its own rank and port 0, with a slot and what waits. -/
def inTree (root : Bool) (f : Switch → Switch := id) : State :=
  { st with switches := [f { id := 0, entries := [{ cgrp := 1, v := true, root := root, parent := if root then 0 else 5, child := 0x11, epoch := 0, down := 0x10 }] }] }
def from_ (port : Nat) (op : Nat := 1) : Contribution := { part0 0 with port := port, elems := [port + 1], sig := ⟨1, 0, op, 1, 1, 0, 0⟩ }
def slot4 (k : Switch) : Switch := { k with slots := [{ cgrp := 1, seq := 0, chunk := 0, first := from_ 4, mismatch := false, got := [(4, [9])], epoch := 0 }], waiting := [from_ 1] }
/-- A contribution that a slot takes: whether all have then come, whether they mismatch, whether the switch is the root. -/
def merges (s : State) (x : Contribution) : Option (Bool × Bool × Bool) :=
  if (s.linkOf x).training || (s.switch x.sw).comesDown x || !(s.switch x.sw).takes x then none
  else
    let v := (s.slotHolds x).accepted x
    match (v.switch x.sw).slots.find? fun y => y.is x, (v.switch x.sw).entry? x.cgrp with
    | some y, some e =>
      if v.namesLost y.first || (!e.root && none? (facing x.sw e.parent)) || y.first.cgrp != x.cgrp then none
      else some ((List.range 8).all fun p => !e.child.getLsbD p || y.got.any fun g => g.1 == p, y.mismatch, e.root)
    | _, _ => none
theorem wit_contributionsMerge :
    merges (inTree true) (from_ 0) = some (false, false, true) ∧ merges (inTree true slot4) (from_ 0) = some (true, false, true) ∧
    merges (inTree false slot4) (from_ 0) = some (true, false, false) ∧ merges (inTree false slot4) (from_ 0 2) = some (true, true, false) ∧
    (((inTree false).switch 0).comesDown (from_ 5) = true ∧ ((inTree false).switch 0).entry? 1 ≠ none) ∧
    (∃ y rest, ((inTree false slot4).switch 0).waiting = y :: rest ∧ ((inTree false slot4).switch 0).takes y = true) ∧
    [(0, [9]), (4, [1])].Perm [(4, [1]), (0, [9])] ∧ [(0, [9]), (4, [1])].Pairwise (fun a b => a.1 < b.1) :=
  ⟨by decide, by decide, by decide, by decide, by decide, ⟨_, _, rfl, by decide⟩, List.Perm.swap _ _ _, by decide⟩
def sumShape (ranks : Nat) : Shape := { shape0 with ops := 1, memb := ranks, repl := ranks, cgrp := 1, ctr := 2 ^ 40 + 3000 }
def reducing (ranks : Nat) : State := opIn (running (.cpyt (sumShape ranks) 0)) shapes
def result0 (k : Nat) : ReducedChunk := { chunk0 with op := 9, writes := [(2 ^ 40 + 2048, 7)], tileCtr := k }
theorem wit_resultsReachTheirRank :
    (∀ x ∈ [(1, false), (3, true)], let s := reducing x.1
      (s.callOp 1 0).isSome = true ∧ ((sumShape x.1).chunks.getD 0 0) = 0 ∧ s.updateReady (running (.cpyt (sumShape x.1) 0)) = true ∧ s.toPeers 1 (sumShape x.1) = x.2) ∧
    (reducing 1).isDest 1 (sumShape 1) = true ∧ (reducing 1).isDest 1 (sumShape 2) = false ∧
    (∀ k ∈ [0, 2 ^ 40 + 3000], let s := reducing 1
      s.heldChunk (result0 k) = false ∧ s.deadCall (result0 k) = false ∧ s.chunkBad (result0 k) = none ∧ (s.op? 9).isSome = true ∧ (sumShape 1).overlaps = false ∧ (s.team? 0).isSome = true) := by
  decide
set_option maxRecDepth 8000 in
/-- The frames of the task's tile are found wherever firmware starts to look. -/
theorem wit_tilesAreRenamed (k : Task) (hk : k = task0 1 [(2 ^ 40 / 65536, 1)] []) : ∃ f u, State.renameTiles k.tiles (tasked k) k.die = some (f, u) := by
  subst hk
  obtain ⟨f, u, h, -⟩ := State.renameTiles_some (task0 1 [(2 ^ 40 / 65536, 1)] []).tiles (tasked (task0 1 [(2 ^ 40 / 65536, 1)] [])) 0 (by decide)
  exact ⟨f, u, h⟩
/-! Service, and the host's commands. -/

/-- Its cores offered, core 3 of die 0 changed. -/
def core3 (f : Core → Core) (h : State → State := id) : State := h (offer { State.reset with cores := [f { coord := 3 }] })
theorem wit_emberPassesRun :
    (let s := core3 fun c => { c with visitNext := true }
     s.power = true ∧ (∀ c ∈ Config.dieCoords 0, (s.core c).testing = false ∧ (s.core c).draining = false) ∧ s.emberNext 0 = some 3 ∧ (s.core 3).visitNext = true) ∧
    (let s := core3 id fun s => { s with ember := spPut 0 s.ember 0 3 }
     s.emberNext 0 = some 3 ∧ (s.core 3).visitNext = false ∧ ∀ c ∈ Config.dieCoords 0, s.coreHalted c = false) ∧
    (let s := core3 fun c => { c with draining := true }
     (s.core 3).draining = true ∧ (s.core 3).testing = false ∧ s.coreHalted 3 = false ∧ s.resident 3 = [] ∧ (s.core 3).retireAfter = none) ∧
    (let s := core3 (fun c => { c with testing := true, passLeft := 52000 }) fun s => { s with clock := 52000 }
     (s.core 3).testing = true ∧ s.passNow 3 = 0 ∧ (s.core 3).retireAfter = none) ∧
    (∀ b ∈ [false, true], let s := mach (fun y => { y with halted := b }) id fun s => { s with clock := Config.ccPerMs, cores := [{ coord := 0, draining := true }] }
     (s.core 0).draining = true ∧ (s.core 0).testing = false ∧ s.resident 0 ≠ [] ∧ (s.core 0).drainFrom + Config.ccPerMs ≤ s.clock ∧ s.coreHalted 0 = b) := by decide
def margins (vstep floor : Nat) (margin : Nat := 0) : State :=
  { State.reset with flash := { State.reset.flash with alm := [(.core 3, { vstep := vstep, vmax := 9, floor := floor, margin := margin })] } }
set_option maxRecDepth 8000 in
theorem wit_marginsAndWindows :
    State.reset.power = true ∧ Config.coordOk 239 = true ∧
    (let s := margins 9 40
     let u := s.setAlm (.core 3) fun a => { a with margin := 40 }
     (u.alm (.core 3)).floor ≤ (u.alm (.core 3)).margin) ∧
    (let s := margins 9 40
     let u := s.setAlm (.core 3) fun a => { a with margin := 39 }
     (u.alm (.core 3)).margin < (u.alm (.core 3)).floor ∧ (u.alm (.core 3)).vmax ≤ u.inEffect (.core 3)) ∧
    (let s := margins 8 40
     let u := s.setAlm (.core 3) fun a => { a with margin := 39 }
     u.inEffect (.core 3) < (u.alm (.core 3)).vmax) ∧
    -- the offset in effect has slack enough; of a unit with no offset but 0, none has
    (let s := margins 8 40 60
     UnitId.core 3 ∈ marginUnits ∧ (s.alm (.core 3)).state ≠ 2 ∧ 8 ≤ (s.alm (.core 3)).vmax ∧ (s.alm (.core 3)).floor + 20 ≤ s.slackAt (.core 3) 8) ∧
    (let s : State := { State.reset with flash := { State.reset.flash with alm := [(.core 3, {})] } }
     (s.alm (.core 3)).state ≠ 2 ∧ (s.alm (.core 3)).vmax = 0 ∧ ¬ (s.alm (.core 3)).floor + 20 ≤ s.slackAt (.core 3) 0) := by decide
/-- The error of a line, counted twice before, is its third. -/
def counted (u : UnitId) (line n cec : Nat) : State :=
  let s := State.reset
  { s with flash := { s.flash with lineCec := if n = 0 then [] else [(u, line, n)], alm := (u, { cec := cec }) :: s.flash.alm } }
/-- The machine once the error has been counted. -/
def oneMore (s : State) (u : UnitId) : State := s.setAlm u fun a => { a with cec := (a.cec + 1) % 2 ^ 32 }
theorem wit_correctedErrors :
    (∀ x ∈ [(0, 62), (1, 0), (2, 0)], (((counted (.slice 0) 5 x.1 x.2).flash.lineCec.find? fun y => y.1 == .slice 0 && y.2.1 == 5).map fun y => y.2.2).getD 0 = x.1 ∧
      ((oneMore (counted (.slice 0) 5 x.1 x.2) (.slice 0)).alm (.slice 0)).cec = x.2 + 1) ∧
    ((oneMore (counted (.slice 0) 5 0 63) (.slice 0)).alm (.slice 0)).cec = 64 ∧
    ((oneMore (counted (.slice 0) 5 2 0) (.slice 0)).disableLine 0 5 |>.alm (.slice 0)).cec < 64 := by decide
/-- The row of a bank is firmware's to say, and so is the team whose block a line of team memory holds. -/
theorem wit_rowsAndBlocks :
    (let u : UnitId := .bank 0 7 31
     ((counted u (Config.freeRowOf (unitKey u) 5) 2 0).flash.lineCec.find? fun y => y.1 == u && y.2.1 == Config.freeRowOf (unitKey u) 5).map (fun y => y.2.2) = some 2) ∧
    (let n := (Config.freeTeamBlock (unitKey (.teamMem 0)) 5).1
     let s : State := { State.reset with teams := List.replicate (n + 1) team0 }
     ((s.setAlm (.teamMem 0) fun a => { a with uec := (a.uec + 1) % 65536 }).resident 0)[n]? = some team0) := by
  refine ⟨by simp [counted], ?_⟩
  have h : (team0.coord == 0 && team0.place == .resident) = true := by decide
  simp [State.resident, State.setAlm, h]
theorem wit_errorsAreCountedAndRepaired :
    State.reset.power = true ∧ Config.coordOk (Config.unitCoord (.slice 0)) = true ∧ Config.coordOk (Config.unitCoord (.teamMem 239)) = true ∧
    Config.coordOk (Config.unitCoord (.bank 0 7 31)) = true ∧
    (({ State.reset with flash := { State.reset.flash with alm := [(.slice 0, { ecc := 2 })] } } : State).alm (.slice 0)).ecc = 2 ∧
    (UnitId.bank 0 0 0, 5) ∈ ({ State.reset with rowCopies := [(.bank 0 0 0, 5)] } : State).rowCopies ∧
    ((({ State.reset with rehoming := [(3, 1)] } : State).rehoming.find? fun y => y.1 == 3) = some (3, 1)) := by decide
theorem wit_linksHeatAndPower :
    (({ State.reset with links := [{ id := .port 15, training := true }] } : State).link (.port 15)).training = true ∧
    (State.reset.mgmtOk.filter fun x => x != State.reset.leader).head? = some 1 ∧
    (let s := mach id id fun s => { s with launches := s.launches.map fun l => { l with cancelled := true } }
     ∃ l ∈ s.launches, s.launch? 0 = some l ∧ l.completed = false ∧ l.cancelled = true) ∧
    ({ State.reset with power := false } : State).power = false := by decide
/-- An authenticated session of principal 0, whose context is 1. -/
def sess (h : State → State := id) : State := mach id id fun s => h { s with sessions := [⟨0, 0, [], some 0⟩] }
/-- Row 1 is in effect on every die and layer. -/
def warm : State := sess fun s => { s with issueRow := (List.range 4).map fun d => (d, 1), refreshRow := (List.range 32).map fun d => (d, 1) }
theorem wit_heat :
    warm.power = true ∧ spGet 0 warm.issueRow 3 ≠ 0 ∧ spGet 0 sess.issueRow 3 ≠ 1 ∧ spGet 0 warm.issueRow 3 ≠ 3 ∧ spGet 0 warm.refreshRow (8 * 3 + 7) ≠ 0 ∧
    spGet 0 sess.refreshRow (8 * 3 + 7) ≠ 1 ∧ spGet 0 sess.refreshRow (8 * 3 + 7) ≠ 2 ∧ (∃ x ∈ sess.sessions, x.principal.isSome = true) ∧
    (∀ x ∈ State.reset.flash.alm, x.2.ecc ≠ 2) := by decide
def anon : State := mach id id fun s => { s with sessions := [⟨0, 0, [], none⟩] }
def hd (form : Nat) : Hdr := { hdr with form := form }
theorem wit_sessionsAndHeaders :
    State.reset.power = true ∧ (∀ n ∈ [0, 1], Config.hdrOk (hd n) = true) ∧ State.reset.livePort 15 = true ∧ State.reset.sessions.length < 64 ∧
    (∃ x ∈ anon.sessions, anon.session? 0 = some x ∧ x.principal = none) ∧ st.session? (hd 0).session = none ∧ Config.hdrOk { hd 0 with len := 20 } = false ∧
    (sess.sessions.find? fun x => x.id == 0) = some ⟨0, 0, [], some 0⟩ ∧ sess.power = true ∧ sess.replayable = [] ∧ sess.ctx? 9 = none ∧ (∃ c ∈ sess.contexts, sess.ctx? 1 = some c ∧ c.debug = none ∧ c.principal ≠ 1) := by decide
set_option maxRecDepth 20000 in
/-- The hash of "abc", the example of FIPS 180-4. -/
theorem test_sha256 : (sha256 [0x61, 0x62, 0x63]).take 8 = [0xBA, 0x78, 0x16, 0xBF, 0x8F, 0x01, 0xCF, 0xEA] := by decide
/-- A MAC is what the key makes, or is not. -/
theorem wit_macs : (∃ mac, mac = hmacSha256 [] []) ∧ ∃ mac, mac ≠ hmacSha256 [] [] :=
  ⟨⟨_, rfl⟩, ⟨0 :: hmacSha256 [] [], by intro h; exact absurd (congrArg List.length h) (by simp)⟩⟩
/-- What onContext and onDebug ask. -/
theorem sess_onContext (h : State → State) (code : Nat) (c : Ctx) (h1 : (sess h).power = true) (h2 : (sess h).session? 0 = some ⟨0, 0, [], some 0⟩) (h3 : (sess h).replayable = []) (h6 : (sess h).pendingCmds = []) (h4 : c.principal = 0)
    (h5 : (sess h).ctx? 1 = some c) (n : Nat) (hn : n = 0 ∨ n = 1) : onContext (sess h) (hd n) code c := by
  refine ⟨⟨h1, by rcases hn with rfl | rfl <;> decide, ⟨_, h2, by rw [h4]⟩, ?_⟩, h5⟩
  rw [h3, h6]
  exact ⟨fun r hr => absurd hr (by simp), fun x hx => absurd hx (by simp)⟩
def mapB (key : Nat) (va : Nat := 2 ^ 40 + 4096) : MapBody := { va := va, len := 4096, page := 4096, rd := true, wr := true, code := false, key := key, home := 3, remap := false }
/-- The machine without the page at 2^40. -/
def unmapped : State := ((sess.dropRange placedCtx (2 ^ 40) 4096).map fun d => d.1).getD sess
set_option maxRecDepth 8000 in
theorem wit_contextCommands :
    64 ≤ Config.basicCtx.ring ∧ Config.basicCtx.ring ≤ 65536 ∧ ((List.range 256).find? fun n => (sess.ctx? n).isNone) = some 0 ∧ placedCtx.dying = none ∧
    (mapBad (hd 0) (mapB 0) = false ∧ sess.overlaps placedCtx (2 ^ 40 + 4096) 4096 = false) ∧
    (mapBad (hd 1) { mapB 0 (2 ^ 40) with remap := true } = false ∧ sess.overlaps placedCtx (2 ^ 40) 4096 = true ∧ (sess.dropRange placedCtx (2 ^ 40) 4096).isSome = true) ∧
    (let s := sess fun s => { s with keys := [(8191, { owner := 1, used := true })] }
     mapBad (hd 0) (mapB 8191) = false ∧ (spGet {} s.keys 8191).used = true ∧ (spGet {} s.keys 8191).owner = 1) ∧
    (canonical (2 ^ 40) = true ∧ canonical (2 ^ 40 + 4096 - 1) = true) ∧
    sess.mappedAll 1 (2 ^ 40 + 5) 8 (fun _ => true) = true ∧ (∀ x ∈ sess.contexts, sess.namesKey x 8191 = false) := by decide
set_option maxRecDepth 8000 in
/-- Frames are found for a root table, wherever firmware starts to look. -/
theorem wit_rootTableFound : ∃ f u, sess.takeAny (0 % 4) 512 = some (f, u) := by
  obtain ⟨b, -, h⟩ := sess.takeRun_some 0 512 (by decide) (by decide)
  exact ⟨b, _, by unfold State.takeAny; rw [show List.range 4 = [0, 1, 2, 3] from rfl, List.findSome?_cons, show sess.takeRun ((0 % 4 + 0) % 4) 512 = _ from h]⟩
/-- The tables of an address down to its last level stand. -/
def tableStands (m : Mem) (va : Nat) : Nat → Nat → Bool
  | 0, _ => true
  | l + 1, t => l == 0 || (pteV (m.entry t l va) && !pteLeaf (m.entry t l va) && tableStands m va l (ptePfn (m.entry t l va)))
theorem tableAt_stands (va n : Nat) (s : State) (t : Nat) (h : tableStands s.dram va n t = true) : ∃ x, State.tableAt va 0 n s t = some x := by
  induction n generalizing t with
  | zero => exact ⟨_, rfl⟩
  | succ l ih =>
    unfold State.tableAt
    unfold tableStands at h
    by_cases hl : l = 0
    · exact ⟨_, if_pos (by omega)⟩
    · simp only [hl, beq_iff_eq, Bool.or_eq_true, false_or, Bool.and_eq_true] at h
      simp only [show ¬ l ≤ 0 by omega, if_false, h.1.1, h.1.2, Bool.and_self, if_true]
      exact ih _ h.2
/-- A page is mapped on die 3 in a table that stands. -/
theorem mapPages_of_table (s : State) (va : Nat) (hu : (s.framesUsed ++ s.framesBad).length < Config.framesPerDie / 1)
    (hc : s.dram.cells.all (fun x => x.1 < 3 * Config.framesPerDie * 4096) = true) (hp : s.dram.poison = [])
    (ht : tableStands s.dram va 4 placedRoot = true) :
    ∃ u, State.mapPages (mapB 0 va) placedRoot 1 va s = some u := by
  obtain ⟨b, hb, h⟩ := s.takeRun_some 3 1 Nat.one_pos hu
  have hclear : s.dram.clear (b * 4096) (1 * 4096) = s.dram := by
    have hm : ∀ x ∈ s.dram.cells, (!(decide (b * 4096 ≤ x.1) && decide (x.1 < b * 4096 + 1 * 4096))) = true := by
      intro x hx
      have := of_decide_eq_true (List.all_eq_true.mp hc x hx)
      simp only [Bool.not_eq_true', Bool.and_eq_false_iff, decide_eq_false_iff_not]
      exact .inl (by omega)
    unfold Mem.clear
    rw [List.filter_eq_self.mpr hm, hp]
    cases hd : s.dram with
    | mk c p => rw [hd] at hp; simp only at hp; subst hp; rfl
  rw [hclear] at h
  obtain ⟨x, hx⟩ := tableAt_stands va 4 ({ s with framesUsed := (List.range 1).map (fun j => b + j) ++ s.framesUsed, free := s.free + 1 } : State) placedRoot ht
  unfold State.mapPages
  simp only [mapB, show (4096 : Nat) / 4096 = 1 from rfl, show ((3 : Nat) = 0xFF) = False from by simp, if_false, h]
  simp only [show ((4096 : Nat) = 65536) = False from by simp, decide_false, if_false, if_true]
  unfold State.setLeaf
  rw [hx]
  exact ⟨_, rfl⟩
set_option maxRecDepth 8000 in
theorem wit_pageMapped : ∃ u, State.mapPages (mapB 0) placedRoot 1 (2 ^ 40 + 4096) sess = some u :=
  mapPages_of_table _ _ (by decide) (by decide) (by decide) (by decide)
set_option maxRecDepth 8000 in
theorem wit_pageMappedAgain : ∃ u, State.mapPages (mapB 0 (2 ^ 40)) placedRoot 1 (2 ^ 40) unmapped = some u :=
  mapPages_of_table _ _ (by decide) (by decide) (by decide) (by decide)
/-- Where no frame is left, no root table is found, and no part of a large page can go. -/
def fullOf (l : List Nat) : State :=
  sess fun s => { s with framesUsed := l, dram := s.dram.writeN (entryAt (placedRoot + 513) 1 (2 ^ 40 + 2 ^ 21)) 8 (mkLeaf true true false false false 512 0).toNat }
set_option maxRecDepth 8000 in
theorem full_entries : (fullOf []).dram.entry placedRoot 3 (2 ^ 40 + 2 ^ 21) = BitVec.ofNat 64 (1 + (placedRoot + 512) * 4096) ∧
    (fullOf []).dram.entry (placedRoot + 512) 2 (2 ^ 40 + 2 ^ 21) = BitVec.ofNat 64 (1 + (placedRoot + 513) * 4096) ∧
    (fullOf []).dram.entry (placedRoot + 513) 1 (2 ^ 40 + 2 ^ 21) = mkLeaf true true false false false 512 0 := by decide
theorem full_overlaps : (fullOf []).overlaps placedCtx (2 ^ 40 + 2 ^ 21) 4096 = true := by decide
theorem wit_noFrames : ∃ s : State, s.takeAny (0 % 4) 512 = none ∧ s.overlaps placedCtx (2 ^ 40 + 2 ^ 21) 4096 = true ∧ s.dropRange placedCtx (2 ^ 40 + 2 ^ 21) 4096 = none := by
  have hf : ∀ (l : List Nat), (∀ f, f < 4 * Config.framesPerDie → f ∈ l) → (fullOf l).dropRange placedCtx (2 ^ 40 + 2 ^ 21) 4096 = none := by
    intro l h
    have hn : ∀ t level va, (fullOf l).newTable t level va = none := fun t level va => by
      unfold State.newTable
      rw [State.takeAny_none _ _ 1 (by decide) (by decide) h]
      rfl
    have h3 : (fullOf l).dram.entry placedRoot 3 (2 ^ 40 + 2 ^ 21) = BitVec.ofNat 64 (1 + (placedRoot + 512) * 4096) := full_entries.1
    have h2 : (fullOf l).dram.entry (placedRoot + 512) 2 (2 ^ 40 + 2 ^ 21) = BitVec.ofNat 64 (1 + (placedRoot + 513) * 4096) := full_entries.2.1
    have h1 : (fullOf l).dram.entry (placedRoot + 513) 1 (2 ^ 40 + 2 ^ 21) = mkLeaf true true false false false 512 0 := full_entries.2.2
    have e : State.splitPage (2 ^ 40 + 2 ^ 21) 4 (fullOf l) placedRoot = none := by
      unfold State.splitPage
      simp only [h3]
      unfold State.splitPage
      simp only [show ptePfn (BitVec.ofNat 64 (1 + (placedRoot + 512) * 4096)) = placedRoot + 512 by decide, h2]
      unfold State.splitPage
      simp only [show ptePfn (BitVec.ofNat 64 (1 + (placedRoot + 513) * 4096)) = placedRoot + 513 by decide, h1, hn]
      rfl
    unfold State.dropRange
    rw [show placedCtx.root = placedRoot from rfl, e]
    rfl
  obtain ⟨l, hl⟩ : ∃ l, ∀ f, f < 4 * Config.framesPerDie → f ∈ l := ⟨List.range _, fun f h => List.mem_range.mpr h⟩
  have ha : (fullOf l).takeAny (0 % 4) 512 = none := State.takeAny_none (fullOf l) _ 512 (by decide) (by decide) hl
  exact ⟨fullOf l, ha, full_overlaps, hf l hl⟩
def imgB (fin : Bool) (n : Nat) : ImgBody := { placedImgBody with final := fin, bytes := List.replicate n 0, dataVa := 2 ^ 40, codeSize := 8, dataSize := 8, kSize := 0 }
def imaged : State := sess fun s => offer { s with images := s.images.map fun m => { m with kerns := [{}] }, launches := [] }
def bodyB (lanes : Nat) : LaunchBody := { placedBody with lanes := lanes, args := 2 ^ 40 }
theorem wit_launchCommands :
    (∀ x ∈ [imgB true 16, imgB false 8], x.bytes.length ≤ imageSize x ∧ (x.final = true → x.bytes.length = imageSize x) ∧ canonical x.codeBase = true ∧
      sess.mappedAll 1 x.codeBase x.codeSize pteCode = true ∧ sess.mappedAll 1 x.dataVa x.dataSize (fun l => pteRd l && pteWr l) = true) ∧
    (∃ im ∈ imaged.images, imaged.image? im.num = some im ∧ im.ctx = 1 ∧ ∀ l ∈ imaged.launches, l.body.image = im.num → l.completed = true) ∧
    (∃ l ∈ sess.launches, sess.launch? l.grid = some l ∧ l.ctx = 1 ∧ l.completed = false) ∧
    (∃ t ∈ sess.teams, (sess.teams.find? fun t => t.launch == 0 && t.cluster == 0 && t.pos == 0 && t.ctx == 1 && t.place != .ended) = some t ∧ t.queues[3]? ≠ none) ∧
    (({ st with faults := [fault0 0 0] } : State).faults.find? fun x => x.id == 3 && x.ctx == 1) = some (fault0 0 0) ∧ (∃ x ∈ [(0, 5)], x.1 = 0) := by decide
theorem wit_launchStatus : (∀ c ∈ imaged.contexts, imaged.launchStatus c (bodyB 16) = 0) ∧ (∀ c ∈ imaged.contexts, imaged.launchStatus c (bodyB 17) = 1) := by decide
theorem wit_serviceCommands :
    unitOk (.core 239) = true ∧ unitOk (.bank 0 8 0) = false ∧ Config.coordOk 0 = true ∧ linkOk (.port 15) = true ∧ (State.reset.link (.port 15)).spareUsed = false ∧
    (({ State.reset with links := [{ id := .port 0, spareUsed := true }] } : State).link (.port 0)).spareUsed = true ∧
    ((margins 9 40).alm (.core 3)).state ≠ 2 ∧ (margins 9 40).coreHalted 3 = false ∧
    (({ State.reset with flash := { State.reset.flash with alm := [(.core 3, { state := 2 })] } } : State).alm (.core 3)).state = 2 ∧
    placedCtx.colls = [] ∧ (∀ l ∈ sess.launches, l.ctx ≠ 1 ∨ l.completed = true ∨ l.body.cgrp = 0) ∧ sess.groupsOf placedCtx = [] ∧
    sess.groupsOf { placedCtx with colls := [(4, [0], 0)] } = [(4, [0])] ∧ (∀ q ∈ [[2048, 2048, 2048, 65536]], q.length = 4 ∧ ∀ n ∈ q, n % 2048 = 0 ∧ 2048 ≤ n ∧ n ≤ 65536) := by decide
def debugging (f : Group → Group := id) : State :=
  mach f id fun s => { s with sessions := [⟨0, 0, [], some 0⟩], contexts := s.contexts.map fun c => { c with debug := some ⟨0, false, []⟩ } }
theorem wit_debugCommands :
    (∃ c ∈ debugging.contexts, debugging.ctx? 1 = some c ∧ c.debug = some ⟨0, false, []⟩) ∧ (∀ x ∈ [HaltTarget.context, .team 0, .group ⟨0, 0⟩], debugging.named 1 x ≠ []) ∧
    (let s := debugging fun y => { y with halted := true }
     ∃ t ∈ s.teams, ∃ gr ∈ t.groups, s.named 1 (.group ⟨0, 0⟩) ≠ [] ∧ s.group? ⟨0, 0⟩ = some gr ∧ gr.halted = true ∧ t.place ≠ .ended ∧ gr.phase ≠ .exited ∧
       s.lockRecords t.coord = []) := by decide
/-- An F64 word written from R84: its two parcels, lowest first. -/
def f64 (op sub ty d a b c wa wb wc gap yld grd : Nat) : List W32 :=
  let n := 1 + op * 2 ^ 2 + sub * 2 ^ 10 + ty * 2 ^ 14 + d * 2 ^ 18 + a * 2 ^ 27 + b * 2 ^ 36 + c * 2 ^ 45 + wa * 2 ^ 54 + wb * 2 ^ 55 + wc * 2 ^ 56 +
    gap * 2 ^ 57 + yld * 2 ^ 60 + grd * 2 ^ 61
  [BitVec.ofNat 32 n, BitVec.ofNat 32 (n / 2 ^ 32)]
/-- An L96 word: KIND 11 and its literal (R83, R84, R86). -/
def l96 (op sub ty d a b c wa wb wc gap yld grd lit : Nat) : List W32 :=
  let n := 3 + op * 2 ^ 2 + sub * 2 ^ 10 + ty * 2 ^ 14 + d * 2 ^ 18 + a * 2 ^ 27 + b * 2 ^ 36 + c * 2 ^ 45 + wa * 2 ^ 54 + wb * 2 ^ 55 + wc * 2 ^ 56 +
    gap * 2 ^ 57 + yld * 2 ^ 60 + grd * 2 ^ 61
  [BitVec.ofNat 32 n, BitVec.ofNat 32 (n / 2 ^ 32), BitVec.ofNat 32 lit]
/-- An S32 word (R97). -/
def s32 (sop d a b : Nat) : List W32 := [BitVec.ofNat 32 (sop * 2 ^ 2 + d * 2 ^ 8 + a * 2 ^ 16 + b * 2 ^ 24)]
/-- A P64 word (R99). -/
def p64 (xop xd xa ximm xgrd gap yld yop yd ya yimm ygrd : Nat) : List W32 :=
  let n := 2 + xop * 2 ^ 2 + xd * 2 ^ 8 + xa * 2 ^ 16 + ximm * 2 ^ 24 + xgrd * 2 ^ 25 + gap * 2 ^ 28 + yld * 2 ^ 31 + yop * 2 ^ 33 + yd * 2 ^ 39 + ya * 2 ^ 47 +
    yimm * 2 ^ 55 + ygrd * 2 ^ 56
  [BitVec.ofNat 32 n, BitVec.ofNat 32 (n / 2 ^ 32)]
/-- The words decode to their instructions at their length. -/
def decodes (l : List (List W32 × Instr)) : Bool := l.all fun x =>
  match decodeBytes (parcelBytes x.1) with
  | .ok (i, n) => i == x.2 && n == 4 * x.1.length
  | .error _ => false

def wordsScalar : List (List W32 × Instr) :=
  [(f64 0x00 0 6 0x101 0x102 0x103 0x000 1 1 0 0 0 0, .sadd ⟨0, .i64, .s 1, .s 2, .s 3, .v 0, true, true, false, 0, false, 0, none⟩),
   (f64 0x01 0 7 0x101 0x180 0x103 0x000 0 1 0 7 0 0, .ssub ⟨0, .n64, .s 1, .imm (-64), .s 3, .v 0, false, true, false, 7, false, 0, none⟩),
   (f64 0x02 0 6 0x13F 0x100 0x1FF 0x000 1 0 0 0 1 0, .smul ⟨0, .i64, .s 63, .s 0, .imm 63, .v 0, true, false, false, 0, true, 0, none⟩),
   (f64 0x03 0 7 0x104 0x105 0x106 0x000 1 1 0 0 0 7, .smulh ⟨0, .n64, .s 4, .s 5, .s 6, .v 0, true, true, false, 0, false, 7, none⟩),
   (l96 0x04 0 6 0x104 0x17F 0x106 0x000 0 1 0 0 0 0 0x80000001, .sand ⟨0, .i64, .s 4, .lit, .s 6, .v 0, false, true, false, 0, false, 0, some 0x80000001⟩),
   (f64 0x05 0 6 0x107 0x108 0x109 0x000 1 1 0 0 0 0, .sor ⟨0, .i64, .s 7, .s 8, .s 9, .v 0, true, true, false, 0, false, 0, none⟩),
   (f64 0x06 0 6 0x107 0x108 0x109 0x000 1 0 0 0 0 0, .sxor ⟨0, .i64, .s 7, .s 8, .s 9, .v 0, true, false, false, 0, false, 0, none⟩),
   (f64 0x07 0 6 0x10A 0x10B 0x1C5 0x000 1 0 0 0 0 0, .sshl ⟨0, .i64, .s 10, .s 11, .imm 5, .v 0, true, false, false, 0, false, 0, none⟩),
   (f64 0x08 0 6 0x10A 0x10B 0x1C5 0x000 1 0 0 0 0 0, .sshr ⟨0, .i64, .s 10, .s 11, .imm 5, .v 0, true, false, false, 0, false, 0, none⟩),
   (f64 0x09 0 6 0x10C 0x10D 0x10E 0x000 1 1 0 0 0 0, .smin ⟨0, .i64, .s 12, .s 13, .s 14, .v 0, true, true, false, 0, false, 0, none⟩),
   (f64 0x0A 0 7 0x10C 0x10D 0x10E 0x000 1 1 0 0 0 0, .smax ⟨0, .n64, .s 12, .s 13, .s 14, .v 0, true, true, false, 0, false, 0, none⟩),
   (f64 0x0B 0 6 0x10F 0x1BF 0x000 0x000 0 0 0 0 0 0, .smov ⟨0, .i64, .s 15, .imm (-1), .v 0, .v 0, false, false, false, 0, false, 0, none⟩),
   (f64 0x0C 0 6 0x10F 0x110 0x111 0x112 1 1 1 0 0 0, .ssel ⟨0, .i64, .s 15, .s 16, .s 17, .s 18, true, true, true, 0, false, 0, none⟩),
   (f64 0x0D 5 6 0x143 0x113 0x114 0x000 1 1 0 0 0 0, .scmp ⟨5, .i64, .k 3, .s 19, .s 20, .v 0, true, true, false, 0, false, 0, none⟩),
   (f64 0x0E 6 6 0x115 0x116 0x117 0x000 1 1 0 0 0 0, .slea ⟨6, .i64, .s 21, .s 22, .s 23, .v 0, true, true, false, 0, false, 0, none⟩),
   (f64 0x0F 0 6 0x118 0x1CA 0x000 0x000 0 0 0 0 0 0, .sget ⟨0, .i64, .s 24, .imm 10, .v 0, .v 0, false, false, false, 0, false, 0, none⟩),
   (f64 0x10 1 6 0x000 0x119 0x000 0x000 1 0 0 0 0 0, .sset ⟨1, .i64, .v 0, .s 25, .v 0, .v 0, true, false, false, 0, false, 0, none⟩),
   (f64 0x11 0 6 0x11A 0x11B 0x000 0x000 1 0 0 0 0 0, .spopc ⟨0, .i64, .s 26, .s 27, .v 0, .v 0, true, false, false, 0, false, 0, none⟩),
   (f64 0x12 0 7 0x11A 0x11B 0x000 0x000 1 0 0 0 0 0, .sclz ⟨0, .n64, .s 26, .s 27, .v 0, .v 0, true, false, false, 0, false, 0, none⟩)]
theorem test_decode_scalar : decodes wordsScalar = true := by decide

def wordsVectorInteger : List (List W32 × Instr) :=
  [(f64 0x20 1 0 0x001 0x002 0x003 0x000 1 1 0 3 0 2, .iadd ⟨1, .i32, .v 1, .v 2, .v 3, .v 0, true, true, false, 3, false, 2, none⟩),
   (f64 0x21 0 5 0x0FD 0x0FA 0x003 0x000 0 1 0 0 0 0, .isub ⟨0, .n8, .qo 1, .qi 2, .v 3, .v 0, false, true, false, 0, false, 0, none⟩),
   (f64 0x22 0 6 0x002 0x004 0x006 0x000 1 1 0 0 0 0, .imul ⟨0, .i64, .v 2, .v 4, .v 6, .v 0, true, true, false, 0, false, 0, none⟩),
   (f64 0x23 0 1 0x007 0x008 0x109 0x000 1 1 0 0 0 0, .imulh ⟨0, .n32, .v 7, .v 8, .s 9, .v 0, true, true, false, 0, false, 0, none⟩),
   (f64 0x24 0 2 0x007 0x008 0x009 0x00A 1 1 1 0 0 0, .imad ⟨0, .i16, .v 7, .v 8, .v 9, .v 10, true, true, true, 0, false, 0, none⟩),
   (f64 0x25 0 0 0x007 0x150 0x009 0x000 0 1 0 0 0 0, .imin ⟨0, .i32, .v 7, .lane, .v 9, .v 0, false, true, false, 0, false, 0, none⟩),
   (f64 0x26 0 0 0x007 0x152 0x009 0x000 0 1 0 0 0 0, .imax ⟨0, .i32, .v 7, .live, .v 9, .v 0, false, true, false, 0, false, 0, none⟩),
   (f64 0x27 0 4 0x00B 0x00C 0x000 0x000 1 0 0 0 0 0, .iabs ⟨0, .i8, .v 11, .v 12, .v 0, .v 0, true, false, false, 0, false, 0, none⟩),
   (f64 0x28 1 0 0x00B 0x00C 0x000 0x000 1 0 0 0 0 0, .ineg ⟨1, .i32, .v 11, .v 12, .v 0, .v 0, true, false, false, 0, false, 0, none⟩),
   (f64 0x29 0 1 0x00D 0x00E 0x00F 0x000 1 1 0 0 0 0, .andI ⟨0, .n32, .v 13, .v 14, .v 15, .v 0, true, true, false, 0, false, 0, none⟩),
   (f64 0x2A 0 1 0x00D 0x00E 0x00F 0x000 1 1 0 0 0 0, .orI ⟨0, .n32, .v 13, .v 14, .v 15, .v 0, true, true, false, 0, false, 0, none⟩),
   (f64 0x2B 0 1 0x00D 0x00E 0x00F 0x000 1 1 0 0 0 0, .xorI ⟨0, .n32, .v 13, .v 14, .v 15, .v 0, true, true, false, 0, false, 0, none⟩),
   (f64 0x2C 0 1 0x00D 0x00E 0x00F 0x000 1 1 0 0 0 0, .andn ⟨0, .n32, .v 13, .v 14, .v 15, .v 0, true, true, false, 0, false, 0, none⟩),
   (f64 0x2D 0 1 0x00D 0x00E 0x1DF 0x000 1 0 0 0 0 0, .shl ⟨0, .n32, .v 13, .v 14, .imm 31, .v 0, true, false, false, 0, false, 0, none⟩),
   (f64 0x2E 0 1 0x00D 0x00E 0x1DF 0x000 1 0 0 0 0 0, .shr ⟨0, .n32, .v 13, .v 14, .imm 31, .v 0, true, false, false, 0, false, 0, none⟩),
   (f64 0x2F 0 0 0x00D 0x00E 0x1DF 0x000 1 0 0 0 0 0, .sra ⟨0, .i32, .v 13, .v 14, .imm 31, .v 0, true, false, false, 0, false, 0, none⟩),
   (f64 0x30 0 3 0x00D 0x00E 0x1DF 0x000 1 0 0 0 0 0, .rol ⟨0, .n16, .v 13, .v 14, .imm 31, .v 0, true, false, false, 0, false, 0, none⟩),
   (f64 0x31 0 1 0x010 0x011 0x000 0x000 1 0 0 0 0 0, .popc ⟨0, .n32, .v 16, .v 17, .v 0, .v 0, true, false, false, 0, false, 0, none⟩),
   (f64 0x32 0 1 0x010 0x011 0x000 0x000 1 0 0 0 0 0, .clz ⟨0, .n32, .v 16, .v 17, .v 0, .v 0, true, false, false, 0, false, 0, none⟩),
   (f64 0x33 0 1 0x010 0x011 0x000 0x000 1 0 0 0 0 0, .brev ⟨0, .n32, .v 16, .v 17, .v 0, .v 0, true, false, false, 0, false, 0, none⟩),
   (f64 0x34 0 0 0x012 0x013 0x014 0x015 1 1 1 0 0 0, .bfe ⟨0, .i32, .v 18, .v 19, .v 20, .v 21, true, true, true, 0, false, 0, none⟩),
   (f64 0x35 0 1 0x012 0x013 0x014 0x015 1 1 1 0 0 0, .bfi ⟨0, .n32, .v 18, .v 19, .v 20, .v 21, true, true, true, 0, false, 0, none⟩),
   (f64 0x36 3 7 0x141 0x014 0x016 0x000 1 1 0 0 0 0, .icmp ⟨3, .n64, .k 1, .v 20, .v 22, .v 0, true, true, false, 0, false, 0, none⟩),
   (f64 0x37 0 8 0x017 0x018 0x019 0x144 1 1 0 0 0 0, .sel ⟨0, .f32, .v 23, .v 24, .v 25, .k 4, true, true, false, 0, false, 0, none⟩),
   (f64 0x38 0 8 0x0F7 0x151 0x000 0x000 0 0 0 0 0 0, .mov ⟨0, .f32, .v 247, .pcv, .v 0, .v 0, false, false, false, 0, false, 0, none⟩),
   (f64 0x39 2 0 0x145 0x101 0x000 0x000 1 0 0 0 0 0, .movk ⟨2, .i32, .k 5, .s 1, .v 0, .v 0, true, false, false, 0, false, 0, none⟩),
   (f64 0x3A 1 5 0x01A 0x01B 0x01C 0x01D 1 1 1 0 0 0, .idot4 ⟨1, .n8, .v 26, .v 27, .v 28, .v 29, true, true, true, 0, false, 0, none⟩)]
theorem test_decode_vectorInteger : decodes wordsVectorInteger = true := by decide

def wordsFloatingPoint : List (List W32 × Instr) :=
  [(f64 0x50 0 8 0x01E 0x01F 0x020 0x000 1 1 0 0 0 0, .fadd ⟨0, .f32, .v 30, .v 31, .v 32, .v 0, true, true, false, 0, false, 0, none⟩),
   (f64 0x51 0 8 0x01E 0x01F 0x020 0x000 1 1 0 0 0 0, .fsub ⟨0, .f32, .v 30, .v 31, .v 32, .v 0, true, true, false, 0, false, 0, none⟩),
   (f64 0x52 0 8 0x01E 0x01F 0x1C0 0x000 1 0 0 0 0 0, .fmul ⟨0, .f32, .v 30, .v 31, .imm 0, .v 0, true, false, false, 0, false, 0, none⟩),
   (l96 0x53 0 8 0x01E 0x01F 0x17F 0x021 1 0 1 0 0 0 0x3F800000, .ffma ⟨0, .f32, .v 30, .v 31, .lit, .v 33, true, false, true, 0, false, 0, some 0x3F800000⟩),
   (f64 0x54 0 8 0x01E 0x01F 0x020 0x000 1 1 0 0 0 0, .fmin ⟨0, .f32, .v 30, .v 31, .v 32, .v 0, true, true, false, 0, false, 0, none⟩),
   (f64 0x55 0 8 0x01E 0x01F 0x020 0x000 1 1 0 0 0 0, .fmax ⟨0, .f32, .v 30, .v 31, .v 32, .v 0, true, true, false, 0, false, 0, none⟩),
   (f64 0x56 0 8 0x022 0x023 0x000 0x000 1 0 0 0 0 0, .fabs ⟨0, .f32, .v 34, .v 35, .v 0, .v 0, true, false, false, 0, false, 0, none⟩),
   (f64 0x57 0 8 0x022 0x023 0x000 0x000 1 0 0 0 0 0, .fneg ⟨0, .f32, .v 34, .v 35, .v 0, .v 0, true, false, false, 0, false, 0, none⟩),
   (f64 0x58 7 8 0x146 0x024 0x025 0x000 1 1 0 0 0 0, .fcmp ⟨7, .f32, .k 6, .v 36, .v 37, .v 0, true, true, false, 0, false, 0, none⟩),
   (f64 0x59 0 8 0x026 0x027 0x000 0x000 1 0 0 0 0 0, .fclass ⟨0, .f32, .v 38, .v 39, .v 0, .v 0, true, false, false, 0, false, 0, none⟩),
   (f64 0x5A 4 8 0x026 0x027 0x000 0x000 1 0 0 0 0 0, .frnd ⟨4, .f32, .v 38, .v 39, .v 0, .v 0, true, false, false, 0, false, 0, none⟩),
   (f64 0x5B 0 8 0x026 0x027 0x1BD 0x000 1 0 0 0 0 0, .fscale ⟨0, .f32, .v 38, .v 39, .imm (-3), .v 0, true, false, false, 0, false, 0, none⟩),
   (f64 0x5C 0 10 0x028 0x029 0x02A 0x02B 1 1 1 0 0 0, .fdot2 ⟨0, .f16, .v 40, .v 41, .v 42, .v 43, true, true, true, 0, false, 0, none⟩)]
theorem test_decode_floatingPoint : decodes wordsFloatingPoint = true := by decide

def wordsSpecialFunction : List (List W32 × Instr) :=
  [(f64 0x70 0 8 0x02C 0x02D 0x000 0x000 1 0 0 0 0 0, .frcp ⟨0, .f32, .v 44, .v 45, .v 0, .v 0, true, false, false, 0, false, 0, none⟩),
   (f64 0x71 0 8 0x02C 0x02D 0x000 0x000 1 0 0 0 0 0, .frsq ⟨0, .f32, .v 44, .v 45, .v 0, .v 0, true, false, false, 0, false, 0, none⟩),
   (f64 0x72 0 8 0x02C 0x02D 0x000 0x000 1 0 0 0 0 0, .fsqrt ⟨0, .f32, .v 44, .v 45, .v 0, .v 0, true, false, false, 0, false, 0, none⟩),
   (f64 0x73 0 8 0x02C 0x02D 0x000 0x000 1 0 0 0 0 0, .fexp2 ⟨0, .f32, .v 44, .v 45, .v 0, .v 0, true, false, false, 0, false, 0, none⟩),
   (f64 0x74 0 8 0x02C 0x02D 0x000 0x000 1 0 0 0 0 0, .flog2 ⟨0, .f32, .v 44, .v 45, .v 0, .v 0, true, false, false, 0, false, 0, none⟩),
   (f64 0x75 0 8 0x02C 0x02D 0x000 0x000 1 0 0 0 0 0, .fsin ⟨0, .f32, .v 44, .v 45, .v 0, .v 0, true, false, false, 0, false, 0, none⟩),
   (f64 0x76 0 8 0x02C 0x02D 0x000 0x000 1 0 0 0 0 0, .fcos ⟨0, .f32, .v 44, .v 45, .v 0, .v 0, true, false, false, 0, false, 0, none⟩),
   (f64 0x77 0 8 0x02C 0x153 0x000 0x000 0 0 0 0 0 0, .ftanh ⟨0, .f32, .v 44, .act, .v 0, .v 0, false, false, false, 0, false, 0, none⟩),
   (f64 0x78 9 4 0x02E 0x02F 0x1C1 0x1C3 1 0 0 0 0 0, .cvt ⟨9, .i8, .v 46, .v 47, .imm 1, .imm 3, true, false, false, 0, false, 0, none⟩),
   (f64 0x79 1 15 0x030 0x034 0x035 0x000 1 1 0 0 0 0, .cbdec ⟨1, .cb2, .v 48, .v 52, .v 53, .v 0, true, true, false, 0, false, 0, none⟩),
   (f64 0x7A 0 13 0x036 0x038 0x039 0x03A 1 1 1 0 0 0, .obdec ⟨0, .ob8, .v 54, .v 56, .v 57, .v 58, true, true, true, 0, false, 0, none⟩)]
theorem test_decode_specialFunction : decodes wordsSpecialFunction = true := by decide

def wordsCrossLane : List (List W32 × Instr) :=
  [(f64 0x80 0 6 0x03C 0x03E 0x040 0x042 1 1 1 0 0 0, .perm ⟨0, .i64, .v 60, .v 62, .v 64, .v 66, true, true, true, 0, false, 0, none⟩),
   (f64 0x81 2 0 0x03C 0x03D 0x1C1 0x1C0 1 0 0 0 0 0, .shfl ⟨2, .i32, .v 60, .v 61, .imm 1, .imm 0, true, false, false, 0, false, 0, none⟩),
   (f64 0x82 0 8 0x102 0x03D 0x1C0 0x1C0 1 0 0 0 0 0, .bcast ⟨0, .f32, .s 2, .v 61, .imm 0, .imm 0, true, false, false, 0, false, 0, none⟩),
   (f64 0x83 3 0 0x103 0x141 0x000 0x000 0 0 0 0 0 0, .vote ⟨3, .i32, .s 3, .k 1, .v 0, .v 0, false, false, false, 0, false, 0, none⟩),
   (f64 0x84 1 7 0x142 0x040 0x000 0x000 1 0 0 0 0 0, .matchI ⟨1, .n64, .k 2, .v 64, .v 0, .v 0, true, false, false, 0, false, 0, none⟩),
   (f64 0x85 8 8 0x041 0x042 0x000 0x000 1 0 0 0 0 0, .scan ⟨8, .f32, .v 65, .v 66, .v 0, .v 0, true, false, false, 0, false, 0, none⟩),
   (f64 0x86 5 1 0x104 0x042 0x000 0x000 1 0 0 0 0 0, .lred ⟨5, .n32, .s 4, .v 66, .v 0, .v 0, true, false, false, 0, false, 0, none⟩),
   (f64 0x87 1 0 0x105 0x000 0x000 0x000 0 0 0 0 0 0, .elect ⟨1, .i32, .s 5, .v 0, .v 0, .v 0, false, false, false, 0, false, 0, none⟩)]
theorem test_decode_crossLane : decodes wordsCrossLane = true := by decide

def wordsStatisticsAndMemory : List (List W32 × Instr) :=
  [(f64 0x90 0 0 0x149 0x000 0x000 0x000 0 0 0 0 0 0, .mclr ⟨0, .i32, .m 1, .v 0, .v 0, .v 0, false, false, false, 0, false, 0, none⟩),
   (f64 0x91 0 8 0x14A 0x043 0x000 0x000 1 0 0 0 0 0, .macc ⟨0, .f32, .m 2, .v 67, .v 0, .v 0, true, false, false, 0, false, 0, none⟩),
   (f64 0x92 0 8 0x14A 0x043 0x044 0x000 1 1 0 0 0 0, .maccw ⟨0, .f32, .m 2, .v 67, .v 68, .v 0, true, true, false, 0, false, 0, none⟩),
   (f64 0x93 0 0 0x14B 0x14C 0x14D 0x000 0 0 0 0 0 0, .mmerge ⟨0, .i32, .m 3, .m 4, .m 5, .v 0, false, false, false, 0, false, 0, none⟩),
   (f64 0x94 0 0 0x14E 0x14F 0x000 0x000 0 0 0 0 0 0, .mlane ⟨0, .i32, .m 6, .m 7, .v 0, .v 0, false, false, false, 0, false, 0, none⟩),
   (f64 0x95 4 8 0x045 0x148 0x1FF 0x000 0 0 0 0 0 0, .mget ⟨4, .f32, .v 69, .m 0, .imm 63, .v 0, false, false, false, 0, false, 0, none⟩),
   (f64 0x96 0 8 0x149 0x046 0x047 0x048 1 1 1 0 0 0, .mput ⟨0, .f32, .m 1, .v 70, .v 71, .v 72, true, true, true, 0, false, 0, none⟩),
   (f64 0x97 0 8 0x049 0x04A 0x14A 0x000 1 0 0 0 0 0, .mnorm ⟨0, .f32, .v 73, .v 74, .m 2, .v 0, true, false, false, 0, false, 0, none⟩),
   (f64 0x98 8 8 0x04C 0x11C 0x050 0x1B0 1 1 0 0 0 0, .ld ⟨8, .f32, .v 76, .s 28, .v 80, .imm (-16), true, true, false, 0, false, 0, none⟩),
   (f64 0x99 1 9 0x051 0x11C 0x050 0x1D0 1 1 0 0 0 0, .st ⟨1, .bf16, .v 81, .s 28, .v 80, .imm 16, true, true, false, 0, false, 0, none⟩),
   (f64 0x9A 12 7 0x11E 0x11C 0x1C0 0x1C8 1 0 0 0 0 0, .ldacq ⟨12, .n64, .s 30, .s 28, .imm 0, .imm 8, true, false, false, 0, false, 0, none⟩),
   (f64 0x9B 3 4 0x052 0x11C 0x050 0x1C1 1 1 0 0 0 0, .strel ⟨3, .i8, .v 82, .s 28, .v 80, .imm 1, true, true, false, 0, false, 0, none⟩),
   (f64 0x9C 11 7 0x054 0x11C 0x050 0x056 1 1 1 0 0 0, .atom ⟨11, .n64, .v 84, .s 28, .v 80, .v 86, true, true, true, 0, false, 0, none⟩),
   (f64 0x9D 6 0 0x000 0x11C 0x050 0x149 1 1 0 0 0 0, .red ⟨6, .i32, .v 0, .s 28, .v 80, .m 1, true, true, false, 0, false, 0, none⟩),
   (f64 0x9E 14 0 0x000 0x000 0x000 0x000 0 0 0 0 0 0, .fence ⟨14, .i32, .v 0, .v 0, .v 0, .v 0, false, false, false, 0, false, 0, none⟩),
   (f64 0x9F 1 0 0x000 0x11C 0x050 0x1C4 1 1 0 0 0 0, .pref ⟨1, .i32, .v 0, .s 28, .v 80, .imm 4, true, true, false, 0, false, 0, none⟩),
   (f64 0xA0 2 0 0x147 0x11C 0x050 0x1C4 1 1 0 0 0 0, .probe ⟨2, .i32, .k 7, .s 28, .v 80, .imm 4, true, true, false, 0, false, 0, none⟩),
   (f64 0xA1 7 3 0x11D 0x11E 0x11F 0x1BF 1 1 0 0 0 0, .ldstrm ⟨7, .n16, .s 29, .s 30, .s 31, .imm (-1), true, true, false, 0, false, 0, none⟩),
   (f64 0xA2 1 8 0x1C0 0x11E 0x11F 0x1C2 1 1 0 0 0 0, .ststrm ⟨1, .f32, .imm 0, .s 30, .s 31, .imm 2, true, true, false, 0, false, 0, none⟩)]
theorem test_decode_statisticsAndMemory : decodes wordsStatisticsAndMemory = true := by decide

def wordsControl : List (List W32 × Instr) :=
  [(l96 0xC0 0 0 0x000 0x17F 0x000 0x000 0 0 0 0 0 0 0xFFFFFFFE, .bra ⟨0, .i32, .v 0, .lit, .v 0, .v 0, false, false, false, 0, false, 0, some 0xFFFFFFFE⟩),
   (f64 0xC1 0 0 0x000 0x058 0x000 0x000 1 0 0 0 0 0, .jmpi ⟨0, .i32, .v 0, .v 88, .v 0, .v 0, true, false, false, 0, false, 0, none⟩),
   (f64 0xC2 1 0 0x120 0x121 0x1C0 0x1D0 1 0 0 0 0 0, .call ⟨1, .i32, .s 32, .s 33, .imm 0, .imm 16, true, false, false, 0, false, 0, none⟩),
   (f64 0xC3 0 0 0x000 0x121 0x1C0 0x1D0 1 0 0 0 0 0, .ret ⟨0, .i32, .v 0, .s 33, .imm 0, .imm 16, true, false, false, 0, false, 0, none⟩),
   (f64 0xC4 0 0 0x000 0x000 0x000 0x000 0 0 0 0 0 3, .exit ⟨0, .i32, .v 0, .v 0, .v 0, .v 0, false, false, false, 0, false, 3, none⟩),
   (f64 0xC5 0 0 0x000 0x000 0x000 0x000 0 0 0 5 1 0, .nop ⟨0, .i32, .v 0, .v 0, .v 0, .v 0, false, false, false, 5, true, 0, none⟩),
   (f64 0xC6 1 0 0x000 0x059 0x000 0x000 1 0 0 0 0 0, .pause ⟨1, .i32, .v 0, .v 89, .v 0, .v 0, true, false, false, 0, false, 0, none⟩),
   (f64 0xC7 0 0 0x000 0x1CF 0x1C0 0x000 0 0 0 0 0 0, .bar ⟨0, .i32, .v 0, .imm 15, .imm 0, .v 0, false, false, false, 0, false, 0, none⟩),
   (f64 0xC8 0 0 0x000 0x1C7 0x122 0x000 0 1 0 0 0 0, .barc ⟨0, .i32, .v 0, .imm 7, .s 34, .v 0, false, true, false, 0, false, 0, none⟩),
   (f64 0xC9 13 0 0x000 0x123 0x124 0x125 1 1 1 0 0 0, .waitge ⟨13, .i32, .v 0, .s 35, .s 36, .s 37, true, true, true, 0, false, 0, none⟩),
   (l96 0xCA 4 6 0x05A 0x17F 0x05C 0x000 0 1 0 0 0 0 0x0000FFFF, .trap ⟨4, .i64, .v 90, .lit, .v 92, .v 0, false, true, false, 0, false, 0, some 0xFFFF⟩),
   (f64 0xCB 1 0 0x000 0x1CC 0x000 0x000 0 0 0 0 0 0, .tryOpen ⟨1, .i32, .v 0, .imm 12, .v 0, .v 0, false, false, false, 0, false, 0, none⟩),
   (f64 0xCC 1 0 0x000 0x000 0x000 0x000 0 0 0 0 0 0, .tryClose ⟨1, .i32, .v 0, .v 0, .v 0, .v 0, false, false, false, 0, false, 0, none⟩),
   (l96 0xCD 0 6 0x000 0x17F 0x060 0x000 0 1 0 0 0 0 0x00000100, .throwI ⟨0, .i64, .v 0, .lit, .v 96, .v 0, false, true, false, 0, false, 0, some 0x100⟩),
   (f64 0xCE 0 0 0x000 0x000 0x000 0x000 0 0 0 0 0 0, .rethrow ⟨0, .i32, .v 0, .v 0, .v 0, .v 0, false, false, false, 0, false, 0, none⟩),
   (l96 0xCF 4 0 0x142 0x17F 0x064 0x126 0 1 1 0 0 0 0x00000040, .spawn ⟨4, .i32, .k 2, .lit, .v 100, .s 38, false, true, true, 0, false, 0, some 0x40⟩),
   (f64 0xD0 3 0 0x000 0x1C2 0x000 0x000 0 0 0 0 0 0, .setmode ⟨3, .i32, .v 0, .imm 2, .v 0, .v 0, false, false, false, 0, false, 0, none⟩),
   (f64 0xD1 0 0 0x068 0x000 0x000 0x000 0 0 0 0 0 0, .getmode ⟨0, .i32, .v 104, .v 0, .v 0, .v 0, false, false, false, 0, false, 0, none⟩),
   (l96 0xD2 0 0 0x000 0x17F 0x000 0x000 0 0 0 0 0 0 0x0000ABCD, .bkpt ⟨0, .i32, .v 0, .lit, .v 0, .v 0, false, false, false, 0, false, 0, some 0xABCD⟩)]
theorem test_decode_control : decodes wordsControl = true := by decide

def wordsEngine : List (List W32 × Instr) :=
  [(f64 0xE0 9 0 0x1C0 0x127 0x128 0x129 1 1 1 0 0 0, .cpy ⟨9, .i32, .imm 0, .s 39, .s 40, .s 41, true, true, true, 0, false, 0, none⟩),
   (f64 0xE1 0 0 0x12A 0x12B 0x000 0x000 1 0 0 0 0 0, .cpyt ⟨0, .i32, .s 42, .s 43, .v 0, .v 0, true, false, false, 0, false, 0, none⟩),
   (f64 0xE2 1 0 0x000 0x1D1 0x000 0x000 0 0 0 0 0 0, .cpycan ⟨1, .i32, .v 0, .imm 17, .v 0, .v 0, false, false, false, 0, false, 0, none⟩),
   (f64 0xE3 2 0 0x000 0x12C 0x1C1 0x000 1 0 0 0 0 0, .ctradd ⟨2, .i32, .v 0, .s 44, .imm 1, .v 0, true, false, false, 0, false, 0, none⟩),
   (f64 0xE4 3 0 0x069 0x000 0x000 0x000 0 0 0 0 0 0, .qpush ⟨3, .i32, .v 105, .v 0, .v 0, .v 0, false, false, false, 0, false, 0, none⟩),
   (f64 0xE5 6 0 0x069 0x000 0x000 0x141 0 0 0 0 0 0, .qpop ⟨6, .i32, .v 105, .v 0, .v 0, .k 1, false, false, false, 0, false, 0, none⟩),
   (f64 0xE6 1 0 0x069 0x000 0x071 0x142 0 1 0 0 0 0, .qsteal ⟨1, .i32, .v 105, .v 0, .v 113, .k 2, false, true, false, 0, false, 0, none⟩),
   (f64 0xE7 0 0 0x000 0x12D 0x000 0x000 1 0 0 0 0 0, .tsubmit ⟨0, .i32, .v 0, .s 45, .v 0, .v 0, true, false, false, 0, false, 0, none⟩),
   (f64 0xE8 13 0 0x000 0x1C0 0x1C1 0x12E 0 0 1 0 0 0, .rget ⟨13, .i32, .v 0, .imm 0, .imm 1, .s 46, false, false, true, 0, false, 0, none⟩),
   (f64 0xE9 0 0 0x000 0x1C0 0x1C1 0x12F 0 0 1 0 0 0, .rput ⟨0, .i32, .v 0, .imm 0, .imm 1, .s 47, false, false, true, 0, false, 0, none⟩),
   (f64 0xEA 0 0 0x000 0x1C7 0x1CF 0x000 0 0 0 0 0 0, .rfree ⟨0, .i32, .v 0, .imm 7, .imm 15, .v 0, false, false, false, 0, false, 0, none⟩)]
theorem test_decode_engine : decodes wordsEngine = true := by decide

def wordsMatrix : List (List W32 × Instr) :=
  [(f64 0xF0 0 0 0x000 0x1C1 0x130 0x000 0 1 0 0 0 0, .rsv ⟨0, .i32, .v 0, .imm 1, .s 48, .v 0, false, true, false, 0, false, 0, none⟩),
   (f64 0xF1 0 0 0x000 0x1CF 0x000 0x000 0 0 0 0 0 0, .rls ⟨0, .i32, .v 0, .imm 15, .v 0, .v 0, false, false, false, 0, false, 0, none⟩),
   (f64 0xF2 0 0 0x131 0x000 0x000 0x000 0 0 0 0 0 0, .mzero ⟨0, .i32, .s 49, .v 0, .v 0, .v 0, false, false, false, 0, false, 0, none⟩),
   (f64 0xF3 0 0 0x131 0x132 0x133 0x134 1 1 1 0 0 0, .mma ⟨0, .i32, .s 49, .s 50, .s 51, .s 52, true, true, true, 0, false, 0, none⟩),
   (f64 0xF4 0 0 0x131 0x132 0x133 0x134 1 1 1 0 0 0, .mmap ⟨0, .i32, .s 49, .s 50, .s 51, .s 52, true, true, true, 0, false, 0, none⟩),
   (f64 0xF5 0 0 0x131 0x132 0x133 0x134 1 1 1 0 0 0, .mmas ⟨0, .i32, .s 49, .s 50, .s 51, .s 52, true, true, true, 0, false, 0, none⟩),
   (f64 0xF6 10 10 0x135 0x136 0x137 0x138 1 1 1 0 0 0, .mdrain ⟨10, .f16, .s 53, .s 54, .s 55, .s 56, true, true, true, 0, false, 0, none⟩),
   (f64 0xF7 1 0 0x000 0x000 0x000 0x000 0 0 0 0 0 0, .mfence ⟨1, .i32, .v 0, .v 0, .v 0, .v 0, false, false, false, 0, false, 0, none⟩)]
theorem test_decode_matrix : decodes wordsMatrix = true := by decide

def wordsShort : List (List W32 × Instr) :=
  [(s32 0 200 17 0, .movS32 200 17),
   (s32 1 1 2 3, .iaddS32 1 2 3),
   (s32 2 1 248 3, .isubS32 1 248 3),
   (s32 3 252 2 3, .andS32 252 2 3),
   (s32 4 1 2 3, .orS32 1 2 3),
   (s32 5 1 2 247, .xorS32 1 2 247),
   (s32 6 4 5 31, .shlS32 4 5 31),
   (s32 7 4 5 1, .shrS32 4 5 1),
   (s32 8 6 7 8, .faddS32 6 7 8),
   (s32 9 6 7 8, .fmulS32 6 7 8),
   (s32 10 9 10 128, .iaddImmS32 9 10 0x80),
   (s32 11 9 0 255, .movImmS32 9 0xFF),
   (s32 12 0 0 0, .nopS32),
   (s32 13 0 0 0, .exitS32),
   (s32 14 254 255 255, .braS32 0xFFFFFE),
   (s32 15 0 0 255, .pauseS32 255)]
theorem test_decode_short : decodes wordsShort = true := by decide

def wordsPair : List (List W32 × Instr) :=
  [(p64 0 4 20 0 0 0 0 5 105 41 0 3, .movPair ⟨⟨4, 20, false, 0⟩, 0, false, .andP, ⟨105, 41, false, 3⟩⟩),
   (p64 1 5 241 1 1 1 1 6 106 42 0 4, .iaddPair ⟨⟨5, 241, true, 1⟩, 1, true, .orP, ⟨106, 42, false, 4⟩⟩),
   (p64 2 6 22 0 2 2 0 7 107 125 1 5, .isubPair ⟨⟨6, 22, false, 2⟩, 2, false, .xorP, ⟨107, 125, true, 5⟩⟩),
   (p64 3 7 23 0 3 3 1 8 108 44 0 6, .iminPair ⟨⟨7, 23, false, 3⟩, 3, true, .fadd, ⟨108, 44, false, 6⟩⟩),
   (p64 4 8 244 1 4 4 0 9 109 45 0 7, .imaxPair ⟨⟨8, 244, true, 4⟩, 4, false, .fmul, ⟨109, 45, false, 7⟩⟩),
   (p64 5 9 25 0 5 5 1 10 110 122 1 0, .andPair ⟨⟨9, 25, false, 5⟩, 5, true, .fmin, ⟨110, 122, true, 0⟩⟩),
   (p64 6 10 26 0 6 6 0 11 111 47 0 1, .orPair ⟨⟨10, 26, false, 6⟩, 6, false, .fmax, ⟨111, 47, false, 1⟩⟩),
   (p64 7 11 247 1 7 7 1 0 112 48 0 2, .xorPair ⟨⟨11, 247, true, 7⟩, 7, true, .mov, ⟨112, 48, false, 2⟩⟩),
   (p64 8 12 28 0 0 0 0 1 113 119 1 3, .faddPair ⟨⟨12, 28, false, 0⟩, 0, false, .iadd, ⟨113, 119, true, 3⟩⟩),
   (p64 9 13 29 0 1 1 1 2 114 50 0 4, .fmulPair ⟨⟨13, 29, false, 1⟩, 1, true, .isub, ⟨114, 50, false, 4⟩⟩),
   (p64 10 14 250 1 2 2 0 3 115 51 0 5, .fminPair ⟨⟨14, 250, true, 2⟩, 2, false, .imin, ⟨115, 51, false, 5⟩⟩),
   (p64 11 15 31 0 3 3 1 4 116 116 1 6, .fmaxPair ⟨⟨15, 31, false, 3⟩, 3, true, .imax, ⟨116, 116, true, 6⟩⟩)]
theorem test_decode_pair : decodes wordsPair = true := by decide
/-! What further clauses of the statements ask of the machine. -/

/-- A word of lane 0 as it goes to its effect. -/
def word0 (a : MemAct) (sp : Nat := 0) (size : Nat := 4) (dst : MDst := .none) : MemWord :=
  { act := a, byw := { lanes := 1 }, exec := 1, space := sp, dst := dst, accs := [{ lane := 0, addr := 64, size := size, data := 5 }], saved := [], savedS := [], walking := false, t0 := 0, id0 := 9 }
/-- An entry of it, after the loads and stores that stand there. -/
def entry0 (sp : Nat) : PathEntry := { arrival .st none with id := 9, byw := { lanes := 1 }, space := sp }
/-- A load of the lane that reads the entry's bytes. -/
def before0 (sp : Nat) : LoadReq := { load0 with space := sp, pas := if sp = 0 then [1048576 + 256] else [] }
theorem wit_accessesActOnTheirPath :
    (∀ w ∈ [word0 (.st (some 2)), word0 (.red 0 .i32), word0 (.atom 6 .n32), word0 .stat 1 16, word0 (.ctradd 2 0) 0 8], w.act.inPath = true) ∧
    ((word0 (.ld none) 0 4 (.v 1 .i32 false)).dst.isPc = false) ∧
    [0, Config.framesPerDie * 4096].all (fun pa => decide (homeDie pa ≠ Config.coordDie team0.coord) == decide (pa ≠ 0)) = true ∧
    (∀ n ∈ [4, 16], ∀ x ∈ (word0 (.st none) 0 n).accs, x.size = n) ∧
    (∀ sp ∈ [0, 1], let s := { st with loads := [before0 sp] }
      (entry0 sp).overtakes (before0 sp) = true ∧ (s.loads.filter fun r => (entry0 sp).overtakes r && r.ctm.isNone) = [before0 sp] ∧ (s.team? 0).isSome = true ∧
        s.loadWaits (before0 sp) = false) ∧
    (entry0 0).overtakes { before0 0 with id := 10 } = false ∧
    (let s := { st with path := [arrival .st none] }
     (∀ y ∈ s.path, y.id < (entry0 0).id) ∧ (∀ y ∈ s.path ++ s.heldEntries 0, y.id < (entry0 0).id) ∧ (entry0 0).coord = team0.coord ∧ s.loads = []) ∧
    ((st.core 0).l1.find? fun y => y.1 == (entry0 0).pa / 128) = none ∧
    ((({ st with cores := [{ coord := 0, l1 := [((entry0 0).pa / 128, [], [])] }] } : State).core 0).l1.find? fun y => y.1 == (entry0 0).pa / 128) =
      some ((entry0 0).pa / 128, [], []) ∧
    st.mayPerform (entry0 1) = true ∧ st.teamPoison 0 1 64 4 = false ∧ ({ st with path := [{ arrival .st none with space := 1, byw := { lanes := 1 } }] } : State).mayPerform (entry0 1) = false ∧
    (mach id fun t => { t with tm := { t.tm with mem := { t.tm.mem with poison := [1] } } }).teamPoison 0 1 64 4 = true := by decide
/-- A store of another lane that covers the load's bytes. -/
def above0 (lane : Nat) (sp : Nat) (id : Nat) : PathEntry := { entry0 sp with id := id, lane := lane, data := 0x04030201 }
def loading (sp : Nat) (h : State → State := id) (t : Team → Team := id) : State := mach id t fun s => h { s with loads := [before0 sp] }
/-- Its value, or its code. -/
def brings (s : State) (sp : Nat) : List (Nat × Nat × Nat) := match s.team? 0 with
  | some t => s.loadValues t (before0 sp)
  | none => []
theorem wit_loadsBringTheirBytes :
    (before0 0).got = none ∧ (before0 0).accs[0]? = some { lane := 0, addr := 64, size := 4 } ∧ (before0 0).pas[0]? = some (1048576 + 256) ∧
    -- the youngest store in the path, the L1, the home slice
    brings (loading 0 fun s => { s with path := [above0 1 0 3, { above0 1 0 5 with data := 7 }] }) 0 = [(0, 0, 7)] ∧
    brings (loading 0 fun s => { s with cores := [{ coord := 0, l1 := [((1048576 + 256) / 128, List.replicate 128 9, [])] }] }) 0 = [(0, 0, 0x09090909)] ∧
    brings (loading 0 fun s => { s with dram := s.dram.writeBytes (1048576 + 256) [1, 2] }) 0 = [(0, 0, 0x0201)] ∧
    -- the lane's own later store does not count
    brings (loading 0 fun s => { s with path := [above0 0 0 9] }) 0 = [(0, 0, 0)] ∧
    brings (loading 0 fun s => { s with dram := { s.dram with poison := [(1048576 + 256) / 64] } }) 0 = [(0, 0x0D, 64)] ∧
    brings (loading 0 fun s => { s with cores := [{ coord := 0, l1 := [((1048576 + 256) / 128, List.replicate 128 9, [(1048576 + 256) / 64])] }] }) 0 = [(0, 0x0D, 64)] ∧
    -- a team space: the lane's own earlier store, else the memory
    brings (loading 1 fun s => { s with path := [above0 0 1 3, above0 1 1 4] }) 1 = [(0, 0, 0x04030201)] ∧
    brings (loading 1 id fun t => { t with tm := { t.tm with mem := t.tm.mem.writeBytes 64 [1, 2] } }) 1 = [(0, 0, 0x0201)] ∧
    brings (loading 1 id fun t => { t with tm := { t.tm with mem := { t.tm.mem with poison := [1] } } }) 1 = [(0, 0x0D, 64)] ∧
    (team0.tmBytes 64 4).length = 4 := by decide
def poisoned (sp : Nat) (k : PKind) (b : Bool) : Bool :=
  let e := { arrival k none with space := sp, size := 16 }
  (({ st with path := [e], dram := { st.dram with poison := if b then [(1048576 + 256) / 64] else [] } } : State).ownerRead e).2
theorem wit_ownersComputeTheNewValue :
    (∀ n ∈ [1, 2, 4, 8], 2 ^ (8 * n) - 1 < 2 ^ (8 * n)) ∧ [Ty.i32, .f32].map (fun t => decide (t = .f32)) = [false, true] ∧
    [0, 1].all (fun sp => [PKind.red, .stat].all fun k => !poisoned sp k false) = true ∧ poisoned 0 .red true = true ∧ (st.team? (arrival .red none).byw.g.team).isSome = true := by decide
/-- The page's level-0 entry is one the walk refuses, or no page is there. -/
def brokenTable : State := { st with dram := st.dram.writeN (entryAt (placedRoot + 513) 1 (2 ^ 40)) 8 (BitVec.allOnes 64).toNat }
def walkKind : Tr → Nat
  | .ok _ => 0
  | .bad => 1
  | .missing => 2
def faulting (u : FUser) (h : State → State := id) (g : Group → Group := id) : State :=
  mach g id fun s => h { s with faults := [{ fault0 (2 ^ 40) 9 with user := u }] }
def onFault (n : Nat) : Group → Group := fun y => { y with phase := .parked, wake := some (.fault n), held := some (word0 (.st none)) }
def pend0 : PendAdd := { id := 4, ctx := 1, va := 2 ^ 40, amount := 1, join := false, byw := [{}], launch := 0, task := false, fault := 3 }
theorem wit_faultsAreServedOrEnded :
    [(st, 2 ^ 40, 0), (brokenTable, 2 ^ 40, 1), (st, 2 ^ 41, 2)].all (fun x => (x.1.team? 0).any fun t => walkKind (x.1.walkTeam t x.2.1 true) == x.2.2) = true ∧
    (st.ctx? 1).isSome = true ∧
    (∀ n ∈ [3, 8], let s := faulting (.group ⟨0, 0⟩) id (onFault n)
      (s.team? 0).isSome = true ∧ ∃ gr ∈ (s.group? ⟨0, 0⟩).toList, gr.wake = some (.fault n) ∧ gr.held = some (word0 (.st none)) ∧ gr.phase ≠ .evicted) ∧
    (∀ x ∈ [(some 3, [0]), (some 3, []), (none, [0]), (some 8, [])], let s := faulting (.op 9) fun s => { s with ops := [{ op0 .cpy with fault := x.1, todo := x.2 }] }
      ∃ o ∈ (s.op? 9).toList, o.fault = x.1 ∧ o.todo = x.2) ∧
    (let s := faulting (.add 4) fun s => { s with adds := [pend0] }
     (s.adds.filter fun a => a.fault = 3) = [pend0] ∧ ¬ (s.adds.filter fun a => a.fault = 3).any (fun a => a.task) = true) ∧
    (∀ b ∈ [TPlace.resident, .away], let d := { desc0 false 0 with fault := some 3 }
      let s : State := { mach id (fun t => { t with place := b }) fun s => { s with faults := [{ fault0 64 9 with user := .stream 0 0 false }] } with
                         cores := [{ coord := 0, qi := [{ descs := [d] }, {}, {}, {}] }] }
      s.faultedDesc 3 = some d ∧ ∃ t ∈ (s.team? 0).toList, t.place = b) := by decide
/-- A copy of team 0 to team 1 of its cluster, whose core holds n locks. -/
def toTeam1 : Slice := { slice0 64 with len := 64 + 2 ^ 33, cleared := [1] }
def spread (n : Nat) : State := duo id fun s =>
  { s with ops := [{ op0 .cpy with gathering := true, slices := [toTeam1] }],
           locks := (List.range n).map fun j => { op := j, coord := 1, space := 1, dest := true, gran := false, ctx := 1, team := 2, len := 64, base := 0 } }
def farLocks (s : State) : List Lock := (s.op? 9).toList.flatMap fun o => (s.remoteDsts o).flatMap fun x => mkLock o.id x.1.coord 1 true x.1.ctx x.1.id x.2.dst x.2.bytes
theorem wit_copiesStartOrAreRefused :
    (∀ n ∈ [0, 64], farLocks (spread n) ≠ [] ∧ (∀ k ∈ farLocks (spread n), k.coord = 1) ∧
      ((((spread n).locks.filter fun k => k.coord = 1 ∧ k.saved = false).length + ((farLocks (spread n)).filter fun k => k.coord = 1).length ≤ 64) ↔ n = 0)) ∧
    (∀ len ∈ [64, 0], ∃ o ∈ ((copying len).op? 9).toList, (copying len).op? o.id = some o ∧ o.kind = .cpy ∧ (o.chunks = [] ↔ len = 0)) ∧
    toTeam1.cleared ≠ [] ∧ (slice0 64).cleared = [] ∧
    (∀ o ∈ chunking.ops, chunking.engBad o (chunking.chunkReads o 0) false = none ∧ chunking.engBad o (chunking.ownWrites o 0) true = none) ∧
    (∀ o ∈ unreadable.ops, unreadable.engBad o (unreadable.chunkReads o 0) false = some (0, 2 ^ 41) ∧ o.fault = none) ∧
    (let s := { chunking with dram := brokenTable.dram }
     ∀ o ∈ s.ops, s.engBad o (s.chunkReads o 0) false = some (7, 2 ^ 40)) ∧
    (let o := { op0 .cpy with started := true, slices := [{ slice0 64 with sub := 4, src := 64, dst := 2 ^ 41 }] }
     (opIn o).engBad o ((opIn o).chunkReads o 0) false = none ∧ (opIn o).engBad o ((opIn o).ownWrites o 0) true = some (0, 2 ^ 41)) := by decide
/-- The call whose chunk 0 has reached the rank, its update held by an earlier store of its group or not. -/
def placedChunk (held : Bool) (l : List Nat) : State :=
  let s := opIn { running (.cpyt (sumShape 1) 0) with placed := l } shapes
  { s with path := if held then [arrival .st none] else [] }
theorem wit_placedChunksAreCounted :
    (∀ x ∈ [(false, true), (true, false)], let s := placedChunk x.1 [0]
      ∃ o ∈ (s.op? 9).toList, (result0 5).chunk ∈ o.placed ∧ s.updateReady o = x.2) ∧
    (∀ b ∈ [false, true], let s := placedChunk b []
      let x := result0 (2 ^ 40 + 3000)
      x.tileCtr ≠ 0 ∧ s.heldChunk x = false ∧ s.deadCall x = false ∧ s.chunkBad x = none ∧
      ∃ o ∈ (s.op? 9).toList, x.chunk ∉ o.placed ∧ ∃ t ∈ (s.team? o.team).toList,
        let w := s.engWrite o o.team (x.writes.map fun y => (x.space, y.1, 1)) (x.writes.map fun y => y.2)
        let later := (o.notLanded.filter fun d => d != x.chunk).filter fun d => (w.chunkTeams o d).any fun z => z.id == t.id
        let v := w.linesCome t ((w.chunkLines o x.chunk).filter fun l => !(later.flatMap fun d => w.chunkLines o d).contains l)
        v.op? x.op = some o ∧ v.updateReady o = !b) ∧
    (let x := part0 0
     x.port ≠ 4 ∧ ((reducing 1).callOp { x with cgrp := 1 }.cgrp 0).isSome = true ∧ x.mismatch = false) := by decide
theorem wit_answersComeLast :
    (∀ i ∈ [(.reply hdr 0 0 0 : Instr), .serviceTimeout 1 0], isAnswer i = true) ∧ (∀ i ∈ [Instr.replan, .emberVisit 0, .waitgeTimeout ⟨0, 0⟩], isAnswer i = false) ∧
    (let s := noCur { st with agenda := [(0, .serviceTimeout 1 0), (0, .emberVisit 0)] }
     dueEntry s.clock (s.agenda.filter fun y => !isAnswer y.2) = some (0, .emberVisit 0)) ∧
    (let s := noCur { st with agenda := [(0, .serviceTimeout 1 0)] }
     (∀ x ∈ s.agenda, isAnswer x.2 = false → s.clock < x.1) ∧ s.todo = [] ∧ s.deadlineDue = none ∧ dueEntry s.clock s.agenda = some (0, .serviceTimeout 1 0)) ∧
    (let s := noCur { st with inbox := [(.reply hdr 0 0 0 : Instr), .replan] }
     s.inbox = [(.reply hdr 0 0 0 : Instr)] ++ .replan :: [] ∧ (∀ y ∈ [(.reply hdr 0 0 0 : Instr)], isAnswer y = true)) ∧
    (let s := noCur { waiting 0 true with inbox := [(.reply hdr 0 0 0 : Instr)] }
     (∀ i ∈ s.inbox, isAnswer i = true) ∧ s.deadlineDue = some ⟨0, 0⟩) ∧
    (let s := noCur { st with inbox := [(.reply hdr 0 0 0 : Instr)], agenda := [] }
     s.deadlineDue = none ∧ s.inbox = (.reply hdr 0 0 0 : Instr) :: []) ∧
    (let s := noCur { parked false with agenda := [] }
     s.deadlineDue = none ∧ s.inbox = [] ∧ s.evictDue = some ⟨0, 0⟩) := by decide
/-- The state in which power returns. -/
def down : State := { State.reset with power := false }
theorem wit_heatPutsOutAndPowerReturns :
    (∀ temp ∈ [111, 120], (110 : Int) < temp ∧ temp ≤ (120 : Int)) ∧ spGet 0 sess.issueRow 3 ≠ 2 ∧ spGet 0 sess.issueRow 3 ≠ 3 ∧ spGet 0 sess.refreshRow (8 * 3 + 7) ≠ 3 ∧
    down.power = false ∧ (∀ n ∈ [5, 6], n = 5 ∨ n = 6) ∧ ((parked false).resident 0) ≠ [] ∧
    (∀ x ∈ [(UnitId.quadrant 0 (quadrantOf 0), true), (.slice 0, false)],
      let s : State := { State.reset with flash := { State.reset.flash with alm := [(x.1, { state := 2 })] } }
      decide ((s.alm (.quadrant (Config.coordDie 0) (quadrantOf 0))).state = 2) = x.2 ∧ s.fewWays 0 = false) ∧
    (State.reset.setIssueRow 2 1).power = true := by decide
def spawnedGroup (h : State → State := id) : State := mach (fun y => { y with spawned := true, join := 2 ^ 40 + 512 }) id h
theorem wit_exitOfASpawnedGroup :
    acting (spawnedGroup) .exit (fw 0 .i32 (.v 0) (.v 0) (.v 0) (.v 0) 0) (fun c i core =>
      i.gr.spawned && !((spawnedGroup).entered c i core).noSlots i.t.coord [(0, i.gr.join)]) = true := by decide
theorem eraseDups_of_nodup {α : Type} [BEq α] [LawfulBEq α] : ∀ l : List α, l.Nodup → l.eraseDups = l
  | [], _ => rfl
  | a :: l, h => by
    rw [List.eraseDups_cons]
    have h1 := List.nodup_cons.mp h
    have : l.filter (fun b => !b == a) = l := List.filter_eq_self.mpr fun b hb => by
      simp only [Bool.not_eq_true', beq_eq_false_iff_ne, ne_eq]
      rintro rfl
      exact h1.1 hb
    rw [this, eraseDups_of_nodup l h1.2]
/-- n request slots of core 0 are taken. -/
def taken (n : Nat) (s : State) : State :=
  { s with loads := [{ load0 with space := 0, accs := (List.range n).map fun k => { lane := 0, addr := 128 * k, size := 4 } }] }
theorem taken_slots (n : Nat) (s : State) (hp : s.path = []) (ha : s.atoms = []) (hk : (s.resident 0).flatMap Team.keeps = []) : (taken n s).slotsUsed 0 = n := by
  have hr : (taken n s).requests 0 = (List.range n).map fun k => reqKey load0.byw 0 0 (128 * k) := by
    have e : (taken n s).requests 0 = ((List.range n).map (fun k => reqKey load0.byw 0 0 (128 * k)) ++
        ((s.path.filter fun e => e.coord == 0 && e.kind != .fence && e.kind != .ring).map fun e => reqKey e.byw e.space ((e.ctm.map fun x => x.1 + 1).getD 0) e.addr) ++
        ((s.atoms.filter fun r => r.coord == 0).map fun r => reqKey r.byw r.space 0 r.addr) ++ (s.resident 0).flatMap Team.keeps).eraseDups := by
      unfold State.requests
      have : (taken n s).loads.filter (fun r => r.coord == 0) = (taken n s).loads := by simp [taken, load0]
      rw [this]
      simp only [taken, List.flatMap_cons, List.flatMap_nil, List.append_nil, List.map_map]
      rfl
    rw [e, hp, ha, hk]
    simp only [List.filter_nil, List.map_nil, List.append_nil]
    refine eraseDups_of_nodup _ (List.Nodup.map ?_ List.nodup_range)
    intro a b h
    simpa [reqKey] using h
  rw [State.slotsUsed, hr, List.length_map, List.length_range]
theorem wit_exitFindsNoSlot : (taken 2048 spawnedGroup).noSlots 0 [(0, 2 ^ 40 + 512)] = true := by
  have h := taken_slots 2048 spawnedGroup (by decide) (by decide) (by decide)
  unfold State.noSlots
  rw [h]
  decide
theorem wit_exitWithoutASlot :
    goes (taken 2048 spawnedGroup) .exit (fw 0 .i32 (.v 0) (.v 0) (.v 0) (.v 0) 0) (fun _ i _ => i.gr.spawned && !i.lanes.isEmpty) = true := by decide
/-- A team that is still and narrowed, with two streams' entries, a queued record, a pack and a lock. -/
def stillTeam (f : Group → Group := id) : State :=
  mach (fun y => f { y with phase := .evicted }) (fun t => { t with narrowed := true, kern := { t.kern with flags := 1 } }) fun s =>
    { s with cores := s.cores.map fun c => { c with spawnq := [(0, rec0), (5, rec0)], packs := [pack0 false], qi := [{ entries := [7] }, {}, {}, {}] },
             locks := [{ op := 9, coord := 0, space := 1, dest := true, gran := false, ctx := 1, team := 0, len := 64, base := 0 }] }
set_option maxRecDepth 8000 in
theorem wit_aTeamIsSavedWhole :
    (∃ t ∈ (stillTeam.team? 0).toList, stillTeam.mayLeave t = true ∧ stillTeam.calledBack t = false ∧ (stillTeam.launch? t.launch).isSome = true) ∧
    (∃ t ∈ ((stillTeam fun y => { y with phase := .parked }).team? 0).toList, (stillTeam fun y => { y with phase := .parked }).mayLeave t = false) ∧
    (∃ t ∈ ((stillTeam fun y => { y with land := [⟨9, 0, .qo 1, 7, emptyTriple⟩] }).team? 0).toList,
      (stillTeam fun y => { y with land := [⟨9, 0, .qo 1, 7, emptyTriple⟩] }).mayLeave t = false) ∧
    (∀ n ∈ [0, 257], let s := mach (fun y => { y with phase := .evicted, wakeMet := true }) (fun t => { t with place := .away, offSpawns := List.replicate n rec0 })
      ∃ t ∈ (s.team? 0).toList, s.savedFits t 0 = decide (n = 0)) ∧
    (∃ t ∈ (away.team? 0).toList, ((away.restore 0 0).team? t.id).isSome = true) ∧
    (∀ x ∈ [(some (Wake.queue 0), true), (some Wake.trapReply, false), (none, false)], let s := mach fun y => { y with phase := .evicted, wake := x.1, wakeMet := x.2 }
      ∃ g ∈ (s.group? ⟨0, 0⟩).toList, g.wake = x.1 ∧ g.wakeMet = x.2) := by decide
/-- Fifteen records of a pack of the team's, whose width is 16, or one. -/
def packing (n : Nat) : State := mach id id fun s =>
  { s with cores := s.cores.map fun c => { c with packs := [{ pack0 false with recs := List.replicate n rec0 }], spawnq := [(0, rec0), (3, rec0)] } }
theorem wit_recordsArePacked :
    (∀ n ∈ [1, 15], let s := packing n
      ∃ t ∈ (s.team? 0).toList, t.place = .resident ∧ (((s.core t.coord).packs.find? fun p => p.team == t.id && !p.closed && p.entry == rec0.entry && p.join == rec0.join).any fun p =>
        decide (t.kern.width ≤ p.recs.length + 1) == decide (n = 15)) = true) ∧
    (∃ t ∈ (st.team? 0).toList, t.place = .resident ∧ ((st.core t.coord).packs.find? fun p => p.team == t.id && !p.closed && p.entry == rec0.entry && p.join == rec0.join) = none) := by decide
/-- A pair's cores with an operation in both queues; the follower's own buffer may lack or have lost a line. -/
def pairQueue (k : Nat) (absent orphan : List Nat) : State :=
  let o := { mop0 k 0 with follower := if k = 2 then some 1 else none }
  duo id fun s => { s with clock := 30
                           teams := s.teams.map fun t => if t.id = (if k = 2 then 2 else 0) then { t with wbuf := { t.wbuf with absent := absent, orphan := orphan },
                                                                                                          abuf := { t.abuf with absent := absent, orphan := orphan } } else t
                           cores := [{ coord := 0, mq := [o] }, { coord := 1, mq := [o] }] }
def heads (s : State) (k : Nat) (lost gone : Bool) : Bool :=
  (s.core 0).mq.any fun o => o.kind == k && decide (((s.core o.coord).mq.find? fun x => decide (x.kind ≠ 4) && decide (x.state = 0)) = some o) &&
    (s.team? o.byw.g.team).any fun t => !s.frozen t.ctx && s.arrayReady o.coord o &&
      (match o.follower with
       | none => true
       | some c => (s.followerTeam t c).isSome && s.arrayReady c o) &&
      (let y := (o.follower.bind fun c => s.followerTeam t c).getD t
       decide ((lineWith (o.reads true) (s.lineBars o t fun b => b.orphan)).isSome = (lost && k != 2)) &&
       decide ((lineWith (o.reads (k != 2)) (s.lineBars o y fun b => b.orphan)).isSome = lost) &&
       decide ((lineWith (o.reads (k != 2)) (s.lineBars o y fun b => b.absent)).isSome = gone))
set_option maxRecDepth 8000 in
theorem wit_arraysRunTheirBusyPeriod :
    (∀ k ∈ [0, 1, 2, 3], (mop0 k 0).kind = k ∧ (mop0 k 0).left = some rsv0 ∧ (mop0 k 0).right = some rsv0) ∧
    heads (pairQueue 1 [] [0]) 1 true false = true ∧ heads (pairQueue 2 [] []) 2 false false = true ∧ heads (pairQueue 2 [] [0]) 2 true false = true ∧
    heads (pairQueue 2 [0] []) 2 false true = true ∧
    (let o := { mop0 2 1 with old := [team0.abuf.mem, team0.wbuf.mem, team0.abuf.mem] }
     o.right = some rsv0 ∧ o.kept = [] ∧ o.old = [team0.abuf.mem, team0.wbuf.mem, (team0.buf (rsvSpace rsv0)).mem] ∧ o.stop (bufOf team0) team0.cbuf.mem true = none ∧
       o.stop (fun _ => (team0.buf (rsvSpace rsv0)).mem) team0.cbuf.mem false = none ∧
       o.stop (fun _ => (team0.buf (rsvSpace rsv0)).mem) (badTile team0).cbuf.mem false = some (0x0D, 64)) ∧
    (63 < 64 ∧ rsv0.ty = 9) := by decide
/-- A task that joins at the page, its machine with or without its cluster in the die's list. -/
def joining (j : Nat) (l : List WaitCl := []) : State := mach id id fun s => { s with tasks := [{ task0 3 [] [] with join := j }], dieList := l }
theorem wit_tasksEnterAndLeaveTheTable :
    (∃ w ∈ (joining 0 [{ waiter false with task := some (0, 2) }]).dieList, w.task = some (0, 2)) ∧ (∀ w ∈ (joining 0 [waiter true]).dieList, w.task ≠ some (0, 2)) ∧
    (∀ j ∈ [0, 2 ^ 40 + 512], ((joining j).task? 0 2).any (fun k => k.join == j) = true) ∧
    (let s := joining (2 ^ 40 + 512)
     s.adds = [] ∧ (match s.walkCtx 1 (2 ^ 40 + 512) with
       | .ok y => pteWr y.leaf && !s.dram.poisoned y.pa 8
       | _ => false) = true) := by decide
/-- Core 0 whose launch ran there; it asks for its cancellation or does not. -/
def ranThere (asks : Bool) (l : List Nat) : State := mach id id fun s =>
  { s with cores := s.cores.map fun c => { c with launches := l }, contexts := s.contexts.map fun c => { c with p := { c.p with cancelOnFail := asks } } }
theorem wit_failedCoresAreActedOn :
    (∀ x ∈ [(false, [0]), (true, [0]), (true, [])], let s := ranThere x.1 x.2
      ((s.rollback (s.tasks.filter fun k => (k.die, k.id) ∈ (s.core 0).tasksRun ∧ (k.state = 2 ∨ k.state = 3))).2.launches.filter fun l => l.grid ∈ (s.core 0).launches).map
        (fun l => (l.grid, l.completed)) = x.2.map (fun n => (n, false)) ∧ (s.ctx? 1).any (fun c => c.p.cancelOnFail == x.1) = true) ∧
    (∀ b ∈ [false, true], ((mach id id fun s => { s with launches := s.launches.map fun l => { l with completed := b } }).launch? 0).any (fun l => l.grid == 0 && l.completed == b) = true) := by
  decide
/-- An image with bytes so far, of which the table is 16 bytes long or is missing. -/
def img0 (k : Nat) (got : List Byte) (ctx : Nat := 1) : Image := { num := 4, ctx := ctx, body := { imgB false 0 with kSize := k, bytes := [] }, got := got }
def withImg (im : Image) : State := sess fun s => { s with images := [im] }
def part1 (fin : Bool) (off n : Nat) : ImgBody :=
  { image := 4, final := fin, offset := off, codeBase := 0, dataVa := 0, codeSize := 0, dataSize := 0, kSize := 0, rCount := 0, bytes := List.replicate n 0 }
theorem img_onContext (im : Image) (n : Nat) (hn : n = 0 ∨ n = 1) : onContext (withImg im) (hd n) 0x0030 placedCtx :=
  sess_onContext _ _ _ rfl rfl rfl rfl rfl rfl n hn
set_option maxRecDepth 8000 in
theorem wit_imagesAreLoadedInParts :
    ((withImg (img0 16 [])).image? 5 = none) ∧ ((withImg (img0 16 [])).image? 4 = some (img0 16 [])) ∧ (img0 16 [] 2).ctx ≠ placedCtx.id ∧
    ((part1 false 8 8).offset ≠ (img0 16 []).got.length ∧ (part1 false 0 8).offset = (img0 16 []).got.length ∧ ¬ imageSize (img0 16 []).body < (img0 16 []).got.length + 8) ∧
    ((img0 16 []).got ++ (part1 true 0 31).bytes).length ≠ imageSize (img0 16 []).body ∧ ((img0 16 []).got ++ (part1 true 0 32).bytes).length = imageSize (img0 16 []).body ∧
    ({ img0 16 [] with got := List.replicate 32 0 } : Image).checked.isSome = true ∧ ({ img0 0 [] with got := List.replicate 16 0 } : Image).checked = none := by decide
/-- What the checks of LAUNCH meet: the image's kernel, with the machine's cores offered or not. -/
def launching (f : Kern → Kern := id) (off : Bool := true) (g : Image → Image := id) : State :=
  sess fun s => let u := if off then offer s else s
    { u with images := s.images.map fun m => g { m with kerns := [f {}] }, launches := [] }
def statusIs (s : State) (x : LaunchBody) (n : Nat) : Bool := (s.ctx? 1).any fun c => s.launchStatus c x == n
set_option maxRecDepth 20000 in
theorem wit_launchChecks :
    statusIs (launching) { bodyB 16 with image := 9 } 3 = true ∧ statusIs (launching id true fun m => { m with ctx := 2 }) (bodyB 16) 3 = true ∧
    statusIs (launching) { bodyB 16 with kernel := 1 } 3 = true ∧
    [{ bodyB 0 with lanes := 0 }, bodyB 17, { bodyB 16 with clusters := 0 }, { bodyB 16 with clusters := 65537 }, { bodyB 16 with cbuf := 1 }].all (fun x => statusIs launching x 1) = true ∧
    statusIs (launching (fun k => { k with cw := 9 })) (bodyB 16) 5 = true ∧ statusIs (launching (fun k => { k with cw := 4, ch := 4 })) (bodyB 16) 5 = true ∧
    [{ bodyB 16 with abuf := 1048576 + 2048 }, { bodyB 16 with srCap := 1, srBase := 2 ^ 40 + 1 }, { bodyB 16 with args := 2 ^ 41 }, { bodyB 16 with flags := 2, cteam := 1 }].all
      (fun x => statusIs launching x 6) = true ∧ statusIs launching (bodyB 16) 0 = true := by decide
/-- Every switch has n entries of other groups. -/
def fullTrees (n : Nat) (s : State) : State :=
  { s with switches := (List.range 12).map fun k => { id := k, entries := (List.range n).map fun j => { cgrp := 100 + j, v := true, root := false, parent := 0, child := 1, epoch := 0, down := 1 } } }
set_option maxRecDepth 20000 in
theorem wit_launchFindsNoTree : statusIs (fullTrees 64 launching) { bodyB 16 with cgrp := 1, memb := 1 } 4 = true ∧
    statusIs (fullTrees 63 launching) { bodyB 16 with cgrp := 1, memb := 1 } 0 = true := by decide
/-- The launch's one group as it stands: running, half issued, evicted, exited; or its team has ended. -/
def standing (p : GPhase) (half : Bool := false) (e : Bool := false) : State :=
  mach (fun y => { y with phase := p, live := if p = .exited then 0 else y.live, second := if half then some ⟨0, BitVec.allOnes 64, 8, [], 0, {}, []⟩ else none })
    (fun t => { t with place := if e then .ended else .resident })
theorem wit_launchesAreCancelled :
    (∀ x ∈ [(GPhase.ready, false, 1), (.ready, true, 1), (.evicted, false, 0), (.exited, false, 0)], let s := standing x.1 x.2.1
      (s.launch? 0).isSome = true ∧ (s.teams.filter fun t => t.launch = 0 ∧ t.place ≠ .ended).length = 1 ∧
      (((s.teams.filter fun t => t.launch = 0 ∧ t.place ≠ .ended).filter fun t => t.place = .resident).flatMap fun t =>
        t.groups.filter fun y => y.live ≠ 0 ∧ y.phase ≠ .evicted ∧ y.phase ≠ .exited).length = x.2.2 ∧ (s.group? ⟨0, 0⟩).any (fun y => midWord y == x.2.1) = true) ∧
    (standing .exited false true).teams.filter (fun t => t.launch = 0 ∧ t.place ≠ .ended) = [] := by decide
theorem sess_commandOk (h : State → State) (code : Nat) (h1 : (sess h).power = true) (h2 : (sess h).session? 0 = some ⟨0, 0, [], some 0⟩) (h3 : (sess h).replayable = [])
    (h6 : (sess h).pendingCmds = []) (n : Nat) (hn : n = 0 ∨ n = 1) : commandOk (sess h) (hd n) code 0 := by
  refine ⟨h1, by rcases hn with rfl | rfl <;> decide, ⟨_, h2, rfl⟩, ?_⟩
  rw [h3, h6]
  exact ⟨fun r hr => absurd hr (by simp), fun x hx => absurd hx (by simp)⟩
/-- A unit's record, a known row, a spared line. -/
def units (u : UnitId) (a : AlmRec) (h : State → State := id) : State := sess fun s => h { s with flash := { s.flash with alm := (u, a) :: s.flash.alm } }
def bank0 : UnitId := .bank 0 7 31
theorem wit_placesAreSpared :
    commandOk (units bank0 { spare := 2 }) (hd 1) 0x0070 0 ∧ (hd 1).form = 1 ∧ unitOk (.bank 0 8 0) = false ∧ unitOk bank0 = true ∧
    (∀ n ∈ [0, 2], let s := units bank0 { spare := n }
      (s.alm bank0).spare = n ∧ (bank0, 5) ∉ s.rowCopies ∧ (bank0, 5) ∉ s.flash.rows ∧ ((s.rowCopies.filter fun x => x.1 = bank0).length < (s.alm bank0).spare ↔ n = 2)) ∧
    (bank0, 5) ∈ (units bank0 {} fun s => { s with rowCopies := [(bank0, 5)] }).rowCopies ∧
    (bank0, 5) ∈ (units bank0 {} fun s => { s with flash := { s.flash with rows := [(bank0, 5)] } }).flash.rows ∧
    (let s := units bank0 { spare := 1 } fun s => { s with rowCopies := [(bank0, 9)] }
     (bank0, 5) ∉ s.rowCopies ∧ (s.alm bank0).spare ≤ (s.rowCopies.filter fun x => x.1 = bank0).length) ∧
    Config.coordOk 254 = false ∧ Config.coordOk 239 = true ∧
    (∀ n ∈ [0, 1], let s := units (.teamMem 239) { spare := n }
      (s.alm (.teamMem 239)).spare = n ∧ (239, 5) ∉ s.flash.tmLines) ∧
    (239, 5) ∈ (units (.teamMem 239) {} fun s => { s with flash := { s.flash with tmLines := [(239, 5)] } }).flash.tmLines := by
  refine ⟨sess_commandOk _ _ (by decide) (by decide) (by decide) (by decide) 1 (.inr rfl), ?_⟩
  decide
def inQuad (d q : Nat) : List Nat := (Config.dieCoords d).filter fun c => quadrantOf c = q
set_option maxRecDepth 8000 in
theorem wit_quadrantsAndCoresRetire :
    (quadrantOf 0 < 4 ∧ 0 ∈ inQuad 0 (quadrantOf 0)) ∧
    ((units (.quadrant 3 3) { state := 2 }).alm (.quadrant 3 3)).state = 2 ∧ ((sess).alm (.quadrant 0 0)).state ≠ 2 ∧
    (let s := mach (fun y => { y with halted := true }) id fun s => offer { s with sessions := [⟨0, 0, [], some 0⟩] }
     ∃ c ∈ (inQuad 0 (quadrantOf 0)).filter (fun c => (s.alm (.core c)).state ≠ 2), s.coreHalted c = true) ∧
    (let s := sess fun s => { s with flash := { s.flash with alm := (inQuad 3 3).map fun c => (.core c, { state := 2 }) } }
     (inQuad 3 3).filter (fun c => (s.alm (.core c)).state ≠ 2) = []) ∧
    (let s := sess offer
     (inQuad 3 3).filter (fun c => (s.alm (.core c)).state ≠ 2) ≠ [] ∧ ∀ c ∈ inQuad 3 3, s.coreHalted c = false) ∧
    ([0, 1, 2].map fun n => ((units (.core 3) { state := n }).alm (.core 3)).state) = [0, 1, 2] ∧
    (∀ x ∈ [(true, false), (false, true), (false, false)], let s := core3 fun c => { c with draining := x.1, testing := x.2 }
      (s.core 3).draining = x.1 ∧ (s.core 3).testing = x.2) := by decide
set_option maxRecDepth 8000 in
theorem wit_groupsAreEstablished :
    onContext (fullTrees 64 sess) (hd 0) 0x0080 placedCtx ∧
    (¬ (∀ r ∈ [0, 9], r = 0 ∨ ∃ e ∈ [(0, 0), (1, 1)], e.1 = r)) ∧ (∀ r ∈ [0, 1], r = 0 ∨ ∃ e ∈ [(0, 0), (1, 1)], e.1 = r) ∧
    (∀ n ∈ [63, 64], (fullTrees n sess).treeFits { placedCtx with rank := 0, ranks := [(0, 0)], hasRanks := true } 4 [0] = decide (n = 63)) ∧
    (∃ x ∈ sess.groupsOf { placedCtx with colls := [(4, [0], 0)] }, x.1 = 4) ∧
    (∀ n ∈ [63, 64], 64 ≤ (((fullTrees n sess).switch 11).entries.filter fun y => y.cgrp ≠ 4).length ↔ n = 64) := by
  refine ⟨?_, by decide⟩
  exact sess_onContext (fun s => s) 0x0080 placedCtx rfl rfl rfl rfl rfl rfl 0 (.inl rfl)
/-! Issue, frames, steps, encodings. -/

/-- The word, its team and its group at a check of R107. -/
def atCheck (s : State) (p : Cur → Team → Group → Bool) : Bool :=
  match s.cur with
  | none => false
  | some c =>
    match s.team? c.g.team, s.group? c.g with
    | some t, some gr => p c t gr
    | _, _ => false
def shaped (op : Op) (w : Full) (t : Team) (gr : Group) : Bool := runsOk op w t.kern.regs && widthOk op w gr.width t.kern.regs
def sourceAt (op : Op) (w : Full) (c : Cur) (t : Team) (gr : Group) : Nat :=
  match sourcesOf op w c t gr with
  | .error _ => 2
  | .ok true => 1
  | .ok false => 0
def emptyV2 : State := mach fun y => { y with regs := { v := [(2, ⟨0, RegSt.emptied {}⟩)] } }
def inPort (n : Nat) : State := { st with cores := st.cores.map fun c => { c with qi := [{ entries := (List.range n).map fun k => BitVec.ofNat 32 k }, {}, {}, {}] } }
theorem wit_checksComeInOrder :
    atCheck (mach id fun t => { t with kern := { regs := 8 } }) (fun _ t gr => !shaped .mov (fw 0 .i32 (.v 8) (.v 2) (.v 0) (.v 0) 1) t gr) = true ∧
    atCheck st (fun c t gr => let w := fw 0 .i32 (.v 0) (.imm 1) (.v 0) (.v 0) 0
      shaped .rls w t gr && roleOk .rls 1 == false && !(roleLanes .rls w c gr).isEmpty) = true ∧
    (∀ x ∈ [(0, 2), (1, 1)], atCheck emptyV2 (fun c t gr => let w := fw 0 .i32 (.v 1) (.v 2) (.v 0) (.v 0) x.1
      shaped .mov w t gr && roleOk .mov gr.role && sourceAt .mov w c t gr == x.2) = true) ∧
    goes (mach (fun y => { y with width := 64, live := BitVec.allOnes 64 }) id fun s => { s with cur := s.cur.map fun c => { c with exec := BitVec.allOnes 64 } }) .exit
      (fw 0 .i32 (.v 0) (.v 0) (.v 0) (.v 0) 0) (fun c i _ => i.gr.width == 64 && c.half == 0) = true := by decide
theorem wit_soundWordsAreAtTheirIssue :
    (let w := fw 0 .i32 (.v 1) (.v 2) (.v 3) (.v 0) 3
     atCheck st (fun c t gr => shaped .iadd w t gr && roleOk .iadd gr.role && sourceAt .iadd w c t gr == 0 && qoRoom st t.coord w.d (present c gr w).length) = true) ∧
    (let w := fw 0 .i32 (.v 1) (.qi 0) (.v 3) (.v 0) 3
     atCheck (inPort 16) (fun c t gr => shaped .iadd w t gr && roleOk .iadd gr.role && sourceAt .iadd w c t gr == 0 && qoRoom (inPort 16) t.coord w.d (present c gr w).length &&
       (((inPort 16).core t.coord).qi[0]?).any fun y => decide ((present c gr w).length ≤ y.entries.length)) = true) := by decide
theorem wit_sourcesFailInOrder :
    srcOutcome [(2, true, .ok)] = .fine ∧ srcOutcome [(2, false, .empty), (3, true, .void)] = .fail 0x03 3 ∧
    srcOutcome [(2, true, .empty), (3, false, .empty), (4, false, .bad)] = .fail 0x02 3 ∧ srcOutcome [(2, true, .empty), (3, true, .bad)] = .fail 0x0D 3 ∧
    srcOutcome [(2, true, .ok), (3, true, .empty)] = .stall := by decide
def isNext {α β γ : Type} : Host.Outcome α β γ → Bool
  | .next _ => true
  | _ => false
theorem wit_registerWordsDisturbNothing :
    registerWords.all (fun op => isNext (exec (.ofFull op (fw 0 .i32 (.v 1) (.v 2) (.v 3) (.v 4))) st)) = true ∧ st.cur ≠ none ∧ st.team? 0 ≠ none ∧ st.group? ⟨0, 0⟩ ≠ none := by
  decide
theorem wit_storesWriteTheirBytesOnly :
    ([(Op.st, Opnd.v 1, 0), (.st, .v 1, 1), (.strel, .v 1, 9), (.atom, .v 1, 8), (.red, .v 0, 8)].all fun x =>
      let w := fw x.2.2 .i32 x.2.1 (if x.2.2 = 0 then .s 2 else .s 3) (.v 2) (if x.1 = .st ∨ x.1 = .strel then .imm 4 else .v 4)
        (if x.1 = .st ∨ x.1 = .strel then 3 else 7)
      w.wf x.1 && acting mem x.1 w fun _ _ _ => isNext (exec (.ofFull x.1 w) mem)) = true ∧
    (∀ k ∈ [PKind.st, .atom, .red], let s := { st with path := [arrival k none] }
      s.entry? 7 = some (arrival k none) ∧ (s.ownerRead (arrival k none)).2 = false ∧ isNext (exec (.storeAck 7) s) = true ∧ isNext (exec (.atomAtOwner 7) s) = true ∧
      isNext (exec (.storePathRelease 7) s) = true) := by decide
/-- A landing in output queue 1 is due. -/
def toQueue : State := mach (fun y => { y with land := [⟨0, 0, .qo 1, 7, emptyTriple⟩] }) id fun s => { s with cores := s.cores.map fun c => { c with qo := List.replicate 4 {} } }
theorem wit_landingsInQueues : ∀ t ∈ toQueue.teams, t.place ≠ .away ∧ (t.groups.flatMap fun g => dueLandings toQueue.clock g.land) = [⟨0, 0, .qo 1, 7, emptyTriple⟩] ∧
    ((toQueue.core t.coord).qo[1]?).isSome = true := by decide
theorem wit_landingsWriteTheirRegister : spWf emptyTriple ([] : Sparse Triple) = true ∧ spWf ({} : VReg) ([] : Sparse VReg) = true ∧ spWf ({} : SReg) ([(63, ⟨1, {}⟩)] : Sparse SReg) = true ∧
    spWf (0 : W64) ([(7, 1)] : Sparse W64) = true := by decide
theorem wit_stepRunsTheDecodedInstruction :
    (∀ b ∈ [[0x30, 0, 0, 0], [0x04, 1, 2, 3]], let s := wordAt b
      s.power = true ∧ ∃ t ∈ s.teams, s.team? 0 = some t ∧ s.fetchAt t 0 = .word [BitVec.ofNat 32 (leNat b)]) ∧
    (decodeBytes [0x30, 0, 0, 0]).toOption = some (.nopS32, 4) ∧ (decodeBytes [0x40, 0, 0, 0]).toOption = none ∧
    (let s := wordAt [0x40, 0, 0, 0]
     ∃ t ∈ s.teams, s.fetchAt t 0 = .word [0x40]) ∧
    (let s := wordAt []
     ∃ t ∈ s.teams, 0 + 4 * 2 < s.codeSize t ∧ (match s.tlb? t (s.codeBase t + 0 + 4 * 2) false with
       | some x => pteCode x.leaf && !s.dram.poisoned x.pa 4
       | none => false) = true) := by decide
theorem wit_stepsComeInOrder :
    State.reset.power = true ∧ State.reset.cur = none ∧ State.reset.inbox = [] ∧ State.reset.todo = [] ∧ (∀ x ∈ State.reset.agenda, State.reset.clock < x.1) ∧
    dueEntry 1 State.reset.agenda = some (1, .emberVisit 0) ∧ ({ State.reset with inbox := [.replan] } : State).inbox ≠ [] ∧
    (∀ x ∈ ({ State.reset with todo := [(0, 3)] } : State).agenda, 0 < x.1) ∧
    State.reset.deadlineDue = none ∧ (noCur (waiting 0 true)).deadlineDue = some ⟨0, 0⟩ ∧ State.reset.evictDue = none ∧ (noCur (parked true)).evictDue = some ⟨0, 0⟩ := by decide
theorem wit_everyStepGoesOn : State.reset.eventsOnly := by
  constructor
  · decide
  · intro i hi
    cases hi
theorem wit_memoryStaysCanonical : State.reset.memWf ∧ isNext (step State.reset) = true := ⟨⟨by decide, by intro t ht; cases ht⟩, by decide⟩
theorem wit_decodingReadsWhatIsEncoded : (Instr.sadd (fw 0 .i64 (.s 1) (.s 2) (.imm (-64)) (.v 0) 1 7)).wf = true ∧
    (encode (.sadd (fw 0 .i64 (.s 1) (.s 2) (.imm (-64)) (.v 0) 1 7))).isSome = true ∧ (encode (.movS32 247 251)).isSome = true ∧ (Instr.movS32 247 251).wf = true := by decide
theorem wit_encodingsAreUnique : (decodeBytes [0x30, 0, 0, 0]).toOption = some (.nopS32, 4) := by decide

/-! Words that are not instructions: one for each check. -/

/-- A sound word, a change of which each test refuses. -/
def sound : Full := fw 0 .i32 (.v 1) (.v 2) (.v 3) (.v 0) 3
theorem test_wf_sound : sound.wf .iadd = true := by decide
theorem test_wf_refuses :
    -- SUB, type, classes of D, A, B, an unused field, its wait bit, a port in the wrong direction (R85, R89)
    ([{ sound with sub := 2 }, { sound with ty := .f32 }, { sound with d := .imm 1 }, { sound with d := .k 1 }, { sound with a := .k 1 }, { sound with b := .m 1 },
      { sound with c := .v 1 }, { sound with wc := true }, { sound with a := .qo 1 }, { sound with d := .qi 1 },
      -- index 127 without a literal (R86), a pair at an odd number, one beyond the last register (R92)
      { sound with a := .lit }, { sound with ty := .i64, a := .v 4, b := .v 6 }, { sound with ty := .i64, d := .v 2, a := .v 4, b := .v 7 }].all
        fun w => !w.wf .iadd) = true ∧
    -- v registers in the scalar range, a TY where none is taken (R85, R89)
    (fw 0 .i64 (.s 1) (.v 2) (.s 3) (.v 0) 3).wf .sadd = false ∧ (fw 0 .i32 (.s 1) (.s 2) (.s 3) (.v 0) 3).wf .sadd = false ∧ (fw 0 .n32 (.v 0) (.v 0) (.v 0) (.v 0) 0).wf .nop = false := by
  decide
/-- The rules of single entries. -/
theorem test_wf_refusesEntries :
    ([(Op.sget, fw 0 .i64 (.s 1) (.imm 16) (.v 0) (.v 0) 0), (.sget, fw 0 .i64 (.s 1) (.imm (-1)) (.v 0) (.v 0) 0), (.cvt, fw 8 .i8 (.v 1) (.v 2) (.v 0) (.imm 4) 1),
      (.cvt, fw 4 .i32 (.v 1) (.v 2) (.imm 4) (.v 0) 1), (.cvt, fw 8 .i8 (.qo 1) (.v 2) (.v 0) (.imm 1) 1), (.cvt, fw 8 .i64 (.v 2) (.qi 1) (.v 0) (.v 0) 0),
      (.cvt, { fw 4 .i32 (.v 1) (.v 2) .lit (.v 0) 1 with lit := some 0 }), (.cvt, fw 13 .i32 (.v 1) (.v 2) (.v 0) (.v 0) 1), (.cbdec, fw 0 .cb2 (.v 6) (.v 2) (.v 3) (.v 0) 3),
      (.obdec, fw 0 .ob8 (.v 3) (.v 2) (.v 3) (.v 4) 7), (.ld, fw 8 .f32 (.v 2) (.s 1) (.v 3) (.imm 0) 3), (.ld, fw 8 .f32 (.s 4) (.s 1) (.imm 0) (.imm 0) 1),
      (.ld, fw 1 .i32 (.s 4) (.s 1) (.v 3) (.imm 0) 3), (.ldacq, fw 1 .i32 (.s 4) (.s 1) (.v 3) (.imm 0) 3), (.ldacq, fw 6 .i32 (.v 4) (.s 1) (.v 3) (.imm 0) 3),
      (.ldstrm, fw 0 .i32 (.imm 1) (.s 1) (.s 2) (.imm 1) 3), (.qpush, fw 0 .i32 (.v 241) (.v 0) (.v 0) (.v 0) 0),
      (.mget, fw 3 .f32 (.v 1) (.m 1) (.imm 3) (.v 0) 0), (.waitge, fw 0 .i32 (.v 0) (.s 1) (.imm 0) (.v 0) 1), (.rget, fw 6 .i32 (.v 0) (.imm 0) (.imm 0) (.imm 0) 0),
      (.mdrain, fw 3 .f32 (.imm 0) (.imm 0) (.imm 0) (.v 0) 0), (.ctradd, fw 0 .i32 (.v 0) (.s 1) (.imm 1) (.v 0) 1), (.fence, fw 15 .i32 (.v 0) (.v 0) (.v 0) (.v 0) 0)].all
        fun x => !x.2.wf x.1) = true := by decide
/-- Short and pair words (R97 to R100): ports in the wrong direction, a count of 32, banks that meet, ports and registers beyond v247. -/
theorem test_wf_refusesShortAndPair :
    ([Instr.movS32 248 1, .movS32 1 252, .iaddS32 1 2 252, .shlS32 1 2 32, .shrS32 1 2 32, .iaddImmS32 249 1 0, .movImmS32 250 0,
      .iaddPair (pairWord 8 9 false .iadd |> fun w => { w with y := { w.y with d := 8 } }), .iaddPair (pairWord 8 12 false .iadd), .iaddPair (pairWord 248 9 false .iadd),
      .iaddPair (pairWord 8 248 false .iadd), .iaddPair (pairWord 8 9 false .iadd |> fun w => { w with x := { w.x with d := 252 } }), .emberVisit 0].all
        fun i => !i.wf) = true := by decide
/-- What the decoder refuses: an OP of no row, a reserved operand number, a short opcode and a pair opcode of no row, reserved bits, a field
that must hold 0, bytes that end (R83, R87, R98, R100, R103). -/
theorem test_decode_refuses :
    ((f64 0x13 0 6 0x101 0x102 0x103 0 1 1 0 0 0 0 :: f64 0x00 0 6 0x101 0x154 0x103 0 1 1 0 0 0 0 :: f64 0x00 0 6 0x101 0x17E 0x103 0 1 1 0 0 0 0 :: s32 16 1 2 3 :: s32 0 1 2 3 ::
      s32 11 1 2 3 :: s32 12 1 0 0 :: p64 12 4 8 0 0 0 0 1 5 9 0 0 :: p64 1 4 8 0 0 0 0 12 5 9 0 0 :: [[]]).all fun w =>
      match decodeBytes (parcelBytes w) with
      | .ok _ => false
      | .error _ => true) = true ∧
    (decodeBytes (parcelBytes [BitVec.ofNat 32 (2 + 4 + 4 * 256 + 8 * 65536), BitVec.ofNat 32 (1 + 2 + 5 * 128 + 9 * 32768)])).toOption = none ∧
    (decodeBytes [0x01, 0x80]).toOption = none := by decide
/-! Single steps, on values worked out by hand from the rules. -/

/-- Lane 0 alone issues, with v2, v3, v4 and s2, s3 set. -/
def lane0 (a b c : W32) (x y : W64) (f : Group → Group := id) : State :=
  mach (fun g => f { g with regs := { v := [(2, ⟨a, {}⟩), (3, ⟨b, {}⟩), (4, ⟨c, {}⟩)], s := [(2, ⟨x, {}⟩), (3, ⟨y, {}⟩)] } }) id fun s =>
    { s with cur := s.cur.map fun c => { c with exec := 1 } }
/-- The landings of a step: cc, destination, value. -/
def landed (s : State) (i : Instr) : List (Nat × LDst × W64) :=
  match exec i s with
  | .next t => ((t.group? ⟨0, 0⟩).map fun y => y.land.map fun x => (x.due, x.dst, x.val)).getD []
  | _ => []
/-- The 32-bit value landing in v1 of lane 0 after `lat` cc. -/
def v1 (lat : Nat) (s : State) (i : Instr) : Option W32 :=
  match landed s i with
  | [(t, .v 0 1, x)] => if t = lat then some (x.setWidth 32) else none
  | _ => none
def three (op : Op) (sub : Nat) (ty : Ty) : Instr := .ofFull op (fw sub ty (.v 1) (.v 2) (.v 3) (.v 4))
theorem test_integer_words :
    v1 4 (lane0 0xFFFFFFFF 1 0 0 0) (three .iadd 0 .i32) = some 0 ∧ v1 4 (lane0 5 7 0 0 0) (three .isub 0 .i32) = some 0xFFFFFFFE ∧
    v1 4 (lane0 127 1 0 0 0) (three .iadd 1 .i8) = some 127 ∧ v1 4 (lane0 0x80 1 0 0 0) (three .iadd 0 .i8) = some 0xFFFFFF81 ∧
    v1 4 (lane0 0x80000000 31 0 0 0) (three .sra 0 .i32) = some 0xFFFFFFFF ∧ v1 4 (lane0 0x80000000 31 0 0 0) (three .shr 0 .i32) = some 1 ∧
    v1 4 (lane0 1 33 0 0 0) (three .shl 0 .i32) = some 2 ∧ v1 4 (lane0 0xFFFFFFFF 2 0 0 0) (three .imulh 0 .n32) = some 1 ∧
    v1 4 (lane0 0xFFFFFFFF 2 0 0 0) (three .imulh 0 .i32) = some 0xFFFFFFFF ∧ v1 4 (lane0 3 4 5 0 0) (three .imad 0 .i32) = some 17 ∧
    v1 4 (lane0 1 0 0 0 0) (three .clz 0 .n32) = some 31 ∧ v1 4 (lane0 1 0 0 0 0) (three .brev 0 .n32) = some 0x80000000 ∧
    v1 4 (lane0 0xF0F0 4 8 0 0) (three .bfe 0 .i32) = some 0x0F ∧ v1 4 (lane0 0xF0F0 4 4 0 0) (three .bfe 0 .i32) = some 0xFFFFFFFF ∧
    v1 4 (lane0 0x01020304 0x01010101 10 0 0) (three .idot4 0 .i8) = some 20 := by decide
theorem test_scalar_words :
    landed (lane0 0 0 0 0x8000000000000000 2) (.smulh (fw 0 .n64 (.s 1) (.s 2) (.s 3) (.v 0))) = [(4, .s 1, 1)] ∧
    landed (lane0 0 0 0 0x8000000000000000 2) (.smulh (fw 0 .i64 (.s 1) (.s 2) (.s 3) (.v 0))) = [(4, .s 1, 0xFFFFFFFFFFFFFFFF)] ∧
    landed (lane0 0 0 0 (-1) 0) (.scmp (fw 2 .i64 (.k 1) (.s 2) (.s 3) (.v 0))) = [(4, .k 1 0xFFFFFFFFFFFFFFFF, 0xFFFFFFFFFFFFFFFF)] ∧
    landed (lane0 0 0 0 5 7) (.slea (fw 3 .i64 (.s 1) (.s 2) (.s 3) (.v 0))) = [(4, .s 1, 61)] := by decide
set_option maxRecDepth 8000 in
theorem test_float_words :
    v1 6 (lane0 0x3F800000 0x3F800000 0 0 0) (three .fadd 0 .f32) = some 0x40000000 ∧ v1 6 (lane0 0x40000000 0x40400000 0x3F800000 0 0) (three .ffma 0 .f32) = some 0x40E00000 ∧
    v1 16 (lane0 0x40000000 0 0 0 0) (three .frcp 0 .f32) = some 0x3F000000 ∧ v1 16 (lane0 0x40800000 0 0 0 0) (three .fsqrt 0 .f32) = some 0x40000000 ∧
    v1 6 (lane0 0x3FC00000 0 0 0 0) (.cvt (fw 8 .i32 (.v 1) (.v 2) (.v 0) (.v 0) 1)) = some 2 ∧ v1 6 (lane0 0x80000000 0 0 0 0) (three .fneg 0 .f32) = some 0 := by decide
theorem test_cross_lane_words :
    landed (lane0 9 0 0 0 0) (.vote (fw 3 .i32 (.s 1) (.k 0) (.v 0) (.v 0))) = [(6, .s 1, 1)] ∧
    v1 6 (lane0 9 0 0 0 0) (.perm (fw 0 .i32 (.v 1) (.v 2) (.imm 16) (.imm 5) 1)) = some 5 ∧ v1 6 (lane0 9 0 0 0 0) (.shfl (fw 0 .i32 (.v 1) (.v 2) (.imm 0) (.imm 5) 1)) = some 9 := by decide
def after (s : State) (i : Instr) (p : State → Group → Bool) : Bool :=
  match exec i s with
  | .next t => (t.group? ⟨0, 0⟩).any (p t)
  | _ => false
theorem test_control_words :
    after st (.bra (fw 0 .i32 (.v 0) (.imm 2) (.v 0) (.v 0) 0)) (fun _ y => (List.range 16).all fun l => y.pc l == 8) = true ∧
    after st (.exit (fw 0 .i32 (.v 0) (.v 0) (.v 0) (.v 0) 0)) (fun _ y => y.live == 0) = true ∧
    after st (.setmode (fw 1 .i32 (.v 0) (.imm (-1)) (.v 0) (.v 0) 0)) (fun _ y => y.mode == 0x3F03FF) = true ∧
    after (lane0 0x123 0 0 0 0) (.throwI (fw 0 .i32 (.v 0) (.v 2) (.imm (-2)) (.v 0) 1)) (fun t _ =>
      t.steers.map (fun x => (x.region, x.acc.code, x.acc.count, x.acc.value)) == [(.grid 0, 0x123, 1, 0xFFFFFFFFFFFFFFFE)]) = true ∧
    after st (.jmpi (fw 0 .i32 (.v 0) (.v 2) (.v 0) (.v 0) 1)) (fun _ y => y.pc 15 == 0) = true := by decide
/-- A store's bytes are little-endian at its address once it is performed (R5, R165). -/
theorem test_store_bytes :
    (match exec (.storeAck 7) { st with path := [{ arrival .st none with data := 0x04030201 }] } with
     | .next t => (List.range 6).map (fun j => t.dram.read1 (1048576 + 255 + j)) == [0, 1, 2, 3, 4, 0] && t.path.isEmpty
     | _ => false) = true := by decide
/-- The first step after reset with a word placed runs it. -/
theorem test_withFetchWord : isNext (step (State.reset.withFetchWord 32 0x30)) = true ∧ (decodeTableWord 32 0x30).isSome = true := by decide
end Sys2Proof.Tests
end

section
/-! SUPPORT. What the step of a word now issuing is, by what its fetch gives; and the parcel that memory holds at an address. -/
namespace Sys2Proof.Machine

/-- With power, a word at issue goes before everything else (R107). -/
theorem step_of_cur {s : State} {c : Cur} (hp : s.power = true) (hc : s.cur = some c) : step s = issueWord c s := by
  unfold step stepLit
  rw [if_pos hp, hc]

/-- The lanes of Exec that a word which is no instruction makes throw (R107). -/
theorem illegal_eq (s : State) (c : Cur) : illegal s c = (lanesOf c.exec).map fun l => ⟨l, 0x01, c.pc, rawValue c.raw⟩ := rfl

section
variable {s : State} {c : Cur} {t : Team} {gr : Group} {raw : List W32}

/-- Fetched parcels that decode run as the instruction they decode to. -/
theorem issueWord_decoded {i : Instr} {n : Nat} (ht : s.team? c.g.team = some t) (hg : s.group? c.g = some gr) (hn : c.fetched = false)
    (hf : s.fetchAt t c.pc = .word raw) (hd : decodeBytes (parcelBytes raw) = .ok (i, n)) :
    issueWord c s = exec i { s.touchCode t c.pc raw.length with cur := some { c with len := n, raw := raw, fetched := true } } := by
  unfold issueWord
  simp only [ht, hg, hn, Bool.false_eq_true, if_false, hf, hd]

/-- Fetched parcels that do not decode throw E_ILLEGAL in every lane of Exec. -/
theorem issueWord_undecoded {e : Reject} (ht : s.team? c.g.team = some t) (hg : s.group? c.g = some gr) (hn : c.fetched = false)
    (hf : s.fetchAt t c.pc = .word raw) (hd : decodeBytes (parcelBytes raw) = .error e) :
    issueWord c s = .next (s.issueThrows { c with raw := raw } gr t.coord false false 0 (illegal s { c with raw := raw })) := by
  unfold issueWord
  simp only [ht, hg, hn, Bool.false_eq_true, if_false, hf, hd]
end

/-- The number of two bit vectors side by side: the left one counts the values of the right. -/
theorem toNat_append_eq_mul_add {v w : Nat} (x : BitVec v) (y : BitVec w) : (x ++ y).toNat = 2 ^ w * x.toNat + y.toNat := by
  rw [BitVec.toNat_append, ← Nat.shiftLeft_add_eq_or_of_lt y.isLt, Nat.shiftLeft_eq, Nat.mul_comm]

/-- The number of a parcel, from its four bytes, the most significant first. -/
theorem toNat_four_bytes (a b c d : Byte) :
    BitVec.toNat ((a ++ b) ++ (c ++ d) : W32) = 2 ^ 16 * (2 ^ 8 * a.toNat + b.toNat) + (2 ^ 8 * c.toNat + d.toNat) := by
  calc BitVec.toNat ((a ++ b) ++ (c ++ d) : W32)
      = 2 ^ 16 * (a ++ b).toNat + (c ++ d).toNat := toNat_append_eq_mul_add (a ++ b) (c ++ d)
    _ = _ := by rw [toNat_append_eq_mul_add a b, toNat_append_eq_mul_add c d]

/-- A number of four bytes in memory is their concatenation, the byte at the lowest address last (R5: little-endian). -/
theorem Mem.readN_four (m : Mem) (a : Nat) :
    BitVec.ofNat 32 (m.readN a 4) = (m.read1 (a + 3) ++ m.read1 (a + 2)) ++ (m.read1 (a + 1) ++ m.read1 a) := by
  have h0 := (m.read1 a).isLt
  have h1 := (m.read1 (a + 1)).isLt
  have h2 := (m.read1 (a + 2)).isLt
  have h3 := (m.read1 (a + 3)).isLt
  apply BitVec.eq_of_toNat_eq
  rw [toNat_four_bytes, BitVec.toNat_ofNat]
  simp only [Mem.readN, Mem.bytes, natOfBytes, Nat.add_assoc, Nat.reduceAdd]
  omega

/-- A parcel inside the image, on a sound page with CODE, is the four bytes at its physical address (R5, R241, R323). -/
theorem State.parcel_of_page {s : State} {t : Team} {pc i : Nat} {x : Trans} (hin : pc + 4 * i < s.codeSize t)
    (hx : s.tlb? t (s.codeBase t + pc + 4 * i) false = some x) (hcode : pteCode x.leaf = true) (hsound : s.dram.poisoned x.pa 4 = false) :
    s.parcel t pc i = .word [BitVec.ofNat 32 (s.dram.readN x.pa 4)] := by
  unfold State.parcel
  simp only [Nat.not_le.mpr hin, if_false, hx, hcode, hsound, Bool.not_true, Bool.false_eq_true]

/-- Settles O53: a word at issue goes first, and its step is told by what its fetched parcels decode to. -/
theorem stepRunsTheDecodedInstruction : Obligations.stepRunsTheDecodedInstruction := by
  intro s c t gr hp hc ht hg
  refine ⟨?decodes, ?illegal, ?littleEndian⟩
  case decodes =>
    intro raw i n hn hf hd
    rw [step_of_cur hp hc, issueWord_decoded ht hg hn hf hd]
  case illegal =>
    intro raw e hn hf hd
    rw [step_of_cur hp hc, issueWord_undecoded ht hg hn hf hd, illegal_eq]
  case littleEndian =>
    intro i x hin hx hcode hsound
    rw [State.parcel_of_page hin hx hcode hsound, Mem.readN_four]

end Sys2Proof.Machine
end

section
/-! SUPPORT. Memory in its one form: each operation of the model keeps it. A lemma has its operation's name after `State.memWf`, so the proof
about a composed update reads as the update does: `h.modGroup.issued.raise`. -/
namespace Sys2Proof.Machine
-- one proof at a time: the many short proofs of this section would otherwise each wait with a thread, and its stack, of its own
set_option Elab.async false

/-- A word's meaning keeps memory in its one form: the state it answers, and what it does to any state when it is held. -/
def Body.memWf : Body → Prop
  | .ok s => s.memWf
  | .hold f => ∀ s : State, s.memWf → (f s).memWf
  | _ => True

/-- The next state, if there is one, has memory in its one form. -/
def NextWf : Host.Outcome State Fault Refusal → Prop
  | .next s => s.memWf
  | _ => True

section

variable {s t u : State} {α β : Type}

/-! How states are put together. -/

theorem State.memWf.set (h : s.memWf) (hd : t.dram = s.dram := by rfl) (ht : t.teams = s.teams := by rfl) : t.memWf := by
  unfold State.memWf
  rw [hd, ht]
  exact h

theorem State.memWf.ite {c : Prop} [Decidable c] (ht : t.memWf) (hu : u.memWf) : (if c then t else u).memWf := by
  split
  · exact ht
  · exact hu

theorem State.memWf.foldl {f : State → α → State} {l : List α} (h : s.memWf) (hf : ∀ u x, u.memWf → (f u x).memWf) : (l.foldl f s).memWf := by
  induction l generalizing s with
  | nil => exact h
  | cons x l ih => exact ih (hf s x h)

theorem State.memWf.foldlSnd {f : β × State → α → β × State} {l : List α} {p : β × State} (h : p.2.memWf)
    (hf : ∀ q x, q.2.memWf → (f q x).2.memWf) : (l.foldl f p).2.memWf := by
  induction l generalizing p with
  | nil => exact h
  | cons x l ih => exact ih (hf p x h)

theorem State.memWf.mapTeams {f : Team → Team} (h : s.memWf) (hf : ∀ x, x.memWf → (f x).memWf := by exact fun _ hx => hx) :
    State.memWf { s with teams := s.teams.map f } := by
  refine ⟨h.1, fun y hy => ?_⟩
  obtain ⟨x, hx, rfl⟩ := List.mem_map.1 hy
  exact hf x (h.2 x hx)

theorem Team.memWf.ite {c : Prop} [Decidable c] {x y : Team} (hx : x.memWf) (hy : y.memWf) : (if c then x else y).memWf := by
  split
  · exact hx
  · exact hy

theorem State.memWf.optionMapGetD {o : Option α} {f : α → State} (h : s.memWf) (hf : ∀ x, (f x).memWf) : ((o.map f).getD s).memWf := by
  cases o with
  | none => exact h
  | some x => exact hf x

theorem Team.memWf.set {x y : Team} (hx : x.memWf) (h1 : y.tm.mem = x.tm.mem := by rfl) (h2 : y.abuf.mem = x.abuf.mem := by rfl)
    (h3 : y.wbuf.mem = x.wbuf.mem := by rfl) (h4 : y.cbuf.mem = x.cbuf.mem := by rfl) : y.memWf := by
  unfold Team.memWf
  rw [h1, h2, h3, h4]
  exact hx

theorem Team.memWf.foldl {f : Team → α → Team} {l : List α} {t : Team} (h : t.memWf) (hf : ∀ u x, u.memWf → (f u x).memWf) : (l.foldl f t).memWf := by
  induction l generalizing t with
  | nil => exact h
  | cons x l ih => exact ih (hf t x h)

theorem Team.memWf.modBuf {t : Team} {sp : Nat} {f : Buf → Buf} (h : t.memWf)
    (hf : ∀ b, b.mem.wf = true → (f b).mem.wf = true := by exact fun _ hb => hb) : (t.modBuf sp f).memWf := by
  obtain ⟨h1, h2, h3, h4⟩ := h
  unfold Team.modBuf
  split
  · exact ⟨hf _ h1, h2, h3, h4⟩
  split
  · exact ⟨h1, hf _ h2, h3, h4⟩
  split
  · exact ⟨h1, h2, h3, hf _ h4⟩
  · exact ⟨h1, h2, hf _ h3, h4⟩

theorem Team.memWf.modGroup {t : Team} {n : Nat} {f : Group → Group} (h : t.memWf) : (t.modGroup n f).memWf := h
theorem Team.memWf.clearYield {t : Team} {q r : Nat} (h : t.memWf) : (t.clearYield q r).memWf := h
theorem Team.memWf.rest {t : Team} (h : t.memWf) : t.rest.memWf := h
theorem State.memWf.dram (h : s.memWf) : s.dram.wf = true := h.1
theorem State.memWf.team {i : Nat} {t : Team} (h : s.memWf) (ht : s.team? i = some t) : t.memWf := h.2 t (List.mem_of_find?_eq_some ht)
theorem State.memWf.setDram {m : Mem} (h : s.memWf) (hm : m.wf = true) : State.memWf { s with dram := m } := ⟨hm, h.2⟩
theorem State.memWf.filterTeams {p : Team → Bool} (h : s.memWf) : State.memWf { s with teams := s.teams.filter p } :=
  ⟨h.1, fun t ht => h.2 t (List.mem_of_mem_filter ht)⟩
theorem State.memWf_reset : State.reset.memWf := ⟨rfl, fun _ ht => absurd ht List.not_mem_nil⟩

/-- Steps that may fail, in turn, from a state whose memory is in its one form. -/
theorem State.memWf.foldlSome {f : Option State → α → Option State} {l : List α} (h : s.memWf)
    (hf : ∀ v x w, v.memWf → f (some v) x = some w → w.memWf) (hn : ∀ x, f none x = none)
    (hu : l.foldl f (some s) = some u) : u.memWf := by
  induction l generalizing s with
  | nil =>
    cases hu
    exact h
  | cons x l ih =>
    rw [List.foldl_cons] at hu
    cases e : f (some s) x with
    | none =>
      rw [e, List.foldl_fixed' hn] at hu
      cases hu
    | some v =>
      rw [e] at hu
      exact ih (hf s x v h e) hu

theorem wf_foldl {f : Mem → α → Mem} {l : List α} {m : Mem} (h : m.wf = true) (hf : ∀ m x, m.wf = true → (f m x).wf = true) : (l.foldl f m).wf = true := by
  induction l generalizing m with
  | nil => exact h
  | cons x l ih => exact ih (hf m x h)

theorem Mem.wf_put_poison {m : Mem} {a : Nat} {l : List Byte} {p : List Nat} (h : m.wf = true) : ({ m.put a l with poison := p } : Mem).wf = true :=
  (Mem.wf_poison _ _).trans (Mem.wf_put _ _ _ h)
theorem wf_putBytes {m : Mem} {l : List (Nat × List Byte)} (h : m.wf = true) : (putBytes m l).wf = true :=
  wf_foldl h fun _ _ hm => Mem.wf_writeBytes _ _ _ hm

theorem firstFit_some {fit : WaitCl → Option α} {l : List WaitCl} {i : Nat} {r : Nat × WaitCl × α} (h : firstFit fit l i = some r) :
    ∃ w, fit w = some r.2.2 := by
  induction l generalizing i with
  | nil => cases h
  | cons w l ih =>
    unfold firstFit at h
    split at h
    · next x hx =>
      cases h
      exact ⟨w, hx⟩
    split at h
    · cases h
    · exact ih h

theorem freshTeam_memWf {l : Launch} {k : Kern} {n c p co o e : Nat} {t : Option (Nat × Nat)} {a j : Nat} : (freshTeam s l k n c p co o e t a j).memWf :=
  ⟨rfl, rfl, rfl, rfl⟩
theorem Team.memWf.skipSpawns {t : Team} (h : t.memWf) : t.skipSpawns.memWf := h

theorem Team.memWf.dropBar {t : Team} {c : Bool} {i n sl : Nat} (h : t.memWf) : (t.dropBar c i n sl).memWf := by
  unfold Team.dropBar
  split <;> exact h

theorem Team.memWf.drainInto {t : Team} {l : List (Nat × Nat × Byte)} (h : t.memWf) : (t.drainInto l).memWf :=
  (h.foldl fun _ _ hx => hx.modBuf fun _ hm => Mem.wf_writeBytes _ _ _ hm).foldl fun _ _ hx => hx.modBuf

theorem State.memWf.foldlFst {f : State × β → α → State × β} {l : List α} {p : State × β} (h : p.1.memWf)
    (hf : ∀ q x, q.1.memWf → (f q x).1.memWf) : (l.foldl f p).1.memWf := by
  induction l generalizing p with
  | nil => exact h
  | cons x l ih => exact ih (hf p x h)

theorem Body.memWf_ite {c : Prop} [Decidable c] {a b : Body} (ha : a.memWf) (hb : b.memWf) : (if c then a else b).memWf := by
  split
  · exact ha
  · exact hb

/-! Lookups and updates by number. -/

theorem State.memWf.modTeam {t : Nat} {f : Team → Team} (h : s.memWf) (hf : ∀ x, x.memWf → (f x).memWf := by exact fun _ hx => hx) :
    (s.modTeam t f).memWf := h.mapTeams fun _ hx => (hf _ hx).ite hx
theorem State.memWf.modGroup {g : GRef} {f : Group → Group} (h : s.memWf) : (s.modGroup g f).memWf := h.modTeam
theorem State.memWf.modCore {c : Nat} {f : Core → Core} (h : s.memWf) : (s.modCore c f).memWf := h.set
theorem State.memWf.modLaunch {g : Nat} {f : Launch → Launch} (h : s.memWf) : (s.modLaunch g f).memWf := h.set
theorem State.memWf.modCtx {c : Nat} {f : Ctx → Ctx} (h : s.memWf) : (s.modCtx c f).memWf := h.set
theorem State.memWf.modCluster {l c : Nat} {f : Cluster → Cluster} (h : s.memWf) : (s.modCluster l c f).memWf := h.set
theorem State.memWf.modOp {i : Nat} {f : EOp → EOp} (h : s.memWf) : (s.modOp i f).memWf := h.set

/-! Time and free values. -/

theorem State.memWf.sched {t : Nat} {i : Instr} (h : s.memWf) : (s.sched t i).memWf := h.set
theorem State.memWf.after {least : Nat} {i : Instr} (h : s.memWf) : (s.after least i).memWf := h.set
theorem State.memWf.again {i : Instr} (h : s.memWf) : (s.again i).memWf := h.sched
theorem State.memWf.drawByte (h : s.memWf) : s.drawByte.2.memWf := h.set
theorem State.memWf.drawBit (h : s.memWf) : s.drawBit.2.memWf := h.set
theorem State.memWf.drawBytes {n : Nat} (h : s.memWf) : (s.drawBytes n).2.memWf := h.foldlSnd (fun _ _ hq => hq.drawByte)

/-! Registers (R55, R93). -/

theorem State.memWf.pushQo {t : Team} {q : Nat} {x : W32} (h : s.memWf) : (s.pushQo t q x).memWf := h.modTeam.ite h.modCore

theorem State.memWf.pushDue {t : Team} (h : s.memWf) : (s.pushDue t).memWf := by
  unfold State.pushDue
  refine h.ite ?_
  exact h.foldl (fun _ _ hu => by
    split
    · exact hu.pushQo
    · exact hu)

theorem State.memWf.settle (h : s.memWf) : s.settle.memWf := (h.foldl (fun _ _ hu => hu.pushDue)).mapTeams

/-! Taking an exception. -/

theorem State.memWf.throwInto {r : RegionId} {x : Rec} {inst : Option Nat} (h : s.memWf) : (s.throwInto r x inst).memWf := by
  unfold State.throwInto
  split
  · exact h.ite h.set
  · exact h.set

theorem State.memWf.noteTask {t : Team} {r : RegionId} (h : s.memWf) : (s.noteTask t r).memWf := by
  unfold State.noteTask
  split
  · exact h.set
  · exact h

theorem State.memWf.stopThrower {g : GRef} {into : List RegionId} (h : s.memWf) : (s.stopThrower g into).memWf := h.set

theorem State.memWf.raiseAt {g : GRef} {cc : Nat} {throws : List LaneThrow} (h : s.memWf) : (s.raiseAt g cc throws).memWf := by
  unfold State.raiseAt
  split
  · exact (h.foldl (fun _ _ hu => hu.noteTask.throwInto)).stopThrower
  · exact h

theorem State.memWf.raise {g : GRef} {throws : List LaneThrow} (h : s.memWf) : (s.raise g throws).memWf := h.raiseAt

theorem State.memWf.raiseLive {g : GRef} {cc code : Nat} {value : W64} (h : s.memWf) : (s.raiseLive g cc code value).memWf := by
  unfold State.raiseLive
  split
  · exact h.raiseAt
  · exact h

theorem State.memWf.raiseWork {b : Starter} {cc code : Nat} {value : W64} {flags : Nat} (h : s.memWf) : (s.raiseWork b cc code value flags).memWf := by
  unfold State.raiseWork
  split
  · exact (h.foldl (fun _ _ hu => hu.noteTask.throwInto)).stopThrower
  · exact h

theorem State.memWf.payOwed {g : GRef} (h : s.memWf) : (s.payOwed g).memWf := by
  unfold State.payOwed
  split
  · exact h.modGroup.foldl (fun _ _ hu => by
    split
    · exact hu.raiseWork
    · exact hu.raiseLive)
  · exact h

theorem State.memWf.raiseStopped {g : GRef} {code : Nat} {value : W64} (h : s.memWf) : (s.raiseStopped g code value).memWf := by
  unfold State.raiseStopped
  split
  · exact h.modGroup.ite h.raiseLive
  · exact h

theorem State.memWf.raiseWith {b : Starter} {code : Nat} {value : W64} {flags : Nat} (h : s.memWf) :
    (s.raiseWith b code value flags).memWf := h.modGroup.ite h.raiseWork
theorem State.memWf.raiseStarter {b : Starter} {code : Nat} {value : W64} (h : s.memWf) : (s.raiseStarter b code value).memWf := h.raiseWith

theorem State.memWf.raiseStarters {bs : List Starter} {code : Nat} {value : W64} (h : s.memWf) : (s.raiseStarters bs code value).memWf := by
  unfold State.raiseStarters
  dsimp only
  split
  · exact h.raiseStarter
  · exact h.foldl (fun _ _ hu => hu.raiseStarter)

theorem State.memWf.raiseGrid {launch : Nat} {b : Starter} {code : Nat} {value : W64} (h : s.memWf) : (s.raiseGrid launch b code value).memWf := by
  unfold State.raiseGrid
  split
  · exact h.foldl (fun _ _ hu => hu.throwInto)
  · exact h.throwInto

theorem State.memWf.raiseNobody {t : Team} {code : Nat} {value : W64} (h : s.memWf) : (s.raiseNobody t code value).memWf := h.noteTask.throwInto
theorem State.memWf.raiseTeam {t : Team} {code : Nat} {value : W64} (h : s.memWf) : (s.raiseTeam t code value).memWf :=
  h.raiseNobody.ite (h.foldl (fun _ _ hu => hu.raiseStopped))
theorem State.memWf.ageOthers {coord quarter rank : Nat} {me : GRef} (h : s.memWf) : (s.ageOthers coord quarter rank me).memWf :=
  h.foldl (fun _ _ hu => hu.foldl (fun _ _ hv => hv.modGroup.sched.ite hv.modGroup))

/-! Waking (R39, R229, R230). -/

theorem State.memWf.wakeGroup {g : GRef} (h : s.memWf) : (s.wakeGroup g).memWf := h.modGroup
theorem State.memWf.park {g : GRef} {w : Wake} {b : Starter} (h : s.memWf) : (s.park g w b).memWf := h.modGroup
theorem State.memWf.dropL1 {coord : Nat} (h : s.memWf) : (s.dropL1 coord).memWf := h.modCore

theorem State.memWf.acquire {g : GRef} {scope : Nat} (h : s.memWf) : (s.acquire g scope).memWf := by
  unfold State.acquire
  split
  · exact h.dropL1.ite h
  · exact h

/-! Range locks (R168, R275). -/

theorem State.memWf.unlock {op : Nat} (h : s.memWf) : (s.unlock op).memWf := h.set
theorem State.memWf.askRefills {coord : Nat} (h : s.memWf) : (s.askRefills coord).memWf := h.foldl (fun _ _ hu => hu.foldl (fun _ _ hv => hv.sched))
theorem State.memWf.endLocks {op : Nat} (h : s.memWf) : (s.endLocks op).memWf := h.unlock.foldl (fun _ _ hu => hu.askRefills)

/-! Messages (R333, R334, R337). -/

theorem State.memWf.notifyTo {principal : Option Nat} {ctx code : Nat} {body : List Byte} (h : s.memWf) : (s.notifyTo principal ctx code body).memWf := by
  unfold State.notifyTo
  dsimp only
  split
  · exact h.set
  · exact h.set.ite h.set

theorem State.memWf.notify {ctx code : Nat} {body : List Byte} (h : s.memWf) : (s.notify ctx code body).memWf := h.notifyTo
theorem State.memWf.notifyAll {code : Nat} {body : List Byte} (h : s.memWf) : (s.notifyAll code body).memWf := h.notifyTo.ite h.set
theorem State.memWf.localNotice {ctx : Nat} (h : s.memWf) : (s.localNotice ctx).memWf := h.notify

theorem State.memWf.haltGroup {g : GRef} {reason tag : Nat} (h : s.memWf) : (s.haltGroup g reason tag).memWf := by
  unfold State.haltGroup
  split
  · exact h.ite h.modGroup.notify
  · exact h

theorem State.memWf.reply {hd : Hdr} {code status : Nat} {body : List Byte} (h : s.memWf) : (s.reply hd code status body).memWf := h.set.ite h.set

/-! The almanac's records (R315), the tiles in service (R19, R328) and matrix pairs (R16). -/

theorem State.memWf.setAlm {u : UnitId} {f : AlmRec → AlmRec} (h : s.memWf) : (s.setAlm u f).memWf := h.set
theorem State.memWf.setUnit {u : UnitId} {state cause : Nat} (h : s.memWf) : (s.setUnit u state cause).memWf := h.setAlm

/-! How a word reads its operands, the checks at issue, the halves of a 64-wide word, and what issuing costs. -/

theorem State.memWf.loseRegs {g : GRef} {ctx : Nat} {keys : List Nat} (h : s.memWf) : (s.loseRegs g ctx keys).memWf := h.ite h.modGroup.localNotice

theorem State.memWf.issued {g : GRef} {c : Cur} {width quarter role : Nat} {x yld : Bool} {gap coord : Nat} (h : s.memWf) :
    (s.issued g c width quarter role x yld gap coord).memWf := by
  unfold State.issued
  extract_lets e aged busy cleared issued told
  have hi : issued.memWf := ((State.memWf.ite h h.ageOthers : aged.memWf).mapTeams fun _ hx => hx.clearYield.ite hx : cleared.memWf).modGroup
  have ht : told.memWf := by
    unfold told
    split
    · exact hi.ite hi.haltGroup
    · exact hi
  exact ht.payOwed.set

theorem State.memWf.issueRaises {c : Cur} {gr : Group} {coord : Nat} {x yld : Bool} {gap : Nat} {l : List LaneThrow} (h : s.memWf) :
    (s.issueRaises c gr coord x yld gap l).memWf :=
  h.modGroup.issued.raise

theorem State.memWf.issueThrows {c : Cur} {gr : Group} {coord : Nat} {x yld : Bool} {gap : Nat} {l : List LaneThrow} (h : s.memWf) :
    (s.issueThrows c gr coord x yld gap l).memWf :=
  h.issueRaises

theorem State.memWf.issueStalls {c : Cur} {coord q : Nat} (h : s.memWf) : (s.issueStalls c coord q).memWf := h.modGroup.payOwed.set

theorem State.memWf.halfDone {c : Cur} {coord quarter : Nat} {latch : Regs} {held : List Landing} (h : s.memWf) :
    (s.halfDone c coord quarter latch held).memWf := by
  unfold State.halfDone
  extract_lets aged busy
  have ha : aged.memWf := by
    unfold aged
    split
    · exact h.ageOthers
    · exact h
  exact (ha.modCore : busy.memWf).modGroup.set

theorem State.memWf.holdHalf {c : Cur} {gr : Group} {coord : Nat} (h : s.memWf) : (s.holdHalf c gr coord).memWf := h.modGroup.halfDone

theorem State.memWf.issueFull {op : Op} {w : Full} {k : IKind} {body : Iss → State → Body} {c : Cur} (h : s.memWf)
    (hb : ∀ i u, u.memWf → (body i u).memWf) : (issueFull op w k body c s).memWf := by
  unfold Machine.issueFull
  split
  · next t gr _ _ =>
    split
    · exact h.loseRegs.issueThrows
    · exact h.issueStalls
    next i core _ =>
    dsimp only
    split
    · exact h.halfDone
    have hi : State.memWf (if gr.width = 64 ∧ c.half = 0 then s.modCore t.coord fun _ => core
      else (s.modCore t.coord fun _ => core).modGroup c.g fun y => (y.tickDefer.advance c.exec c.len).joinHeld) := h.modCore.ite h.modCore.modGroup
    have hw := hb i _ hi
    split
    · exact h.issueThrows
    · exact h.issueStalls
    · next f e =>
      rw [e] at hw
      exact (hw s h).set
    · next u e =>
      rw [e] at hw
      have hu : u.memWf := hw
      split
      · exact hu.holdHalf.ite hu.halfDone
      · exact hu.issued
  · exact h.set

theorem State.memWf.land {g : GRef} {lat : Nat} {l : List (LDst × W64)} (h : s.memWf) : (s.land g lat l).memWf := h.modGroup
theorem State.memWf.landFrom {g : GRef} {t0 lat : Nat} {l : List (LDst × W64)} (h : s.memWf) : (s.landFrom g t0 lat l).memWf := h.modGroup
theorem State.memWf.landM {g : GRef} {lat : Nat} {l : List (Nat × Nat × Triple)} (h : s.memWf) : (s.landM g lat l).memWf := h.modGroup

theorem nextWf_onIssue {f : Cur → State} (hf : ∀ c, (f c).memWf) : NextWf (onIssue s f) := by
  unfold onIssue
  split
  · trivial
  · exact hf _

/-! Comparisons that write k bits, and the arithmetic conditions that MODE makes into E_ARITH (R115, R135). -/

theorem State.memWf.execFull {op : Op} {k : IKind} {body : Iss → State → Body} {w : Full} (h : s.memWf)
    (hb : ∀ i u, u.memWf → (body i u).memWf) : NextWf (execFull op k body w s) := nextWf_onIssue fun _ => h.issueFull hb

/-! Fault records. -/

theorem State.memWf.newFault {ctx va kind : Nat} {u : FUser} (h : s.memWf) : (s.newFault ctx va kind u).2.memWf := h.set.notify.sched

theorem State.memWf.withdrawFault {i : Nat} (h : s.memWf) : (s.withdrawFault i).memWf := by
  unfold State.withdrawFault
  split
  · exact h
  · exact h.set.notify

/-! Counters. -/

theorem State.memWf.evalCounters (h : s.memWf) : s.evalCounters.memWf := h.foldl (fun _ _ hu => hu.foldl (fun _ _ hv => by
    split
    · split
      · exact hv.wakeGroup.acquire.ite hv
      · exact hv
    · exact hv))

theorem State.memWf.writePa {pa : Nat} {b : List Byte} (h : s.memWf) : (s.writePa pa b).memWf :=
  (h.setDram (Mem.wf_writeBytes _ _ _ h.dram)).evalCounters
theorem State.memWf.addPa {pa x : Nat} {plain : Bool} (h : s.memWf) : (s.addPa pa x plain).memWf := h.writePa

/-! The L1 and the store path. -/

theorem State.memWf.fillL1 {coord line : Nat} (h : s.memWf) : (s.fillL1 coord line).memWf := h.ite h.modCore
theorem State.memWf.touchL1 {coord line : Nat} (h : s.memWf) : (s.touchL1 coord line).memWf := h.modCore
theorem State.memWf.dropLine {coord line : Nat} (h : s.memWf) : (s.dropLine coord line).memWf := h.modCore
theorem State.memWf.storeL1 {coord pa : Nat} {b : List Byte} (h : s.memWf) : (s.storeL1 coord pa b).memWf := h.modCore

/-! Releases. -/

theorem State.memWf.endEntry {id : Nat} (h : s.memWf) : (s.endEntry id).memWf := h.set

theorem State.memWf.endFence {g : GRef} (h : s.memWf) : (s.endFence g).memWf := by
  unfold State.endFence
  split
  · split
    · exact h.ite h.modGroup.acquire
    · exact h
  · exact h

/-! Pages by frame, and their notices (R322, R326, R331, R337). -/

theorem State.memWf.pageNotice {kind word f : Nat} (h : s.memWf) : (s.pageNotice kind word f).memWf := h.foldl (fun _ _ hu => hu.ite hu.notify)
theorem State.memWf.eccNotice {pas : List Nat} (h : s.memWf) : (s.eccNotice pas).memWf := h.foldl (fun _ _ hu => hu.pageNotice)
theorem eccThrow_memWf {i : Iss} {a : Nat} {pas : List Nat} : (eccThrow i a pas).memWf :=
  fun u (hu : u.memWf) => (State.memWf.ite hu.localNotice hu.eccNotice).issueRaises

theorem State.memWf.addAt {ctx va x : Nat} {plain : Bool} {b : List Starter} {launch : Nat} {task : Bool} {op entry : Nat} (h : s.memWf) :
    (s.addAt ctx va x plain b launch task op entry).memWf :=
  by
  unfold State.addAt
  dsimp only
  split
  · exact h.set
  split
  · refine State.memWf.ite (h.raiseGrid.ite h.raiseStarters) ?_
    exact State.memWf.ite (h.eccNotice.raiseGrid.ite h.eccNotice.raiseStarters) h.addPa
  · exact h.raiseGrid.ite h.raiseStarters
  · exact h.newFault.set

theorem State.memWf.taskEcc {t : Team} (h : s.memWf) : (s.taskEcc t).memWf := by
  unfold State.taskEcc
  split
  · exact h
  · exact h.set

/-! Performing a word whose checks are over. -/

theorem State.memWf.insertEntry {e : PathEntry} (h : s.memWf) : (s.insertEntry e).memWf := by
  unfold State.insertEntry
  refine h.set.after.ite ?_
  split <;> exact h.set.after

theorem State.memWf.pushEntry {e : PathEntry} (h : s.memWf) : (s.pushEntry e).memWf := h.set.insertEntry
theorem State.memWf.writeTeam {t space a : Nat} {b : List Byte} (h : s.memWf) : (s.writeTeam t space a b).memWf :=
  (h.modTeam fun _ hx => hx.modBuf fun _ hm => Mem.wf_writeBytes _ _ _ hm).evalCounters

theorem State.memWf.loadFirst {e : PathEntry} (h : s.memWf) : (s.loadFirst e).memWf := h.foldl (fun _ _ hu => by
    split
    · exact hu.ite hu.set
    · exact hu)

theorem State.memWf.doStore {t : Team} {e : PathEntry} (h : s.memWf) : (s.doStore t e).memWf :=
  h.loadFirst.insertEntry.storeL1.ite (h.loadFirst.writeTeam.ite h.loadFirst.insertEntry)
theorem State.memWf.doLoad {t : Team} {mw : MemWord} {pas : List (Acc × Nat)} {acq : Option Nat} (h : s.memWf) : (s.doLoad t mw pas acq).memWf :=
  State.memWf.ite (h.foldl (fun _ _ hu => hu.set.after)).park (h.foldl (fun _ _ hu => hu.set.after))

theorem State.memWf.parkAtom {t : Team} {mw : MemWord} {pas : List (Acc × Nat)} (h : s.memWf) : (s.parkAtom t mw pas).memWf := by
  unfold State.parkAtom
  split
  · exact h.park.ite h
  · exact h

theorem State.memWf.askRings {coord : Nat} (h : s.memWf) : (s.askRings coord).memWf := h.foldl (fun _ _ hu => hu.ite hu.sched)

theorem State.memWf.packRec {t : Team} {r : SpawnRec} (h : s.memWf) : (s.packRec t r).memWf := by
  unfold State.packRec
  dsimp only
  split
  · exact h.modCore.sched.ite h.modCore
  · exact h.set.modCore.sched

theorem State.memWf.gather {t : Team} (h : s.memWf) : (s.gather t).memWf := h.modCore.foldl (fun _ _ hu => hu.packRec)

theorem State.memWf.offerSpawn {t : Team} {r : SpawnRec} (h : s.memWf) : (s.offerSpawn t r).2.memWf := by
  unfold State.offerSpawn
  split
  · dsimp only
    rw [apply_ite Prod.snd, apply_ite Prod.snd]
    exact State.memWf.ite h.modCore.gather (State.memWf.ite h.modTeam.sched h)
  · exact h

theorem State.memWf.doSpawn {t : Team} {mw : MemWord} {k : Nat} (h : s.memWf) : (s.doSpawn t mw k).memWf :=
  State.memWf.landFrom (h.foldlSnd (fun _ _ hq => hq.offerSpawn))

theorem State.memWf.perform {t : Team} {mw : MemWord} {pas : List (Acc × Nat)} (h : s.memWf) : (s.perform t mw pas).memWf := by
  unfold State.perform
  split
  · exact h.doLoad
  · exact h.foldl (fun _ _ hu => hu.doStore)
  · exact (h.foldl (fun _ _ hu => (hu.loadFirst.dropLine.ite hu.loadFirst).insertEntry)).parkAtom
  · exact (h.foldl (fun _ _ hu => (hu.loadFirst.dropLine.ite hu.loadFirst).insertEntry)).parkAtom
  · exact (h.foldl (fun _ _ hu => (hu.loadFirst.dropLine.ite hu.loadFirst).insertEntry)).parkAtom
  · exact (h.foldl (fun _ _ hu => (hu.loadFirst.dropLine.ite hu.loadFirst).insertEntry)).parkAtom
  · split
    · exact h
    · exact h.park.evalCounters
  · exact h.doSpawn
  · exact h
  · exact h
  · exact h

theorem State.memWf.runWalk {w : Walk} (h : s.memWf) : (s.runWalk w).memWf := h.after
theorem State.memWf.startWalk {coord ctx va : Nat} (h : s.memWf) : (s.startWalk coord ctx va).memWf := h.ite (h.set.runWalk.ite h.set)

theorem State.memWf.enterWord {t : Team} {mw : MemWord} {u : State} (h : s.memWf) (hu : s.enterWord t mw = .ok u) : u.memWf := by
  unfold State.enterWord at hu
  extract_lets pc tr misses need prot filled reads b orph absent at hu
  split at hu
  · split at hu
    · cases hu
      exact (h.foldl fun _ _ hv => hv.startWalk).modGroup
    split at hu
    · cases hu
    · cases hu
      refine State.memWf.perform (State.memWf.modGroup (h.foldl fun _ _ hv => ?_))
      split
      · exact hv.modCore
      · exact hv
  · split at hu
    · cases hu
    split at hu <;> cases hu
    · exact h.park.modGroup
    · exact h.modGroup.perform

theorem State.memWf.waitList {i : Iss} {keys : List (List Nat)} (h : s.memWf) : (waitList i keys s).memWf := h.modGroup.issueStalls

theorem State.memWf.startWord {i : Iss} {act : MemAct} {space : Nat} {dst : MDst} {accs : List Acc} {lanes : List Nat} (h : s.memWf) :
    (startWord i s act space dst accs lanes).memWf :=
  by
  unfold Machine.startWord
  refine Body.memWf_ite (fun _ hu => hu.waitList) ?_
  split
  · next u hu =>
      exact h.set.modGroup.enterWord hu
  · exact trivial

theorem State.memWf.fetchPage {i : Iss} {va size : Nat} {wr : Bool} (h : s.memWf) : (fetchPage i va size wr s).memWf := h.startWalk.modGroup

theorem State.memWf.holdFetch {i : Iss} {va size : Nat} {wr : Bool} : (holdFetch i va size wr s).memWf := by
  unfold Machine.holdFetch
  intro u hu
  split
  · exact hu.waitList
  · exact hu.fetchPage

theorem State.memWf.failHeld {g : GRef} {mw : MemWord} {l : List LaneThrow} (h : s.memWf) : (s.failHeld g mw l).memWf := h.modGroup.raise

theorem State.memWf.retryHeld {g : GRef} (h : s.memWf) : (s.retryHeld g).memWf := by
  unfold State.retryHeld
  split
  · split
    · exact h
    dsimp only
    split
    · next u hu =>
        exact h.modGroup.enterWord hu
    · exact h.modGroup.failHeld
  · exact h

theorem State.memWf.wakeLines {tid : Nat} (h : s.memWf) : (s.wakeLines tid).memWf := by
  unfold State.wakeLines
  split
  · exact h
  · exact h.foldl (fun _ _ hu => hu.retryHeld)

/-! Addresses. -/

theorem State.memWf.loadBody {space : Nat} {x4 : Bool} {acq : Option Nat} {i : Iss} (h : s.memWf) : (loadBody space x4 acq i s).memWf := by
  unfold Machine.loadBody
  refine Body.memWf_ite h ?_
  refine Body.memWf_ite trivial ?_
  split
  · exact h.startWord
  · exact trivial

theorem State.memWf.storeBody {space : Nat} {x4 : Bool} {rel : Option Nat} {i : Iss} (h : s.memWf) : (storeBody space x4 rel i s).memWf := by
  unfold Machine.storeBody
  refine Body.memWf_ite h ?_
  refine Body.memWf_ite trivial ?_
  split
  · exact h.startWord
  · exact trivial

theorem State.memWf.ctmBody {load x4 : Bool} {i : Iss} (h : s.memWf) : (ctmBody load x4 i s).memWf := by
  unfold Machine.ctmBody
  refine Body.memWf_ite h ?_
  refine Body.memWf_ite trivial ?_
  refine Body.memWf_ite trivial ?_
  refine Body.memWf_ite (h.modGroup.foldl (fun _ _ hu => hu.set.after)) ?_
  exact h.foldl (fun _ _ hu => hu.foldl (fun _ _ hv => hv.pushEntry))

theorem State.memWf.bodyLd {i : Iss} (h : s.memWf) : (bodyLd i s).memWf := Body.memWf_ite h.ctmBody h.loadBody
theorem State.memWf.bodySt {i : Iss} (h : s.memWf) : (bodySt i s).memWf := Body.memWf_ite h.ctmBody h.storeBody
theorem State.memWf.bodyLdacq {i : Iss} (h : s.memWf) : (bodyLdacq i s).memWf := h.loadBody
theorem State.memWf.bodyStrel {i : Iss} (h : s.memWf) : (bodyStrel i s).memWf := h.storeBody

theorem State.memWf.atomBody {act : MemAct} {size : Nat} {dst : MDst} {data : Nat → Nat} {i : Iss} (h : s.memWf) : (atomBody act size dst data i s).memWf := by
  unfold Machine.atomBody
  refine Body.memWf_ite h ?_
  refine Body.memWf_ite trivial ?_
  split
  · exact h.startWord
  · exact trivial

theorem State.memWf.bodyAtom {i : Iss} (h : s.memWf) : (bodyAtom i s).memWf := h.atomBody
theorem State.memWf.bodyRed {i : Iss} (h : s.memWf) : (bodyRed i s).memWf := Body.memWf_ite h.atomBody h.atomBody

theorem State.memWf.bodyFence {i : Iss} (h : s.memWf) : (bodyFence i s).memWf := by
  unfold Machine.bodyFence
  refine Body.memWf_ite h ?_
  refine Body.memWf_ite trivial ?_
  exact State.memWf.ite (h.ite h.pushEntry) (h.ite h.pushEntry).modGroup.endFence

theorem State.memWf.bodyPref {i : Iss} (h : s.memWf) : (bodyPref i s).memWf := by
  unfold Machine.bodyPref
  refine Body.memWf_ite trivial ?_
  refine State.memWf.foldlSnd h fun y l hy => ?_
  dsimp only
  rw [apply_ite Prod.snd]
  refine State.memWf.ite hy ?_
  split
  · rw [apply_ite Prod.snd]
    exact State.memWf.ite hy (hy.fillL1.ite hy)
  · exact hy

theorem State.memWf.bodyProbe {i : Iss} (h : s.memWf) : (bodyProbe i s).memWf := by
  unfold Machine.bodyProbe
  refine Body.memWf_ite trivial ?_
  refine Body.memWf_ite trivial ?_
  refine Body.memWf_ite h ?_
  split <;> exact h.land

theorem State.memWf.bodyStream {out : Bool} {i : Iss} (h : s.memWf) : (bodyStream out i s).memWf := by
  unfold Machine.bodyStream
  refine Body.memWf_ite h ?_
  refine Body.memWf_ite trivial ?_
  split
  · exact trivial
  · exact Body.memWf_ite trivial (h.set.ite h.set.after)

/-! The scalar range (R134 to R138). -/

theorem State.memWf.scalarBody {f : Iss → W64} {i : Iss} (h : s.memWf) : (scalarBody f i s).memWf := Body.memWf_ite h h.land
theorem State.memWf.scmpBody {i : Iss} (h : s.memWf) : (scmpBody i s).memWf := Body.memWf_ite h h.land
theorem State.memWf.sgetBody {i : Iss} (h : s.memWf) : (sgetBody i s).memWf := Body.memWf_ite h h.land
theorem State.memWf.pause {i : Iss} {n : Nat} (h : s.memWf) : (s.pause i n).memWf := h.ite h.modGroup.sched
theorem State.memWf.setMode {g : GRef} {m : W64} (h : s.memWf) : (s.setMode g m).memWf := h.modGroup
theorem State.memWf.ssetBody {i : Iss} (h : s.memWf) : (ssetBody i s).memWf := Body.memWf_ite h (Body.memWf_ite h.setMode h.pause)

/-! The control range (R199 to R222). -/

theorem State.memWf.setPcs {g : GRef} {l : List (Nat × Nat)} (h : s.memWf) : (s.setPcs g l).memWf := h.modGroup

/-! Branches, calls and returns. -/

theorem State.memWf.bodyBra {i : Iss} (h : s.memWf) : (bodyBra i s).memWf := Body.memWf_ite h (Body.memWf_ite trivial h.setPcs)
theorem State.memWf.bodyJmpi {i : Iss} (h : s.memWf) : (bodyJmpi i s).memWf := Body.memWf_ite h.setPcs trivial

theorem State.memWf.bodyCall {i : Iss} (h : s.memWf) : (bodyCall i s).memWf := by
  unfold Machine.bodyCall
  refine Body.memWf_ite h ?_
  refine Body.memWf_ite trivial ?_
  split
  · exact Body.memWf_ite trivial h.setPcs.startWord
  · exact trivial

theorem State.memWf.bodyRet {i : Iss} (h : s.memWf) : (bodyRet i s).memWf := by
  unfold Machine.bodyRet
  refine Body.memWf_ite h ?_
  refine Body.memWf_ite trivial ?_
  split
  · exact h.setPcs.startWord
  · exact trivial

/-! Barriers. -/

theorem State.memWf.wakeBar {t : Team} {w : Wake} {scope : Nat} (h : s.memWf) : (s.wakeBar t w scope).memWf := h.foldl (fun _ _ hu => hu.wakeGroup.acquire)

theorem State.memWf.evalBarId {tid id : Nat} (h : s.memWf) : (s.evalBarId tid id).memWf := by
  unfold State.evalBarId
  split
  · exact h
  · exact h.modTeam.foldl (fun _ _ hu => hu.wakeBar)

theorem State.memWf.arriveCluster {tid id : Nat} (h : s.memWf) : (s.arriveCluster tid id).memWf := by
  unfold State.arriveCluster
  split
  · exact h
  · exact h.modTeam.modCluster

theorem State.memWf.evalClusterId {l c id : Nat} (h : s.memWf) : (s.evalClusterId l c id).memWf := by
  unfold State.evalClusterId
  split
  · exact h
  · exact State.memWf.ite (h.modCluster.foldl (fun _ _ hu => hu.wakeBar.modTeam)) h

theorem State.memWf.evalBars (h : s.memWf) : s.evalBars.memWf :=
  ((h.foldl (fun _ _ hu => hu.foldl (fun _ _ hv => hv.evalBarId))).foldl (fun _ _ hu => hu.foldl (fun _ _ hv => hv.arriveCluster))).foldl
    (fun _ _ hu => hu.foldl (fun _ _ hv => hv.foldl (fun _ _ hw => hw.evalClusterId)))

theorem State.memWf.barBody {cl : Bool} {i : Iss} (h : s.memWf) : (barBody cl i s).memWf := by
  unfold Machine.barBody
  refine Body.memWf_ite h (Body.memWf_ite trivial ?_)
  exact State.memWf.evalBars (State.memWf.park (h.modTeam fun _ hx => Team.memWf.ite hx hx))

/-! Exits and pauses. -/

theorem State.memWf.discardResults {g : GRef} {uid : Nat} {m : W64} (h : s.memWf) : (s.discardResults g uid m).memWf := by
  unfold State.discardResults
  dsimp only
  split
  · exact h.set.modCore
  · exact h.set

theorem State.memWf.endLanes {g : GRef} {m : W64} (h : s.memWf) : (s.endLanes g m).memWf := by
  unfold State.endLanes
  split
  · exact h
  dsimp only
  split
  · refine State.memWf.ite ?_ h.discardResults.modGroup
    exact (h.discardResults.modGroup.evalBars.foldl (fun _ _ hu => hu.sched)).sched
  · exact h.discardResults.modGroup

theorem State.memWf.joinAdd {coord : Nat} {b : Starter} {join k : Nat} (h : s.memWf) : (s.joinAdd coord b join k).memWf := h.pushEntry
theorem State.memWf.bodyExit {i : Iss} (h : s.memWf) : (bodyExit i s).memWf := Body.memWf_ite h (Body.memWf_ite trivial (h.joinAdd.ite h).endLanes)
theorem State.memWf.bodyNop {x : Iss} (h : s.memWf) : (bodyNop x s).memWf := h
theorem State.memWf.bodyPause {i : Iss} (h : s.memWf) : (bodyPause i s).memWf := Body.memWf_ite h (Body.memWf_ite h.pause h.modGroup)

/-! WAITGE and TRAP. -/

theorem State.memWf.bodyWaitge {i : Iss} (h : s.memWf) : (bodyWaitge i s).memWf := by
  unfold Machine.bodyWaitge
  refine Body.memWf_ite h ?_
  refine Body.memWf_ite trivial ?_
  split
  · exact trivial
  · exact Body.memWf_ite trivial h.startWord

theorem State.memWf.bodyTrap {i : Iss} (h : s.memWf) : (bodyTrap i s).memWf := Body.memWf_ite h (Body.memWf_ite trivial h.modGroup.park.sched)

/-! Try regions. -/

theorem State.memWf.steerTo {g : GRef} {lanes : W64} {pc : Nat} {below : List TryEntry} {r : Rec} {inst : Nat} (h : s.memWf) :
    (s.steerTo g lanes pc below r inst).memWf :=
  h.set.modGroup.modTeam

theorem State.memWf.bodyTry {i : Iss} (h : s.memWf) : (bodyTry i s).memWf := by
  unfold Machine.bodyTry
  refine Body.memWf_ite h ?_
  refine Body.memWf_ite trivial ?_
  refine Body.memWf_ite trivial ?_
  refine Body.memWf_ite h.set.modGroup ?_
  dsimp only
  split
  · exact State.memWf.modGroup (State.memWf.set (State.memWf.modGroup h.modTeam) rfl rfl)
  refine Body.memWf_ite trivial ?_
  split
  · exact h.modGroup.steerTo
  · exact h.modGroup.set.modGroup

theorem State.memWf.bodyEndtry {i : Iss} (h : s.memWf) : (bodyEndtry i s).memWf := by
  unfold Machine.bodyEndtry
  refine Body.memWf_ite h ?_
  refine Body.memWf_ite ?_ (Body.memWf_ite trivial h.modGroup)
  split
  · exact Body.memWf_ite h.modGroup trivial
  · exact trivial

theorem State.memWf.bodyThrow {i : Iss} (h : s.memWf) : (bodyThrow i s).memWf := Body.memWf_ite h (Body.memWf_ite trivial h.setPcs.raise)

theorem State.memWf.bodyRethrow {i : Iss} (h : s.memWf) : (bodyRethrow i s).memWf := by
  unfold Machine.bodyRethrow
  refine Body.memWf_ite h ?_
  split
  · exact trivial
  · exact h.modGroup.noteTask.throwInto

/-! SPAWN, MODE, breakpoints. -/

theorem State.memWf.bodySpawn {i : Iss} (h : s.memWf) : (bodySpawn i s).memWf := by
  unfold Machine.bodySpawn
  refine Body.memWf_ite h ?_
  exact Body.memWf_ite trivial (Body.memWf_ite trivial (Body.memWf_ite trivial h.startWord))

theorem State.memWf.bodySetmode {i : Iss} (h : s.memWf) : (bodySetmode i s).memWf := Body.memWf_ite h h.setMode
theorem State.memWf.bodyGetmode {i : Iss} (h : s.memWf) : (bodyGetmode i s).memWf := Body.memWf_ite (Body.memWf_ite h h.land) h.land
theorem State.memWf.bodyBkpt {i : Iss} (h : s.memWf) : (bodyBkpt i s).memWf := Body.memWf_ite h (Body.memWf_ite trivial (Body.memWf_ite h h.haltGroup))

/-! What the copy engines, rings and targets share. -/

theorem State.memWf.modEngine {e : Nat} {f : Engine → Engine} (h : s.memWf) : (s.modEngine e f).memWf := h.set
theorem State.memWf.turnEngine {e a2 : Nat} (h : s.memWf) : (s.turnEngine e a2).memWf := h.ite h.sched
theorem State.memWf.armEngine {e : Nat} (h : s.memWf) : (s.armEngine e).memWf := h.turnEngine

/-! Stages (R266). -/

theorem State.memWf.evalRings {tid : Nat} (h : s.memWf) : (s.evalRings tid).memWf := by
  unfold State.evalRings
  split
  · exact h
  · exact h.foldl (fun _ _ hu => by
    split
    · exact State.memWf.ite (hu.wakeGroup.acquire.raiseStarter.ite hu.wakeGroup.acquire) hu
    · exact hu)

theorem State.memWf.stageAdd {tid n b : Nat} (h : s.memWf) : (s.stageAdd tid n b).memWf := h.modTeam.evalRings
theorem State.memWf.stagePoison {tid n : Nat} (h : s.memWf) : (s.stagePoison tid n).memWf := h.modTeam.evalRings

/-! Bytes as an engine reads and writes them. -/

theorem State.memWf.engNotice {o : EOp} {l : List (Nat × Nat × Nat)} (h : s.memWf) : (s.engNotice o l).memWf := (h.localNotice.ite h).eccNotice

theorem State.memWf.engPiece {o : EOp} {tid a : Nat} {p : Nat × Nat × Nat} {b : List Byte} (h : s.memWf) :
    State.memWf (if p.1 = 0 then
        match s.engWalk o a true with
        | .ok y => s.writePa y.pa b
        | _ => s
      else s.writeTeam tid p.1 a b) := by
  refine State.memWf.ite ?_ h.writeTeam
  split
  · exact h.writePa
  · exact h

theorem State.memWf.engWrite {o : EOp} {tid : Nat} {l : List (Nat × Nat × Nat)} {b : List Byte} (h : s.memWf) : (s.engWrite o tid l b).memWf := by
  unfold State.engWrite
  extract_lets cut written glob cleansed
  have hw : written.memWf := State.memWf.foldlFst h fun q p hq => hq.engPiece
  have hc : cleansed.memWf := hw.setDram hw.dram
  exact hc.foldl fun _ _ hu => hu.modTeam fun _ hx => hx.modBuf

/-! Teams at positions, lines. -/

theorem State.memWf.setPresent {o : EOp} {c : Nat} {teams : List Team} (h : s.memWf) : (s.setPresent o c teams).memWf := h.foldl (fun _ _ hu => by
    refine hu.ite ?_
    exact (hu.modTeam (fun _ hx => hx.foldl (fun _ _ hx2 => hx2.modBuf))).wakeLines)

/-! Targets and ends. -/

theorem State.memWf.countBytes {o : EOp} {n : Nat} (h : s.memWf) : (s.countBytes o n).memWf := by
  unfold State.countBytes
  refine h.ite ?_
  split
  · exact h
  · exact h.addAt
  · exact h.stageAdd

theorem State.memWf.poisonOp {id : Nat} (h : s.memWf) : (s.poisonOp id).memWf := by
  unfold State.poisonOp
  split
  · exact h
  refine h.ite ?_
  dsimp only
  split
  · exact h.modOp
  · exact h.modOp.addAt.ite h.modOp
  · exact h.modOp.stagePoison

theorem State.memWf.leaveEngine {o : EOp} (h : s.memWf) : (s.leaveEngine o).memWf := h.modEngine
theorem State.memWf.enterEngine {o : EOp} (h : s.memWf) : (s.enterEngine o).memWf := h.modEngine.armEngine
theorem State.memWf.dropOp {o : EOp} (h : s.memWf) : (s.dropOp o).memWf := (h.optionMapGetD (fun _ => h.withdrawFault)).leaveEngine.endLocks.set
theorem State.memWf.blurPiece {o : EOp} {t : Team} {x : Nat × Nat × Nat} (h : s.memWf) : (s.blurPiece o t x).memWf := h.ite h.drawBytes.engWrite
theorem State.memWf.blurBytes {o : EOp} (h : s.memWf) : (s.blurBytes o).memWf :=
  h.foldl (fun _ _ hu => hu.foldl (fun _ _ hv => hv.ite (hv.foldl (fun _ _ hw => hw.blurPiece))))

theorem State.memWf.orphanOp {o : EOp} (h : s.memWf) : (s.orphanOp o).memWf := h.foldl (fun _ _ hu => by
    refine hu.ite ?_
    exact hu.foldl (fun _ _ hv => by
    refine hv.ite ?_
    exact (hv.modTeam (fun _ hx => hx.foldl (fun _ _ hx2 => hx2.modBuf))).wakeLines))

theorem State.memWf.poisonTiles {o : EOp} (h : s.memWf) : (s.poisonTiles o).memWf := by
  unfold State.poisonTiles
  split
  · exact h.ite (h.foldl (fun _ _ hu => hu.addAt))
  · exact h

theorem State.memWf.unclear {o : EOp} (h : s.memWf) : (s.unclear o).memWf := h.foldl (fun _ _ hu => hu.ite (hu.modTeam (fun _ hx => hx.modBuf)).wakeLines)

theorem State.memWf.stopOp {id : Nat} {undef : Bool} (h : s.memWf) : (s.stopOp id undef).memWf := by
  unfold State.stopOp
  split
  · exact h
  refine State.memWf.ite ?_ ?_
  · exact (State.memWf.foldl (by
    refine State.memWf.ite ?_ ?_
    · exact (State.memWf.foldl (by
    split
    · exact (h.poisonOp.ite h.poisonOp.poisonTiles).withdrawFault
    · exact h.poisonOp.ite h.poisonOp.poisonTiles) (fun _ _ hu => hu.withdrawFault)).blurBytes
    · exact State.memWf.foldl (by
    split
    · exact (h.poisonOp.ite h.poisonOp.poisonTiles).withdrawFault
    · exact h.poisonOp.ite h.poisonOp.poisonTiles) (fun _ _ hu => hu.withdrawFault)) (fun _ _ hu => hu.ite (hu.modTeam (fun _ hx => hx.modBuf)).wakeLines)).endLocks.modOp
  · exact (State.memWf.orphanOp (by
    refine State.memWf.ite ?_ ?_
    · exact (State.memWf.foldl (by
    split
    · exact (h.poisonOp.ite h.poisonOp.poisonTiles).withdrawFault
    · exact h.poisonOp.ite h.poisonOp.poisonTiles) (fun _ _ hu => hu.withdrawFault)).blurBytes
    · exact State.memWf.foldl (by
    split
    · exact (h.poisonOp.ite h.poisonOp.poisonTiles).withdrawFault
    · exact h.poisonOp.ite h.poisonOp.poisonTiles) (fun _ _ hu => hu.withdrawFault))).dropOp

theorem State.memWf.failOp {id code value : Nat} (h : s.memWf) : (s.failOp id code value).memWf := by
  unfold State.failOp
  split
  · exact h
  · exact h.raiseStarters.stopOp

theorem State.memWf.setStreamQ {t : Team} {q : Nat} {out : Bool} {x : StreamQ} (h : s.memWf) : (s.setStreamQ t q out x).memWf :=
  State.memWf.ite (h.modTeam fun _ hx => Team.memWf.ite hx hx) h.modCore

theorem State.memWf.stopDesc {tid q : Nat} {x : StreamDesc} (h : s.memWf) : (s.stopDesc tid q x).memWf := by
  unfold State.stopDesc
  split
  · exact h
  refine h.ite ?_
  exact (h.setStreamQ.again.ite h.setStreamQ).foldl (fun _ _ hu => by
    dsimp only
    split
    · refine State.memWf.ite ?_ ?_
      · split
        · exact hu.withdrawFault
        · exact hu
      exact State.memWf.addAt (by
    split
    · exact hu.withdrawFault
    · exact hu)
    split
    · exact hu.withdrawFault
    · exact hu)

/-! CPY. -/

theorem State.memWf.bodyCpy {i : Iss} (h : s.memWf) : (bodyCpy i s).memWf := by
  unfold Machine.bodyCpy
  refine Body.memWf_ite h ?_
  refine Body.memWf_ite trivial ?_
  refine Body.memWf_ite trivial ?_
  refine Body.memWf_ite trivial ?_
  dsimp only
  split
  · refine Body.memWf_ite h.modOp.modGroup.sched ?_
    exact Body.memWf_ite trivial (h.set.modTeam (fun _ hx => hx.modBuf)).modGroup.sched
  · exact Body.memWf_ite trivial (h.set.modTeam (fun _ hx => hx.modBuf)).modGroup.sched

/-! CPYT. -/

theorem State.memWf.collTake {launch ctx cgrp : Nat} (h : s.memWf) : (s.collTake launch ctx cgrp).memWf := by
  unfold State.collTake
  split
  · exact h.modLaunch.ite h.modCtx
  · exact h

theorem State.memWf.startCpyt {i : Iss} {ctr : Nat} {r : Shape} (h : s.memWf) : (startCpyt i s ctr r).memWf := by
  unfold Machine.startCpyt
  refine Body.memWf_ite trivial ?_
  exact (State.memWf.ite (h.ite h.collTake).set ((h.ite h.collTake).set.modTeam (fun _ hx => hx.modBuf))).sched

theorem State.memWf.bodyCpyt {i : Iss} (h : s.memWf) : (bodyCpyt i s).memWf := by
  unfold Machine.bodyCpyt
  refine Body.memWf_ite h ?_
  refine Body.memWf_ite trivial ?_
  refine Body.memWf_ite trivial ?_
  refine Body.memWf_ite trivial ?_
  refine Body.memWf_ite trivial ?_
  split
  · exact State.memWf.holdFetch (s := s)
  extract_lets raw r
  clear_value r
  refine Body.memWf_ite trivial ?_
  refine Body.memWf_ite eccThrow_memWf ?_
  refine Body.memWf_ite trivial ?_
  refine Body.memWf_ite trivial ?_
  refine Body.memWf_ite trivial ?_
  exact Body.memWf_ite trivial (Body.memWf_ite trivial (Body.memWf_ite trivial h.startCpyt))

/-! CPYCAN and CTRADD. -/

theorem State.memWf.cancelTarget {t : Team} {x : Target} (h : s.memWf) : (s.cancelTarget t x).memWf := by
  unfold State.cancelTarget
  dsimp only
  split
  · refine State.memWf.ite (h.foldl (fun _ _ hu => hu.stopOp)) ?_
    exact (h.foldl (fun _ _ hu => hu.stopOp)).foldl (fun _ _ hu => hu.stopDesc)
  · exact h.foldl (fun _ _ hu => hu.stopOp)

theorem State.memWf.bodyCpycan {i : Iss} (h : s.memWf) : (bodyCpycan i s).memWf := by
  unfold Machine.bodyCpycan
  refine Body.memWf_ite h ?_
  refine Body.memWf_ite trivial ?_
  refine Body.memWf_ite ?_ (Body.memWf_ite trivial h.cancelTarget)
  exact Body.memWf_ite trivial (Body.memWf_ite trivial h.cancelTarget)

theorem State.memWf.bodyCtradd {i : Iss} (h : s.memWf) : (bodyCtradd i s).memWf := by
  unfold Machine.bodyCtradd
  refine Body.memWf_ite h ?_
  refine Body.memWf_ite trivial ?_
  split
  · exact h.startWord
  · exact trivial

/-! Queues (R259 to R263). -/

theorem State.memWf.modQueue {tid q : Nat} {f : HwQ → HwQ} (h : s.memWf) : (s.modQueue tid q f).memWf := h.modTeam

theorem State.memWf.serveQueue {n tid q : Nat} (h : s.memWf) : (State.serveQueue n s tid q).memWf := by
  induction n generalizing s with
  | zero => exact h
  | succ n ih =>
    unfold State.serveQueue
    split
    · exact h
    dsimp only
    split
    · exact h
    split
    · exact h
    split
    · exact h.modGroup
    · exact ih h.modQueue.modGroup.acquire

theorem State.memWf.serveNow {tid q : Nat} (h : s.memWf) : (s.serveNow tid q).memWf := by
  unfold State.serveNow
  split
  · exact h.serveQueue
  · exact h

theorem State.memWf.serve {tid q : Nat} (h : s.memWf) : (s.serve tid q).memWf := h.serveNow.sched.ite h
theorem State.memWf.serveAll (h : s.memWf) : s.serveAll.memWf := h.foldl (fun _ _ hu => hu.foldl (fun _ _ hv => hv.ite hv.serve))

theorem State.memWf.bodyQpush {i : Iss} (h : s.memWf) : (bodyQpush i s).memWf := by
  unfold Machine.bodyQpush
  refine Body.memWf_ite h ?_
  refine Body.memWf_ite trivial ?_
  refine Body.memWf_ite trivial ?_
  exact Body.memWf_ite trivial (h.modQueue.ite h.modQueue.set.sched).serve

theorem State.memWf.landRecs {g : GRef} {d : Nat} {l : List (Nat × List W32)} (h : s.memWf) : (s.landRecs g d l).memWf := h.land.set

theorem State.memWf.bodyQpop {i : Iss} (h : s.memWf) : (bodyQpop i s).memWf := by
  unfold Machine.bodyQpop
  refine Body.memWf_ite h ?_
  refine Body.memWf_ite trivial ?_
  refine Body.memWf_ite h.modQueue.modGroup.landRecs.land.sched ?_
  refine Body.memWf_ite trivial ?_
  exact Body.memWf_ite h.modGroup.modQueue.park.sched h.modGroup.modQueue.landRecs.acquire.sched

theorem State.memWf.bodyQsteal {i : Iss} (h : s.memWf) : (bodyQsteal i s).memWf := by
  unfold Machine.bodyQsteal
  refine Body.memWf_ite h ?_
  refine Body.memWf_ite trivial ?_
  exact Body.memWf_ite trivial (h.modGroup.foldl (fun _ _ hu => hu.set.after))

/-! Tasks (R264). -/

theorem State.memWf.enterTask {i : Iss} {desc pa : Nat} {raw : List Byte} {r w : List (Nat × Nat)} {dataVa : Nat} (h : s.memWf) :
    (enterTask i s desc pa raw r w dataVa).memWf :=
  h.writePa.set.sched

theorem State.memWf.bodyTsubmit {i : Iss} (h : s.memWf) : (bodyTsubmit i s).memWf := by
  unfold Machine.bodyTsubmit
  refine Body.memWf_ite h ?_
  refine Body.memWf_ite trivial ?_
  refine Body.memWf_ite trivial ?_
  refine Body.memWf_ite trivial ?_
  split
  · exact State.memWf.holdFetch (s := s)
  extract_lets raw nr nw join ranges rs ws unused kern kOk
  clear_value nr nw join ranges kOk
  refine Body.memWf_ite trivial ?_
  refine Body.memWf_ite eccThrow_memWf ?_
  refine Body.memWf_ite trivial ?_
  exact Body.memWf_ite trivial (Body.memWf_ite trivial (Body.memWf_ite trivial h.enterTask))

/-! Stage rings (R266 to R268). -/

theorem State.memWf.bodyRget {i : Iss} (h : s.memWf) : (bodyRget i s).memWf := by
  unfold Machine.bodyRget
  split
  refine Body.memWf_ite h ?_
  refine Body.memWf_ite trivial ?_
  refine Body.memWf_ite trivial ?_
  exact Body.memWf_ite trivial (Body.memWf_ite (Body.memWf_ite trivial h.acquire) h.park)

theorem State.memWf.pushRing {i : Iss} {free : Bool} {n b : Nat} (h : s.memWf) : (pushRing i s free n b).memWf := h.set.sched

theorem State.memWf.bodyRput {i : Iss} (h : s.memWf) : (bodyRput i s).memWf := by
  unfold Machine.bodyRput
  split
  refine Body.memWf_ite h ?_
  exact Body.memWf_ite trivial (Body.memWf_ite trivial (Body.memWf_ite trivial h.pushRing))

theorem State.memWf.bodyRfree {i : Iss} (h : s.memWf) : (bodyRfree i s).memWf := by
  unfold Machine.bodyRfree
  split
  refine Body.memWf_ite h ?_
  refine Body.memWf_ite trivial ?_
  exact Body.memWf_ite trivial (Body.memWf_ite trivial (Body.memWf_ite trivial h.pushRing))

/-! Holds. -/

theorem State.memWf.bodyRsv {i : Iss} (h : s.memWf) : (bodyRsv i s).memWf := by
  unfold Machine.bodyRsv
  refine Body.memWf_ite h ?_
  refine Body.memWf_ite trivial ?_
  refine Body.memWf_ite trivial ?_
  refine Body.memWf_ite trivial ?_
  split
  · exact trivial
  · exact Body.memWf_ite eccThrow_memWf (Body.memWf_ite trivial (Body.memWf_ite trivial h.modTeam))

theorem State.memWf.bodyRls {i : Iss} (h : s.memWf) : (bodyRls i s).memWf := Body.memWf_ite h (Body.memWf_ite trivial (Body.memWf_ite trivial h.modTeam))

/-! Array operations. -/

theorem State.memWf.enterMat {i : Iss} {o : MOp} {locks : List Lock} {fol : Option (Team × List Lock)} {ev : Instr} (h : s.memWf) :
    (enterMat i s o locks fol ev).memWf :=
  by
  unfold Machine.enterMat
  refine Body.memWf_ite trivial ?_
  exact State.memWf.sched (by
    split
    · exact h.set.modCore.modCore
    · exact h.set.modCore)

theorem State.memWf.bodyMzero {i : Iss} (h : s.memWf) : (bodyMzero i s).memWf := by
  unfold Machine.bodyMzero
  refine Body.memWf_ite h ?_
  refine Body.memWf_ite trivial ?_
  split
  · exact trivial
  · exact h.enterMat

theorem State.memWf.mmaBody {kind : Nat} {i : Iss} (h : s.memWf) : (mmaBody kind i s).memWf := by
  unfold Machine.mmaBody
  refine Body.memWf_ite h ?_
  refine Body.memWf_ite trivial ?_
  split
  · refine Body.memWf_ite trivial ?_
    refine Body.memWf_ite trivial ?_
    split
    · exact trivial
    refine Body.memWf_ite h.enterMat ?_
    split
    · exact trivial
    refine Body.memWf_ite trivial ?_
    exact Body.memWf_ite (fun _ hu => hu.modGroup.sched.issueStalls) h.enterMat
  · exact trivial

theorem State.memWf.bodyMma {i : Iss} (h : s.memWf) : (bodyMma i s).memWf := h.mmaBody
theorem State.memWf.bodyMmap {i : Iss} (h : s.memWf) : (bodyMmap i s).memWf := h.mmaBody
theorem State.memWf.bodyMmas {i : Iss} (h : s.memWf) : (bodyMmas i s).memWf := h.mmaBody

/-! Drains (R308, R309). -/

theorem State.memWf.bodyMdrain {i : Iss} (h : s.memWf) : (bodyMdrain i s).memWf := by
  unfold Machine.bodyMdrain
  refine Body.memWf_ite h ?_
  refine Body.memWf_ite trivial ?_
  refine Body.memWf_ite ?_ ?_
  · refine Body.memWf_ite trivial ?_
    split
    · exact trivial
    · exact Body.memWf_ite trivial h.modGroup.enterMat
  refine Body.memWf_ite trivial ?_
  refine Body.memWf_ite trivial ?_
  refine Body.memWf_ite trivial ?_
  refine Body.memWf_ite trivial ?_
  refine Body.memWf_ite trivial ?_
  refine Body.memWf_ite trivial ?_
  refine Body.memWf_ite trivial ?_
  refine Body.memWf_ite trivial ?_
  exact (h.modTeam (fun _ hx => hx.foldl (fun _ _ hx2 => hx2.modBuf))).enterMat

theorem State.memWf.bodyMfence {i : Iss} (h : s.memWf) : (bodyMfence i s).memWf := by
  unfold Machine.bodyMfence
  refine Body.memWf_ite h ?_
  exact Body.memWf_ite trivial (Body.memWf_ite (fun _ hu => hu.modGroup.issueStalls) h)

/-! Frames. -/

theorem State.memWf.takeRun {die n : Nat} {r : Nat × State} (h : s.memWf) (hr : s.takeRun die n = some r) : r.2.memWf := by
  unfold State.takeRun at hr
  dsimp only at hr
  split at hr <;> cases hr
  exact (h.setDram (Mem.wf_clear _ _ _ h.dram)).set

theorem State.memWf.takeAny {die n : Nat} {r : Nat × State} (h : s.memWf) (hr : s.takeAny die n = some r) : r.2.memWf := by
  obtain ⟨j, -, hj⟩ := List.exists_of_findSome?_eq_some hr
  exact h.takeRun hj

theorem State.memWf.takeFrames {n die : Nat} {r : List Nat × State} (h : s.memWf) (hr : State.takeFrames n s die = some r) : r.2.memWf := by
  induction n generalizing s r with
  | zero =>
    cases hr
    exact h
  | succ n ih =>
    unfold State.takeFrames at hr
    split at hr
    · cases hr
    · next f u hu =>
      obtain ⟨x, hx, rfl⟩ := Option.map_eq_some_iff.1 hr
      exact ih (r := x) (h.takeAny hu) hx

/-! Tables (R240, R241). -/

theorem State.memWf.putEntry {t level va : Nat} {w : W64} (h : s.memWf) : (s.putEntry t level va w).memWf :=
  h.setDram (Mem.wf_writeN _ _ _ _ h.dram)

theorem State.memWf.newTable {t level va : Nat} {r : Nat × State} (h : s.memWf) (hr : s.newTable t level va = some r) : r.2.memWf := by
  obtain ⟨x, hx, rfl⟩ := Option.map_eq_some_iff.1 hr
  exact (h.takeAny hx).putEntry

theorem State.memWf.tableAt {va level n t : Nat} {r : Nat × State} (h : s.memWf) (hr : State.tableAt va level n s t = some r) : r.2.memWf := by
  induction n generalizing s t r with
  | zero =>
    cases hr
    exact h
  | succ n ih =>
    unfold State.tableAt at hr
    split at hr
    · cases hr
      exact h
    dsimp only at hr
    split at hr
    · exact ih h hr
    split at hr
    · next f u hu => exact ih (h.newTable hu) hr
    · cases hr

theorem State.memWf.freeFrames {l : List Nat} (h : s.memWf) : (s.freeFrames l).memWf := h.set

theorem State.memWf.setLeaf {root va level : Nat} {w : W64} {u : State} (h : s.memWf) (hu : s.setLeaf root va level w = some u) : u.memWf := by
  obtain ⟨x, hx, rfl⟩ := Option.map_eq_some_iff.1 hu
  exact ((h.tableAt hx).freeFrames.ite (h.tableAt hx)).putEntry

theorem State.memWf.splitPage {va n t : Nat} {u : State} (h : s.memWf) (hu : State.splitPage va n s t = some u) : u.memWf := by
  induction n generalizing s t with
  | zero =>
    cases hu
    exact h
  | succ n ih =>
    unfold State.splitPage at hu
    dsimp only at hu
    split at hu
    · cases hu
      exact h
    split at hu
    · exact ih h hu
    split at hu
    · cases hu
      exact (h.foldl fun _ _ hv => hv.putEntry).ite h
    split at hu
    · cases hu
    · next f v hv => exact ih ((h.newTable hv).foldl fun _ _ hw => hw.putEntry) hu

theorem State.memWf.setFrame {root va pfn : Nat} {old : Tr} {u : State} (h : s.memWf) (hu : s.setFrame root va pfn old = some u) : u.memWf := by
  obtain ⟨v, hv, hl⟩ := Option.bind_eq_some_iff.1 hu
  exact (h.splitPage hv).setLeaf hl

theorem State.memWf.dropRange {c : Ctx} {va len : Nat} {r : State × List Nat} (h : s.memWf) (hr : s.dropRange c va len = some r) : r.1.memWf := by
  obtain ⟨v, hv, rfl⟩ := Option.map_eq_some_iff.1 hr
  obtain ⟨u, hu, hv⟩ := Option.bind_eq_some_iff.1 hv
  exact ((h.splitPage hu).splitPage hv).foldl fun _ _ hw => hw.setDram (Mem.wf_writeN _ _ _ _ hw.dram)

/-! Images. -/

theorem State.memWf.ctxWrite {ctx va : Nat} {b : List Byte} (h : s.memWf) : (s.ctxWrite ctx va b).memWf := by
  refine (h.setDram (wf_foldl h.dram fun m p hm => ?_)).evalCounters
  split
  · exact Mem.wf_writeBytes _ _ _ hm
  · exact hm

theorem State.memWf.withCopy {num origin : Nat} {u : State} (h : s.memWf) (hu : s.withCopy num origin = some u) : u.memWf := by
  unfold State.withCopy at hu
  split at hu
  · cases hu
  split at hu
  · cases hu
    exact h.setDram (wf_putBytes h.dram)
  dsimp only at hu
  split at hu
  · cases hu
  · next hv =>
    cases hu
    exact ((h.takeFrames hv).setDram (wf_putBytes (h.takeFrames hv).dram)).set

theorem State.memWf.setData {im : Image} {origin va : Nat} {b : Byte} (h : s.memWf) : (s.setData im origin va b).memWf := by
  unfold State.setData
  dsimp only
  split
  · exact h.ctxWrite.setDram (Mem.wf_writeBytes _ _ _ h.ctxWrite.dram)
  · exact h.ctxWrite

theorem State.memWf.patchData {num origin : Nat} (h : s.memWf) : (s.patchData num origin).memWf := by
  unfold State.patchData
  split
  · exact h
  · exact h.foldl (fun _ _ hu => hu.setData)

/-! A team as dispatched. -/

theorem State.memWf.startSlice {coord ctx : Nat} (h : s.memWf) : (s.startSlice coord ctx).memWf := h.ite h.modCore.sched

theorem State.memWf.addTeam {t : Team} (h : s.memWf) (ht : t.memWf) : (s.addTeam t).memWf := by
  refine State.memWf.startSlice ⟨h.dram, fun x hx => ?_⟩
  rcases List.mem_append.1 hx with hx | hx
  · exact h.2 x hx
  · rw [List.mem_singleton.1 hx]
    exact ht

theorem State.memWf.kick (h : s.memWf) : s.kick.memWf := h.sched.foldl (fun _ _ hu => hu.sched)

/-! What a throw cancels (R54, R178, R208, R263, R291, R312). -/

theorem State.memWf.voidDst {g : GRef} {lanes : List Nat} {d : MDst} (h : s.memWf) : (s.voidDst g lanes d).memWf := h.modGroup

/-! Loads, atomics and steals. -/

theorem State.memWf.cancelLoads {ins : Starter → W64} (h : s.memWf) : (s.cancelLoads ins).memWf := by
  refine h.foldl fun u r hu => ?_
  extract_lets m voided
  have hv : voided.memWf := by
    unfold voided
    split
    · exact hu.voidDst.ite hu
    · exact hu.voidDst
    · exact hu
  exact hu.ite hv.set

theorem State.memWf.cancelAtoms {ins : Starter → W64} (h : s.memWf) : (s.cancelAtoms ins).memWf :=
  (h.foldl (fun _ _ hu => hu.voidDst.set)).foldl (fun _ _ hu => hu.voidDst.set)
theorem State.memWf.cancelSteals {ins : Starter → W64} (h : s.memWf) : (s.cancelSteals ins).memWf := h.foldl (fun _ _ hu => hu.modGroup.set)

/-! Waits of a group. -/

theorem State.memWf.cancelHeld {whole : Bool} {g : GRef} {ins : Starter → W64} (h : s.memWf) : (s.cancelHeld whole g ins).memWf := by
  unfold State.cancelHeld
  split
  · exact h
  split
  · exact h
  refine h.ite ?_
  exact State.memWf.modGroup (by
    split
    · exact h.voidDst.ite h
    · exact h.voidDst)

theorem State.memWf.dropCalls {ctx : Nat} {g : GRef} {m : W64} (h : s.memWf) : (s.dropCalls ctx g m).memWf := h.modCtx

theorem State.memWf.endTrap {g : GRef} (h : s.memWf) : (s.endTrap g).memWf := by
  unfold State.endTrap
  split
  · exact h.ite h.modGroup.raise
  · exact h

theorem State.memWf.answered {g : GRef} (h : s.memWf) : (s.answered g).memWf := by
  unfold State.answered
  split
  · exact h
  · exact h.ite (h.wakeGroup.sched.ite h.wakeGroup.acquire.endTrap)

theorem State.memWf.cancelTrap {t : Team} {g : GRef} {m : W64} (h : s.memWf) : (s.cancelTrap t g m).memWf := h.dropCalls.modGroup
theorem State.memWf.dropWaiter {t : Team} {g : GRef} {q : Nat} {m : W64} (h : s.memWf) : (s.dropWaiter t g q m).memWf := h.modQueue.modGroup.serve

theorem State.memWf.cancelWait {hd : State} {g : GRef} {ins : Starter → W64} {mem : Team → Group → Bool} (h : s.memWf) : (s.cancelWait hd g ins mem).memWf := by
  unfold State.cancelWait
  split
  · dsimp only
    split
    · exact h.cancelHeld
    refine h.cancelHeld.ite ?_
    refine State.memWf.ite ?_ ?_
    · exact State.memWf.wakeGroup (by
    split
    · exact h.cancelHeld.cancelTrap
    · exact h.cancelHeld.cancelTrap
    · exact h.cancelHeld.dropWaiter
    · exact h.cancelHeld.withdrawFault.ite h.cancelHeld
    · exact State.memWf.ite (h.cancelHeld.modTeam (fun _ hx => hx.dropBar)) h.cancelHeld
    · exact State.memWf.ite (h.cancelHeld.modTeam (fun _ hx => hx.dropBar)) h.cancelHeld
    · exact h.cancelHeld)
    · exact (State.memWf.modGroup (by
    split
    · exact h.cancelHeld.cancelTrap
    · exact h.cancelHeld.cancelTrap
    · exact h.cancelHeld.dropWaiter
    · exact h.cancelHeld.withdrawFault.ite h.cancelHeld
    · exact State.memWf.ite (h.cancelHeld.modTeam (fun _ hx => hx.dropBar)) h.cancelHeld
    · exact State.memWf.ite (h.cancelHeld.modTeam (fun _ hx => hx.dropBar)) h.cancelHeld
    · exact h.cancelHeld)).answered
  · exact h

theorem State.memWf.wakeRemote {g : GRef} (h : s.memWf) : (s.wakeRemote g).memWf := by
  unfold State.wakeRemote
  split
  · exact h.wakeGroup.ite h
  · exact h

/-! Matrix operations (R312). -/

theorem State.memWf.blurTeam {tid space a n : Nat} (h : s.memWf) : (s.blurTeam tid space a n).memWf := h.drawBytes.writeTeam
theorem State.memWf.modMOp {id : Nat} {f : MOp → MOp} (h : s.memWf) : (s.modMOp id f).memWf := h.set
theorem State.memWf.removeMOp {o : MOp} (h : s.memWf) : (s.removeMOp o).memWf := h.endLocks.set.sched.sched

theorem State.memWf.blurTile {o : MOp} {coord tid : Nat} (h : s.memWf) : (s.blurTile o coord tid).memWf := by
  unfold State.blurTile
  split
  · exact h
  · exact h.drawBytes.writeTeam

theorem State.memWf.blurTiles {o : MOp} (h : s.memWf) : (s.blurTiles o).memWf := by
  unfold State.blurTiles
  dsimp only
  split
  · split
    · exact h.blurTile.blurTile
    · exact h.blurTile
  · exact h.blurTile

theorem State.memWf.keepOld {d : MOp} (h : s.memWf) : (s.keepOld d).memWf := by
  unfold State.keepOld
  split
  · exact h
  · exact h.foldl (fun _ _ hu => hu.modMOp)

theorem State.memWf.blurDrain {o : MOp} (h : s.memWf) : (s.blurDrain o).memWf :=
  State.memWf.ite (h.keepOld.foldl (fun _ _ hu => hu.blurTeam)) (h.keepOld.foldl (fun _ _ hu => hu.blurTeam)).blurTeam

theorem State.memWf.presentLines {tid : Nat} {l : List (Nat × Nat)} (h : s.memWf) : (s.presentLines tid l).memWf := by
  unfold State.presentLines
  refine h.ite ?_
  exact (h.modTeam (fun _ hx => hx.foldl (fun _ _ hx2 => hx2.modBuf))).wakeLines

theorem State.memWf.orphanLines {tid : Nat} {l : List (Nat × Nat)} (h : s.memWf) : (s.orphanLines tid l).memWf := by
  unfold State.orphanLines
  refine h.ite ?_
  exact (h.modTeam (fun _ hx => hx.foldl (fun _ _ hx2 => hx2.modBuf))).wakeLines

theorem State.memWf.freeArray {o : MOp} (h : s.memWf) : (s.freeArray o).memWf := h.ite (h.foldl (fun _ _ hu => hu.modCore.sched))
theorem State.memWf.voidDrain {o : MOp} {m : W64} (h : s.memWf) : (voidDrain s o m).memWf := h.modGroup

theorem State.memWf.cancelMOp {o : MOp} {m : W64} (h : s.memWf) : (s.cancelMOp o m).memWf := by
  unfold State.cancelMOp
  refine h.ite ?_
  refine State.memWf.ite (h.ite h.blurTiles.freeArray).removeMOp ?_
  exact State.memWf.ite (h.presentLines.ite h.blurDrain.orphanLines).removeMOp (h.voidDrain.removeMOp.ite h.voidDrain.set)

theorem State.memWf.cancelMatrix {ins : Starter → W64} (h : s.memWf) : (s.cancelMatrix ins).memWf := h.foldl (fun _ _ hu => hu.cancelMOp)

/-! The whole. -/

theorem State.memWf.cancelInside {ins : Starter → W64} {whole : Team → Bool} {mem : Team → Group → Bool} (h : s.memWf) : (s.cancelInside ins whole mem).memWf :=
  (((h.cancelLoads.cancelAtoms.cancelSteals.foldl (fun _ _ hu => hu.foldl (fun _ _ hv => hv.cancelWait.wakeRemote))).foldl (fun _ _ hu => hu.modTeam.modCluster)).cancelMatrix.foldl
    (fun _ _ hu => hu.stopDesc)).foldl (fun _ _ hu => hu.stopOp)

/-! Tasks (R279 to R283). -/

theorem State.memWf.modTask {d k : Nat} {f : Task → Task} (h : s.memWf) : (s.modTask d k f).memWf := h.set

/-! A team stopped whole (R52, R57, R283). -/

theorem State.memWf.dropSpawns {mine : Nat → Bool} (h : s.memWf) : (s.dropSpawns mine).memWf := by
  unfold State.dropSpawns
  extract_lets gone dropped emptied
  have hd : dropped.memWf := h.foldl fun _ _ hu => hu.dropOp
  have he : emptied.memWf := by
    refine State.memWf.set (s := { dropped with teams := emptied.teams }) (hd.mapTeams fun x hx => ?_)
    exact Team.memWf.ite hx hx
  exact he.foldl fun _ _ hu => hu.askRings

theorem State.memWf.exitTeam {t : Team} (h : s.memWf) : (s.exitTeam t).memWf := h.foldl (fun _ _ hu => hu.ite hu.endLanes)

theorem State.memWf.stopTeam {tid : Nat} (h : s.memWf) : (s.stopTeam tid).memWf := by
  unfold State.stopTeam
  split
  · exact h
  · exact h.cancelInside.dropSpawns.set.exitTeam

/-! Rollback and discard. -/

theorem State.memWf.dropTaskTlb {d k : Nat} (h : s.memWf) : (s.dropTaskTlb d k).memWf := h.set
theorem State.memWf.dropStaged {tid : Nat} {k : Task} (h : s.memWf) : (s.dropStaged tid k).memWf := h.set

theorem State.memWf.undoTask {k : Task} (h : s.memWf) : (s.undoTask k).memWf := by
  unfold State.undoTask
  extract_lets fills dropped listed alone stopped unstaged freed
  have ha : alone.memWf := (h.foldl fun _ _ hu => hu.dropOp : dropped.memWf)
  have hs : stopped.memWf := by
    unfold stopped
    split
    · exact ha.stopTeam
    · exact ha
  have hu : unstaged.memWf := hs.foldl fun _ _ hv => hv.dropStaged
  have hf : freed.memWf := hu.freeFrames.dropTaskTlb
  exact hf.set

theorem State.memWf.tryTasks (h : s.memWf) : s.tryTasks.memWf := h.foldl (fun _ _ hu => hu.sched.ite (hu.sched.ite hu))
theorem State.memWf.readyTasks (h : s.memWf) : s.readyTasks.memWf := h.set.tryTasks
theorem State.memWf.rollback {l : List Task} (h : s.memWf) : (s.rollback l).2.memWf := (h.foldl (fun _ _ hu => hu.undoTask.modTask)).set.readyTasks
theorem State.memWf.discard {k : Task} (h : s.memWf) : (s.discard k).2.memWf := (h.foldl (fun _ _ hu => hu.undoTask)).set.readyTasks
theorem State.memWf.serveEcc {r : Rec} (h : s.memWf) : (s.serveEcc r).memWf := h.foldl (fun _ _ hu => hu.modTask.rollback.ite hu.modTask.discard.throwInto)

/-! Start (R281). -/

theorem State.memWf.renameTiles {l : List Nat} {die : Nat} {r : List (Nat × List Nat) × State} (h : s.memWf)
    (hr : State.renameTiles l s die = some r) : r.2.memWf := by
  induction l generalizing s r with
  | nil =>
    cases hr
    exact h
  | cons t l ih =>
    unfold State.renameTiles at hr
    split at hr
    · cases hr
    · next fs u hu =>
      obtain ⟨x, hx, rfl⟩ := Option.map_eq_some_iff.1 hr
      exact ih (r := x) (h.takeFrames hu) hx

theorem State.memWf.queueTask {k : Task} (h : s.memWf) : (s.queueTask k).memWf := h.ite h.set.sched

theorem State.memWf.execTaskStart {die id : Nat} (h : s.memWf) : NextWf (execTaskStart die id s) := by
  unfold Machine.execTaskStart
  show State.memWf _
  split
  · exact h
  refine h.ite ?_
  refine State.memWf.ite (h.ite h.queueTask) ?_
  refine h.ite ?_
  split
  · exact h
  · next _ u hu =>
      exact State.memWf.ite (h.renameTiles hu).modTask.queueTask (h.renameTiles hu).set.enterEngine

/-! Finish and commit (R280, R282). -/

theorem State.memWf.finishTask {d k : Nat} (h : s.memWf) : (s.finishTask d k).memWf := h.modTask.readyTasks

theorem State.memWf.shoot {ctx va len : Nat} {reply : Option (Hdr × Nat)} {free : List Nat} {task : Option (Nat × Nat)} (h : s.memWf) :
    (s.shoot ctx va len reply free task).memWf :=
  h.set.foldl (fun _ _ hu => hu.sched)

theorem State.memWf.endCommit {d k : Nat} (h : s.memWf) : (s.endCommit d k).memWf := by
  unfold State.endCommit
  split
  · exact h
  · extract_lets dropped left added
    have hl : left.memWf := (h.dropTaskTlb : dropped.memWf)
    exact (hl.ite hl.addAt : added.memWf).tryTasks.sched

theorem State.memWf.execTaskCommit {die id : Nat} (h : s.memWf) : NextWf (execTaskCommit die id s) := by
  unfold Machine.execTaskCommit
  show State.memWf _
  split
  · exact h
  refine h.ite (h.again.ite (h.endCommit.ite ?_))
  extract_lets pages old root
  split
  · exact h.again
  · next u hu =>
    have hu : u.memWf := h.foldlSome (fun _ _ _ hv hw => hv.setFrame hw) (fun _ => rfl) hu
    exact hu.modCtx.modTask.shoot

/-! What a shoot-down completes (R243). -/

theorem State.memWf.rewalk {w : Walk} (h : s.memWf) : (s.rewalk w).memWf := h.set.runWalk.ite h.set
theorem State.memWf.reachCore {x : Shoot} {coord : Nat} (h : s.memWf) : (s.reachCore x coord).memWf := (h.modCore.ite h).set.foldl (fun _ _ hu => hu.rewalk)

theorem State.memWf.execShootdownAck {id coord : Nat} (h : s.memWf) : NextWf (execShootdownAck id coord s) := by
  unfold Machine.execShootdownAck
  show State.memWf _
  split
  · exact h
  refine State.memWf.ite (h.reachCore.ite h).again ?_
  refine State.memWf.ite (h.reachCore.ite h).set ?_
  dsimp only
  split
  · exact State.memWf.endCommit (by
    split
    · exact (h.reachCore.ite h).set.freeFrames.reply
    · exact (h.reachCore.ite h).set.freeFrames)
  · exact State.memWf.tryTasks (by
    split
    · exact (h.reachCore.ite h).set.freeFrames.reply
    · exact (h.reachCore.ite h).set.freeFrames)

/-! STEERING_END (R53, R58, R218, R219). -/

theorem State.memWf.dropSteers {l : List RegionId} (h : s.memWf) : (s.dropSteers l).memWf := h.set

theorem State.memWf.unstall {g : GRef} (h : s.memWf) : (s.unstall g).memWf := State.memWf.modGroup (by
    split
    · exact h.sched.ite h
    · exact h)

theorem State.memWf.steerRegion {x : Steering} (h : s.memWf) : (s.steerRegion x).memWf := by
  unfold State.steerRegion
  dsimp only
  split
  · split
    · exact h.noteTask.throwInto.dropSteers
    · exact h.dropSteers
  refine h.again.ite ?_
  refine State.memWf.ite (h.sched.ite h.again) ?_
  refine State.memWf.ite ?_ ?_
  · split
    · exact h.set.dropSteers
    · exact h
  exact State.memWf.foldl (by
    split
    · exact h.cancelInside.dropSteers.modTeam
    · exact h.cancelInside.dropSteers) (fun _ _ hu => hu.steerTo.unstall)

/-! The grid level. -/

theorem State.memWf.stopWaiting {lid : Nat} (h : s.memWf) : (s.stopWaiting lid).memWf := h.set.modLaunch.dropSpawns
theorem State.memWf.dropTasks {lid : Nat} (h : s.memWf) : (s.dropTasks lid).2.memWf :=
  State.memWf.foldl (h.foldlSnd (fun _ _ hq => hq.discard)) (fun _ _ hu => hu.discard)

theorem State.memWf.steerGrid {x : Steering} {l : Launch} (h : s.memWf) : (s.steerGrid x l).memWf := by
  unfold State.steerGrid
  refine h.again.ite ?_
  exact State.memWf.sched (by
    split
    · exact (h.set.stopWaiting.dropTasks.cancelInside.foldl (fun _ _ hu => by
    split
    · exact hu.exitTeam
    · exact hu)).modLaunch.modTeam.foldl (fun _ _ hu => hu.steerTo.unstall)
    refine State.memWf.ite ?_ ?_
    · exact (h.set.stopWaiting.dropTasks.cancelInside.foldl (fun _ _ hu => by
    split
    · exact hu.exitTeam
    · exact hu)).modLaunch.sched
    · exact (h.set.stopWaiting.dropTasks.cancelInside.foldl (fun _ _ hu => by
    split
    · exact hu.exitTeam
    · exact hu)).modLaunch)

theorem State.memWf.execSteeringEnd {r : RegionId} (h : s.memWf) : NextWf (execSteeringEnd r s) := by
  unfold Machine.execSteeringEnd
  show State.memWf _
  split
  · exact h
  split
  · split
    · exact h.dropSteers.ite h.steerGrid
    · exact h.dropSteers
  · exact h.steerRegion

/-! Reasons. -/

theorem State.memWf.narrow {tid : Nat} (h : s.memWf) : (s.narrow tid).memWf := h.modTeam fun _ hx => Team.memWf.ite hx hx
theorem State.memWf.checkPark {coord : Nat} (h : s.memWf) : (s.checkPark coord).memWf := h.foldl (fun _ _ hu => State.memWf.ite (hu.foldl (fun _ _ hv => hv.narrow)) hu)

/-! Eviction. -/

theorem State.memWf.returnSteals {g : GRef} {uid : Nat} (h : s.memWf) : (s.returnSteals g uid).memWf := h.foldl (fun _ _ hu => hu.modGroup.set)

theorem State.memWf.evict {g : GRef} (h : s.memWf) : (s.evict g).memWf := by
  unfold State.evict
  split
  · refine h.ite ?_
    refine State.memWf.ite ?_ ?_
    · exact (h.returnSteals.modGroup.haltGroup.modGroup.ite h.returnSteals.modGroup).sched
    · exact h.returnSteals.modGroup.haltGroup.modGroup.ite h.returnSteals.modGroup
  · exact h

theorem State.memWf.execGroupEvict {g : GRef} (h : s.memWf) : NextWf (execGroupEvict g s) := h.evict
theorem State.memWf.leave {t : Team} (h : s.memWf) : (s.leave t).memWf := h.set.askRefills.askRings.modTeam.modLaunch.kick.sched

theorem State.memWf.execTeamLeave {tid : Nat} (h : s.memWf) : NextWf (execTeamLeave tid s) := by
  unfold Machine.execTeamLeave
  show State.memWf _
  split
  · exact h
  · exact h.ite (h.leave.ite (h.again.ite h))

/-! Restoration. -/

theorem State.memWf.restoreGroup {coord : Nat} {g : GRef} (h : s.memWf) : (s.restoreGroup coord g).memWf := by
  unfold State.restoreGroup
  split
  · dsimp only
    split
    · exact h.modGroup.serve
    · exact h.modGroup.retryHeld.endTrap.ite h.modGroup
  · exact h

theorem State.memWf.restore {tid coord : Nat} (h : s.memWf) : (s.restore tid coord).memWf := by
  unfold State.restore
  split
  · exact h
  · exact (State.memWf.sched (by
    split
    · exact ((h.set.modTeam.modCore.foldl (fun _ _ hu => hu.restoreGroup)).foldl
        (fun _ _ hu => (State.memWf.ite (hu.ite hu.sched) (hu.ite hu.sched).sched).sched)).gather
    · exact (h.set.modTeam.modCore.foldl (fun _ _ hu => hu.restoreGroup)).foldl
        (fun _ _ hu => (State.memWf.ite (hu.ite hu.sched) (hu.ite hu.sched).sched).sched))).startSlice.armEngine

theorem State.memWf.rehome {tid old new : Nat} (h : s.memWf) : (s.rehome tid old new).memWf :=
  (h.foldl (fun _ _ hu => hu.leaveEngine)).set.foldl (fun _ _ hu => hu.enterEngine)

theorem State.memWf.moveData {num old new w hd : Nat} (h : s.memWf) : (s.moveData num old new w hd).memWf := by
  unfold State.moveData
  split
  · exact h
  · exact h.foldl (fun _ _ hu => hu.setData)

theorem State.memWf.moveCluster {t : Team} (h : s.memWf) : (s.moveCluster t).memWf := by
  unfold State.moveCluster
  refine State.memWf.ite (h.foldl (fun _ _ hu => hu.narrow)).again ?_
  split
  · refine h.again.ite ?_
    refine h.again.ite ?_
    refine h.again.ite ?_
    split
    · exact h.again
    · next u hu =>
        exact (h.withCopy hu).moveData.modCluster.foldl (fun _ _ hu => hu.modTeam.rehome.restore)
  · exact h.again

theorem State.memWf.execTeamRestore {tid : Nat} (h : s.memWf) : NextWf (execTeamRestore tid s) := by
  unfold Machine.execTeamRestore
  show State.memWf _
  split
  · exact h
  · exact h.ite (h.again.ite (h.moveCluster.ite (h.restore.ite h.again)))

/-! Time slices (R233). -/

theorem State.memWf.execTimeSliceExpire {coord ctx : Nat} (h : s.memWf) : NextWf (execTimeSliceExpire coord ctx s) := by
  unfold Machine.execTimeSliceExpire
  show State.memWf _
  split
  · exact h
  refine h.sched.ite ?_
  refine h.modCore.ite ?_
  exact (State.memWf.ite (h.modCore.foldl (fun _ _ hu => hu.narrow)) h.modCore).startSlice

/-! Assignment (R225). -/

theorem State.memWf.narrowFor {dies : List Nat} {w : WaitCl} (h : s.memWf) : (s.narrowFor dies w).memWf := by
  unfold State.narrowFor
  split
  · exact h
  dsimp only
  split
  · exact h.set
  · exact h.set.foldl (fun _ _ hu => hu.narrow)

theorem State.memWf.narrowAll {dies : List Nat} {ws : List WaitCl} (h : s.memWf) : (s.narrowAll dies ws).memWf := h.foldl (fun _ _ hu => hu.narrowFor)
theorem State.memWf.refuseWaiting (h : s.memWf) : s.refuseWaiting.memWf := h.set.foldl (fun _ _ hu => hu.modLaunch.sched)

theorem State.memWf.execClusterAssign (h : s.memWf) : NextWf (execClusterAssign s) := by
  unfold Machine.execClusterAssign
  show State.memWf _
  dsimp only
  split
  · exact (h.refuseWaiting.foldl (fun _ _ hu => hu.checkPark)).narrowAll
  · exact (h.refuseWaiting.foldl (fun _ _ hu => hu.checkPark)).set.sched.sched

/-! Placing (R226). -/

theorem State.memWf.placeCluster {l : Launch} {w : WaitCl} {o : Nat} {k : Kern} {only : Option Nat} {entry : Nat} {u : State} (h : s.memWf)
    (hu : s.placeCluster l w o k only entry = some u) : u.memWf := by
  unfold State.placeCluster at hu
  split at hu
  · cases hu
  · next v hv =>
    dsimp only at hu
    cases hu
    have hv := h.withCopy hv
    refine State.memWf.foldl (State.memWf.set ?_) fun _ _ hw => hw.addTeam freshTeam_memWf
    split
    · next im _ =>
      split
      · exact hv
      split
      · exact hv.patchData
      split
      · exact hv.moveData
      · exact hv.patchData
    · exact hv

/-! The end of a team (R41, R178, R194, R263). -/

theorem State.memWf.endStreams {t : Team} (h : s.memWf) : (s.endStreams t).memWf := by
  unfold State.endStreams
  refine State.memWf.ite (h.foldl (fun _ _ hu => hu.stopDesc)).modTeam ?_
  exact State.memWf.ite (h.foldl (fun _ _ hu => hu.stopDesc)).modCore (h.foldl (fun _ _ hu => hu.stopDesc))

theorem State.memWf.endTeam {t : Team} (h : s.memWf) : (s.endTeam t).memWf := by
  unfold State.endTeam
  extract_lets streams dropped emptied left counted ended finished
  have hd : dropped.memWf := h.endStreams.foldl fun _ _ hu => hu.dropOp
  have he : emptied.memWf := hd.modTeam fun _ _ => ⟨rfl, rfl, rfl, rfl⟩
  have hb : ended.memWf := he.modCore.modLaunch.modCluster.evalBars
  have hf : finished.memWf := by
    unfold finished
    split
    · exact hb.finishTask.ite hb
    · exact hb
  exact hf.kick.sched

theorem State.memWf.execTeamEnd {tid : Nat} (h : s.memWf) : NextWf (execTeamEnd tid s) := by
  unfold Machine.execTeamEnd
  show State.memWf _
  split
  · exact h
  · exact h.ite (h.again.ite (h.again.ite h.endTeam))

/-! The end of a launch (R52, R57, R198, R227, R320, R341). -/

theorem State.memWf.clearLaunch {l : Launch} (h : s.memWf) : (s.clearLaunch l).memWf := by
  unfold State.clearLaunch
  refine State.memWf.ite ?_ h
  dsimp only
  split
  · exact h.modLaunch.modLaunch.notifyTo
  · exact h.modLaunch.notifyTo

theorem State.memWf.pruneTrees (h : s.memWf) : s.pruneTrees.memWf := h.set

theorem State.memWf.complete {l : Launch} (h : s.memWf) : (s.complete l).memWf := by
  unfold State.complete
  extract_lets status r body done holds told gone
  have hd : done.memWf := h.modLaunch
  have ht : told.memWf := State.memWf.ite hd.modLaunch hd.notifyTo
  have hf : State.memWf { told with teams := told.teams.filter fun t => t.launch != l.grid } := ht.filterTeams
  have hg : gone.memWf := State.memWf.pruneTrees ⟨hf.1, hf.2⟩
  split
  · exact hg.clearLaunch
  · exact hg

theorem State.memWf.endContext {ctx : Nat} (h : s.memWf) : (s.endContext ctx).memWf := by
  unfold State.endContext
  split
  · exact h
  split
  · exact h
  · exact h.ite h.set.pruneTrees.reply

theorem State.memWf.execLaunchComplete {lid : Nat} (h : s.memWf) : NextWf (execLaunchComplete lid s) := by
  unfold Machine.execLaunchComplete
  show State.memWf _
  split
  · exact h
  · exact h.ite (h.again.ite h.complete.endContext)

/-! Loads land (R162, R163, R165, R167, R203). -/

theorem State.memWf.loadL1 {r : LoadReq} (h : s.memWf) : (s.loadL1 r).memWf := h.ite (h.foldl (fun _ _ hu => hu.touchL1.ite hu.fillL1))

theorem State.memWf.loadGone {r : LoadReq} (h : s.memWf) : (s.loadGone r).memWf := (State.memWf.wakeRemote (by
    split
    · exact h.ite h.acquire
    · exact h)).endFence.evalBars.serveAll

theorem State.memWf.eccOr {t : Team} {g : GRef} {pc : Nat} {l : List (Nat × Nat × Nat)} (h : s.memWf) : (s.eccOr t g pc l).memWf := by
  unfold State.eccOr
  dsimp only
  split
  · exact h.raise.taskEcc.serveEcc
  · exact h.raise

theorem State.memWf.throwLost {t : Team} {l : List (Starter × Nat × Nat)} (h : s.memWf) :
    (s.throwLost t l).memWf := h.foldl (fun _ _ hu => hu.eccOr.ite hu.raiseStarter)

theorem State.memWf.landLoad {r : LoadReq} {t : Team} (h : s.memWf) : (s.landLoad r t).memWf := by
  unfold State.landLoad
  dsimp only
  split
  · exact (State.memWf.loadGone (by
    refine State.memWf.ite ?_ ?_
    · exact (h.loadL1.set.eccNotice.localNotice.ite h.loadL1.set.eccNotice).setPcs
    · exact (h.loadL1.set.eccNotice.localNotice.ite h.loadL1.set.eccNotice).modGroup)).eccOr.throwLost
  · exact (State.memWf.loadGone (by
    refine State.memWf.ite ?_ ?_
    · exact h.loadL1.set.eccNotice.localNotice.ite h.loadL1.set.eccNotice
    · exact (h.loadL1.set.eccNotice.localNotice.ite h.loadL1.set.eccNotice).modGroup)).eccOr.throwLost

theorem State.memWf.execLoadLanding {id : Nat} (h : s.memWf) : NextWf (execLoadLanding id s) := by
  unfold Machine.execLoadLanding
  show State.memWf _
  split
  · exact h
  split
  · exact h.ite (h.again.ite h.landLoad)
  · exact h.set

/-! Stores, atomics and reductions (R163, R170, R183, R184). -/

theorem State.memWf.ownerWrite {e : PathEntry} {x : Nat} (h : s.memWf) : (s.ownerWrite e x).memWf := h.writePa.ite h.writeTeam
theorem State.memWf.entryGone {e : PathEntry} (h : s.memWf) : (s.entryGone e).memWf := h.endEntry.endFence.evalBars.serveAll
theorem State.memWf.raiseLane {b : Starter} {lane code value : Nat} (h : s.memWf) : (s.raiseLane b lane code value).memWf := h.raiseStarter

theorem State.memWf.entryNotice {e : PathEntry} (h : s.memWf) : (s.entryNotice e).memWf := by
  unfold State.entryNotice
  refine h.eccNotice.ite ?_
  split
  · exact h.localNotice
  · exact h

theorem State.memWf.eccEntry {e : PathEntry} {bad : Bool} (h : s.memWf) : (s.eccEntry e bad).memWf := by
  unfold State.eccEntry
  dsimp only
  split
  · exact State.memWf.ite (h.entryNotice.ite h).eccOr (h.entryNotice.ite h).raiseLane
  · exact h.entryNotice.ite h

theorem State.memWf.performEntry {e : PathEntry} (h : s.memWf) : (s.performEntry e).memWf := by
  unfold State.performEntry
  split
  · exact h.entryGone
  · exact h.entryGone
  · exact h.entryGone
  · split
    · exact h.addAt.ite h.addAt.entryGone
    · exact h.entryGone
  · exact h.ownerWrite.entryGone.eccEntry
  refine State.memWf.ite ?_ (h.ite h.ownerWrite).entryGone.eccEntry
  exact (State.memWf.ite (h.ite h.ownerWrite).entryNotice (h.ite h.ownerWrite)).set.endEntry.after

theorem State.memWf.execStoreAck {id : Nat} (h : s.memWf) : NextWf (execStoreAck id s) := by
  unfold Machine.execStoreAck
  show State.memWf _
  split
  · exact h
  · exact h.performEntry.ite h.again

theorem State.memWf.execStorePathRelease {id : Nat} (h : s.memWf) : NextWf (execStorePathRelease id s) := by
  unfold Machine.execStorePathRelease
  show State.memWf _
  split
  · exact h
  · exact h.performEntry.ite h.again

theorem State.memWf.execAtomAtOwner {id : Nat} (h : s.memWf) : NextWf (execAtomAtOwner id s) := by
  unfold Machine.execAtomAtOwner
  show State.memWf _
  split
  · exact h
  · exact State.memWf.ite (h.foldl (fun _ _ hu => hu.performEntry)) h.again

theorem State.memWf.execAtomReply {id : Nat} (h : s.memWf) : NextWf (execAtomReply id s) := by
  unfold Machine.execAtomReply
  show State.memWf _
  split
  · exact h
  refine h.set.wakeRemote.endFence.evalBars.serveAll.ite ?_
  refine State.memWf.ite ?_ ?_
  · split
    · exact h.set.wakeRemote.endFence.evalBars.serveAll.eccOr.ite h.set.wakeRemote.endFence.evalBars.serveAll.raiseLane
    · exact h.set.wakeRemote.endFence.evalBars.serveAll
  refine State.memWf.ite ?_ h.set.modGroup.wakeRemote.endFence.evalBars.serveAll
  split
  · exact h.set.voidDst.wakeRemote.endFence.evalBars.serveAll.eccOr
  · exact h.set

/-! ctm accesses at their target (R166). -/

theorem State.memWf.execCtmArrival {id : Nat} (h : s.memWf) : NextWf (execCtmArrival id s) := by
  unfold Machine.execCtmArrival
  show State.memWf _
  split
  · split
    · refine h.again.ite ?_
      split
      · exact h.set.after
      split
      · exact h.set.after
      · exact h.again
      · exact h.set.after.ite h.set.after
    · exact h
  split
  · exact h
  split
  · exact h
  refine h.again.ite ?_
  split
  · exact h.entryGone
  · exact h.entryGone.raiseLane.ite h.writeTeam.entryGone.eccEntry

/-! Walks (R240 to R242, R238). -/

theorem State.memWf.walkDone {t : Team} {g : GRef} {mw : MemWord} {va : Nat} (h : s.memWf) : (s.walkDone t g mw va).memWf := by
  unfold State.walkDone
  split
  · exact h.modCore.retryHeld
  · exact h.failHeld
  · exact h.newFault.park.modGroup

theorem State.memWf.execTableWalkComplete {id : Nat} (h : s.memWf) : NextWf (execTableWalkComplete id s) := by
  unfold Machine.execTableWalkComplete
  show State.memWf _
  split
  · exact h
  · exact State.memWf.foldl (by
    split
    · exact h.set.runWalk
    · exact h.set) (fun _ _ hu => hu.foldl (fun _ _ hv => by
    split
    · exact hv.walkDone.ite hv
    · exact hv))

/-! WAITGE's deadline (R209). -/

theorem State.memWf.execWaitgeTimeout {g : GRef} (h : s.memWf) : NextWf (execWaitgeTimeout g s) := by
  unfold Machine.execWaitgeTimeout
  show State.memWf _
  split
  · split
    · exact h.ite (h.wakeGroup.acquire.ite h.wakeGroup.raiseStarter)
    · exact h
  · exact h

theorem State.memWf.raiseOp {t : Option Team} {code : Nat} {value : W64} (h : s.memWf) : State.memWf (match t with
    | some t => s.raiseTeam t code value
    | none => s) := by
  split
  · exact h.raiseTeam
  · exact h

/-! Failure of any engine operation (R46, R239, R271). -/

theorem State.memWf.engFail {id code value : Nat} (h : s.memWf) : (s.engFail id code value).memWf := by
  unfold State.engFail
  split
  · exact h
  dsimp only
  split
  · exact h.failOp
  · exact h.failOp
  · exact h.dropOp
  · exact h.modQueue.dropOp.raiseStarter.sched
  · exact State.memWf.sched (State.memWf.raiseOp h.modQueue.dropOp)
  · exact State.memWf.sched (State.memWf.raiseOp (State.memWf.dropOp (h.modTeam fun _ hx => hx)))
  · exact State.memWf.askRings (State.memWf.raiseOp (State.memWf.dropOp (h.modTeam fun _ hx => hx)))

theorem State.memWf.faultOp {o : EOp} {va : Nat} {wr : Bool} (h : s.memWf) : (s.faultOp o va wr).memWf := h.ite h.newFault.modOp.leaveEngine

theorem State.memWf.blockOp {o : EOp} {c : Nat} {u : State} (h : s.memWf) (hu : s.blockOp o c = some u) : u.memWf := by
  unfold State.blockOp at hu
  split at hu
  · cases hu
    exact h.faultOp
  · cases hu
    exact h.engFail
  split at hu <;> cases hu
  · exact h.faultOp
  · exact h.engFail

/-! Start of copies (R251, R252). -/

theorem State.memWf.refuseCopy {o : EOp} {code value : Nat} (h : s.memWf) : (s.refuseCopy o code value).memWf := h.unclear.poisonOp.dropOp.raiseStarters

theorem State.memWf.startCopy {o : EOp} {t : Team} (h : s.memWf) : (s.startCopy o t).memWf := by
  unfold State.startCopy
  refine h.again.ite ?_
  refine State.memWf.ite ?_ ?_
  · exact (h.set.foldl (fun _ _ hu => hu.modTeam (fun _ hx => hx.modBuf))).modOp.dropOp
  · exact (h.set.foldl (fun _ _ hu => hu.modTeam (fun _ hx => hx.modBuf))).modOp.enterEngine

theorem State.memWf.execEngineOpStart {id : Nat} (h : s.memWf) : NextWf (execEngineOpStart id s) := by
  unfold Machine.execEngineOpStart
  show State.memWf _
  split
  · exact h
  refine h.ite ?_
  refine h.again.ite ?_
  dsimp only
  split
  · refine h.ite ?_
    refine h.set.ite ?_
    split
    · exact h.dropOp
    split
    · exact h.refuseCopy
    · exact h.startCopy.ite h.again
  · exact h.modOp.enterEngine.ite h.again
  · exact h.sched
  · split
    · exact h.dropOp
    · exact h.set.modOp.enterEngine.ite h.again
  · split
    · exact h.dropOp
    · exact h.set.modOp.enterEngine.ite h.again
  · exact h.modOp.enterEngine

/-! Deficit round robin (R272, R273). -/

theorem State.memWf.drrGo {engine : Nat} (h : s.memWf) : (s.drrGo engine).memWf := h.modEngine

theorem State.memWf.execChunkStart {engine : Nat} (h : s.memWf) : NextWf (execChunkStart engine s) := by
  unfold Machine.execChunkStart
  show State.memWf _
  refine h.drrGo.ite ?_
  refine h.drrGo.turnEngine.ite ?_
  split
  · exact h.drrGo.turnEngine
  dsimp only
  split
  · next u hu =>
      exact (h.drrGo.modEngine.blockOp hu).drrGo.turnEngine
  · exact (h.drrGo.modEngine.modEngine.modOp.leaveEngine.ite h.drrGo.modEngine.modEngine.modOp).drrGo.after.turnEngine

/-! Chunks complete. -/

theorem State.memWf.chunkOver {o : EOp} {c : Nat} (h : s.memWf) : (s.chunkOver o c).memWf := h.modOp.modEngine

theorem State.memWf.closeOp {id : Nat} (h : s.memWf) : (s.closeOp id).memWf := by
  unfold State.closeOp
  split
  · refine h.ite ?_
    refine h.orphanLines.dropOp.ite ?_
    exact State.memWf.ite (h.dropOp.ite h.leaveEngine.endLocks) (h.leaveEngine.endLocks.ite h.leaveEngine)
  · exact h

theorem State.memWf.awaitAck {op c : Nat} (h : s.memWf) : (s.awaitAck op c).memWf := h.modOp.after

theorem State.memWf.countChunk {o : EOp} {c : Nat} (h : s.memWf) : (s.countChunk o c).memWf := by
  unfold State.countChunk
  refine h.modOp.again.ite ?_
  extract_lets n tiled counted
  have ht : tiled.memWf := by
    unfold tiled
    split
    · exact h.ite h.addAt
    · exact h
  have hc : counted.memWf := ht.countBytes.chunkOver
  refine State.memWf.closeOp ?_
  split
  · exact hc.awaitAck.ite hc
  · exact hc

theorem State.memWf.cpyChunk {o : EOp} {c : Nat} (h : s.memWf) : (s.cpyChunk o c).memWf := by
  unfold State.cpyChunk
  split
  · exact h
  dsimp only
  split
  · exact (h.foldl (fun _ _ hu => hu.engWrite)).after
  · exact (h.foldl (fun _ _ hu => hu.engWrite)).setPresent.countChunk

theorem State.memWf.cpytBytes {r : Shape} {b : List Byte} (h : s.memWf) : (s.cpytBytes r b).2.memWf := by
  unfold State.cpytBytes
  split
  · exact h.drawBytes
  · exact h

theorem State.memWf.cpytChunk {o : EOp} {r : Shape} {seq c : Nat} (h : s.memWf) : (s.cpytChunk o r seq c).memWf :=
  h.after.ite (h.cpytBytes.engWrite.setPresent.ite h).countChunk

theorem State.memWf.fillChunk {o : EOp} {c die task : Nat} (h : s.memWf) : (s.fillChunk o c die task).memWf := by
  unfold State.fillChunk
  split
  · exact h
  · extract_lets src dst bad m moved closed
    have hm : m.wf = true := Mem.wf_writeBytes _ _ _ h.dram
    clear_value m
    have hv : moved.memWf := ⟨hm, h.2⟩
    have hc : closed.memWf := hv.chunkOver.closeOp
    exact State.memWf.ite hc.sched hc

theorem State.memWf.spawnInDone {o : EOp} {n : Nat} (h : s.memWf) : (s.spawnInDone o n).memWf := by
  unfold State.spawnInDone
  split
  · exact h.dropOp
  · extract_lets recs taken queued
    have ht : taken.memWf := h.dropOp.modTeam fun _ hx => hx
    exact (ht.modCore : queued.memWf).gather.sched

theorem State.memWf.poisonedChunk {o : EOp} (h : s.memWf) : (s.poisonedChunk o).memWf := by
  unfold State.poisonedChunk
  split
  · split
    · exact h.taskEcc.serveEcc.ite h.engFail
    · exact h.engFail
  · split
    · exact h.taskEcc.serveEcc.ite h.engFail
    · exact h.engFail
  · exact h.engFail
  · exact h.engFail

theorem State.memWf.chunkReady {o : EOp} {c : Nat} {u : State} (h : s.memWf) (hu : s.chunkReady o c = some u) : u.memWf := by
  unfold State.chunkReady at hu
  dsimp only at hu
  split at hu
  · cases hu
  split at hu
  · cases hu
    exact h.modOp.modEngine.faultOp
  · cases hu
    exact h.engFail
  · cases hu
    exact h.modOp.modEngine.faultOp
  · cases hu
    exact h.engFail
  split at hu <;> cases hu
  exact h.engNotice.poisonedChunk

theorem State.memWf.execChunkComplete {op chunk : Nat} (h : s.memWf) : NextWf (execChunkComplete op chunk s) := by
  unfold Machine.execChunkComplete
  show State.memWf _
  split
  · exact h
  refine State.memWf.ite (h.modOp.closeOp.ite h) ?_
  refine h.countChunk.ite ?_
  split
  · next u hu =>
      exact h.chunkReady hu
  split
  · exact h.cpyChunk
  · exact h.cpytChunk
  · exact h.fillChunk
  · exact h.engWrite.dropOp.sched
  · exact h.spawnInDone
  · exact h

theorem State.memWf.execMulticastDrop {op chunk coord : Nat} (h : s.memWf) : NextWf (execMulticastDrop op chunk coord s) := by
  unfold Machine.execMulticastDrop
  show State.memWf _
  split
  · exact h
  refine h.ite ?_
  exact (h.poisonOp.optionMapGetD (fun _ => h.poisonOp.withdrawFault)).modOp.leaveEngine.modEngine.closeOp

/-! Queue spills and refills (R270). -/

theorem State.memWf.execQueueSpillStart {op : Nat} (h : s.memWf) : NextWf (execQueueSpillStart op s) := by
  unfold Machine.execQueueSpillStart
  show State.memWf _
  split
  · exact h
  split
  · exact h.ite (h.again.ite h.set.modOp.enterEngine)
  · exact h

theorem State.memWf.execQueueSpillPerformed {op : Nat} (h : s.memWf) : NextWf (execQueueSpillPerformed op s) := by
  unfold Machine.execQueueSpillPerformed
  show State.memWf _
  split
  · exact h
  split
  · refine h.ite ?_
    split
    · next u hu =>
        exact h.chunkReady hu
    · exact h.engWrite.modQueue.dropOp.sched
  · exact h

theorem State.memWf.execQueueRefillStart {team q : Nat} (h : s.memWf) : NextWf (execQueueRefillStart team q s) := by
  unfold Machine.execQueueRefillStart
  show State.memWf _
  split
  · exact h
  refine h.ite ?_
  exact State.memWf.ite (h.ite h.again) (h.ite h.set.modQueue.enterEngine)

theorem State.memWf.execQueueRefillLanding {op : Nat} (h : s.memWf) : NextWf (execQueueRefillLanding op s) := by
  unfold Machine.execQueueRefillLanding
  show State.memWf _
  split
  · exact h
  split
  · refine h.ite ?_
    split
    · next u hu =>
        exact h.chunkReady hu
    · exact h.modQueue.dropOp.serve
  · exact h

/-! Steals (R263). -/

theorem State.memWf.modSteal {id : Nat} {f : Steal → Steal} (h : s.memWf) : (s.modSteal id f).memWf := h.set

theorem State.memWf.execStealRequestServe {id : Nat} (h : s.memWf) : NextWf (execStealRequestServe id s) := by
  unfold Machine.execStealRequestServe
  show State.memWf _
  split
  · exact h
  refine h.again.ite ?_
  refine h.set.ite ?_
  split
  · exact h.modSteal.after
  split
  · exact h.modSteal.after
  · exact h.again.ite h.modQueue.modSteal.after

theorem State.memWf.unlend {st : Steal} (h : s.memWf) : (s.unlend st).memWf := h.set.modQueue.serve

theorem State.memWf.execStealReplyLanding {id : Nat} (h : s.memWf) : NextWf (execStealReplyLanding id s) := by
  unfold Machine.execStealReplyLanding
  show State.memWf _
  split
  · exact h
  · exact h.unlend.ite h.modGroup.acquire.modSteal.after

theorem State.memWf.execStealAck {id : Nat} (h : s.memWf) : NextWf (execStealAck id s) := by
  unfold Machine.execStealAck
  show State.memWf _
  split
  · exact h
  · exact h.set.modQueue.sched

/-! Spawn rings and spawned groups (R43 to R47). -/

theorem State.memWf.execSpawnRingSpill {team : Nat} (h : s.memWf) : NextWf (execSpawnRingSpill team s) := by
  unfold Machine.execSpawnRingSpill
  show State.memWf _
  split
  · exact h
  refine h.ite ?_
  exact h.again.ite (h.set.modTeam.sched.again.ite h.set.modTeam.sched)

theorem State.memWf.execSpawnRingRefill {team : Nat} (h : s.memWf) : NextWf (execSpawnRingRefill team s) := by
  unfold Machine.execSpawnRingRefill
  split
  · exact h
  · next t ht =>
    have skipped : (s.modTeam team fun _ => t.skipSpawns).memWf := h.modTeam fun _ _ => (h.team ht).skipSpawns
    dsimp only
    split
    · exact skipped
    · exact skipped.set.sched

theorem State.memWf.execGatherTimeout {id : Nat} (h : s.memWf) : NextWf (execGatherTimeout id s) := by
  unfold Machine.execGatherTimeout
  show State.memWf _
  split
  · exact h
  · exact h.ite (h.sched.ite h.modCore.sched)

theorem State.memWf.execSpawnGroupDispatch {id : Nat} (h : s.memWf) : NextWf (execSpawnGroupDispatch id s) := by
  unfold Machine.execSpawnGroupDispatch
  show State.memWf _
  split
  · exact h
  split
  · exact h
  refine h.ite ?_
  refine h.again.ite ?_
  split
  · exact h.again
  · exact h.set.modTeam.modCore.askRings

/-! What an operation reads (R306, R307). -/

theorem State.memWf.startArray {t : Team} {f : Option Team} {o : MOp} (h : s.memWf) :
    (s.startArray t f o).memWf := h.modMOp.sched.foldl (fun _ _ hu => hu.modCore.sched)

/-! What an operation has read (R307, R311). -/

theorem State.memWf.mixMem {old now : Mem} {data aux : List (Nat × Nat × Nat)} (h : s.memWf) : (s.mixMem old now data aux).2.memWf := by
  unfold State.mixMem
  split
  · exact h
  · exact State.memWf.foldlSnd (State.memWf.foldlSnd h fun _ _ hq => hq.drawBit) fun _ _ hq => hq.drawBit

theorem State.memWf.runArray {t : Team} {f : Option Team} {o : MOp} (h : s.memWf) : (s.runArray t f o).memWf := by
  unfold State.runArray
  extract_lets old part a w m lm rm space far bad read kept paired
  have hr : read.memWf := by
    unfold read far
    split
    · exact h.mixMem.mixMem.mixMem
    · exact h.mixMem.mixMem
  have hp : paired.memWf := by
    unfold paired
    split
    · exact hr.writeTeam.writeTeam
    · exact hr.writeTeam
  clear_value bad
  split
  · exact (State.memWf.ite hr.localNotice hr).blurTiles.removeMOp.raiseWith
  · exact State.memWf.ite hp.removeMOp hp.modMOp.sched

theorem State.memWf.execMatrixOpStart {coord : Nat} (h : s.memWf) : NextWf (execMatrixOpStart coord s) := by
  unfold Machine.execMatrixOpStart
  show State.memWf _
  split
  · exact h
  split
  · exact h
  refine h.sched.ite ?_
  refine h.again.ite ?_
  split
  · exact h.removeMOp.raiseWith.again
  · exact h.again.ite h.startArray

theorem State.memWf.execMatrixOpRetire {id : Nat} (h : s.memWf) : NextWf (execMatrixOpRetire id s) := by
  unfold Machine.execMatrixOpRetire
  show State.memWf _
  split
  · exact h
  refine h.ite ?_
  refine State.memWf.ite ?_ (h.ite h.removeMOp)
  split
  · exact h.removeMOp
  · exact h.runArray

/-! Drains (R308, R309). -/

theorem State.memWf.stopDrain {o : MOp} {v : Nat} (h : s.memWf) : (s.stopDrain o v).memWf := State.memWf.removeMOp (by
    refine State.memWf.ite ?_ ?_
    · exact (State.memWf.raiseWith (by
    split
    · exact h.localNotice
    · exact h)).voidDrain
    · exact (State.memWf.raiseWith (by
    split
    · exact h.localNotice
    · exact h)).blurDrain.orphanLines)

theorem State.memWf.execMdrainStart {coord : Nat} (h : s.memWf) : NextWf (execMdrainStart coord s) := by
  unfold Machine.execMdrainStart
  show State.memWf _
  dsimp only
  split
  · exact h
  split
  · exact h
  refine h.again.ite ?_
  split
  · exact h.stopDrain
  · exact h.modMOp.modCore.sched.sched

theorem State.memWf.execMdrainRetire {id : Nat} (h : s.memWf) : NextWf (execMdrainRetire id s) := by
  unfold Machine.execMdrainRetire
  show State.memWf _
  split
  · exact h
  refine h.ite ?_
  refine h.modGroup.removeMOp.ite ?_
  exact (h.keepOld.modTeam (fun _ hx => hx.drainInto)).evalCounters.presentLines.removeMOp

/-! RPUT and RFREE take effect (R268). -/

theorem State.memWf.execRputEffect {id : Nat} (h : s.memWf) : NextWf (execRputEffect id s) := by
  unfold Machine.execRputEffect
  show State.memWf _
  split
  · exact h
  · exact h.ite (h.endEntry.stageAdd.ite h.again)

theorem State.memWf.execRfreeEffect {id : Nat} (h : s.memWf) : NextWf (execRfreeEffect id s) := by
  unfold Machine.execRfreeEffect
  show State.memWf _
  split
  · exact h
  · exact h.ite (h.endEntry.modTeam.evalRings.ite h.again)

/-! Chunks that arrive to be written on this rank. -/

theorem State.memWf.failCall {o : EOp} {code value : Nat} (h : s.memWf) : (s.failCall o code value).memWf := State.memWf.failOp (by
    split
    · exact h.ite (h.foldl (fun _ _ hu => hu.addAt))
    · exact h)

theorem State.memWf.refuseChunk {x : ReducedChunk} (h : s.memWf) : (s.refuseChunk x).memWf := by
  unfold State.refuseChunk
  dsimp only
  split
  · exact (State.memWf.ite (h.ite h.addAt) (h.ite h.addAt).modCtx).modOp.raiseStarters.closeOp
  · exact (State.memWf.ite (h.ite h.addAt) (h.ite h.addAt).modCtx).throwInto

theorem State.memWf.addTile {x : ReducedChunk} {b : List Starter} (h : s.memWf) : (s.addTile x b).memWf := h.ite h.addAt

theorem State.memWf.placeChunk {x : ReducedChunk} (h : s.memWf) : (s.placeChunk x).memWf := by
  unfold State.placeChunk
  split
  · refine State.memWf.setPresent (State.memWf.engWrite ?_)
    split
    · exact h.cpytBytes
    · exact h
  split
  · exact h
  · have written := h.foldl (l := x.writes) fun _ (w : Nat × Byte) hu => hu.ctxWrite (ctx := x.ctx) (va := w.1) (b := [w.2])
    exact written.setDram written.dram

theorem State.memWf.tallyChunk {x : ReducedChunk} (h : s.memWf) : (s.tallyChunk x).memWf := by
  unfold State.tallyChunk
  split
  · exact h.modOp.again.ite h.addTile.modOp.closeOp
  · exact h.addTile

theorem State.memWf.landChunk {x : ReducedChunk} (h : s.memWf) : (s.landChunk x).memWf := h.placeChunk.tallyChunk

theorem State.memWf.reducedChunk {x : ReducedChunk} (h : s.memWf) : (s.reducedChunk x).memWf := by
  unfold State.reducedChunk
  refine State.memWf.ite ?_ ?_
  · split
    · exact h.failCall
    · exact h
  refine h.ite ?_
  split
  · exact h.landChunk
  · exact h.refuseChunk
  · exact h.newFault

theorem State.memWf.execReducedChunkWrite {x : ReducedChunk} (h : s.memWf) : NextWf (execReducedChunkWrite x s) := h.tallyChunk.ite (h.again.ite h.reducedChunk)

/-! Who a fault holds up. -/

theorem State.memWf.setFault {id st : Nat} (h : s.memWf) : (s.setFault id st).memWf := h.set
theorem State.memWf.modStreams {f : StreamDesc → StreamDesc} (h : s.memWf) : (s.modStreams f).memWf := h.mapTeams.set rfl rfl

theorem State.memWf.failStream {q : Nat} {d : StreamDesc} {code value : Nat} (h : s.memWf) : (s.failStream q d code value).memWf := by
  unfold State.failStream
  split
  · exact h
  · exact (State.memWf.ite (h.setStreamQ.ite h.setStreamQ.again) (h.setStreamQ.ite h.setStreamQ.again).addAt).raiseStarter

/-! Serving (R238, R239). -/

theorem State.memWf.addOver {a : PendAdd} (h : s.memWf) : (s.addOver a).memWf := by
  unfold State.addOver
  refine h.closeOp.ite ?_
  split
  · exact h.closeOp.entryGone
  · exact h.closeOp

theorem State.memWf.serveGroup {g : GRef} {f : FaultRec} (h : s.memWf) : (s.serveGroup g f).memWf := by
  unfold State.serveGroup
  split
  · exact h.ite (h.wakeGroup.ite h.wakeGroup.modGroup.startWalk)
  · exact h

theorem State.memWf.serveFault {f : FaultRec} (h : s.memWf) : (s.serveFault f).memWf := by
  unfold State.serveFault
  dsimp only
  split
  · exact h.setFault.serveGroup
  · split
    · exact State.memWf.ite (h.setFault.modOp.closeOp.ite h.setFault.modOp.enterEngine) h.setFault
    · exact h.setFault
  · have hf : (s.setFault f.id 1).memWf := h.setFault
    exact State.memWf.foldl hf.set fun _ _ hu => hu.addAt.addOver
  · split
    · exact h.setFault.modStreams.sched.ite h.setFault.modStreams
    · exact h.setFault.modStreams
  · exact h.setFault.reducedChunk

theorem State.memWf.execFaultServed {rec : Nat} (h : s.memWf) : NextWf (execFaultServed rec s) := by
  unfold Machine.execFaultServed
  show State.memWf _
  split
  · exact h
  · exact h.serveFault.ite h

/-! Unresolvable faults (R238, R239, R177, R354, R314). -/

theorem State.memWf.endFault {f : FaultRec} (h : s.memWf) : (s.endFault f).memWf := by
  unfold State.endFault
  dsimp only
  split
  · split
    · refine h.setFault.ite ?_
      split
      · split
        · exact h.setFault.failHeld
        · exact h.setFault
      · exact h.setFault.wakeGroup
    · exact h.setFault
  · split
    · exact h.setFault.modOp.engFail.ite h.setFault
    · exact h.setFault
  · exact h.set.foldl (fun _ _ hu => (hu.raiseGrid.ite hu.raiseStarters).addOver)
  · split
    · exact h.setFault.modStreams.failStream
    · exact h.setFault
  · exact h.setFault.refuseChunk

theorem State.memWf.execFaultLimitExpire {rec : Nat} (h : s.memWf) : NextWf (execFaultLimitExpire rec s) := by
  unfold Machine.execFaultLimitExpire
  show State.memWf _
  split
  · exact h
  · exact h.sched.ite h.endFault

/-! The stream engines (R174 to R178). -/

theorem State.memWf.faultStream {coord q : Nat} {t : Team} {d : StreamDesc} {va : Nat} (h : s.memWf) : (s.faultStream coord q t d va).memWf := h.newFault.modStreams
theorem State.memWf.stepStream {d : StreamDesc} (h : s.memWf) : (s.stepStream d).memWf := h.modStreams

theorem State.memWf.execStreamLoadElement {coord q : Nat} (h : s.memWf) : NextWf (execStreamLoadElement coord q s) := by
  unfold Machine.execStreamLoadElement
  show State.memWf _
  dsimp only
  split
  · exact h
  split
  · exact h
  refine h.ite ?_
  refine h.sched.ite ?_
  refine h.again.ite ?_
  split
  · exact h.failStream
  · exact h.faultStream
  · exact State.memWf.ite (h.localNotice.ite h.eccNotice).failStream h.modCore.stepStream.again

theorem State.memWf.execStreamStoreElement {coord q : Nat} (h : s.memWf) : NextWf (execStreamStoreElement coord q s) := by
  unfold Machine.execStreamStoreElement
  show State.memWf _
  dsimp only
  split
  · exact h
  split
  · exact h
  refine h.ite ?_
  refine h.sched.ite ?_
  split
  · exact h.again
  refine h.again.ite ?_
  split
  · exact h.failStream
  · exact h.faultStream
  · exact (h.modCore.writeTeam.ite h.modCore.writePa).stepStream.again

theorem State.memWf.execStreamComplete {id : Nat} (h : s.memWf) : NextWf (execStreamComplete id s) := by
  unfold Machine.execStreamComplete
  show State.memWf _
  split
  · exact h
  refine h.ite ?_
  refine h.again.ite ?_
  exact State.memWf.sched (by
    split
    · exact h.modCore.ite h.modCore.addAt
    · exact h.modCore)

/-! Service calls (R211, R236, R237). -/

theorem State.memWf.execTrapBlocksWritten {g : GRef} (h : s.memWf) : NextWf (execTrapBlocksWritten g s) := by
  unfold Machine.execTrapBlocksWritten
  show State.memWf _
  split
  · split
    · exact h
    refine h.ite ?_
    refine h.again.ite ?_
    exact h.modCtx.modGroup.foldl (fun _ _ hu => by
    dsimp only
    split
    · exact hu.after.sched
    · exact hu.after)
  · exact h

theorem State.memWf.execServiceCallForward {ctx : Nat} (h : s.memWf) : NextWf (execServiceCallForward ctx s) := by
  unfold Machine.execServiceCallForward
  show State.memWf _
  split
  · exact h
  split
  · exact h
  · exact h.modCtx.notify

/-! Answers (R211). -/

theorem State.memWf.applyReply {ctx seq : Nat} {value : W64} {status : Nat} (h : s.memWf) : (s.applyReply ctx seq value status).memWf := by
  unfold State.applyReply
  split
  · exact h
  · exact h.ite h.modCtx.modGroup.answered

theorem State.memWf.execServiceTimeout {ctx seq : Nat} (h : s.memWf) : NextWf (execServiceTimeout ctx seq s) := by
  unfold Machine.execServiceTimeout
  show State.memWf _
  split
  · exact h
  split
  · exact h.sched.ite h.applyReply
  · exact h

theorem State.memWf.execTrapResume {g : GRef} (h : s.memWf) : NextWf (execTrapResume g s) := by
  unfold Machine.execTrapResume
  show State.memWf _
  split
  · exact h.ite (h.acquire.ite h).restoreGroup
  · exact h

/-! Switches: 3 * die, the edge switches E–W and N–S and the Ultra Ethernet switch in turn (R17, R284). -/

theorem State.memWf.modSwitch {n : Nat} {f : Switch → Switch} (h : s.memWf) : (s.modSwitch n f).memWf := h.set
theorem State.memWf.modLink {l : LinkId} {f : Link → Link} (h : s.memWf) : (s.modLink l f).memWf := h.set

/-! Results. -/

theorem State.memWf.toRank {sw : Nat} {x : Contribution} (h : s.memWf) : (s.toRank sw x).memWf := by
  unfold State.toRank
  dsimp only
  split
  · exact h.after.ite (h.modOp.closeOp.ite h.after)
  · exact h.ite h.after

theorem State.memWf.dropCall {sw : Nat} {x : Contribution} (h : s.memWf) : (s.dropCall sw x).memWf := h.modSwitch

theorem State.memWf.sendDown {sw : Nat} {x : Contribution} (h : s.memWf) : (s.sendDown sw x).memWf := by
  unfold State.sendDown
  split
  · exact h
  · exact (h.dropCall.ite h).foldl (fun _ _ hu => by
    refine hu.ite ?_
    refine hu.toRank.ite ?_
    split
    · exact hu.after
    · exact hu)

theorem State.memWf.sendUp {sw : Nat} {e : TreeEntry} {x : Contribution} (h : s.memWf) : (s.sendUp sw e x).memWf := by
  unfold State.sendUp
  refine h.sendDown.ite ?_
  split
  · exact h.after
  · exact h

/-! Slots (R287). -/

theorem State.memWf.closeSlot {sw : Nat} {x : Contribution} (h : s.memWf) : (s.closeSlot sw x).memWf := by
  unfold State.closeSlot
  dsimp only
  split
  · exact h.ite (h.dropCall.ite h.modSwitch).sendUp
  · exact h

theorem State.memWf.accepted {x : Contribution} (h : s.memWf) : (s.accepted x).memWf := by
  unfold State.accepted
  refine h.ite ?_
  split
  · exact h.ite h.countChunk
  · exact h

theorem State.memWf.holdPart {x : Contribution} (h : s.memWf) : (s.holdPart x).memWf := (State.memWf.accepted (by
    split <;> exact h.modSwitch)).closeSlot

theorem State.memWf.drainPorts {n sw : Nat} (h : s.memWf) : (State.drainPorts n s sw).memWf := by
  induction n generalizing s with
  | zero => exact h
  | succ n ih =>
    unfold State.drainPorts
    dsimp only
    split
    · exact h
    · exact ih h.modSwitch.holdPart

theorem State.memWf.execSwitchContribution {x : Contribution} (h : s.memWf) : NextWf (execSwitchContribution x s) := by
  unfold Machine.execSwitchContribution
  show State.memWf _
  refine h.ite ?_
  refine h.again.ite ?_
  exact h.sendDown.drainPorts.ite (h.ite (h.holdPart.drainPorts.ite h.modSwitch))

/-! Trees (R284 to R286, R288, R343). -/

theorem State.memWf.failSlots {cgrp : Nat} (h : s.memWf) : (s.failSlots cgrp).memWf := h.set.foldl (fun _ _ hu => by
    split
    · exact hu.failCall
    · exact hu)

theorem State.memWf.buildTree {ctx cgrp : Nat} {members : List Nat} (h : s.memWf) : (s.buildTree ctx cgrp members).memWf := by
  unfold State.buildTree
  split
  · exact h
  · exact (State.memWf.ite ((h.ite h.failSlots).set.foldl (fun _ _ hu => hu.modSwitch)) (h.ite h.failSlots).set).modSwitch.foldl (fun _ _ hu => hu.drainPorts)

theorem State.memWf.establish {ctx cgrp : Nat} {members : List Nat} (h : s.memWf) : (s.establish ctx cgrp members).memWf := h.modCtx.failSlots.set.buildTree
theorem State.memWf.loseRank {c : Ctx} {rank : Nat} (h : s.memWf) : (s.loseRank c rank).memWf := (h.modCtx.foldl (fun _ _ hu => hu.buildTree)).notify

theorem State.memWf.execRankLost {ctx rank : Nat} (h : s.memWf) : NextWf (execRankLost ctx rank s) := by
  unfold Machine.execRankLost
  show State.memWf _
  split
  · exact h
  · exact h.loseRank.ite h

theorem State.memWf.reroute {port : Nat} (h : s.memWf) : (s.reroute port).memWf := h.foldl (fun _ _ hu => (hu.foldl (fun _ _ hv => by
    split
    · exact hv.loseRank
    · exact hv)).foldl (fun _ _ hv => hv.ite hv.buildTree))

/-! Dispatch (R226, R227). -/

theorem State.memWf.firstTeam {lid : Nat} (h : s.memWf) : (s.firstTeam lid).memWf := by
  unfold State.firstTeam
  split
  · exact h.modLaunch.ite h.modLaunch.establish
  · exact h

theorem State.memWf.startCluster {l : Launch} {w : WaitCl} {o : Nat} {u : State} (h : s.memWf) (hu : s.startCluster l w o = some u) : u.memWf := by
  obtain ⟨v, hv, rfl⟩ := Option.map_eq_some_iff.1 hu
  obtain ⟨x, hx, rfl⟩ := Option.map_eq_some_iff.1 hv
  have started : (x.firstTeam l.grid).memWf := (h.placeCluster hx).firstTeam
  split
  · exact started.modTask
  · exact started.modLaunch

theorem State.memWf.serveList {die : Nat} {urgent : Bool} {u : State} (h : s.memWf) (hu : s.serveList die urgent = some u) : u.memWf := by
  unfold State.serveList at hu
  dsimp only at hu
  split at hu
  · cases hu
  · next i w v hv =>
    cases hu
    obtain ⟨w, hw⟩ := firstFit_some hv
    split at hw
    · cases hw
    split at hw
    · exact (h.startCluster hw).set
    · cases hw

theorem State.memWf.execClusterDispatch {die : Nat} (h : s.memWf) : NextWf (execClusterDispatch die s) := by
  unfold Machine.execClusterDispatch
  show State.memWf _
  split
  · next u hu =>
      exact (h.serveList hu).sched
  split
  · next u hu =>
      exact (h.serveList hu).sched
  · exact h.narrowAll

/-! The catch team (R52). -/

theorem State.memWf.execCatchTeamDispatch {lid : Nat} (h : s.memWf) : NextWf (execCatchTeamDispatch lid s) := by
  unfold Machine.execCatchTeamDispatch
  show State.memWf _
  split
  · exact h
  refine h.ite ?_
  extract_lets w need n old place later tid
  clear_value old place
  have hl : (later s).memWf := by
    refine State.memWf.again ?_
    split
    · exact h.modCluster
    · exact h
  split
  · exact hl
  split
  · exact hl
  · next u hu => exact (h.placeCluster hu).firstTeam.modTeam

/-! Ports (R332). -/

theorem State.memWf.execPacketReceive {port bytes : Nat} {drain : Bool} (h : s.memWf) : NextWf (execPacketReceive port bytes drain s) :=
  h.ite (h.set.ite (h.again.ite (h.ite h.set)))

/-! Launches cancelled and failed. -/

theorem State.memWf.throwCancelled {lid : Nat} (h : s.memWf) : (s.throwCancelled lid).memWf := by
  unfold State.throwCancelled
  dsimp only
  split
  · exact h
  · exact State.memWf.ite (h.foldl (fun _ _ hu => hu.raiseStopped)) (h.raiseNobody.ite h)

theorem State.memWf.cancelLaunch {l : Launch} (h : s.memWf) : (s.cancelLaunch l).memWf := (h.modLaunch.stopWaiting.foldl (fun _ _ hu => hu.discard)).throwCancelled.sched

theorem State.memWf.failLaunch {lid : Nat} (h : s.memWf) : (s.failLaunch lid).memWf := by
  unfold State.failLaunch
  split
  · exact h
  refine h.ite ?_
  exact (h.set.stopWaiting.dropTasks.cancelInside.foldl (fun _ _ hu => by
    split
    · exact hu.exitTeam
    · exact hu)).modLaunch.sched

theorem State.memWf.resetCore {coord : Nat} (h : s.memWf) : (s.resetCore coord).memWf := (h.foldl (fun _ _ hu => by
    split
    · exact (hu.engWrite.ite hu).dropOp
    · exact hu.modQueue.dropOp
    · exact hu)).foldl (fun _ _ hu => hu.failLaunch)

/-! Retirement (R328, R329). -/

theorem State.memWf.pushOut {coord : Nat} (h : s.memWf) : (s.pushOut coord).memWf := h.foldl (fun _ _ hu => (hu.foldl (fun _ _ hv => hv.sched.ite hv)).sched)
theorem State.memWf.drain {coord : Nat} (h : s.memWf) : (s.drain coord).memWf := h.modCore.pushOut.sched.sched
theorem State.memWf.retireDone {coord : Nat} (h : s.memWf) : (s.retireDone coord).memWf := h.set.foldl (fun _ _ hu => hu.reply)
theorem State.memWf.startRetire {coord cause : Nat} (h : s.memWf) : (s.startRetire coord cause).memWf := h.ite (h.setUnit.retireDone.ite (h.modCore.ite h.modCore.drain))
theorem State.memWf.gate {coord cause : Nat} (h : s.memWf) : (s.gate coord cause).memWf := h.setUnit.retireDone.modCore.kick.sched
theorem State.memWf.retireSlice {coord cause : Nat} (h : s.memWf) : (s.retireSlice coord cause).memWf := h.ite h.set.after

theorem State.memWf.execSliceRehomeComplete {coord : Nat} (h : s.memWf) : NextWf (execSliceRehomeComplete coord s) := by
  unfold Machine.execSliceRehomeComplete
  show State.memWf _
  split
  · exact h
  · exact h.set.setUnit

theorem State.memWf.retireQuadrant {die q cause : Nat} (h : s.memWf) : (s.retireQuadrant die q cause).memWf :=
  h.ite (h.setUnit.foldl (fun _ _ hu => hu.startRetire.retireSlice))

/-! Failed passes (R319). -/

theorem State.memWf.report {coord group rolled : Nat} {named : List Launch} (h : s.memWf) : (s.report coord group rolled named).memWf :=
  h.notifyAll.ite (h.foldl (fun _ _ hu => hu.notifyTo))
theorem State.memWf.failCore {coord group cause : Nat} (h : s.memWf) : (s.failCore coord group cause).memWf :=
  ((h.rollback.report.foldl (fun _ _ hu => hu.modLaunch)).foldl (fun _ _ hu => hu.cancelLaunch.ite hu)).modCore.gate

/-! The ember pass (R317 to R321). -/

theorem State.memWf.execEmberVisit {die : Nat} (h : s.memWf) : NextWf (execEmberVisit die s) := by
  unfold Machine.execEmberVisit
  show State.memWf _
  refine h.ite ?_
  split
  · exact h.again
  refine State.memWf.ite ?_ ?_
  · exact (State.memWf.ite (h.foldl (fun _ _ hu => hu.modCore)) (h.foldl (fun _ _ hu => hu.modCore)).set).modCore
  · exact (State.memWf.ite (h.foldl (fun _ _ hu => hu.modCore)) (h.foldl (fun _ _ hu => hu.modCore)).set).modCore.drain

theorem State.memWf.stay {coord : Nat} (h : s.memWf) : (s.stay coord).memWf := h.foldl (fun _ _ hu => hu.ite (hu.foldl (fun _ _ hv => hv.restoreGroup)))

theorem State.memWf.execEmberPatternsStart {coord : Nat} (h : s.memWf) : NextWf (execEmberPatternsStart coord s) := by
  unfold Machine.execEmberPatternsStart
  show State.memWf _
  refine h.ite ?_
  refine h.modCore.stay.kick.sched.ite ?_
  refine h.again.ite ?_
  split
  · exact h.failCore
  · exact h.gate
  · exact h.modCore.drawBit.drawByte.sched

theorem State.memWf.execEmberPassEnd {coord : Nat} {failed : Option Nat} (h : s.memWf) : NextWf (execEmberPassEnd coord failed s) := by
  unfold Machine.execEmberPassEnd
  show State.memWf _
  refine h.ite ?_
  split
  · exact h.failCore
  refine h.failCore.ite ?_
  dsimp only
  split
  · exact (h.setAlm.modCore.foldl (fun _ _ hu => hu.clearLaunch)).gate
  · exact (h.setAlm.modCore.foldl (fun _ _ hu => hu.clearLaunch)).tryTasks.kick.sched

theorem State.memWf.knownMiss {coord : Nat} (h : s.memWf) : (s.knownMiss coord).memWf := h.modCore.startRetire.ite h.modCore.sched
theorem State.memWf.execDrainTimeout {coord : Nat} (h : s.memWf) : NextWf (execDrainTimeout coord s) := h.ite (h.modCore.sched.ite h.resetCore)

theorem State.memWf.execForcedEnd {launch : Nat} (h : s.memWf) : NextWf (execForcedEnd launch s) := by
  unfold Machine.execForcedEnd
  show State.memWf _
  split
  · exact h
  · exact h.ite (h.modLaunch.foldl (fun _ _ hu => hu.resetCore)).failLaunch

/-! Margins (R316). -/

theorem State.memWf.execMarginReading {coord margin : Nat} {powerDomain : Bool} (h : s.memWf) : NextWf (execMarginReading coord margin powerDomain s) :=
  h.ite (h.set.ite (h.set.retireQuadrant.ite h.set.startRetire))

theorem State.memWf.replanUnit {u : UnitId} (h : s.memWf) : (s.replanUnit u).memWf := by
  unfold State.replanUnit
  refine h.ite ?_
  dsimp only
  split
  · exact h.setAlm.modCore
  · exact h.setAlm

theorem State.memWf.execReplan (h : s.memWf) : NextWf (execReplan s) := by
  unfold Machine.execReplan
  show State.memWf _
  refine h.ite ?_
  extract_lets planned flash kept
  have hp : planned.memWf := h.foldl fun _ _ hv => hv.replanUnit
  clear_value planned
  have hk : kept.memWf := ⟨hp.1, hp.2⟩
  exact hk.sched

/-! Arrays and DRAM (R322, R325, R326). -/

theorem State.memWf.startEcc {u : UnitId} (h : s.memWf) : (s.startEcc u).memWf := h.ite h.setAlm.after

theorem State.memWf.execEccReencode {u : UnitId} (h : s.memWf) : NextWf (execEccReencode u s) := by
  unfold Machine.execEccReencode
  show State.memWf _
  refine h.ite ?_
  dsimp only
  split
  · exact h.setAlm.retireSlice.ite h.setAlm
  · exact h.setAlm

theorem State.memWf.spoilRegister {coord line : Nat} (h : s.memWf) : (s.spoilRegister coord line).memWf := by
  unfold State.spoilRegister
  dsimp only
  split
  · exact h.modGroup
  · exact h

theorem State.memWf.poisonLine {x : UnitId} {line : Nat} (h : s.memWf) : (s.poisonLine x line).memWf := by
  unfold State.poisonLine
  extract_lets counted
  have hc : counted.memWf := h.setAlm
  split
  · exact hc.spoilRegister
  · split
    · exact hc.modTeam fun _ hx => hx
    · exact hc
  · exact State.memWf.pageNotice (hc.setDram hc.dram)

theorem State.memWf.moveFrame {f n : Nat} (h : s.memWf) : (s.moveFrame f n).memWf := by
  unfold State.moveFrame
  exact ⟨Mem.wf_put_poison h.dram, h.2⟩

theorem State.memWf.retireFrame {f : Nat} (h : s.memWf) : (s.retireFrame f).memWf := by
  unfold State.retireFrame
  refine h.ite ?_
  extract_lets failing owners remap
  have hf : failing.memWf := h
  refine hf.ite ?_
  split
  · exact hf.pageNotice
  · next n u hu =>
    obtain ⟨x, hx, hy⟩ := Option.bind_eq_some_iff.1 hu
    obtain ⟨v, hv, e⟩ := Option.map_eq_some_iff.1 hy
    cases e
    dsimp only [remap] at hv
    have hn : (x.2.pageNotice 2 0 f).memWf := (hf.takeAny hx).pageNotice
    have moved : u.memWf := by
      refine hn.foldlSome (fun v c w hv hw => ?_) (fun c => ?_) hv
      · exact hv.foldlSome (fun _ _ _ ha hb => ha.setFrame hb) (fun _ => rfl) hw
      · exact List.foldl_fixed' (fun _ => rfl) _
    exact moved.moveFrame.foldl fun _ _ hu => hu.foldl fun _ _ hv => hv.shoot

theorem State.memWf.spareRow {u : UnitId} {row : Nat} (h : s.memWf) : (s.spareRow u row).memWf := h.ite (h.set.after.ite (h.foldl (fun _ _ hu => hu.retireFrame)))
theorem State.memWf.execRepairRowCopyComplete {u : UnitId} {row : Nat} (h : s.memWf) : NextWf (execRepairRowCopyComplete u row s) := h.ite h.set.setAlm
theorem State.memWf.spareTmLine {coord line : Nat} (h : s.memWf) : (s.spareTmLine coord line).memWf := h.set.setAlm.ite h.startRetire
theorem State.memWf.disableLine {coord line : Nat} (h : s.memWf) : (s.disableLine coord line).memWf := h.ite (h.set.retireSlice.ite h.set)

theorem State.memWf.corrected {u : UnitId} {line : Nat} (h : s.memWf) : (s.corrected u line).memWf := by
  unfold State.corrected
  extract_lets place alm n rest flash counted spared
  have ha : alm.memWf := h.setAlm
  have hc : counted.memWf := ⟨ha.1, ha.2⟩
  have hs : spared.memWf := by
    refine hc.ite ?_
    split
    · exact hc.disableLine
    · exact hc.spareTmLine
    · exact hc.spareRow
    · exact hc
  split
  · exact hs.startEcc.ite hs
  · exact State.memWf.ite (hs.foldl fun _ _ hv => hv.startEcc) hs
  · exact hs

theorem State.memWf.execScrubRead {u : UnitId} {line : Nat} {outcome : ScrubOutcome} (h : s.memWf) : NextWf (execScrubRead u line outcome s) := by
  unfold Machine.execScrubRead
  show State.memWf _
  refine h.ite ?_
  dsimp only
  split
  · exact h
  · exact h
  · exact State.memWf.corrected h
  split
  · exact (State.memWf.poisonLine h).spareRow
  · exact State.memWf.poisonLine h

theorem State.memWf.execCecWindowEnd (h : s.memWf) : NextWf (execCecWindowEnd s) := h.ite h.set.sched

/-! Links (R327). -/

theorem State.memWf.failLane {l : LinkId} (h : s.memWf) : (s.failLane l).memWf := by
  unfold State.failLane
  refine h.ite ?_
  refine h.modLink.setAlm.sched.ite ?_
  refine h.modLink.setUnit.ite ?_
  split
  · exact h.modLink.setUnit.reroute
  · exact h

theorem State.memWf.execLaneSpare {l : LinkId} (h : s.memWf) : NextWf (execLaneSpare l s) := h.failLane.ite h
theorem State.memWf.execLinkRetrainComplete {l : LinkId} (h : s.memWf) : NextWf (execLinkRetrainComplete l s) := h.modLink.ite h

/-! Power (R335, R349, R350). -/

theorem State.memWf.dark : s.dark.memWf := State.memWf_reset.set
theorem State.memWf.execPowerLoss : NextWf (execPowerLoss s) := State.memWf.dark

theorem State.memWf.applyAlmanac (h : s.memWf) : s.applyAlmanac.memWf := h.foldl (fun _ _ hu => by
    refine State.memWf.ite ?_ (State.memWf.ite (hu.ite hu.setUnit) hu)
    exact State.memWf.ite (hu.ite hu.setUnit) (hu.ite hu.setUnit).setUnit)

theorem State.memWf.bringUpPasses {fails : List Nat} (h : s.memWf) : (s.bringUpPasses fails).memWf := h.foldl (fun _ _ hu => hu.drawByte.report.setUnit.ite hu.setAlm)
theorem State.memWf.resume (h : s.memWf) : s.resume.memWf := h.set.foldl (fun _ _ hu => hu.after)

theorem State.memWf.execPowerOn {fails : List Nat} (h : s.memWf) : NextWf (execPowerOn fails s) := by
  unfold Machine.execPowerOn
  show State.memWf _
  refine h.ite ?_
  extract_lets ok base up record passed
  have hb : base.memWf := State.memWf_reset
  clear_value base
  have hu : up.memWf := ⟨hb.1, hb.2⟩
  have hp : passed.memWf := hu.applyAlmanac.bringUpPasses
  clear_value passed
  split
  · exact h.set.ite (h.set.ite h.set)
  · exact State.memWf.resume ⟨hp.1, hp.2⟩

/-! Heat (R349). -/

theorem State.memWf.setIssueRow {die row : Nat} (h : s.memWf) : (s.setIssueRow die row).memWf := h.set

theorem State.memWf.execThermalRowChange {die : Nat} {junction : Bool} {layer : Nat} {temp : Int} (h : s.memWf) :
    NextWf (execThermalRowChange die junction layer temp s) := by
  unfold Machine.execThermalRowChange
  show State.memWf _
  extract_lets layer row old flash logged changed told
  refine h.ite ?_
  have ht : told.memWf := by
    refine State.memWf.notifyAll ?_
    unfold changed
    clear_value layer
    split
    · exact h
    · exact State.memWf.setIssueRow (s := logged) h
  refine State.memWf.dark.ite (State.memWf.ite ?_ ht)
  exact State.memWf.ite (ht.foldl fun _ _ hu => hu.pushOut) (State.memWf.kick (ht.foldl fun _ _ hu => hu.stay))

theorem State.memWf.execLeaderTakeover (h : s.memWf) : NextWf (execLeaderTakeover s) := by
  unfold Machine.execLeaderTakeover
  show State.memWf _
  split
  · exact h
  · exact h.set

/-! ISSUE_SELECT (R24, R35, R222, R228, R349, R351, R321) and the ends of ageing, pauses and deferral (R28, R31, R35). -/

theorem State.memWf.lookEvict {coord q : Nat} (h : s.memWf) : (s.lookEvict coord q).memWf := h.ite (h.checkPark.foldl (fun _ _ hu => hu.sched.ite hu))
theorem State.memWf.idleIssue {coord q : Nat} {kaMiss : Bool} (h : s.memWf) : (s.idleIssue coord q kaMiss).memWf := h.modCore.ite (h.set.knownMiss.ite h.set)
theorem State.memWf.issueSecond {t : Team} {g : Group} {x : Second} (h : s.memWf) : (s.issueSecond t g x).memWf := h.set.ite h

theorem State.memWf.execIssueSelect {coord q : Nat} {kaMiss : Bool} (h : s.memWf) : NextWf (execIssueSelect coord q kaMiss s) := by
  unfold Machine.execIssueSelect
  show State.memWf _
  refine h.ite ?_
  refine h.lookEvict.ite ?_
  split
  · exact h.lookEvict.issueSecond
  refine h.lookEvict.ite ?_
  split
  · exact h.lookEvict.idleIssue
  dsimp only
  split
  · exact h.lookEvict.modGroup.haltGroup.modGroup.set
  · exact h.lookEvict.modGroup.set

theorem State.memWf.execAgePromotion {g : GRef} (h : s.memWf) : NextWf (execAgePromotion g s) := h.modGroup

theorem State.memWf.execPauseEnd {g : GRef} (h : s.memWf) : NextWf (execPauseEnd g s) := by
  unfold Machine.execPauseEnd
  show State.memWf _
  split
  · exact h.modGroup
  · exact h

theorem State.memWf.execDeferEnd {g : GRef} {lane : Nat} (h : s.memWf) : NextWf (execDeferEnd g lane s) := h.modGroup

/-! What every command meets. -/

theorem State.memWf.adopt {p : Nat} {hd : Hdr} {code : Nat} (h : s.memWf) : (s.adopt p hd code).memWf := h.set

theorem State.memWf.command {hd : Hdr} {code : Nat} {f : Nat → State} (h : s.memWf) (hf : ∀ p, (f p).memWf) : (s.command hd code f).memWf := by
  unfold State.command
  split
  · exact h
  split
  · exact h
  split
  · exact h.reply
  split
  · exact h.reply
  split
  · exact h.set
  · exact h.adopt.ite (hf _)

theorem State.memWf.ctxCommand {hd : Hdr} {code : Nat} {f : Ctx → State} (h : s.memWf) (hf : ∀ c, (f c).memWf) : (s.ctxCommand hd code f).memWf :=
  h.command fun _ => by
    split
    · exact h.reply
    · exact h.reply.ite (hf _)

/-! Sessions (R334, R346). -/

theorem State.memWf.execOpenS {hd : Hdr} {port : Nat} (h : s.memWf) : NextWf (execOpenS hd port s) := h.ite (h.set.ite (h.set.ite h.set))
theorem State.memWf.deliver {sess p : Nat} (h : s.memWf) : (s.deliver sess p).memWf := h.set

theorem State.memWf.execAuthS {hd : Hdr} {principal : Nat} {mac : List Byte} {newKey : Option (Nat × List Byte)} (h : s.memWf) :
    NextWf (execAuthS hd principal mac newKey s) :=
  by
  unfold Machine.execAuthS
  show State.memWf _
  split
  · exact h
  refine h.ite ?_
  refine h.reply.ite ?_
  refine h.reply.ite ?_
  exact (State.memWf.reply (by
    split <;> exact h.set)).deliver

theorem State.memWf.endSession {n : Nat} (h : s.memWf) : (s.endSession n).memWf := h.set

theorem State.memWf.execCloseS {hd : Hdr} (h : s.memWf) : NextWf (execCloseS hd s) := by
  unfold Machine.execCloseS
  show State.memWf _
  split
  · exact h
  · exact h.ite (h.reply.ite h.reply.endSession)

theorem State.memWf.execSessionLoss {session : Nat} (h : s.memWf) : NextWf (execSessionLoss session s) := h.endSession

/-! Contexts (R336, R346). -/

theorem State.memWf.execCtxCreate {hd : Hdr} {x : CtxParams} (h : s.memWf) : NextWf (execCtxCreate hd x s) := h.command (fun _ => by
    refine h.reply.ite ?_
    split
    · exact h.reply
    split
    · exact h.reply
    · next _ u hu =>
        exact (h.takeAny hu).set.reply)

theorem State.memWf.execCtxDestroy {hd : Hdr} (h : s.memWf) : NextWf (execCtxDestroy hd s) := h.ctxCommand (fun _ => by
    refine h.reply.ite ?_
    exact (h.modCtx.foldl (fun _ _ hu => hu.cancelLaunch.sched)).endContext)

/-! Mappings (R241, R243, R338). -/

theorem State.memWf.mapPages {x : MapBody} {root n va : Nat} {u : State} (h : s.memWf) (hu : State.mapPages x root n va s = some u) : u.memWf := by
  induction n generalizing s va with
  | zero =>
    cases hu
    exact h
  | succ n ih =>
    unfold State.mapPages at hu
    dsimp only at hu
    split at hu
    · cases hu
    · next f v hv =>
      have taken : v.memWf := by
        split at hv
        · exact h.takeAny hv
        · exact h.takeRun hv
      obtain ⟨w, hw, hu⟩ := Option.bind_eq_some_iff.1 hu
      refine ih ?_ hu
      split at hw
      · exact taken.foldlSome (fun _ _ _ hv hw => hv.setLeaf hw) (fun _ => rfl) hw
      · exact taken.setLeaf hw

theorem State.memWf.serveRange {ctx va len : Nat} (h : s.memWf) : (s.serveRange ctx va len).memWf := h.foldl (fun _ _ hu => hu.serveFault.ite hu)

theorem State.memWf.execMapVa {hd : Hdr} {x : MapBody} (h : s.memWf) : NextWf (execMapVa hd x s) := h.ctxCommand fun c => by
  dsimp only
  split
  · exact h.reply
  split
  · exact h.reply
  split
  · exact h.reply
  split
  · exact h.reply
  · next u _ hu =>
    obtain ⟨d, hd, hm⟩ := Option.bind_eq_some_iff.1 hu
    obtain ⟨v, hv, e⟩ := Option.map_eq_some_iff.1 hm
    cases e
    have dropped : d.1.memWf := by
      split at hd
      · exact h.dropRange hd
      · cases hd
        exact h
    have mapped := dropped.mapPages hv
    exact mapped.serveRange.shoot.ite mapped.serveRange.reply

theorem State.memWf.execUnmap {hd : Hdr} {va len : Nat} (h : s.memWf) : NextWf (execUnmap hd va len s) := h.ctxCommand fun c => by
  dsimp only
  split
  · exact h.reply
  split
  · exact h.reply
  split
  · exact h.reply
  · next u _ hu => exact (h.dropRange hu).shoot

theorem State.memWf.ctxPut {n ctx va : Nat} {b : List Byte} (h : s.memWf) : (State.ctxPut n s ctx va b).memWf := by
  induction n generalizing s va b with
  | zero => exact h
  | succ n ih =>
    have put : ∀ r : Tr, State.memWf (match r with
        | .ok x => s.writePa x.pa (b.take (4096 - va % 4096))
        | _ => s) := by
      intro r
      split
      · exact h.writePa
      · exact h
    unfold State.ctxPut
    exact (put _).ite (ih (put _))

theorem State.memWf.ctxStore {ctx va : Nat} {b : List Byte} (h : s.memWf) : (s.ctxStore ctx va b).memWf := h.ctxPut
theorem State.memWf.execMemRead {hd : Hdr} {va len : Nat} (h : s.memWf) : NextWf (execMemRead hd va len s) := h.ctxCommand (fun _ => h.reply.ite (h.reply.ite h.reply))
theorem State.memWf.execMemWrite {hd : Hdr} {va : Nat} {bytes : List Byte} (h : s.memWf) : NextWf (execMemWrite hd va bytes s) :=
  h.ctxCommand (fun _ => h.reply.ite (h.reply.ite h.ctxStore.reply))

/-! Keys (R339). -/

theorem State.memWf.execKeySet {hd : Hdr} {slot : Nat} {material : List Byte} (h : s.memWf) : NextWf (execKeySet hd slot material s) :=
  h.ctxCommand (fun _ => h.reply.ite (h.reply.ite h.set.reply))
theorem State.memWf.execKeyClear {hd : Hdr} {slot : Nat} (h : s.memWf) : NextWf (execKeyClear hd slot s) :=
  h.ctxCommand (fun _ => h.reply.ite (h.reply.ite (h.reply.ite (h.reply.ite h.set.reply))))

/-! Images (R69, R74, R340). -/

theorem State.memWf.finishImage {hd : Hdr} {im : Image} (h : s.memWf) : (s.finishImage hd im).memWf := by
  unfold State.finishImage
  split
  · exact h.set.reply
  · exact h.set.ctxStore.ctxStore.reply

theorem State.memWf.addPart {hd : Hdr} {im : Image} {x : ImgBody} (h : s.memWf) : (s.addPart hd im x).memWf := h.reply.ite (h.set.finishImage.ite h.set.reply)

theorem State.memWf.execImgLoad {hd : Hdr} {x : ImgBody} (h : s.memWf) : NextWf (execImgLoad hd x s) := h.ctxCommand (fun _ => by
    refine h.reply.ite ?_
    refine State.memWf.ite (h.reply.ite (h.reply.ite h.set.addPart)) ?_
    split
    · exact h.reply
    · exact h.reply.ite (h.reply.ite h.addPart))

theorem State.memWf.execImgDrop {hd : Hdr} {image : Nat} (h : s.memWf) : NextWf (execImgDrop hd image s) := h.ctxCommand (fun _ => by
    split
    · exact h.reply
    · exact h.reply.ite h.set.freeFrames.reply)

/-! Launches (R341, R20, R46, R75, R271). -/

theorem State.memWf.acceptLaunch {c : Ctx} {x : LaunchBody} (h : s.memWf) : (s.acceptLaunch c x).memWf := by
  unfold State.acceptLaunch
  split
  · exact h
  · exact h.ctxStore.set.sched

theorem State.memWf.execLaunch {hd : Hdr} {x : LaunchBody} (h : s.memWf) : NextWf (execLaunch hd x s) := h.ctxCommand (fun _ => by
    refine h.reply.ite ?_
    split
    · exact h.acceptLaunch.reply
    · exact h.reply)

theorem State.memWf.execCancel {hd : Hdr} {grid : Nat} (h : s.memWf) : NextWf (execCancel hd grid s) := h.ctxCommand (fun _ => by
    split
    · exact h.reply
    · exact h.reply.ite h.cancelLaunch.reply)

/-! Calls, faults, states of rings. -/

theorem State.memWf.execReply {hd : Hdr} {seq : Nat} {value : W64} {status : Nat} (h : s.memWf) : NextWf (execReply hd seq value status s) :=
  h.ctxCommand (fun _ => h.reply.ite (h.applyReply.reply.ite h.reply))

theorem State.memWf.execFaultRefuse {hd : Hdr} {rec : Nat} (h : s.memWf) : NextWf (execFaultRefuse hd rec s) := h.ctxCommand (fun _ => by
    split
    · exact h.reply
    · exact h.reply.ite h.endFault.reply)

theorem State.memWf.execRingState {hd : Hdr} (h : s.memWf) : NextWf (execRingState hd s) := h.ctxCommand (fun _ => h.reply)
theorem State.memWf.execQueueState {hd : Hdr} {grid cluster pos q : Nat} (h : s.memWf) : NextWf (execQueueState hd grid cluster pos q s) := h.ctxCommand (fun _ => by
    split <;> exact h.reply)

/-! The almanac (R315, R322). -/

theorem State.memWf.execAlmRead {hd : Hdr} {u : UnitId} (h : s.memWf) : NextWf (execAlmRead hd u s) := h.command (fun _ => h.reply.ite h.reply)
theorem State.memWf.execAlmWrite {hd : Hdr} {u : UnitId} {floor : Nat} (h : s.memWf) : NextWf (execAlmWrite hd u floor s) :=
  h.command (fun _ => h.reply.ite (h.reply.ite (h.setAlm.ite h).reply))
theorem State.memWf.execAlmWriteEcc {hd : Hdr} {u : UnitId} {ecc : Nat} (h : s.memWf) : NextWf (execAlmWriteEcc hd u ecc s) :=
  h.command (fun _ => h.reply.ite (h.reply.ite (h.startEcc.ite h).reply))
theorem State.memWf.setReplan {d : Nat} (h : s.memWf) : (s.setReplan d).memWf := h.set

theorem State.memWf.execHealth {hd : Hdr} {replanDays : Option Nat} (h : s.memWf) : NextWf (execHealth hd replanDays s) := h.command (fun _ => by
    dsimp only
    split
    · exact h.reply
    · exact h.reply.ite h.setReplan.reply)

/-! Sparing and retirement by command (R328 to R330, R346). -/

theorem State.memWf.execSpare {hd : Hdr} {x : SpareBody} (h : s.memWf) : NextWf (execSpare hd x s) := h.command (fun _ => by
    refine h.reply.ite ?_
    split
    · exact h.reply.ite (h.reply.ite (h.reply.ite h.spareRow.reply))
    · exact h.reply.ite (h.reply.ite (h.reply.ite h.spareTmLine.reply))
    · exact h.reply.ite (h.reply.ite h.failLane.reply))

theorem State.memWf.execRetire {hd : Hdr} {x : RetireBody} (h : s.memWf) : NextWf (execRetire hd x s) := h.command (fun _ => by
    refine h.reply.ite ?_
    split
    · refine h.reply.ite ?_
      exact h.reply.ite (h.reply.ite (h.startRetire.reply.ite h.set.startRetire))
    refine h.reply.ite ?_
    refine h.reply.ite ?_
    exact h.reply.ite (h.retireQuadrant.reply.ite h.set.retireQuadrant))

/-! Rank maps, trees, quanta (R272, R285, R286, R343). -/

theorem State.memWf.execRankmap {hd : Hdr} {x : RankBody} (h : s.memWf) : NextWf (execRankmap hd x s) := h.ctxCommand (fun _ => by
    dsimp only
    split
    · exact h.reply
    · exact State.memWf.reply (by
    split
    · exact (h.modCtx.foldl (fun _ _ hu => hu.buildTree)).modCtx.establish
    · exact h.modCtx.foldl (fun _ _ hu => hu.buildTree)))

theorem State.memWf.execTree {hd : Hdr} {cgrp : Nat} {write : Option (Nat × TreeEntry)} (h : s.memWf) :
    NextWf (execTree hd cgrp write s) := h.ctxCommand (fun _ => by
    refine h.reply.ite ?_
    split
    · exact h.reply
    · exact h.reply.ite (h.reply.ite h.modSwitch.reply))

theorem State.memWf.execEngineQ {hd : Hdr} {die : Nat} {quanta : List Nat} (h : s.memWf) : NextWf (execEngineQ hd die quanta s) :=
  h.command (fun _ => h.reply.ite (h.foldl (fun _ _ hu => hu.modEngine)).reply)

/-! Debugging (R222, R223, R344, R345). -/

theorem State.memWf.debugCommand {hd : Hdr} {code : Nat} {f : Ctx → Debug → State} (h : s.memWf) (hf : ∀ c d, (f c d).memWf) :
    (s.debugCommand hd code f).memWf :=
  h.ctxCommand fun _ => by
    split
    · exact h.reply
    · exact hf _ _

theorem State.memWf.execAttach {hd : Hdr} {freeze : Bool} (h : s.memWf) : NextWf (execAttach hd freeze s) := h.ctxCommand (fun _ => h.reply.ite h.modCtx.reply)

theorem State.memWf.haltOne {off : Bool} {g : GRef} (h : s.memWf) : (s.haltOne off g).memWf := by
  unfold State.haltOne
  split
  · exact h
  · exact h.modGroup.sched.ite (h.modGroup.ite h.haltGroup)

theorem State.memWf.execHaltG {hd : Hdr} {x : HaltTarget} {offCore : Bool} (h : s.memWf) : NextWf (execHaltG hd x offCore s) :=
  h.debugCommand (fun _ _ => h.reply.ite (h.reply.ite (h.foldl (fun _ _ hu => hu.haltOne)).reply))
theorem State.memWf.resumeOne {g : GRef} (h : s.memWf) : (s.resumeOne g).memWf := h.modGroup.sched
theorem State.memWf.execResume {hd : Hdr} {x : HaltTarget} (h : s.memWf) : NextWf (execResume hd x s) :=
  h.debugCommand (fun _ _ => h.reply.ite (h.foldl (fun _ _ hu => hu.resumeOne)).reply)

theorem State.memWf.execStep {hd : Hdr} {g : GRef} (h : s.memWf) : NextWf (execStep hd g s) := h.debugCommand (fun _ _ => by
    split
    · exact h.reply
    · exact h.reply.ite h.resumeOne.modGroup.reply)

theorem State.memWf.execBreakSet {hd : Hdr} {n : Nat} {addr : Option Nat} (h : s.memWf) : NextWf (execBreakSet hd n addr s) :=
  h.debugCommand (fun _ _ => h.reply.ite h.modCtx.reply)

theorem State.memWf.execStateRead {hd : Hdr} {g : GRef} (h : s.memWf) : NextWf (execStateRead hd g s) := h.debugCommand (fun _ _ => by
    split
    · exact h.reply.ite h.reply
    · exact h.reply)

/-! The vector integer range (R133, R139, R140). -/

theorem State.memWf.vecBody {lat : Nat} {wide : Iss → Bool} {f : Iss → Nat → W64} {i : Iss} (h : s.memWf) : (vecBody lat wide f i s).memWf := h.land

/-! The floating-point range, the special functions and the conversions (R141 to R149). -/

theorem State.memWf.f1 {lat : Nat} {f : Iss → W32 → W32} {i : Iss} (h : s.memWf) : (Machine.f1 lat f i s).memWf := h.vecBody
theorem State.memWf.intBody {f : Iss → Nat → Int} {i : Iss} (h : s.memWf) : (intBody f i s).memWf := h.vecBody
theorem State.memWf.icmpBody {i : Iss} (h : s.memWf) : (icmpBody i s).memWf := h.land
theorem State.memWf.movkBody {i : Iss} (h : s.memWf) : (movkBody i s).memWf := Body.memWf_ite h.land (Body.memWf_ite h.land h.land)

theorem State.memWf.fpBody {lat : Nat} {f : Iss → Nat → FRes} {i : Iss} (h : s.memWf) : (fpBody lat f i s).memWf := by
  unfold Machine.fpBody
  dsimp only
  split
  · exact h.land
  · exact trivial

theorem State.memWf.fcmpBody {i : Iss} (h : s.memWf) : (fcmpBody i s).memWf := h.land

theorem State.memWf.cvtBody {i : Iss} (h : s.memWf) : (cvtBody i s).memWf := by
  unfold Machine.cvtBody
  dsimp only
  split
  · exact h.land
  · exact trivial

theorem State.memWf.decBody {f : Iss → Nat → List Nat} {i : Iss} (h : s.memWf) : (decBody f i s).memWf := h.land

/-! The cross-lane range (R150 to R152) and the statistics instructions (R153 to R155). -/

theorem State.memWf.permBody {i0 : Iss} (h : s.memWf) : (permBody i0 s).memWf := by
  unfold Machine.permBody
  dsimp only
  split
  · exact Body.memWf_ite h.land h
  · exact h.land

theorem State.memWf.voteBody {i0 : Iss} (h : s.memWf) : (voteBody i0 s).memWf := Body.memWf_ite h.land (Body.memWf_ite h.land (Body.memWf_ite h h.land))
theorem State.memWf.electBody {i : Iss} (h : s.memWf) : (electBody i s).memWf := Body.memWf_ite h.land (Body.memWf_ite h.land h)
theorem State.memWf.matchBody {i0 : Iss} (h : s.memWf) : (matchBody i0 s).memWf := Body.memWf_ite h (Body.memWf_ite h.land h.land)

theorem State.memWf.scanBody {i0 : Iss} (h : s.memWf) : (scanBody i0 s).memWf := by
  unfold Machine.scanBody
  refine Body.memWf_ite h ?_
  split
  · exact h.land
  · exact trivial

theorem State.memWf.lredBody {i0 : Iss} (h : s.memWf) : (lredBody i0 s).memWf := by
  unfold Machine.lredBody
  refine Body.memWf_ite h ?_
  split
  · split
    · exact Body.memWf_ite h.land h
    · exact h.land
  · exact trivial

/-! Statistics. -/

theorem State.memWf.triBody {lat : Nat} {f : Iss → Nat → Triple} {i : Iss} (h : s.memWf) : (triBody lat f i s).memWf := h.landM
theorem State.memWf.mlaneBody {i0 : Iss} (h : s.memWf) : (mlaneBody i0 s).memWf := Body.memWf_ite h h.landM

/-! The short forms, each by its full form (R97, R98), and the pair words (R99 to R101). -/

theorem State.memWf.issuePair {xop : PairOp} {w : PairWord} {c : Cur} (h : s.memWf) : (issuePair xop w c s).memWf := by
  unfold Machine.issuePair
  split
  · refine h.issueThrows.ite ?_
    refine h.loseRegs.issueThrows.ite ?_
    refine h.issueStalls.ite ?_
    dsimp only
    split
    · exact State.memWf.ite (h.ite h.modGroup).land.land.halfDone (h.ite h.modGroup).land.land.issued
    · exact h.issueThrows
  · exact h.set

/-! Every step of the opcode table and its meaning. -/

theorem State.memWf.exec {i : Instr} (h : s.memWf) : NextWf (exec i s) := by
  cases i
  case sadd | ssub | smul | smulh | sand | sor | sxor | sshl | sshr | smin | smax | smov | ssel | slea | spopc | sclz =>
    exact h.execFull fun _ _ hu => hu.scalarBody
  case scmp => exact h.execFull fun _ _ hu => hu.scmpBody
  case sget => exact h.execFull fun _ _ hu => hu.sgetBody
  case sset => exact h.execFull fun _ _ hu => hu.ssetBody
  case iadd | isub | imul | imulh | imad | imin | imax | iabs | ineg | andI | orI | xorI | andn | shl | shr | sra | rol | popc | clz | brev | bfe |
    bfi | iaddS32 | isubS32 | andS32 | orS32 | xorS32 | shlS32 | shrS32 | iaddImmS32 => exact h.execFull fun _ _ hu => hu.intBody
  case icmp => exact h.execFull fun _ _ hu => hu.icmpBody
  case sel | mov | idot4 | fmin | fmax | mget | mnorm | movS32 | movImmS32 => exact h.execFull fun _ _ hu => hu.vecBody
  case movk => exact h.execFull fun _ _ hu => hu.movkBody
  case fadd | fsub | fmul | ffma | fscale | fdot2 | frcp | frsq | fsqrt | fexp2 | flog2 | fsin | fcos | ftanh | faddS32 | fmulS32 =>
    exact h.execFull fun _ _ hu => hu.fpBody
  case fabs | fneg | fclass | frnd => exact h.execFull fun _ _ hu => hu.f1
  case fcmp => exact h.execFull fun _ _ hu => hu.fcmpBody
  case cvt => exact h.execFull fun _ _ hu => hu.cvtBody
  case cbdec | obdec => exact h.execFull fun _ _ hu => hu.decBody
  case perm | shfl | bcast => exact h.execFull fun _ _ hu => hu.permBody
  case vote => exact h.execFull fun _ _ hu => hu.voteBody
  case matchI => exact h.execFull fun _ _ hu => hu.matchBody
  case scan => exact h.execFull fun _ _ hu => hu.scanBody
  case lred => exact h.execFull fun _ _ hu => hu.lredBody
  case elect => exact h.execFull fun _ _ hu => hu.electBody
  case mclr | macc | maccw | mmerge | mput => exact h.execFull fun _ _ hu => hu.triBody
  case mlane => exact h.execFull fun _ _ hu => hu.mlaneBody
  case ld => exact h.execFull fun _ _ hu => hu.bodyLd
  case st => exact h.execFull fun _ _ hu => hu.bodySt
  case ldacq => exact h.execFull fun _ _ hu => hu.bodyLdacq
  case strel => exact h.execFull fun _ _ hu => hu.bodyStrel
  case atom => exact h.execFull fun _ _ hu => hu.bodyAtom
  case red => exact h.execFull fun _ _ hu => hu.bodyRed
  case fence => exact h.execFull fun _ _ hu => hu.bodyFence
  case pref => exact h.execFull fun _ _ hu => hu.bodyPref
  case probe => exact h.execFull fun _ _ hu => hu.bodyProbe
  case ldstrm | ststrm => exact h.execFull fun _ _ hu => hu.bodyStream
  case bra | braS32 => exact h.execFull fun _ _ hu => hu.bodyBra
  case jmpi => exact h.execFull fun _ _ hu => hu.bodyJmpi
  case call => exact h.execFull fun _ _ hu => hu.bodyCall
  case ret => exact h.execFull fun _ _ hu => hu.bodyRet
  case exit | exitS32 => exact h.execFull fun _ _ hu => hu.bodyExit
  case nop | nopS32 => exact h.execFull fun _ _ hu => hu.bodyNop
  case bar | barc => exact h.execFull fun _ _ hu => hu.barBody
  case waitge => exact h.execFull fun _ _ hu => hu.bodyWaitge
  case trap => exact h.execFull fun _ _ hu => hu.bodyTrap
  case tryOpen => exact h.execFull fun _ _ hu => hu.bodyTry
  case tryClose => exact h.execFull fun _ _ hu => hu.bodyEndtry
  case throwI => exact h.execFull fun _ _ hu => hu.bodyThrow
  case rethrow => exact h.execFull fun _ _ hu => hu.bodyRethrow
  case spawn => exact h.execFull fun _ _ hu => hu.bodySpawn
  case setmode => exact h.execFull fun _ _ hu => hu.bodySetmode
  case bkpt => exact h.execFull fun _ _ hu => hu.bodyBkpt
  case cpy => exact h.execFull fun _ _ hu => hu.bodyCpy
  case cpyt => exact h.execFull fun _ _ hu => hu.bodyCpyt
  case cpycan => exact h.execFull fun _ _ hu => hu.bodyCpycan
  case ctradd => exact h.execFull fun _ _ hu => hu.bodyCtradd
  case qpush => exact h.execFull fun _ _ hu => hu.bodyQpush
  case qpop => exact h.execFull fun _ _ hu => hu.bodyQpop
  case qsteal => exact h.execFull fun _ _ hu => hu.bodyQsteal
  case tsubmit => exact h.execFull fun _ _ hu => hu.bodyTsubmit
  case rget => exact h.execFull fun _ _ hu => hu.bodyRget
  case rput => exact h.execFull fun _ _ hu => hu.bodyRput
  case rfree => exact h.execFull fun _ _ hu => hu.bodyRfree
  case rsv => exact h.execFull fun _ _ hu => hu.bodyRsv
  case rls => exact h.execFull fun _ _ hu => hu.bodyRls
  case mzero => exact h.execFull fun _ _ hu => hu.bodyMzero
  case mma => exact h.execFull fun _ _ hu => hu.bodyMma
  case mmap => exact h.execFull fun _ _ hu => hu.bodyMmap
  case mmas => exact h.execFull fun _ _ hu => hu.bodyMmas
  case mdrain => exact h.execFull fun _ _ hu => hu.bodyMdrain
  case mfence => exact h.execFull fun _ _ hu => hu.bodyMfence
  case pauseS32 | pause => exact h.execFull fun _ _ hu => hu.bodyPause
  case movPair | iaddPair | isubPair | iminPair | imaxPair | andPair | orPair | xorPair | faddPair | fmulPair | fminPair | fmaxPair =>
    exact nextWf_onIssue fun _ => h.issuePair
  case issueSelect => exact h.execIssueSelect
  case agePromotion => exact h.execAgePromotion
  case pauseEnd => exact h.execPauseEnd
  case deferEnd => exact h.execDeferEnd
  case steeringEnd => exact h.execSteeringEnd
  case catchTeamDispatch => exact h.execCatchTeamDispatch
  case loadLanding => exact h.execLoadLanding
  case storeAck => exact h.execStoreAck
  case storePathRelease => exact h.execStorePathRelease
  case atomAtOwner => exact h.execAtomAtOwner
  case atomReply => exact h.execAtomReply
  case ctmArrival => exact h.execCtmArrival
  case tableWalkComplete => exact h.execTableWalkComplete
  case faultServed => exact h.execFaultServed
  case faultLimitExpire => exact h.execFaultLimitExpire
  case shootdownAck => exact h.execShootdownAck
  case streamLoadElement => exact h.execStreamLoadElement
  case streamStoreElement => exact h.execStreamStoreElement
  case streamComplete => exact h.execStreamComplete
  case engineOpStart => exact h.execEngineOpStart
  case chunkStart => exact h.execChunkStart
  case chunkComplete => exact h.execChunkComplete
  case waitgeTimeout => exact h.execWaitgeTimeout
  case multicastDrop => exact h.execMulticastDrop
  case queueSpillStart => exact h.execQueueSpillStart
  case queueSpillPerformed => exact h.execQueueSpillPerformed
  case queueRefillStart => exact h.execQueueRefillStart
  case queueRefillLanding => exact h.execQueueRefillLanding
  case stealRequestServe => exact h.execStealRequestServe
  case stealReplyLanding => exact h.execStealReplyLanding
  case stealAck => exact h.execStealAck
  case spawnRingSpill => exact h.execSpawnRingSpill
  case spawnRingRefill => exact h.execSpawnRingRefill
  case gatherTimeout => exact h.execGatherTimeout
  case spawnGroupDispatch => exact h.execSpawnGroupDispatch
  case teamEnd => exact h.execTeamEnd
  case launchComplete => exact h.execLaunchComplete
  case clusterAssign => exact h.execClusterAssign
  case clusterDispatch => exact h.execClusterDispatch
  case groupEvict => exact h.execGroupEvict
  case teamLeave => exact h.execTeamLeave
  case teamRestore => exact h.execTeamRestore
  case timeSliceExpire => exact h.execTimeSliceExpire
  case trapBlocksWritten => exact h.execTrapBlocksWritten
  case serviceCallForward => exact h.execServiceCallForward
  case serviceTimeout => exact h.execServiceTimeout
  case trapResume => exact h.execTrapResume
  case matrixOpStart => exact h.execMatrixOpStart
  case matrixOpRetire => exact h.execMatrixOpRetire
  case mdrainStart => exact h.execMdrainStart
  case mdrainRetire => exact h.execMdrainRetire
  case rputEffect => exact h.execRputEffect
  case rfreeEffect => exact h.execRfreeEffect
  case taskStart => exact h.execTaskStart
  case taskCommit => exact h.execTaskCommit
  case switchContribution => exact h.execSwitchContribution
  case reducedChunkWrite => exact h.execReducedChunkWrite
  case rankLost => exact h.execRankLost
  case packetReceive => exact h.execPacketReceive
  case leaderTakeover => exact h.execLeaderTakeover
  case marginReading => exact h.execMarginReading
  case replan => exact h.execReplan
  case emberVisit => exact h.execEmberVisit
  case emberPatternsStart => exact h.execEmberPatternsStart
  case emberPassEnd => exact h.execEmberPassEnd
  case drainTimeout => exact h.execDrainTimeout
  case scrubRead => exact h.execScrubRead
  case eccReencode => exact h.execEccReencode
  case cecWindowEnd => exact h.execCecWindowEnd
  case laneSpare => exact h.execLaneSpare
  case linkRetrainComplete => exact h.execLinkRetrainComplete
  case thermalRowChange => exact h.execThermalRowChange
  case powerOn => exact h.execPowerOn
  case powerLoss => exact State.memWf.execPowerLoss
  case forcedEnd => exact h.execForcedEnd
  case repairRowCopyComplete => exact h.execRepairRowCopyComplete
  case sliceRehomeComplete => exact h.execSliceRehomeComplete
  case openS => exact h.execOpenS
  case authS => exact h.execAuthS
  case closeS => exact h.execCloseS
  case ctxCreate => exact h.execCtxCreate
  case ctxDestroy => exact h.execCtxDestroy
  case mapVa => exact h.execMapVa
  case unmap => exact h.execUnmap
  case memRead => exact h.execMemRead
  case memWrite => exact h.execMemWrite
  case keySet => exact h.execKeySet
  case keyClear => exact h.execKeyClear
  case imgLoad => exact h.execImgLoad
  case imgDrop => exact h.execImgDrop
  case launch => exact h.execLaunch
  case cancel => exact h.execCancel
  case ringState => exact h.execRingState
  case queueState => exact h.execQueueState
  case reply => exact h.execReply
  case faultRefuse => exact h.execFaultRefuse
  case almRead => exact h.execAlmRead
  case almWrite => exact h.execAlmWrite
  case almWriteEcc => exact h.execAlmWriteEcc
  case health => exact h.execHealth
  case spare => exact h.execSpare
  case retire => exact h.execRetire
  case rankmap => exact h.execRankmap
  case tree => exact h.execTree
  case engineQ => exact h.execEngineQ
  case attach => exact h.execAttach
  case haltG => exact h.execHaltG
  case resume => exact h.execResume
  case step => exact h.execStep
  case breakSet => exact h.execBreakSet
  case stateRead => exact h.execStateRead
  case sessionLoss => exact h.execSessionLoss
  case getmode => exact h.execFull fun _ _ hu => hu.bodyGetmode

/-! Fetching the parcels of the word a group is to issue (R27, R83, R241), what runs when (R1 to R3, R350), and. -/

theorem State.memWf.touchCode {t : Team} {pc n : Nat} (h : s.memWf) : (s.touchCode t pc n).memWf := h.foldl (fun _ _ hu => by
    dsimp only
    split
    · exact hu.modCore
    · exact hu)

theorem State.memWf.holdCode {t : Team} {c : Cur} {va : Nat} (h : s.memWf) : (s.holdCode t c va).memWf := h.issueStalls.ite h.startWalk.modGroup.set
theorem State.memWf.stopFetch {t : Team} {gr : Group} {c : Cur} {code va : Nat} (h : s.memWf) :
    (s.stopFetch t gr c code va).memWf := h.eccNotice.modGroup.issued.eccOr

theorem State.memWf.issueWord {c : Cur} (h : s.memWf) : NextWf (issueWord c s) := by
  unfold Machine.issueWord
  split
  · split
    · exact h.holdCode
    · exact h.stopFetch
    · exact h.issueThrows
    split
    · exact h.issueThrows
    · exact h.touchCode.set.exec
  · exact h.set

/-! What runs next. -/

theorem State.memWf.restall {coord q : Nat} (h : s.memWf) : (s.restall coord q).memWf := h.foldl (fun _ _ hu => by
    refine State.memWf.ite ?_ hu
    split <;> exact hu.modGroup)

theorem State.memWf.tick (h : s.memWf) : s.tick.memWf := h.set.settle

theorem State.memWf.stepDark (h : s.memWf) : NextWf (stepDark s) := by
  unfold Machine.stepDark
  split
  · exact h.set.exec
  · exact h.set
  · exact h.tick

theorem State.memWf.stepLit (h : s.memWf) : NextWf (stepLit s) := by
  unfold Machine.stepLit
  split
  · exact h.issueWord
  split
  · exact h.set.exec
  split
  · exact h.restall.set.exec
  split
  · exact h.set.exec
  split
  · exact h.exec
  split
  · exact h.set.exec
  split
  · exact h.set.exec
  split
  · exact h.exec
  · exact h.tick

/-! One step of the machine, and a word placed where the next step fetches. -/

theorem State.memWf.step (h : s.memWf) : NextWf (step s) := by
  unfold Machine.step
  split
  · exact h.stepLit
  · exact h.stepDark
end

/-- Settles O56: memory is in its one form after every step from a state in which it is. -/
theorem memoryStaysCanonical : Obligations.memoryStaysCanonical := by
  intro s t h e
  have next : NextWf (step s) := h.step
  rw [e] at next
  exact next

end Sys2Proof.Machine
end

section
/-! SUPPORT. Eviction, leaving and restoration (O33). -/
namespace Sys2Proof.Machine

/-! What schedules and nothing else. -/

/-- The states differ in what is scheduled and in nothing else. -/
def SameButAgenda (s u : State) : Prop := ∃ l, u = { s with agenda := l }

theorem SameButAgenda.refl (s : State) : SameButAgenda s s := ⟨s.agenda, rfl⟩

theorem SameButAgenda.trans {s u v : State} (h : SameButAgenda s u) (k : SameButAgenda u v) : SameButAgenda s v := by
  obtain ⟨l, rfl⟩ := h
  obtain ⟨m, rfl⟩ := k
  exact ⟨m, rfl⟩

theorem State.sched_sameButAgenda (s : State) (t : Nat) (i : Instr) : SameButAgenda s (s.sched t i) := ⟨_, rfl⟩

theorem SameButAgenda.foldl {α : Type} {f : State → α → State} (hf : ∀ u x, SameButAgenda u (f u x)) (l : List α) (s : State) :
    SameButAgenda s (l.foldl f s) := by
  induction l generalizing s with
  | nil => exact .refl s
  | cons x l ih => exact (hf s x).trans (ih (f s x))

theorem State.askRefills_sameButAgenda (s : State) (coord : Nat) : SameButAgenda s (s.askRefills coord) :=
  .foldl (fun u _ => .foldl (fun v _ => v.sched_sameButAgenda _ _) _ u) _ s

theorem State.askRings_sameButAgenda (s : State) (coord : Nat) : SameButAgenda s (s.askRings coord) := by
  refine .foldl (fun u t => ?_) _ s
  split
  · exact .refl u
  · exact u.sched_sameButAgenda _ _

theorem State.kick_sameButAgenda (s : State) : SameButAgenda s s.kick :=
  (s.sched_sameButAgenda _ _).trans (.foldl (fun u _ => u.sched_sameButAgenda _ _) _ _)

/-! Cores. -/

theorem State.core_coord (s : State) (c : Nat) : (s.core c).coord = c := by
  unfold State.core
  cases h : s.cores.find? (fun x => x.coord == c) with
  | none => rfl
  | some x => simpa using List.find?_some h

theorem State.core_modCore_self (s : State) (c : Nat) (f : Core → Core) (hf : ∀ x : Core, (f x).coord = x.coord) : (s.modCore c f).core c = f (s.core c) := by
  have h : (f (s.core c)).coord = c := (hf _).trans (s.core_coord c)
  show ((f (s.core c) :: s.cores.filter fun x => x.coord != c).find? fun x => x.coord == c).getD _ = _
  rw [List.find?_cons_of_pos (p := fun x : Core => x.coord == c) (beq_iff_eq.2 h)]
  rfl

theorem State.core_modCore_other (s : State) {c a : Nat} (f : Core → Core) (hf : ∀ x : Core, (f x).coord = x.coord) (h : a ≠ c) :
    (s.modCore c f).core a = s.core a := by
  have hc : (f (s.core c)).coord ≠ a := by
    rw [hf, s.core_coord]
    exact h.symm
  have hp : ∀ x : Core, (!decide (x.coord = c) && decide (x.coord = a)) = decide (x.coord = a) := by
    intro x
    by_cases e : x.coord = a <;> simp [e, h]
  unfold State.core State.modCore
  simp [hc, List.find?_filter, hp, beq_eq_decide]

theorem State.modCore_modCore (s : State) (c : Nat) (f g : Core → Core) (hf : ∀ x : Core, (f x).coord = x.coord) :
    (s.modCore c f).modCore c g = s.modCore c fun x => g (f x) := by
  have h : (f (s.core c)).coord = c := (hf _).trans (s.core_coord c)
  rw [State.modCore, s.core_modCore_self c f hf]
  simp [State.modCore, h]

/-! What a team holds up or lacks. -/

theorem State.matrixOf_eq_false_iff {s : State} {t : Team} : s.matrixOf t = false ↔ ∀ o ∈ s.matrixOps, o.byw.g.team ≠ t.id ∧
    (o.follower = some t.coord → ∀ x, s.team? o.byw.g.team = some x → ¬ (x.launch = t.launch ∧ x.cluster = t.cluster)) := by
  unfold State.matrixOf
  rw [List.any_eq_false]
  refine forall₂_congr fun o _ => ?_
  cases s.team? o.byw.g.team with
  | none => simp
  | some x => simp

theorem State.mayLeave_iff (s : State) (t : Team) : s.mayLeave t = true ↔
      (t.narrowed = true ∨ s.emptying t.coord = true) ∧ s.calledBack t = false ∧ (∀ g ∈ t.groups, g.phase = .evicted ∨ g.phase = .exited) ∧
      (∃ g ∈ t.groups, g.phase = .evicted) ∧
      (∀ o ∈ s.matrixOps, o.byw.g.team ≠ t.id ∧
        (o.follower = some t.coord → ∀ x, s.team? o.byw.g.team = some x → ¬ (x.launch = t.launch ∧ x.cluster = t.cluster))) ∧
      (∀ o ∈ s.ops,
        let ring := (∃ q n, o.kind = .spill q n ∨ o.kind = .refill q n) ∨ ∃ n, o.kind = .spawnOut n ∨ o.kind = .spawnIn n
        (ring → o.team ≠ t.id) ∧ (¬ ring → o.running = [] ∨ ∀ x ∈ s.opTeams o, x.id ≠ t.id)) ∧
      ∀ g ∈ t.groups, ∀ l ∈ g.land, ∀ q, l.dst ≠ .qo q := by
  unfold State.mayLeave
  simp only [Bool.and_eq_true, Bool.not_eq_true', and_assoc]
  refine and_congr (Bool.or_eq_true _ _ ▸ Iff.rfl) <| and_congr Iff.rfl <| and_congr (by simp) <| and_congr (by simp) <|
    and_congr State.matrixOf_eq_false_iff <| and_congr ?ops ?pushes
  case ops =>
    rw [List.any_eq_false]
    refine forall₂_congr fun o _ => ?_
    cases o.kind <;> simp [imp_iff_not_or]
  case pushes =>
    simp only [List.any_eq_false, Bool.not_eq_true]
    refine forall₄_congr fun g _ l _ => ?_
    cases l.dst <;> simp

/-! Leaving. -/

/-- The spawn records that a core holds for a team, the packed ones first. -/
def State.recordsOf (s : State) (t : Team) : List SpawnRec :=
  (((s.core t.coord).packs.filter fun p => p.team == t.id).flatMap fun p => p.recs) ++ ((s.core t.coord).spawnq.filter fun x => x.1 == t.id).map fun x => x.2
/-- A core from which a team takes all it holds there. -/
def State.coreWithout (s : State) (t : Team) (c : Core) : Core :=
  { c with
    spawnq := c.spawnq.filter fun x => x.1 != t.id
    packs := c.packs.filter fun p => p.team != t.id
    qi := if t.streams then [{}, {}, {}, {}] else c.qi
    qo := if t.streams then [{}, {}, {}, {}] else c.qo
    slices := if (s.resident t.coord).any fun x => x.id != t.id && x.ctx == t.ctx then c.slices else c.slices.filter fun x => x.1 != t.ctx }
/-- A team that takes along all its core holds for it. -/
def State.packed (s : State) (t x : Team) : Team :=
  { x with place := .away, narrowed := false, endId := s.nextId, offSpawns := s.recordsOf t
           offQi := if t.streams then (s.core t.coord).qi else [], offQo := if t.streams then (s.core t.coord).qo else [] }
/-- What leaving makes of a state, apart from what it schedules. -/
def State.without (s : State) (t : Team) : State :=
  ((({ s with locks := s.locks.map fun (k : Lock) => if k.team = t.id then { k with saved := true } else k } : State).modCore t.coord (s.coreWithout t)).modTeam
    t.id (s.packed t)).modLaunch t.launch fun l => { l with spans := (t.coord, s.clock) :: l.spans.filter fun x => x.1 != t.coord }

theorem State.leave_eq (s : State) (t : Team) : SameButAgenda (s.without t) (s.leave t) := by
  unfold State.leave
  extract_lets c recs off asked packed named
  have same : SameButAgenda { off with locks := s.locks.map fun (k : Lock) => if k.team = t.id then { k with saved := true } else k } asked :=
    (State.askRefills_sameButAgenda _ _).trans (State.askRings_sameButAgenda _ _)
  clear_value asked
  obtain ⟨l, rfl⟩ := same
  have left : SameButAgenda (s.without t) named := ⟨l, rfl⟩
  exact (left.trans named.kick_sameButAgenda).trans (State.sched_sameButAgenda _ _ _)

theorem State.team?_without_self {s : State} {t : Team} (ht : s.team? t.id = some t) : (s.without t).team? t.id = some (s.packed t t) := by
  have h := State.team?_modTeam s t.id (s.packed t) (fun _ => rfl) t.id
  rw [ht] at h
  exact h.trans (congrArg some (if_pos rfl))

theorem State.team?_without_other (s : State) {t : Team} {x : Nat} (hx : x ≠ t.id) : (s.without t).team? x = s.team? x := by
  refine (State.team?_modTeam s t.id (s.packed t) (fun _ => rfl) x).trans ?_
  cases h : s.team? x with
  | none => rfl
  | some y => exact congrArg some (if_neg (State.team?_id h ▸ hx))

theorem State.core_without_self (s : State) (t : Team) : (s.without t).core t.coord = s.coreWithout t (s.core t.coord) :=
  s.core_modCore_self t.coord (s.coreWithout t) fun _ => rfl

theorem State.core_without_other (s : State) {t : Team} {c : Nat} (hc : c ≠ t.coord) : (s.without t).core c = s.core c :=
  s.core_modCore_other (s.coreWithout t) (fun _ => rfl) hc

theorem State.launch?_modLaunch_self {s : State} {g : Nat} {l : Launch} {f : Launch → Launch} (hf : ∀ x : Launch, (f x).grid = x.grid)
    (h : s.launch? g = some l) : (s.modLaunch g f).launch? g = some (f l) := by
  have hg : l.grid = g := by simpa using List.find?_some h
  have same : (fun x : Launch => (if x.grid = g then f x else x).grid == g) = fun x : Launch => x.grid == g := by
    funext x
    split <;> simp [hf]
  have hl : s.launches.find? (fun x => x.grid == g) = some l := h
  show (s.launches.map fun x => if x.grid = g then f x else x).find? (fun x => x.grid == g) = _
  rw [List.find?_map, Function.comp_def, same, hl]
  exact congrArg some (if_pos hg)

/-- What leaves with a team, and what stays as it is (R178, R232). -/
theorem State.leave_saves {s : State} {t : Team} (ht : s.team? t.id = some t) :
    let c := s.core t.coord
     let u := s.leave t
     let queue (l : List StreamQ) : List StreamQ := if t.streams then [{}, {}, {}, {}] else l
     (∃ y n, u.team? t.id = some y ∧ y =
       { t with
         place := .away, narrowed := false, endId := n
         offSpawns := ((c.packs.filter fun p => p.team = t.id).flatMap fun p => p.recs) ++ (c.spawnq.filter fun x => x.1 = t.id).map fun x => x.2
         offQi := if t.streams then c.qi else [], offQo := if t.streams then c.qo else [] }) ∧
     (u.core t.coord).spawnq = c.spawnq.filter (fun x => x.1 ≠ t.id) ∧ (u.core t.coord).packs = c.packs.filter (fun p => p.team ≠ t.id) ∧
     (u.core t.coord).qi = queue c.qi ∧ (u.core t.coord).qo = queue c.qo ∧ (u.core t.coord).l1 = c.l1 ∧
     u.locks = s.locks.map (fun (k : Lock) => if k.team = t.id then { k with saved := true } else k) ∧
     (∀ x, x ≠ t.id → u.team? x = s.team? x) ∧ (∀ c, c ≠ t.coord → u.core c = s.core c) ∧ u.dram = s.dram ∧ u.path = s.path ∧ u.ops = s.ops ∧
     (∀ l, s.launch? t.launch = some l → ∃ y, u.launch? t.launch = some y ∧ y.spans = (t.coord, s.clock) :: l.spans.filter fun x => x.1 ≠ t.coord) := by
  intro c u queue
  obtain ⟨a, ha⟩ : SameButAgenda (s.without t) u := s.leave_eq t
  clear_value u
  subst ha
  have core : ({ s.without t with agenda := a } : State).core t.coord = s.coreWithout t c := s.core_without_self t
  rw [core]
  refine ⟨⟨_, s.nextId, State.team?_without_self ht, ?_⟩, ?_, ?_, rfl, rfl, rfl, rfl, fun x hx => s.team?_without_other hx,
    fun x hx => s.core_without_other hx, rfl, rfl, rfl, fun l hl => ⟨_, State.launch?_modLaunch_self (fun _ => rfl) hl, ?_⟩⟩
  · rfl
  · simp [State.coreWithout, bne, beq_eq_decide, c]
  · simp [State.coreWithout, bne, beq_eq_decide, c]
  · simp [bne, beq_eq_decide]

/-! Restoration. -/

theorem State.savedFits_iff (s : State) (t : Team) (coord : Nat) : s.savedFits t coord = true ↔
    (s.locks.filter fun k => k.coord = coord ∧ k.saved = false).length +
      (s.locks.filter fun k => k.team = t.id ∧ (k.saved = true ∨ k.coord ≠ coord)).length ≤ 64 ∧
    s.spawnHeld coord + t.offSpawns.length ≤ 256 ∧ s.slotsUsed coord + t.keeps.eraseDups.length ≤ 2048 := by
  have here : (s.locks.filter fun k => k.coord == coord && !k.saved) = s.locks.filter fun k => k.coord = coord ∧ k.saved = false :=
    List.filter_congr fun k _ => by cases k.saved <;> simp [beq_eq_decide]
  have coming : (s.locks.filter fun k => k.team == t.id && (k.saved || k.coord ≠ coord)) =
      s.locks.filter fun k => k.team = t.id ∧ (k.saved = true ∨ k.coord ≠ coord) :=
    List.filter_congr fun k _ => by cases k.saved <;> simp [beq_eq_decide]
  unfold State.savedFits State.locksFit State.lockRoom
  rw [here, coming]
  simp [and_assoc]

/-- A restored group whose condition was met, unless it waits for a queue, is Ready and takes up what it held (R39, R235). -/
theorem State.restoreGroup_of_met {s : State} {coord : Nat} {g : GRef} {gr : Group} (hg : s.group? g = some gr) (hq : ∀ q, gr.wake ≠ some (.queue q))
    (hm : gr.wakeMet = true ∨ gr.wake = none) :
    s.restoreGroup coord g =
      ((s.modGroup g fun y => { y with phase := .ready, wakeMet := false, quarter := s.quarterFor coord gr }).retryHeld g).endTrap g := by
  have met : (gr.wakeMet || gr.wake.isNone) = true := by simpa using hm
  unfold State.restoreGroup
  split
  · next x hx =>
    obtain rfl : x = gr := Option.some.inj (hx.symm.trans hg)
    extract_lets q queue ready put
    have hn : queue = none := by
      unfold queue
      split
      · next n hn => exact absurd hn (hq n)
      · rfl
    clear_value queue
    subst hn
    simp [met, put, ready, q]
  · next hx => exact absurd (hx.symm.trans hg) nofun

theorem State.restoreGroup_of_unmet {s : State} {coord : Nat} {g : GRef} {gr : Group} (hg : s.group? g = some gr) (hq : ∀ q, gr.wake ≠ some (.queue q))
    (hm : ¬ (gr.wakeMet = true ∨ gr.wake = none)) :
    s.restoreGroup coord g = s.modGroup g fun y => { y with phase := .parked, wakeMet := false, quarter := s.quarterFor coord gr } := by
  have met : (gr.wakeMet || gr.wake.isNone) = false := by simpa [Option.isSome_iff_ne_none] using hm
  unfold State.restoreGroup
  split
  · next x hx =>
    obtain rfl : x = gr := Option.some.inj (hx.symm.trans hg)
    extract_lets q queue ready put
    have hn : queue = none := by
      unfold queue
      split
      · next n hn => exact absurd hn (hq n)
      · rfl
    clear_value queue
    subst hn
    simp [met, put, ready, q]
  · next hx => exact absurd (hx.symm.trans hg) nofun

theorem State.restoreGroup_of_queue {s : State} {coord : Nat} {g : GRef} {gr : Group} {q : Nat} (hg : s.group? g = some gr) (hq : gr.wake = some (.queue q)) :
    s.restoreGroup coord g = (s.modGroup g fun y => { y with phase := .parked, wakeMet := false, quarter := s.quarterFor coord gr }).serve g.team q := by
  unfold State.restoreGroup
  simp [hg, hq]

/-! Eviction. -/

theorem State.returnSteals_cores (s : State) (g : GRef) (uid : Nat) : (s.returnSteals g uid).cores = s.cores ∧ (s.returnSteals g uid).issueRow = s.issueRow := by
  unfold State.returnSteals
  generalize (s.steals.filter fun x => x.byw.g == g && x.byw.uid == uid && !x.dead && x.state < 2) = l
  induction l generalizing s with
  | nil => exact ⟨rfl, rfl⟩
  | cons x l ih => exact ih _

theorem State.leaving_congr {s u : State} (hc : u.cores = s.cores) (hr : u.issueRow = s.issueRow) (t : Team) : u.leaving t = s.leaving t := by
  unfold State.leaving State.emptying State.core
  rw [hc, hr]

/-- A group that is to be evicted now, of a team that stays, is evicted and no more (R231, R263). -/
theorem groupEvict_becomes {s : State} {t : Team} {g : Group} (ht : s.team? t.id = some t) (hg : s.group? ⟨t.id, g.slot⟩ = some g) (hp : g.phase = .parked)
    (hr : t.place = .resident) (hh : g.halted = false) (hf : s.frozen t.ctx = false) (he : g.evictNow = true) (hl : s.leaving t = false) (ho : g.haltOff = false) :
    becomes (.groupEvict ⟨t.id, g.slot⟩) s ((s.returnSteals ⟨t.id, g.slot⟩ g.uid).modGroup ⟨t.id, g.slot⟩ fun y =>
        { y with phase := .evicted, wakeMet := false, evictNow := false }) := by
  show Host.Outcome.next (s.evict ⟨t.id, g.slot⟩) = _
  have wants : s.wantsEvict t g = true := by simp [State.wantsEvict, hp, hr, hh, hf, he]
  obtain ⟨hc, hi⟩ := s.returnSteals_cores ⟨t.id, g.slot⟩ g.uid
  have stays (f : Group → Group) : ((s.returnSteals ⟨t.id, g.slot⟩ g.uid).modGroup ⟨t.id, g.slot⟩ f).leaving t = false :=
    (State.leaving_congr hc hi t).trans hl
  unfold State.evict
  simp [ht, hg, wants, ho, stays]

theorem teamLeave_becomes {s : State} {t : Team} (ht : s.team? t.id = some t) (hr : t.place = .resident) (hm : s.mayLeave t = true) :
    becomes (.teamLeave t.id) s (s.leave t) := by
  show execTeamLeave t.id s = _
  obtain ⟨hl, -, hg, -⟩ := (s.mayLeave_iff t).1 hm
  have leaving : s.leaving t = true := by simpa [State.leaving] using hl
  have still : (t.groups.all fun g => g.phase == .evicted || g.phase == .exited) = true := by simpa using hg
  unfold execTeamLeave
  simp only [ht, hr, leaving, still, hm]
  simp

theorem teamRestore_becomes {s : State} {t : Team} (ht : s.team? t.id = some t) (ha : t.place = .away)
    (hw : ∃ g ∈ t.groups, g.phase = .evicted ∧ (g.wakeMet = true ∨ g.wake = none))
    (ho : ∀ c, s.cluster? t.launch t.cluster = some c → ∀ x ∈ rectCores c.origin c.w c.h, s.offered x = true) (hn : s.coreTakes t.coord (t.need s) = true)
    (hf : s.savedFits t t.coord = true) (hu : isUrgent s t.ctx = true ∨ t.coord ∉ s.claims fun _ => true) :
    becomes (.teamRestore t.id) s (s.restore t.id t.coord) := by
  show execTeamRestore t.id s = _
  unfold execTeamRestore
  split
  · next hx => exact absurd (hx.symm.trans ht) nofun
  next x hx =>
  obtain rfl : t = x := Option.some.inj (ht.symm.trans hx)
  rw [if_neg (not_not.2 ha)]
  extract_lets live held wanted claimed called
  have hl : live.isEmpty = false := by
    obtain ⟨g, hg, he, -⟩ := hw
    exact List.isEmpty_eq_false_iff.2 (List.ne_nil_of_mem (List.mem_filter.2 ⟨hg, beq_iff_eq.2 he⟩))
  have wants : wanted = true := by
    obtain ⟨g, hg, he, hm⟩ := hw
    have awake : (live.any fun g => g.wakeMet || g.wake.isNone) = true :=
      List.any_eq_true.2 ⟨g, List.mem_filter.2 ⟨hg, beq_iff_eq.2 he⟩, by simpa using hm⟩
    simp [wanted, awake]
  have free : claimed = false := by
    cases hu with
    | inl hu => simp [claimed, hu]
    | inr hu => simp [claimed, hu]
  have fits : (s.coreTakes t.coord (t.need s) && s.savedFits t t.coord) = true := by simp [hn, hf]
  rw [if_neg (by simp [hl, wants, free])]
  rw [if_pos fits]
  split
  · next c hc => simp [List.all_eq_true.2 (ho c hc)]
  · simp

theorem timeSliceExpire_becomes {s : State} {coord ctx e : Nat} (hs : ((s.core coord).slices.find? fun x => x.1 == ctx) = some (ctx, e))
    (he : e ≤ s.ctxClock ctx) :
      let u := s.modCore coord fun c => { c with slices := c.slices.filter fun x => x.1 != ctx }
      let ts := (s.resident coord).filter fun t => t.ctx == ctx
      let other (l : Nat) : Bool := match s.launch? l with
        | some x => x.ctx != ctx
        | none => false
      ts ≠ [] → becomes (.timeSliceExpire coord ctx) s
        ((if u.clusterWaits (Config.coordDie coord) other = true then ts.foldl (fun s t => s.narrow t.id) u else u).startSlice coord ctx) := by
  intro u ts other hne
  show execTimeSliceExpire coord ctx s = _
  unfold execTimeSliceExpire
  split
  · next hx => exact absurd (hx.symm.trans hs) nofun
  next x hx =>
  obtain ⟨-, rfl⟩ := Prod.mk.inj (Option.some.inj (hx.symm.trans hs))
  have due : ¬ s.ctxClock ctx < x := Nat.not_lt.2 he
  have held : ts.isEmpty = false := by simpa using hne
  exact congrArg Host.Outcome.next ((if_neg due).trans (if_neg (Bool.eq_false_iff.1 held)))

/-- A team's own state on the core to which it comes back, and its locks. -/
def State.reclaimed (s : State) (t : Team) (coord : Nat) : State :=
  ({ s with locks := s.locks.map fun (k : Lock) => if k.team = t.id then { k with saved := false } else k } : State).modTeam t.id fun x =>
    { x with coord := coord, place := .resident, offSpawns := [], offQi := [], offQo := [] }
/-- A core to which a team comes back: its L1 is empty and it holds what was saved with the team. -/
def Team.coreBack (t : Team) (c : Core) : Core :=
  { c with
    l1 := []
    spawnq := (t.offSpawns.map fun r => (t.id, r)) ++ c.spawnq
    qi := if t.streams then t.offQi else c.qi
    qo := if t.streams then t.offQo else c.qo
    launches := if t.launch ∈ c.launches then c.launches else c.launches ++ [t.launch]
    tasksRun := match t.task with
      | some k => if k ∈ c.tasksRun then c.tasksRun else c.tasksRun ++ [k]
      | none => c.tasksRun }

theorem State.restore_eq {s : State} {t : Team} (ht : s.team? t.id = some t) (coord : Nat) :
      let groups := (t.groups.filter fun g => g.phase = .evicted ∧ g.staysOff = false).foldl (fun u g => u.restoreGroup coord ⟨t.id, g.slot⟩)
        ((s.reclaimed t coord).modCore coord t.coreBack)
      let asked := (List.range 4).foldl (fun (u : State) q =>
        let u := if (t.offQi.getD q {}).descs = [] then u else u.sched (u.clock + 1) (.streamLoadElement coord q)
        let u := if (t.offQo.getD q {}).descs = [] then u else u.sched (u.clock + 1) (.streamStoreElement coord q)
        u.sched u.clock (.queueRefillStart t.id q)) groups
      ∀ y, asked.team? t.id = some y →
        s.restore t.id coord =
          (((asked.gather y).sched ((asked.gather y).clock + 1) (.spawnRingRefill t.id)).startSlice coord t.ctx).armEngine (engineOf coord) := by
  intro groups asked y hy
  unfold State.restore
  split
  · next hx => exact absurd (hx.symm.trans ht) nofun
  next x hx =>
  obtain rfl : t = x := Option.some.inj (ht.symm.trans hx)
  extract_lets dropped locked named back restored going gathered sliced
  have hb : back = (s.reclaimed t coord).modCore coord t.coreBack := by
    refine (State.modCore_modCore (s.reclaimed t coord) coord (fun c => { c with l1 := [] }) _ fun _ => rfl).trans ?_
    refine congrArg (State.modCore _ coord) (funext fun c => ?_)
    unfold Team.coreBack
    cases t.task <;> simp
  have hr : restored = groups := by
    have same : (t.groups.filter fun g => g.phase == .evicted && !g.staysOff) = t.groups.filter fun g => g.phase = .evicted ∧ g.staysOff = false :=
      List.filter_congr fun g _ => by simp [beq_eq_decide]
    unfold restored groups
    rw [hb, same]
  have hg : going = asked := by
    unfold going asked
    rw [hr]
    simp only [List.isEmpty_iff]
  have hy' : gathered = asked.gather y := by
    unfold gathered
    rw [hg, hy]
  unfold sliced
  rw [hy']

/-- The clauses of the claim about what one restored group becomes (R39, R235). -/
theorem State.restoreGroup_cases {s : State} {g : GRef} {gr : Group} (coord : Nat) (hg : s.group? g = some gr) :
    let met := gr.wakeMet = true ∨ gr.wake = none
    let put (p : GPhase) : State := s.modGroup g fun y => { y with phase := p, wakeMet := false, quarter := s.quarterFor coord gr }
    ((∀ q, gr.wake ≠ some (.queue q)) → met → s.restoreGroup coord g = ((put .ready).retryHeld g).endTrap g) ∧
    ((∀ q, gr.wake ≠ some (.queue q)) → ¬ met → s.restoreGroup coord g = put .parked) ∧
    (∀ q, gr.wake = some (.queue q) → s.restoreGroup coord g = (put .parked).serve g.team q) :=
  ⟨State.restoreGroup_of_met hg, State.restoreGroup_of_unmet hg, fun _ => State.restoreGroup_of_queue hg⟩

theorem evictionAndRestoration : Claims.evictionAndRestoration := fun _ =>
  ⟨fun _ _ => groupEvict_becomes, fun _ => teamLeave_becomes, fun _ => teamRestore_becomes, fun _ _ _ => timeSliceExpire_becomes⟩

theorem aTeamIsSavedWhole : Claims.aTeamIsSavedWhole := fun s t ht =>
  ⟨s.mayLeave_iff t, State.leave_saves ht, fun coord => ⟨s.savedFits_iff t coord, State.restore_eq ht coord⟩,
    fun coord _ _ => State.restoreGroup_cases coord⟩

/-- Settles O33: what an eviction, a leaving, a restoration and the end of a time slice make of the state, by cases on the checks of each. -/
theorem teamsLeaveAndReturn : Obligations.teamsLeaveAndReturn := ⟨evictionAndRestoration, aTeamIsSavedWhole⟩

end Sys2Proof.Machine
end

section
/-! SUPPORT. The answer to a service call whose wait a throw has cancelled (O45). -/
namespace Sys2Proof.Machine
open Sys2Proof.Tests

/-- A context that awaits call 0 of lane 0 of group 0. -/
def callingCtx : Ctx := { placedCtx with calls := [(0, ⟨0, 0⟩, 0, 0, true)], nextSeq := 1 }
/-- The machine whose group 0 waits in a TRAP of its lane 0 for call 0 to be answered, while a throw into its grid is under way. -/
def callThrownOver : State :=
  mach (fun y => { y with phase := .parked, wake := some .trapReply, wakeBy := { lanes := 1 }, trapLanes := [0] }) id fun s =>
    { s with
      sessions := [⟨0, 0, [], some 0⟩]
      contexts := [callingCtx]
      steers := [{ region := .grid 0, acc := {}, insts := [], start := 0 }] }
/-- The bodies of the messages that a step has left to be sent. -/
def sentBodies : Host.Outcome State Fault Refusal → List (List Byte)
  | .next s => s.outbox.map fun m => m.body
  | _ => []

theorem callThrownOver_onContext : onContext callThrownOver (hd 0) 0x0058 callingCtx := by
  refine ⟨⟨rfl, by decide, ⟨_, rfl, rfl⟩, ?_, ?_⟩, rfl⟩
  · intro r hr
    exact absurd hr List.not_mem_nil
  · intro x hx
    exact absurd hx List.not_mem_nil

/-- The call's lane is one of those the throw reaches (R54, R244), so its answer is refused: STATUS 8. -/
theorem reply_callThrownOver : sentBodies (exec (.reply (hd 0) 0 5 0) callThrownOver) = [bytesOfNat 8 8] := by decide

/-- An answer that is taken has STATUS 0. -/
theorem applyReply_callThrownOver :
    sentBodies (.next ((callThrownOver.applyReply 1 0 5 0).reply (hd 0) 0x0058 0 [])) = [bytesOfNat 8 0] := by decide

/-- Refutes O45: it has every call that the context lists answered by REPLY with STATUS 0, but one whose wait a throw of this cc has cancelled
is awaited no more (R54, R236, log 112), and its REPLY is refused with 8. -/
theorem not_launchCommands : ¬ Obligations.launchCommands := by
  intro h
  obtain ⟨answers, -, -⟩ := h
  obtain ⟨-, -, -, -, -, -, reply, -⟩ := answers callThrownOver (hd 0) callingCtx
  have taken : becomes (.reply (hd 0) 0 5 0) callThrownOver ((callThrownOver.applyReply 1 0 5 0).reply (hd 0) 0x0058 0 []) :=
    (reply 0 5 0 callThrownOver_onContext (.inl rfl)).1 ⟨_, List.mem_singleton.2 rfl, rfl⟩
  have same := congrArg sentBodies taken
  rw [reply_callThrownOver, applyReply_callThrownOver] at same
  exact absurd same (by decide)

end Sys2Proof.Machine
end

section
/-! SUPPORT. A word that has passed its checks acts or throws as its body says (O3, O7). -/
namespace Sys2Proof.Machine

section
variable {s : State} {op : Op} {w : Full} {c : Cur} {i : Iss} {core : Core}

/-- A lanewise word never only waits: each of its halves acts (R351). -/
theorem not_onlyWaits_of_lanewise (hk : issueKind op w = .lanewise) : ¬ onlyWaits op w c i := by
  rintro ⟨-, h | h⟩ <;> simp [hk] at h
/-- A word whose meaning throws has issued without effect (R107). -/
theorem AtIssue.execFull_throws {body : Iss → State → Body} {l : List LaneThrow} (h : AtIssue s op w c i core) (hw : ¬ onlyWaits op w c i)
    (hb : body i (s.entered c i core) = .throws l) :
    execFull op (issueKind op w) body w s = .next (s.issueThrows c i.gr i.t.coord (classX op) w.yld w.gap.toNat l) := by
  rw [execFull_next h.cur, issueFull_throws h hw hb]

/-- A lanewise word with a result for each lane of the present half lands them (R92, R95). -/
theorem AtIssue.execFull_vecBody {lat : Nat} {wide : Iss → Bool} {f : Iss → Nat → W64} (h : AtIssue s op w c i core)
    (hk : issueKind op w = .lanewise) :
    execFull op .lanewise (vecBody lat wide f) w s = .next (lands s op w c i core lat (i.half.flatMap fun l => dstV w.d l (wide i) (f i l))) := by
  rw [← hk]
  refine execFull_ok h (not_onlyWaits_of_lanewise hk) ?_
  rw [vecBody, h.g, h.w_eq]

/-- A lanewise word with a triple for each lane of the present half lands them (R153). -/
theorem AtIssue.execFull_triBody {lat : Nat} {f : Iss → Nat → Triple} (h : AtIssue s op w c i core) (hk : issueKind op w = .lanewise) :
    execFull op .lanewise (triBody lat f) w s =
      .next (issuedWith s op w c i core fun u => u.landM c.g lat (i.half.flatMap fun l => dstM w.d l (f i l))) := by
  rw [← hk]
  refine execFull_ok h (not_onlyWaits_of_lanewise hk) ?_
  rw [triBody, h.g, h.w_eq]

end
end Sys2Proof.Machine
end

section
/-! SUPPORT. The words that make and read statistics triples (O7). -/
namespace Sys2Proof.Machine

/-- R153, R127, R128. -/
theorem tripleWords : Claims.tripleWords := by
  intro x hx s w c i core h
  obtain rfl := h.w_eq
  simp only [triOps, List.mem_cons, List.not_mem_nil, or_false] at hx
  obtain rfl | rfl | rfl | rfl | rfl := hx
  · exact h.execFull_triBody rfl (f := tMclr)
  · exact h.execFull_triBody rfl (f := tMacc)
  · exact h.execFull_triBody rfl (f := tMaccw)
  · exact h.execFull_triBody rfl (f := tMmerge)
  · exact h.execFull_triBody rfl (f := tMput)

/-- The exponent of the epsilon: MODE's where no operand is given, else the operand, clamped to 0 .. 63 (R155). -/
theorem epsOf_eq (i : Iss) (l : Nat) (o : Opnd) (wt : Bool) :
    epsOf i l o wt =
      if o.unused wt then i.gr.mode.toNat / 2 ^ 16 % 64
      else if (i.rd32 l o).toInt < 0 then 0 else if 63 < (i.rd32 l o).toInt then 63 else (i.rd32 l o).toInt.toNat := by
  unfold epsOf
  generalize (i.rd32 l o).toInt = e
  split_ifs <;> omega

theorem gMget_eq (i : Iss) (l : Nat) (hsub : i.w.sub.toNat < 5) :
    gMget i l =
      (let t := i.tri l i.w.a
       (([t.n, t.mean, t.m2, tripleVar t, tripleRstd t (epsOf i l i.w.b i.w.wb)] : List W32).getD i.w.sub.toNat 0).setWidth 64) := by
  unfold gMget
  generalize i.w.sub.toNat = n at hsub
  interval_cases n <;> rfl

/-- R155. -/
theorem tripleReads : Claims.tripleReads := by
  intro s w c i core e
  have he (l : Nat) (o : Opnd) (wt : Bool) : e l o wt = epsOf i l o wt := (epsOf_eq i l o wt).symm
  clear_value e
  simp only [he]
  refine ⟨fun h hsub => ?mget, fun h => ?mnorm⟩
  case mget =>
    obtain rfl := h.w_eq
    refine (h.execFull_vecBody rfl (f := gMget)).trans ?_
    simp only [gMget_eq i _ hsub]
    rfl
  case mnorm =>
    obtain rfl := h.w_eq
    exact h.execFull_vecBody rfl (f := gMnorm)

/-- Settles O7: each word's body lands what its table of triples gives, lane by lane. -/
theorem statisticsWords : Obligations.statisticsWords := ⟨tripleWords, tripleReads⟩

end Sys2Proof.Machine
end

section
/-! SUPPORT. The floating-point range and the special functions (O3). -/
namespace Sys2Proof.Machine

/-- The lanes that throw E_ARITH are those whose conditions are enabled, each with all its conditions (R115). -/
theorem arithThrows_conds (mode : W64) (pc : Nat) (half : List Nat) (r : Nat → FRes) :
    arithThrows mode pc ((half.map fun l => (l, r l)).map fun x => (x.1, x.2.conds)) =
      (half.filter fun l => trapped mode (r l).conds).map fun l => ⟨l, eArith, pc, BitVec.ofNat 64 (r l).conds.bits⟩ := by
  simp only [arithThrows, List.map_map, List.filter_map, Function.comp_def]

/-- Without an enabled condition the body lands the rounded results. -/
theorem fpBody_of_untrapped {lat : Nat} {f : Iss → Nat → FRes} {i : Iss} {s : State} (h : ∀ l ∈ i.half, trapped i.gr.mode (f i l).conds = false) :
    fpBody lat f i s = .ok (s.land i.g lat (i.half.flatMap fun l => dstV i.w.d l false (BitVec.ofNat 64 (f i l).bits))) := by
  have none : (i.half.filter fun l => trapped i.gr.mode (f i l).conds) = [] := List.filter_eq_nil_iff.2 fun l hl => by simp [h l hl]
  unfold fpBody
  extract_lets r
  rw [arithThrows_conds, none]
  simp only [List.map_nil, r, List.flatMap_map]

/-- With an enabled condition in a lane the body throws and lands nothing. -/
theorem fpBody_of_trapped {lat : Nat} {f : Iss → Nat → FRes} {i : Iss} {s : State} (h : ∃ l ∈ i.half, trapped i.gr.mode (f i l).conds = true) :
    fpBody lat f i s = .throws
      ((i.half.filter fun l => trapped i.gr.mode (f i l).conds).map fun l => ⟨l, eArith, i.cur.pc, BitVec.ofNat 64 (f i l).conds.bits⟩) := by
  unfold fpBody
  extract_lets r
  rw [arithThrows_conds]
  split
  · next hl =>
    obtain ⟨l, hl', ht⟩ := h
    exact absurd (List.mem_filter.2 ⟨hl', ht⟩) (List.map_eq_nil_iff.1 hl ▸ List.not_mem_nil)
  · rfl

section
variable {s : State} {op : Op} {w : Full} {c : Cur} {i : Iss} {core : Core}

/-- What a word with conditions does whose results are `r` (R115). -/
def LandsOrTraps (s : State) (op : Op) (w : Full) (c : Cur) (i : Iss) (core : Core) (lat : Nat) (r : Nat → FRes) (o : Host.Outcome State Fault Refusal) : Prop :=
  ((∀ l ∈ i.half, trapped i.gr.mode (r l).conds = false) →
    o = .next (lands s op w c i core lat (i.half.flatMap fun l => dstV w.d l false (BitVec.ofNat 64 (r l).bits)))) ∧
  ((∃ l ∈ i.half, trapped i.gr.mode (r l).conds = true) →
    o = .next (s.issueThrows c i.gr i.t.coord (classX op) w.yld w.gap.toNat
      ((i.half.filter fun l => trapped i.gr.mode (r l).conds).map fun l => ⟨l, 0x10, c.pc, BitVec.ofNat 64 (r l).conds.bits⟩)))

theorem AtIssue.execFull_fpBody (lat : Nat) (f : Iss → Nat → FRes) (h : AtIssue s op w c i core) (hk : issueKind op w = .lanewise) :
    LandsOrTraps s op w c i core lat (f i) (execFull op .lanewise (fpBody lat f) w s) := by
  rw [← hk]
  refine ⟨fun hn => execFull_ok h (not_onlyWaits_of_lanewise hk) ?_, fun ht => h.execFull_throws (not_onlyWaits_of_lanewise hk) ?_⟩
  · rw [fpBody_of_untrapped hn, h.g, h.w_eq]
  · rw [fpBody_of_trapped ht, h.pc]
    rfl

/-- The formats that FDOT2 names are those of its type (R141). -/
theorem fdot2Format_eq (t : Ty) : (if t = .bf16 then fBf16 else if t = .f16 then fF16 else ffmtOf t) = ffmtOf t := by
  cases t <;> rfl

/-- Each word with conditions rounds as its operation says (R141, R144, R145). -/
theorem fpWord_landsOrTraps (h : AtIssue s op w c i core) (hop : op ∈ fpOps) :
    LandsOrTraps s op w c i core (fpLatency op)
      (fun l => fpSpec op w.ty (RMode.ofMode i.gr.mode) (i.rd32 l w.a) (i.rd32 l w.b) (i.rd32 l w.c)) (exec (.ofFull op w) s) := by
  obtain rfl := h.w_eq
  simp only [fpOps, List.mem_cons, List.not_mem_nil, or_false] at hop
  obtain rfl | rfl | rfl | rfl | rfl | rfl | rfl | rfl | rfl | rfl | rfl | rfl | rfl | rfl := hop
  · exact h.execFull_fpBody 6 (fF2 fAdd) rfl
  · exact h.execFull_fpBody 6 (fF2 fSub) rfl
  · exact h.execFull_fpBody 6 (fF2 fMul) rfl
  · exact h.execFull_fpBody 6 (fF3 fFma) rfl
  · exact h.execFull_fpBody 6 (fF2 fScale) rfl
  · simp only [fpSpec, fdot2Format_eq]
    exact h.execFull_fpBody 6 (fun i l => fDot2 (ffmtOf i.w.ty) i.md (i.rd32 l i.w.a) (i.rd32 l i.w.b) (i.rd32 l i.w.c)) rfl
  · exact h.execFull_fpBody 16 (fF1 fRcp) rfl
  · exact h.execFull_fpBody 16 (fF1 fRsq) rfl
  · exact h.execFull_fpBody 16 (fF1 fSqrt) rfl
  · exact h.execFull_fpBody 16 (fF1 fExp2) rfl
  · exact h.execFull_fpBody 16 (fF1 fLog2) rfl
  · exact h.execFull_fpBody 16 (fF1 fSin) rfl
  · exact h.execFull_fpBody 16 (fF1 fCos) rfl
  · exact h.execFull_fpBody 16 (fF1 fTanh) rfl
end

/-- The words with class X's occupancy are those of latency 16 (R104). -/
theorem classX_eq_of_mem_fpOps {op : Op} (hop : op ∈ fpOps) : classX op = (fpLatency op == 16) := by
  revert op
  decide

/-- R141, R144, R145, R115. -/
theorem floatWordsLandOrTrap : Claims.floatWordsLandOrTrap := by
  intro op hop s w c i core h
  rw [← classX_eq_of_mem_fpOps hop]
  exact fpWord_landsOrTraps h hop

/-- FABS clears the sign (R142). -/
theorem and_absMask (a : W32) : a &&& 0x7FFFFFFF = BitVec.ofNat 32 (a.toNat % 2 ^ 31) := by
  apply BitVec.eq_of_toNat_eq
  have small : a.toNat % 2 ^ 31 < 2 ^ 32 := (Nat.mod_le _ _).trans_lt a.isLt
  calc (a &&& 0x7FFFFFFF).toNat = a.toNat &&& (2 ^ 31 - 1) := BitVec.toNat_and a _
    _ = a.toNat % 2 ^ 31 := Nat.and_two_pow_sub_one_eq_mod _ _
    _ = _ := by rw [BitVec.toNat_ofNat, Nat.mod_eq_of_lt small]

/-- Adding the sign bit changes it and no other bit: nothing carries into it, and what carries out is lost. -/
theorem xor_signBit_eq_add (a : W32) : a ^^^ 0x80000000 = a + 0x80000000 := by
  ext i hi
  have low : 2147483648 % 2 ^ i = 0 := Nat.mod_eq_zero_of_dvd (pow_dvd_pow 2 (Nat.le_of_lt_succ hi))
  have carry : ¬ 2 ^ i ≤ a.toNat % 2 ^ i := Nat.not_le.2 (Nat.mod_lt _ (by positivity))
  simp [BitVec.getElem_add, BitVec.carry, low, carry]

/-- FNEG changes the sign, whichever it is (R142). -/
theorem xor_signBit (a : W32) : a ^^^ 0x80000000 = if a.getLsbD 31 then a - 0x80000000 else a + 0x80000000 := by
  have same : a - 0x80000000 = a + 0x80000000 := BitVec.sub_eq_add_neg a _
  rw [same, ite_self, xor_signBit_eq_add]

/-- R142, R143. -/
theorem floatWordsWithoutConditions : Claims.floatWordsWithoutConditions := by
  intro s w c i core
  refine ⟨fun op hop h => ?plain, fun h => ?fcmp⟩
  case plain =>
    obtain rfl := h.w_eq
    simp only [fpPlainOps, List.mem_cons, List.not_mem_nil, or_false] at hop
    obtain rfl | rfl | rfl | rfl | rfl | rfl := hop
    · exact h.execFull_vecBody rfl (f := gFmin)
    · exact h.execFull_vecBody rfl (f := gFmax)
    · simp only [fpPlainSpec, ← and_absMask]
      exact h.execFull_vecBody rfl (f := fun i l => (gFabs i (i.rd32 l i.w.a)).setWidth 64)
    · simp only [fpPlainSpec, ← xor_signBit]
      exact h.execFull_vecBody rfl (f := fun i l => (gFneg i (i.rd32 l i.w.a)).setWidth 64)
    · exact h.execFull_vecBody rfl (f := fun i l => (gFclass i (i.rd32 l i.w.a)).setWidth 64)
    · exact h.execFull_vecBody rfl (f := fun i l => (gFrnd i (i.rd32 l i.w.a)).setWidth 64)
  case fcmp =>
    obtain rfl := h.w_eq
    refine execFull_ok h (body := fcmpBody) (not_onlyWaits_of_lanewise rfl) ?_
    rw [fcmpBody, h.g]
    rfl

/-- Settles O3: the body of a word with conditions throws for the lanes whose conditions are enabled, and lands its results where there are none. -/
theorem floatingPointWords : Obligations.floatingPointWords := ⟨floatWordsLandOrTrap, floatWordsWithoutConditions⟩

end Sys2Proof.Machine
end

section
/-! SUPPORT. The bytes that an array operation fetches, each counted once, and its busy period (R306). -/
namespace Sys2Proof.Machine

/-! A list in rising order of a key is Mathlib's insertion sort. -/

theorem insertBy_eq_orderedInsert {α : Type} (f : α → Nat) (x : α) (l : List α) : insertBy f x l = l.orderedInsert (f ⁻¹'o (· ≤ ·)) x := by
  induction l with
  | nil => rfl
  | cons y l ih =>
    rw [insertBy, List.orderedInsert_cons, ih]
    rfl

theorem sortBy_eq_insertionSort {α : Type} (f : α → Nat) (l : List α) : sortBy f l = l.insertionSort (f ⁻¹'o (· ≤ ·)) := by
  induction l with
  | nil => rfl
  | cons x l ih =>
    rw [List.insertionSort_cons, ← ih, ← insertBy_eq_orderedInsert]
    rfl

theorem pairwise_sortBy {α : Type} (f : α → Nat) (l : List α) : (sortBy f l).Pairwise fun x y => f x ≤ f y := by
  rw [sortBy_eq_insertionSort]
  exact List.pairwise_insertionSort _ l

theorem sortBy_perm {α : Type} (f : α → Nat) (l : List α) : (sortBy f l).Perm l := by
  rw [sortBy_eq_insertionSort]
  exact List.perm_insertionSort _ l

/-! Distinct places of half-open runs. -/

/-- The distinct elements of a list, by number. -/
theorem length_eraseDups (l : List Nat) : l.eraseDups.length = l.toFinset.card := by
  induction hn : l.length using Nat.strong_induction_on generalizing l with
  | _ n ih =>
    cases l with
    | nil => rfl
    | cons a as =>
      have shorter : (as.filter fun b => !b == a).length < n := by
        rw [← hn]
        exact Nat.lt_succ_of_le (List.length_filter_le _ _)
      have rest : (as.filter fun b => !b == a).toFinset = (a :: as).toFinset.erase a := by
        ext b
        simp [and_comm]
      have first : a ∈ (a :: as).toFinset := by simp
      rw [List.eraseDups_cons, List.length_cons, ih _ shorter _ rfl, rest, Finset.card_erase_add_one first]

/-- The places that runs from a start to before an end cover. -/
def placesOf (l : List (Nat × Nat)) : Finset Nat := l.toFinset.biUnion fun x => Finset.Ico x.1 x.2

theorem mem_placesOf {l : List (Nat × Nat)} {j : Nat} : j ∈ placesOf l ↔ ∃ x ∈ l, x.1 ≤ j ∧ j < x.2 := by
  simp [placesOf]

theorem placesOf_perm {l m : List (Nat × Nat)} (h : l.Perm m) : placesOf l = placesOf m := by
  rw [placesOf, placesOf, List.toFinset_eq_of_perm l m h]

/-- One step of `fetched`'s count: the places of a run beyond the last end reached. -/
def sweepStep (acc x : Nat × Nat) : Nat × Nat := (acc.1 + (x.2 - max x.1 acc.2), max acc.2 x.2)

/-- A sweep over runs in order of their starts counts every place from the end reached on once. -/
theorem sweep_count (l : List (Nat × Nat)) (acc : Nat × Nat) (h : l.Pairwise fun x y => x.1 ≤ y.1) :
    (l.foldl sweepStep acc).1 = acc.1 + ((placesOf l).filter fun j => acc.2 ≤ j).card := by
  induction l generalizing acc with
  | nil => rfl
  | cons x l ih =>
    obtain ⟨first, sorted⟩ := List.pairwise_cons.1 h
    have after (j : Nat) (hj : j ∈ placesOf l) : x.1 ≤ j := by
      obtain ⟨y, hy, hle, -⟩ := mem_placesOf.1 hj
      exact (first y hy).trans hle
    have split : (placesOf (x :: l)).filter (fun j => acc.2 ≤ j) =
        Finset.Ico (max x.1 acc.2) x.2 ∪ (placesOf l).filter fun j => max acc.2 x.2 ≤ j := by
      ext j
      have cons : j ∈ placesOf (x :: l) ↔ (x.1 ≤ j ∧ j < x.2) ∨ j ∈ placesOf l := by simp [mem_placesOf]
      simp only [Finset.mem_filter, Finset.mem_union, Finset.mem_Ico, cons]
      have := after j
      grind
    have apart : Disjoint (Finset.Ico (max x.1 acc.2) x.2) ((placesOf l).filter fun j => max acc.2 x.2 ≤ j) := by
      rw [Finset.disjoint_left]
      intro j hj
      simp only [Finset.mem_Ico, Finset.mem_filter] at hj ⊢
      omega
    rw [List.foldl_cons, ih _ sorted, split, Finset.card_union_of_disjoint apart, Nat.card_Ico, ← Nat.add_assoc]
    rfl

/-- The model's sweep counts the covered bytes of a space, each once. -/
theorem fetched_eq_covered (l : List (Nat × Nat × Nat)) (sp : Nat) : fetched l sp = covered l sp := by
  have sorted := pairwise_sortBy (fun x : Nat × Nat => x.1) ((l.filter fun x => x.1 = sp).map fun x => (x.2.1, x.2.1 + x.2.2))
  have places : placesOf ((l.filter fun x => x.1 = sp).map fun x => (x.2.1, x.2.1 + x.2.2)) =
      ((l.filter fun x => x.1 = sp).flatMap fun x => (List.range x.2.2).map fun j => x.2.1 + j).toFinset := by
    ext j
    simp only [mem_placesOf, List.mem_map, List.mem_toFinset, List.mem_flatMap, List.mem_range]
    constructor
    · rintro ⟨_, ⟨x, hx, rfl⟩, hle, hlt⟩
      exact ⟨x, hx, j - x.2.1, by omega, by omega⟩
    · rintro ⟨x, hx, i, hi, rfl⟩
      exact ⟨_, ⟨x, hx, rfl⟩, by simp, by simpa using hi⟩
  calc fetched l sp = _ := sweep_count _ (0, 0) sorted
    _ = (placesOf ((l.filter fun x => x.1 = sp).map fun x => (x.2.1, x.2.1 + x.2.2))).card := by
      simp [placesOf_perm (sortBy_perm _ _)]
    _ = covered l sp := by rw [places, covered, length_eraseDups]

/-! The busy period. -/

theorem MOp.busy_of_mzero {o : MOp} (h : o.kind = 0) : o.busy = 32 := if_pos h

/-- What an operation reads, by its operands. -/
theorem MOp.reads_of_operands {o : MOp} {l r : Rsv} (hl : o.left = some l) (hr : o.right = some r) (own : Bool) :
    o.reads own = (if own then operandData l o.k0l o.k else []) ++ operandData r o.k0r o.k ++
      ((if own then operandAux l o.k0l o.k else []) ++ operandAux r o.k0r o.k) := by
  simp only [MOp.reads, MOp.runs, hl, hr]

theorem MOp.busy_of_operands {o : MOp} {l r : Rsv} (hk : o.kind ≠ 0) (hl : o.left = some l) (hr : o.right = some r) :
    let rho := if l.ty < 11 then 2 else 4
    let runs (own : Bool) : List (Nat × Nat × Nat) := (if own then operandData l o.k0l o.k else []) ++ operandData r o.k0r o.k ++
      ((if own then operandAux l o.k0l o.k else []) ++ operandAux r o.k0r o.k)
    let fa := covered (runs true) 2
    let fw := max (covered (runs true) 4) (if o.follower = none then 0 else covered (runs false) 4)
    o.busy = max (o.k / (if o.kind = 3 then 2 * rho else rho)) (max ((fa + 511) / 512) ((fw + 1023) / 1024)) := by
  intro rho runs fa fw
  have reads (own : Bool) : o.reads own = runs own := MOp.reads_of_operands hl hr own
  have rate : (if decide (11 ≤ l.ty) = true then 4 else 2) = rho := by
    unfold rho
    split_ifs <;> grind
  have far : (if o.follower.isSome = true then covered (runs false) 4 else 0) = if o.follower = none then 0 else covered (runs false) 4 := by
    cases o.follower <;> rfl
  unfold MOp.busy
  simp only [if_neg hk, hl, reads, fetched_eq_covered, rate, far, fa, fw]
  split_ifs <;> rfl

end Sys2Proof.Machine
end

section
/-! SUPPORT. Elements, block sums and the tile after an operation (R124, R125, R300 to R303). -/
namespace Sys2Proof.Machine

/-! Elements. -/

/-- A selector of four bits is one half of a byte (R303). -/
theorem selector_eq (b : Byte) (g : Nat) : b.toNat / 16 ^ (g % 2) % 16 = if g % 2 = 0 then b.toNat % 16 else b.toNat / 16 := by
  have := b.isLt
  obtain h | h := Nat.mod_two_eq_zero_or_one g
  · simp [h]
  · simp [h]
    omega

theorem storedIndex_of_sparse {r : Rsv} (h : rsvSparse r = true) (m : Mem) (i k : Nat) : storedIndex r m i k = (storedAt r m i k).1 := by
  simp only [storedIndex, storedAt, h, selector_eq]
  rfl

theorem storedIndex_of_dense {r : Rsv} (h : rsvSparse r = false) (m : Mem) (i k : Nat) : storedIndex r m i k = some k := if_pos h

/-- The half of a byte that holds an element of four bits. -/
theorem nibble_eq (x j : Nat) : x / (if j % 2 = 0 then 1 else 16) % 16 = x / 16 ^ (j % 2) % 16 := by
  obtain h | h := Nat.mod_two_eq_zero_or_one j <;> simp [h]

/-- Elem of R300 is read at the stored index of R303. -/
theorem elemAt_eq (r : Rsv) (m : Mem) (i k : Nat) : elemAt r m i k = (storedIndex r m i k).map (elemSpec r m i k) := by
  have place : (if rsvSparse r = true then (storedAt r m i k).1 else some k) = storedIndex r m i k := by
    split
    · next h => exact (storedIndex_of_sparse h m i k).symm
    · next h => exact (storedIndex_of_dense (Bool.eq_false_iff.2 h) m i k).symm
  unfold elemAt
  extract_lets b st z
  rw [show st = storedIndex r m i k from place]
  refine congrArg (Option.map · _) (funext fun j => ?_)
  unfold elemSpec
  extract_lets v v'
  have value : v = v' := by
    unfold v v'
    simp only [nibble_eq]
    split_ifs <;> simp [*]
  rw [value]

/-! Block sums. -/

theorem FVal.add_nan_left (rm : Nat) (x : FVal) : FVal.add rm .nan x = .nan := by cases x <;> rfl
theorem FVal.add_nan_right (rm : Nat) (x : FVal) : FVal.add rm x .nan = .nan := by cases x <;> rfl

theorem foldl_add_nan (rm : Nat) (p : List FVal) : p.foldl (fun acc x => FVal.add rm acc x) .nan = .nan := by
  induction p with
  | nil => rfl
  | cons x p ih => rw [List.foldl_cons, FVal.add_nan_left, ih]

/-- A NaN among the products is the sum's (R124). -/
theorem foldl_add_of_nan_mem {p : List FVal} (h : FVal.nan ∈ p) (rm : Nat) (a : FVal) : p.foldl (fun acc x => FVal.add rm acc x) a = .nan := by
  induction p generalizing a with
  | nil => exact absurd h List.not_mem_nil
  | cons x p ih =>
    rw [List.foldl_cons]
    obtain rfl | hx := List.mem_cons.1 h
    · rw [FVal.add_nan_right, foldl_add_nan]
    · exact ih hx _

theorem blockSum_nil : blockSum [] = 0 := rfl

theorem blockSum_of_nan_mem {p : List FVal} (h : FVal.nan ∈ p) : blockSum p = sCanon := by
  unfold blockSum
  rw [foldl_add_of_nan_mem h]

/-! The tile after an operation. -/

/-- Of blocks of one length, the one at a position. -/
theorem take_drop_flatMap {α β : Type} {k : Nat} (f : α → List β) (hf : ∀ x, (f x).length = k) (l : List α) (i : Nat) (hi : i < l.length) :
    ((l.flatMap f).drop (k * i)).take k = f l[i] := by
  induction l generalizing i with
  | nil => exact absurd hi (Nat.not_lt_zero i)
  | cons x l ih =>
    cases i with
    | zero => simp [hf]
    | succ i =>
      have next : k * (i + 1) = (f x).length + k * i := by rw [hf, Nat.mul_add, Nat.mul_one, Nat.add_comm]
      rw [List.flatMap_cons, next, ← List.drop_drop, List.drop_left]
      exact ih i (Nat.lt_of_succ_lt_succ hi)

/-- The products of a block for one element of the tile. -/
def blockProducts (l r : Rsv) (lm rm : Mem) (m n k0l k0r kb j : Nat) : List FVal :=
  (List.range kb).filterMap fun i =>
    match elemAt l lm m (k0l + j * kb + i), elemAt r rm n (k0r + j * kb + i) with
    | some a, some b => some (a.mul b)
    | _, _ => none

/-- The accumulator takes the blocks in ascending k (R302). -/
theorem dotBlocks_eq_foldl (l r : Rsv) (lm rm : Mem) (m n k0l k0r kb blocks j : Nat) (c : W32) :
    dotBlocks l r lm rm m n k0l k0r kb blocks j c =
      (List.range' j blocks).foldl (fun c j => sAdd (blockSum (blockProducts l r lm rm m n k0l k0r kb j)) c) c := by
  induction blocks generalizing j c with
  | zero => rfl
  | succ blocks ih => exact ih (j + 1) _

/-- The bytes of an element in a tile of four-byte elements, 64 to a row. -/
theorem take_drop_tile (f : Nat → Nat → List Byte) (hf : ∀ m n, (f m n).length = 4) {m n : Nat} (hm : m < 64) (hn : n < 64) :
    ((((List.range 64).flatMap fun m => (List.range 64).flatMap fun n => f m n).drop (256 * m + 4 * n)).take 4) = f m n := by
  have row (m : Nat) : ((List.range 64).flatMap fun n => f m n).length = 256 := by simp [List.length_flatMap, hf]
  have whole := take_drop_flatMap (fun m => (List.range 64).flatMap fun n => f m n) row (List.range 64) m (by simpa using hm)
  have part := take_drop_flatMap (fun n => f m n) (hf m) (List.range 64) n (by simpa using hn)
  rw [List.getElem_range] at whole part
  rw [← whole, List.drop_take, List.take_take, List.drop_drop] at part
  rw [← part]
  congr 1
  omega

theorem MOp.result_of_mzero {o : MOp} (h : o.left = none) (lm rm tile : Mem) : o.result lm rm tile = List.replicate 16384 0 := by
  simp only [MOp.result, h]

theorem MOp.result_element {o : MOp} {l r : Rsv} {m n : Nat} (hl : o.left = some l) (hr : o.right = some r) (hm : m < 64) (hn : n < 64) (lm rm tile : Mem) :
    let kb := if l.ty = 9 ∨ l.ty = 10 then 32 else 64
    ((o.result lm rm tile).drop (256 * m + 4 * n)).take 4 = bytesOfNat 4
      ((List.range (o.k / kb)).foldl (fun c j => sAdd (blockSum (blockProducts l r lm rm m n o.k0l o.k0r kb j)) c)
        (BitVec.ofNat 32 (tile.readN (o.tile + 256 * m + 4 * n) 4))).toNat := by
  intro kb
  have block : kBlock l.ty = kb := by simp [kBlock, kb]
  simp only [MOp.result, hl, hr, mmaTile, block]
  rw [take_drop_tile _ (fun _ _ => bytesOfNat_length 4 _) hm hn, dotBlocks_eq_foldl, List.range_eq_range']

end Sys2Proof.Machine
end

section
/-! SUPPORT. Operations of a matrix queue start, end their busy period and retire (R294, R306 to R311). -/
namespace Sys2Proof.Machine

section
variable {s : State} {o : MOp} {t : Team}

/-! Starts. -/

/-- The first line, of the operation's own team or else of its follower's, that a state of lines bars. -/
def State.barredLine (s : State) (o : MOp) (t : Team) (fol : Option Team) (f : Buf → List Nat) : Option Nat :=
  match lineWith (o.reads true) (s.lineBars o t f) with
  | some n => some n
  | none => match fol with
    | some y => lineWith (o.reads false) (s.lineBars o y f)
    | none => none

theorem State.barredLine_of_own {fol : Option Team} {f : Buf → List Nat} {n : Nat} (h : lineWith (o.reads true) (s.lineBars o t f) = some n) :
    s.barredLine o t fol f = some n := by
  simp only [State.barredLine, h]

theorem State.barredLine_of_follower {y : Team} {f : Buf → List Nat} (h : lineWith (o.reads true) (s.lineBars o t f) = none) :
    s.barredLine o t (some y) f = lineWith (o.reads false) (s.lineBars o y f) := by
  simp only [State.barredLine, h]

/-- An orphaned line stops an operation before its start (R311). -/
def State.stopBefore (s : State) (o : MOp) (n : Nat) : State :=
  ((s.removeMOp o).raiseWith o.byw 0x0A (BitVec.ofNat 64 (n * 128)) 16).again (.matrixOpStart o.coord)

/-- The first queued array operation, once its arrays are ready: it stops on an orphaned line, waits for an absent one, or starts. -/
theorem matrixOpStart_becomes {fol : Option Team}
    (hq : ((s.core o.coord).mq.find? fun x => decide (x.kind ≠ 4) && decide (x.state = 0)) = some o) (ht : s.team? o.byw.g.team = some t)
    (hf : s.frozen t.ctx = false) (hr : s.arrayReady o.coord o = true) (hfol : (o.follower.bind fun c => s.followerTeam t c) = fol)
    (hfr : ∀ c, o.follower = some c → s.arrayReady c o = true) :
    becomes (.matrixOpStart o.coord) s (match s.barredLine o t fol fun b => b.orphan with
      | some n => s.stopBefore o n
      | none => if (s.barredLine o t fol fun b => b.absent).isSome then s.again (.matrixOpStart o.coord) else s.startArray t fol o) := by
  show execMatrixOpStart o.coord s = _
  subst fol
  unfold execMatrixOpStart
  cases h : o.follower with
  | none =>
    simp only [hq, ht, hf, hr, h, ne_eq, not_true_eq_false, if_false, Bool.not_true, Bool.or_false, Bool.false_eq_true]
    rfl
  | some c =>
    simp only [hq, ht, hf, hr, h, hfr c h, ne_eq, not_true_eq_false, if_false, Bool.not_true, Bool.or_false, Bool.false_eq_true]
    rfl

/-! The ends of a busy period. -/

theorem matrixOpRetire_of_started (ho : s.mop? o.id = some o) (hk : o.kind ≠ 4) (ht : s.team? o.byw.g.team = some t) (hs : o.state = 1)
    (hb : o.busyTo ≤ s.clock) : becomes (.matrixOpRetire o.id) s (s.runArray t (o.follower.bind fun c => s.followerTeam t c) o) := by
  show execMatrixOpRetire o.id s = _
  unfold execMatrixOpRetire
  simp [ho, hk, hs, ht, Nat.not_lt.2 hb]

theorem matrixOpRetire_of_written (ho : s.mop? o.id = some o) (hk : o.kind ≠ 4) (hs : 1 < o.state) (hb : o.busyTo + 24 ≤ s.clock) :
    becomes (.matrixOpRetire o.id) s (s.removeMOp o) := by
  show execMatrixOpRetire o.id s = _
  have started : o.state ≠ 0 := Nat.ne_zero_of_lt hs
  have ended : o.busyTo ≤ s.clock := (Nat.le_add_right _ _).trans hb
  unfold execMatrixOpRetire
  simp [ho, hk, started, hs.ne', Nat.not_lt.2 ended, Nat.not_lt.2 hb]

/-! What a started operation leaves. -/

/-- A buffer that stands as it did at the start is read as it is (R307). -/
theorem State.mixMem_self (s : State) (m : Mem) (data aux : List (Nat × Nat × Nat)) : s.mixMem m m data aux = (m, s) := if_pos rfl

theorem MOp.undrained_of_kept (hk : o.kept = []) (coord : Nat) (m : Mem) : o.undrained coord m = m := by
  unfold MOp.undrained
  rw [hk]
  rfl

/-- An array operation stops at the end of its busy period (R311). -/
def State.stopArray (s : State) (t : Team) (o : MOp) (code value : Nat) : State :=
  (((if code = 0x0D then s.localNotice t.ctx else s).blurTiles o).removeMOp o).raiseWith o.byw code (BitVec.ofNat 64 value) 16
/-- An array operation whose tile is written leaves at once or, but for MZERO, 24 cc later (R306). -/
def State.leaveArray (s : State) (o : MOp) : State :=
  if o.kind = 0 then s.removeMOp o else (s.modMOp o.id fun x => { x with state := 2 }).sched (s.clock + 24) (.matrixOpRetire o.id)
/-- A team's operand buffer of a space: its A or its W buffer. -/
def Team.operandMem (t : Team) (sp : Nat) : Mem := if sp = 2 then t.abuf.mem else t.wbuf.mem
/-- The space of a reservation, that of the A buffer where there is none. -/
def sideSpace (r : Option Rsv) : Nat := (r.map rsvSpace).getD 2

/-- A stop found in what an operation reads of its own team's buffers, or else of its follower's (R311). -/
def MOp.stopIn (o : MOp) (t : Team) (f : Option Team) : Option (Nat × Nat) :=
  match o.stop t.operandMem t.cbuf.mem true with
  | some x => some x
  | none => f.bind fun y => o.stop (fun _ => (y.buf (sideSpace o.right)).mem) y.cbuf.mem false
/-- The operation's tile is written, and on its follower with the right operand that stands there (R305). -/
def State.writeTiles (s : State) (t : Team) (f : Option Team) (o : MOp) : State :=
  let left := t.operandMem (sideSpace o.left)
  let u := s.writeTeam t.id 3 o.tile (o.result left (t.operandMem (sideSpace o.right)) t.cbuf.mem)
  match f with
  | some y => u.writeTeam y.id 3 o.tile (o.result left (y.buf (sideSpace o.right)).mem y.cbuf.mem)
  | none => u

/-- With the buffers as they stood at its start, an operation stops on what it reads or writes its tiles and leaves. -/
theorem State.runArray_eq {f : Option Team} {far : List Mem} (hold : o.old = [t.abuf.mem, t.wbuf.mem] ++ far)
    (hfar : ∀ y, f = some y → far = [(y.buf (sideSpace o.right)).mem]) (hk : o.kept = []) :
    s.runArray t f o = match o.stopIn t f with
      | some (c, v) => s.stopArray t o c v
      | none => (s.writeTiles t f o).leaveArray o := by
  unfold State.runArray MOp.stopIn
  cases f with
  | none =>
    simp only [hold, List.cons_append, List.getD_cons_zero, List.getD_cons_succ, State.mixMem_self, MOp.undrained_of_kept hk, Option.bind_none]
    rfl
  | some y =>
    have far := hfar y rfl
    unfold sideSpace at far
    simp only [hold, far, List.cons_append, List.nil_append, List.getD_cons_zero, List.getD_cons_succ, State.mixMem_self, MOp.undrained_of_kept hk, Option.bind_some, ite_self]
    rfl

theorem MOp.stopIn_of_own {f : Option Team} {x : Nat × Nat} (h : o.stop t.operandMem t.cbuf.mem true = some x) : o.stopIn t f = some x := by
  simp only [MOp.stopIn, h]

theorem MOp.stopIn_of_sound {f : Option Team} (h : o.stop t.operandMem t.cbuf.mem true = none) :
    o.stopIn t f = f.bind fun y => o.stop (fun _ => (y.buf (sideSpace o.right)).mem) y.cbuf.mem false := by
  simp only [MOp.stopIn, h]

theorem State.leaveArray_of_mzero (s : State) (h : o.kind = 0) : s.leaveArray o = s.removeMOp o := if_pos h

theorem State.leaveArray_of_ne (s : State) (h : o.kind ≠ 0) :
    s.leaveArray o = (s.modMOp o.id fun x => { x with state := 2 }).sched (s.clock + 24) (.matrixOpRetire o.id) := if_neg h

/-- What an operation without a follower leaves (R306, R307, R311). -/
theorem State.runArray_alone (hold : o.old = [t.abuf.mem, t.wbuf.mem]) (hk : o.kept = []) :
      let m (sp : Nat) : Mem := if sp = 2 then t.abuf.mem else t.wbuf.mem
      let side (r : Option Rsv) : Mem := m ((r.map rsvSpace).getD 2)
      let u := s.writeTeam t.id 3 o.tile (o.result (side o.left) (side o.right) t.cbuf.mem)
      (∀ c v, o.stop m t.cbuf.mem true = some (c, v) → s.runArray t none o = (((if c = 0x0D then s.localNotice t.ctx else s).blurTiles o).removeMOp o).raiseWith o.byw c (BitVec.ofNat 64 v) 16) ∧
      (o.stop m t.cbuf.mem true = none → o.kind = 0 → s.runArray t none o = u.removeMOp o) ∧
      (o.stop m t.cbuf.mem true = none → o.kind ≠ 0 →
        s.runArray t none o = (u.modMOp o.id fun x => { x with state := 2 }).sched (u.clock + 24) (.matrixOpRetire o.id)) := by
  intro m side u
  have run := State.runArray_eq (s := s) (f := none) (far := []) hold (fun _ h => absurd h nofun) hk
  refine ⟨fun c v h => ?stops, fun h hz => ?mzero, fun h hz => ?writes⟩
  case stops =>
    rw [run, MOp.stopIn_of_own h]
    rfl
  case mzero =>
    rw [run, MOp.stopIn_of_sound h]
    exact State.leaveArray_of_mzero u hz
  case writes =>
    rw [run, MOp.stopIn_of_sound h]
    exact State.leaveArray_of_ne u hz

/-- What an operation with a follower leaves on both cores (R305, R307, R311). -/
theorem State.runArray_pair {y : Team} {r : Rsv} (hr : o.right = some r) (hk : o.kept = [])
    (hold : o.old = [t.abuf.mem, t.wbuf.mem, (y.buf (rsvSpace r)).mem]) :
      let m (sp : Nat) : Mem := if sp = 2 then t.abuf.mem else t.wbuf.mem
      let left := m ((o.left.map rsvSpace).getD 2)
      let there := (y.buf (rsvSpace r)).mem
      let u := (s.writeTeam t.id 3 o.tile (o.result left (m (rsvSpace r)) t.cbuf.mem)).writeTeam y.id 3 o.tile (o.result left there y.cbuf.mem)
      (o.kind ≠ 0 → o.stop m t.cbuf.mem true = none → o.stop (fun _ => there) y.cbuf.mem false = none →
        s.runArray t (some y) o = (u.modMOp o.id fun x => { x with state := 2 }).sched (u.clock + 24) (.matrixOpRetire o.id)) ∧
      (∀ c v, o.stop m t.cbuf.mem true = some (c, v) ∨ (o.stop m t.cbuf.mem true = none ∧ o.stop (fun _ => there) y.cbuf.mem false = some (c, v)) →
        s.runArray t (some y) o = (((if c = 0x0D then s.localNotice t.ctx else s).blurTiles o).removeMOp o).raiseWith o.byw c (BitVec.ofNat 64 v) 16) := by
  intro m left there u
  have space : sideSpace o.right = rsvSpace r := by
    rw [hr]
    rfl
  have far (x : Team) (hx : some y = some x) : [there] = [(x.buf (sideSpace o.right)).mem] := by
    rw [← Option.some.inj hx, space]
  have run := State.runArray_eq (s := s) (f := some y) (far := [there]) hold far hk
  have written : s.writeTiles t (some y) o = u := by
    simp only [State.writeTiles, space]
    rfl
  have stop (h : o.stop m t.cbuf.mem true = none) : o.stopIn t (some y) = o.stop (fun _ => there) y.cbuf.mem false := by
    rw [MOp.stopIn_of_sound h, space]
    rfl
  refine ⟨fun hz h hy => ?writes, fun c v h => ?stops⟩
  case writes =>
    rw [run, stop h, hy]
    simp only [written]
    exact State.leaveArray_of_ne u hz
  case stops =>
    obtain h | ⟨h, hy⟩ := h
    · rw [run, MOp.stopIn_of_own h]
      rfl
    · rw [run, stop h, hy]
      rfl

/-! Drains (R308, R309, R311). -/

/-- A drain has its turn: the port is free, the accesses before it are acknowledged and no array operation ahead of it has a tile that meets its own. -/
theorem mdrainStart_becomes (hq : ((s.core o.coord).mq.find? fun x => decide (x.kind = 4) && decide (x.state = 0)) = some o)
    (ht : s.team? o.byw.g.team = some t) (hf : s.frozen t.ctx = false) (hd : (s.core o.coord).drainFree ≤ s.clock) (hp : ∀ e ∈ s.path, e.id ∉ o.first)
    (ha : ∀ x ∈ aheadOf (s.core o.coord).mq o.id, x.kind = 4 ∨ s.tilesMeet o.coord x o = false) :
      let b := if o.opt = 2 then 64 else 32
      let u := s.modMOp o.id fun x =>
        { x with state := 1, busyTo := s.clock + b, outMem := (o.drained t.cbuf.mem).1, outRegs := (o.drained t.cbuf.mem).2 }
      ((∀ x ∈ o.drainRuns, t.cbuf.mem.errorAt x.1 x.2 = none) →
        becomes (.mdrainStart o.coord) s (((u.modCore o.coord fun x => { x with drainFree := s.clock + b }).sched (s.clock + b) (.mdrainStart o.coord)).sched
          (s.clock + b + 16) (.mdrainRetire o.id))) ∧
      (∀ v, (o.drainRuns.findSome? fun x => t.cbuf.mem.errorAt x.1 x.2) = some v → becomes (.mdrainStart o.coord) s (s.stopDrain o v)) := by
  intro b u
  have acked : s.acked o = true := by simpa [State.acked] using hp
  have clear : ((aheadOf (s.core o.coord).mq o.id).any fun x => decide (x.kind ≠ 4) && s.tilesMeet o.coord x o) = false := by
    rw [List.any_eq_false]
    intro x hx
    obtain h | h := ha x hx <;> simp [h]
  have turn : execMdrainStart o.coord s = .next (match o.drainRuns.findSome? fun x => t.cbuf.mem.errorAt x.1 x.2 with
      | some v => s.stopDrain o v
      | none => ((u.modCore o.coord fun x => { x with drainFree := s.clock + b }).sched (s.clock + b) (.mdrainStart o.coord)).sched
          (s.clock + b + 16) (.mdrainRetire o.id)) := by
    unfold execMdrainStart
    simp only [hq, ht, hf, acked, clear, Nat.not_lt.2 hd, decide_false, Bool.not_true, Bool.or_false, Bool.false_eq_true, if_false]
    rfl
  refine ⟨fun h => turn.trans ?_, fun v h => turn.trans ?_⟩
  · rw [List.findSome?_eq_none_iff.2 h]
  · rw [h]

/-- A drain that has left the array lands in the registers of its lanes that still live, or in its buffers (R308, R309). -/
theorem mdrainRetire_becomes (ho : s.mop? o.id = some o) (hk : o.kind = 4) (hs : o.state ≠ 0) (hb : o.busyTo + 16 ≤ s.clock) :
      let live := s.liveBy o.byw &&& ~~~o.dead
      (o.space = 0 → becomes (.mdrainRetire o.id) s ((s.modGroup o.byw.g fun y =>
        y.putAll o.byw.cc ((o.outRegs.filter fun x => live.getLsbD x.1).map fun x => (LDst.v x.1 x.2.1, x.2.2.setWidth 64))).removeMOp o)) ∧
      (o.space ≠ 0 → becomes (.mdrainRetire o.id) s (((((s.keepOld o).modTeam o.byw.g.team fun t => t.drainInto o.outMem).evalCounters).presentLines
        o.byw.g.team o.lines).removeMOp o)) := by
  intro live
  refine ⟨fun h => ?registers, fun h => ?buffers⟩ <;> show execMdrainRetire o.id s = _ <;> unfold execMdrainRetire
  case registers => simp [ho, hk, hs, Nat.not_lt.2 hb, h, live]
  case buffers => simp [ho, hk, hs, Nat.not_lt.2 hb, h]

/-- R294, R306 to R311. -/
theorem matrixQueueRunsInOrder : Claims.matrixQueueRunsInOrder := by
  intro s o t
  refine ⟨fun hq ht hfol hf hr horphan habsent => ?starts, fun ho hk ht => ⟨matrixOpRetire_of_started ho hk ht, matrixOpRetire_of_written ho hk⟩,
    State.runArray_alone, mdrainStart_becomes, mdrainRetire_becomes⟩
  have bars (f : Buf → List Nat) (h : lineWith (o.reads true) (s.lineBars o t f) = none) : s.barredLine o t none f = none := by
    simp only [State.barredLine, h]
  have start := matrixOpStart_becomes (fol := none) hq ht hf hr (by rw [hfol]; rfl) fun c hc => absurd (hfol.symm.trans hc) nofun
  rw [bars _ horphan, bars _ habsent] at start
  exact start

/-! Busy periods. -/

/-- An operation that starts takes its own array, and that of its follower (R305, R306). -/
theorem State.startArray_takes (f : Option Team) :
      let far := match f, o.right with
        | some y, some r => [(y.buf (rsvSpace r)).mem]
        | _, _ => []
      let u := (s.modMOp o.id fun x => { x with state := 1, busyTo := s.clock + o.busy, old := [t.abuf.mem, t.wbuf.mem] ++ far }).sched (s.clock + o.busy) (.matrixOpRetire o.id)
      let takes (u : State) (c : Nat) : State := (u.modCore c fun x => { x with arrayFree := s.clock + o.busy }).sched (s.clock + o.busy) (.matrixOpStart c)
      (f = none → s.startArray t f o = takes u t.coord) ∧ (∀ y, f = some y → s.startArray t f o = takes (takes u t.coord) y.coord) := by
  intro far u takes
  have folds : s.startArray t f o = (t.coord :: (f.map fun y => y.coord).toList).foldl (fun u c =>
      (u.modCore c fun x => { x with arrayFree := u.clock + o.busy }).sched (u.clock + o.busy) (.matrixOpStart c)) u := by
    unfold State.startArray
    extract_lets b far' started due
    have same : far' = far := by
      unfold far' far
      cases f <;> cases o.right <;> rfl
    clear_value far'
    subst same
    rfl
  have clock : u.clock = s.clock := rfl
  rw [folds]
  refine ⟨fun h => ?alone, fun y h => ?pair⟩
  case alone =>
    rw [h]
    rfl
  case pair =>
    rw [h]
    simp only [Option.map_some, Option.toList_some, List.foldl_cons, List.foldl_nil, State.sched_clock, State.modCore_clock, clock, takes]

/-- The first queued array operation: an orphaned line stops it, and an operation with a follower starts once both arrays and all lines are
there (R305, R306, R311). -/
theorem matrixOpStart_cases (hq : ((s.core o.coord).mq.find? fun x => decide (x.kind ≠ 4) && decide (x.state = 0)) = some o)
    (ht : s.team? o.byw.g.team = some t) (hf : s.frozen t.ctx = false) (hr : s.arrayReady o.coord o = true) :
      let lost (y : Team) (own : Bool) : Option Nat := lineWith (o.reads own) (s.lineBars o y fun b => b.orphan)
      let gone (y : Team) (own : Bool) : Option Nat := lineWith (o.reads own) (s.lineBars o y fun b => b.absent)
      let stopped (n : Nat) : State := ((s.removeMOp o).raiseWith o.byw 0x0A (BitVec.ofNat 64 (n * 128)) 16).again (.matrixOpStart o.coord)
      (∀ n, o.follower = none → lost t true = some n → becomes (.matrixOpStart o.coord) s (stopped n)) ∧
      (∀ c y, o.follower = some c → s.followerTeam t c = some y → s.arrayReady c o = true →
        (∀ n, lost t true = some n ∨ (lost t true = none ∧ lost y false = some n) → becomes (.matrixOpStart o.coord) s (stopped n)) ∧
        (lost t true = none → lost y false = none →
          (gone t true = none → gone y false = none → becomes (.matrixOpStart o.coord) s (s.startArray t (some y) o)) ∧
          (gone t true ≠ none ∨ gone y false ≠ none → becomes (.matrixOpStart o.coord) s (s.again (.matrixOpStart o.coord))))) := by
  intro lost gone stopped
  refine ⟨fun n hfol h => ?alone, fun c y hc hy hyr => ?pair⟩
  case alone =>
    have start := matrixOpStart_becomes (fol := none) hq ht hf hr (by rw [hfol]; rfl) fun c hc => absurd (hfol.symm.trans hc) nofun
    rw [State.barredLine_of_own h] at start
    exact start
  have start := matrixOpStart_becomes (fol := some y) hq ht hf hr (by rw [hc]; exact hy) fun d hd => Option.some.inj (hc.symm.trans hd) ▸ hyr
  refine ⟨fun n h => ?stops, fun h hl => ⟨fun ha hb => ?starts, fun hg => ?waits⟩⟩
  case stops =>
    have barred : (s.barredLine o t (some y) fun b => b.orphan) = some n := by
      obtain h | ⟨h, hl⟩ := h
      · exact State.barredLine_of_own h
      · exact (State.barredLine_of_follower h).trans hl
    rw [barred] at start
    exact start
  case starts =>
    rw [(State.barredLine_of_follower h).trans hl, (State.barredLine_of_follower ha).trans hb] at start
    exact start
  case waits =>
    have absent : (s.barredLine o t (some y) fun b => b.absent).isSome = true := by
      cases hown : gone t true with
      | some n => rw [State.barredLine_of_own hown, Option.isSome_some]
      | none =>
        rw [State.barredLine_of_follower hown, Option.isSome_iff_ne_none]
        exact hg.resolve_left (not_not.2 hown)
    rw [(State.barredLine_of_follower h).trans hl] at start
    simp only [absent, if_true] at start
    exact start
end

/-- R124, R125, R300 to R303, R305 to R307. -/
theorem arraysRunTheirBusyPeriod : Claims.arraysRunTheirBusyPeriod := by
  intro s t o
  refine ⟨MOp.busy_of_mzero, fun _ _ => MOp.busy_of_operands, State.startArray_takes, matrixOpStart_cases, fun _ _ => State.runArray_pair,
    fun lm rm tile => ⟨fun h => MOp.result_of_mzero h lm rm tile, fun l r m n hl hr hm hn => ?_⟩, elemAt_eq, blockSum_nil, fun _ => blockSum_of_nan_mem⟩
  exact MOp.result_element hl hr hm hn lm rm tile

/-- Settles O35: the starts, busy periods, tiles and drains by cases on the checks of each event, the bytes fetched by a sweep over runs in order
of their starts, the tile by its blocks of four bytes. -/
theorem matrixOperationsRunInOrder : Obligations.matrixOperationsRunInOrder := ⟨matrixQueueRunsInOrder, arraysRunTheirBusyPeriod⟩

end Sys2Proof.Machine
end

section
/-! SUPPORT. The scalar range (O1). -/
namespace Sys2Proof.Machine

section
variable {s : State} {op : Op} {w : Full} {c : Cur} {i : Iss} {core : Core}

/-- A scalar word that acts lands its result once for the group, when a lane is guarded (R134, R136). -/
theorem AtIssue.execFull_scalarBody {x : W64} (f : Iss → W64) (h : AtIssue s op w c i core) (hk : issueKind op w = .once)
    (hw : ¬ onlyWaits op w c i) (hx : f i = x) :
    execFull op .once (scalarBody f) w s =
      .next (issuedWith s op w c i core fun u => if i.lanes = [] then u else u.land c.g 4 (dstV w.d 0 false x)) := by
  rw [← hk]
  refine execFull_ok h hw ?_
  rw [scalarBody, h.g, h.w_eq, hx]
  by_cases hl : i.lanes = [] <;> simp [hl]
end

/-! A value's number, written back as 64 bits. -/

theorem ofNat_toNat_self (a : W64) : BitVec.ofNat 64 a.toNat = a := by rw [BitVec.ofNat_toNat, BitVec.setWidth_eq]

theorem ofInt_sInt (t : Ty) (x : W64) : BitVec.ofInt 64 (sInt t x) = x := by
  unfold sInt
  split_ifs
  · exact BitVec.ofInt_toInt
  · rw [BitVec.ofInt_natCast, ofNat_toNat_self]

theorem sub_eq_ofInt (a b : W64) : a - b = BitVec.ofInt 64 (a.toNat - b.toNat) := by
  rw [BitVec.sub_eq_add_neg, sub_eq_add_neg, BitVec.ofInt_add, BitVec.ofInt_neg, BitVec.ofInt_natCast, BitVec.ofInt_natCast, ofNat_toNat_self,
    ofNat_toNat_self]

theorem mul_eq_ofNat (a b : W64) : a * b = BitVec.ofNat 64 (a.toNat * b.toNat) := by
  rw [BitVec.ofNat_mul, ofNat_toNat_self, ofNat_toNat_self]
theorem and_eq_ofNat (a b : W64) : a &&& b = BitVec.ofNat 64 (a.toNat &&& b.toNat) := by
  rw [BitVec.ofNat_and, ofNat_toNat_self, ofNat_toNat_self]
theorem or_eq_ofNat (a b : W64) : a ||| b = BitVec.ofNat 64 (a.toNat ||| b.toNat) := by
  rw [BitVec.ofNat_or, ofNat_toNat_self, ofNat_toNat_self]
theorem xor_eq_ofNat (a b : W64) : a ^^^ b = BitVec.ofNat 64 (a.toNat ^^^ b.toNat) := by
  rw [BitVec.ofNat_xor, ofNat_toNat_self, ofNat_toNat_self]

theorem shiftLeft_eq_ofNat (a : W64) (n : Nat) : a <<< n = BitVec.ofNat 64 (a.toNat * 2 ^ n) := by
  apply BitVec.eq_of_toNat_eq
  rw [BitVec.toNat_shiftLeft, Nat.shiftLeft_eq, BitVec.toNat_ofNat]

/-- A right shift of the type's kind is a division that rounds down (R136). -/
theorem shiftRight_eq_ofInt (t : Ty) (a : W64) (n : Nat) :
    (if t.signed then a.sshiftRight n else a >>> n) = BitVec.ofInt 64 (sInt t a / 2 ^ n) := by
  unfold sInt
  split_ifs
  · rw [BitVec.sshiftRight, Int.shiftRight_eq_div_pow]
    norm_cast
  · have small : a.toNat / 2 ^ n < 2 ^ 64 := (Nat.div_le_self _ _).trans_lt a.isLt
    have quotient : ((a.toNat : Int) / 2 ^ n) = ((a.toNat / 2 ^ n : Nat) : Int) := by norm_cast
    apply BitVec.eq_of_toNat_eq
    rw [quotient, BitVec.ofInt_natCast, BitVec.toNat_ofNat, Nat.mod_eq_of_lt small, BitVec.toNat_ushiftRight, Nat.shiftRight_eq_div_pow]

theorem min_eq_ofInt (t : Ty) (a b : W64) : (if sInt t a ≤ sInt t b then a else b) = BitVec.ofInt 64 (min (sInt t a) (sInt t b)) := by
  rw [min_def, apply_ite (BitVec.ofInt 64), ofInt_sInt, ofInt_sInt]
theorem max_eq_ofInt (t : Ty) (a b : W64) : (if sInt t a ≤ sInt t b then b else a) = BitVec.ofInt 64 (max (sInt t a) (sInt t b)) := by
  rw [max_def, apply_ite (BitVec.ofInt 64), ofInt_sInt, ofInt_sInt]

theorem fSlea_eq (i : Iss) : fSlea i = BitVec.ofNat 64 (i.a.toNat + i.b.toNat * 2 ^ i.w.sub.toNat) := by
  rw [fSlea, shiftLeft_eq_ofNat, BitVec.ofNat_add, ofNat_toNat_self]

/-- R136. -/
theorem scalarWordsLandTheirResult : Claims.scalarWordsLandTheirResult := by
  intro op hop s w c i core h hw
  obtain rfl := h.w_eq
  simp only [scalarOps, List.mem_cons, List.not_mem_nil, or_false] at hop
  obtain rfl | rfl | rfl | rfl | rfl | rfl | rfl | rfl | rfl | rfl | rfl | rfl | rfl | rfl | rfl | rfl := hop
  · exact h.execFull_scalarBody fSadd rfl hw (BitVec.add_def _ _)
  · exact h.execFull_scalarBody fSsub rfl hw (sub_eq_ofInt _ _)
  · exact h.execFull_scalarBody fSmul rfl hw (mul_eq_ofNat _ _)
  · exact h.execFull_scalarBody fSmulh rfl hw rfl
  · exact h.execFull_scalarBody fSand rfl hw (and_eq_ofNat _ _)
  · exact h.execFull_scalarBody fSor rfl hw (or_eq_ofNat _ _)
  · exact h.execFull_scalarBody fSxor rfl hw (xor_eq_ofNat _ _)
  · exact h.execFull_scalarBody fSshl rfl hw (shiftLeft_eq_ofNat _ _)
  · exact h.execFull_scalarBody fSshr rfl hw (shiftRight_eq_ofInt _ _ _)
  · exact h.execFull_scalarBody fSmin rfl hw (min_eq_ofInt _ _ _)
  · exact h.execFull_scalarBody fSmax rfl hw (max_eq_ofInt _ _ _)
  · exact h.execFull_scalarBody fSmov rfl hw rfl
  · exact h.execFull_scalarBody fSsel rfl hw (ite_not _ _ _)
  · exact h.execFull_scalarBody fSlea rfl hw (fSlea_eq _)
  · exact h.execFull_scalarBody fSpopc rfl hw rfl
  · exact h.execFull_scalarBody fSclz rfl hw rfl

/-- The comparison that SUB names (R135). -/
theorem intCompare_eq {sub : Nat} (hsub : sub < 6) (a b : Int) : intCompare sub a b = cmpSpec sub a b := by
  interval_cases sub
  · rfl
  · exact decide_not.symm
  all_goals rfl

/-- The special registers, by index (R137). -/
theorem sgetValue_eq (i : Iss) (s : State) {n : Nat} (hn : n < 16) : sgetValue i s n = BitVec.ofNat 64 ((sgetSpec s i).getD n 0) := by
  obtain tabled | rfl : n < 15 ∨ n = 15 := by omega
  · interval_cases n <;> rfl
  · -- the role, by cases on its number
    simp only [sgetValue, sgetSpec, List.getD_cons_succ, List.getD_cons_zero]
    congr 1
    split <;> simp_all

/-- R134 to R137. -/
theorem compareAndSpecialRegisters : Claims.compareAndSpecialRegisters := by
  intro s w c i core
  refine ⟨fun h hw hsub hl => ?scmp, fun h hw hl n hn hc => ?sget⟩
  case scmp =>
    obtain rfl := h.w_eq
    refine execFull_ok h hw (body := scmpBody) ?_
    rw [scmpBody, h.g, intCompare_eq hsub]
    simp [hl, Iss.a, Iss.b]
  case sget =>
    obtain rfl := h.w_eq
    have small : n < 2 ^ 64 := hn.trans (by decide)
    refine execFull_ok h hw (body := sgetBody) ?_
    rw [sgetBody, h.g, hc, Option.getD_some, BitVec.toNat_ofNat, Nat.mod_eq_of_lt small, sgetValue_eq i _ hn]
    simp [hl]

/-- Settles O1: each word's value is its table's, and `scalarBody` lands it once when a lane is guarded. -/
theorem scalarWords : Obligations.scalarWords := ⟨scalarWordsLandTheirResult, compareAndSpecialRegisters⟩
end Sys2Proof.Machine
end

section
/-! SUPPORT. The vector integer range (O2). -/
namespace Sys2Proof.Machine

/-! IntWrite (R133). -/

theorem tyLo_le_tyHi (t : Ty) : tyLo t ≤ tyHi t := by cases t <;> decide

theorem clampTy_eq (t : Ty) (y : Int) : clampTy t y = if y < tyLo t then tyLo t else if tyHi t < y then tyHi t else y := by
  have bounds := tyLo_le_tyHi t
  unfold clampTy
  split_ifs <;> omega

/-- A number below 2^w read back as the type. -/
theorem intRead_of_lt {t : Ty} {x : Nat} (hx : x < 2 ^ t.bits) :
    intRead t x = if t.signed ∧ 2 ^ (t.bits - 1) ≤ x then (x : Int) - 2 ^ t.bits else x := by
  simp only [intRead, Nat.mod_eq_of_lt hx, Bool.and_eq_true, decide_eq_true_eq]

theorem intWrite_eq (t : Ty) (sat : Bool) (y : Int) : intWrite t sat y = intWriteSpec t sat y := by
  unfold intWrite intWriteSpec
  rw [clampTy_eq]
  have wrapped := Int.emod_nonneg y (show (2 ^ t.bits : Int) ≠ 0 by positivity)
  have small := Int.emod_lt_of_pos y (show (0 : Int) < 2 ^ t.bits by positivity)
  generalize y % 2 ^ t.bits = r at wrapped small
  lift r to Nat using wrapped
  rw [Int.toNat_natCast, intRead_of_lt (by exact_mod_cast small)]
  norm_cast

section
variable {s : State} {op : Op} {w : Full} {c : Cur} {i : Iss} {core : Core}

/-- A word of the range lands its exact integer by IntWrite in every lane of the present half (R133, R139). -/
theorem AtIssue.execFull_intBody {y : Nat → Int} (f : Iss → Nat → Int) (h : AtIssue s op w c i core) (hk : issueKind op w = .lanewise)
    (hy : ∀ l, f i l = y l) :
    execFull op .lanewise (intBody f) w s =
      .next (lands s op w c i core 4 (i.half.flatMap fun l => dstV w.d l w.ty.wide (intWriteSpec w.ty (w.sub = 1) (y l)))) := by
  obtain rfl := h.w_eq
  simp only [← hy, ← intWrite_eq]
  exact h.execFull_vecBody hk
end

/-! The exact integers. -/

theorem Iss.na_lt (i : Iss) (l : Nat) : i.na l < 2 ^ i.w.ty.bits := Nat.mod_lt _ (by positivity)
theorem Iss.nb_lt (i : Iss) (l : Nat) : i.nb l < 2 ^ i.w.ty.bits := Nat.mod_lt _ (by positivity)
theorem tyBits_pos (t : Ty) : 0 < t.bits := by cases t <;> decide
theorem Iss.count_lt (i : Iss) (l : Nat) : i.count l < i.w.ty.bits := Nat.mod_lt _ (tyBits_pos _)

theorem yIabs_eq (i : Iss) (l : Nat) : yIabs i l = if i.ia l < 0 then -i.ia l else i.ia l := by
  unfold yIabs
  split_ifs <;> omega

/-- ANDN masks with the complement of B's bits (R139). -/
theorem yAndn_eq (i : Iss) (l : Nat) : yAndn i l = (i.na l &&& (i.nb l ^^^ (2 ^ i.w.ty.bits - 1)) : Nat) := by
  have complement : i.nb l ^^^ (2 ^ i.w.ty.bits - 1) = 2 ^ i.w.ty.bits - 1 - i.nb l := by
    apply Nat.eq_of_testBit_eq
    intro j
    rw [Nat.sub_sub, Nat.add_comm, Nat.testBit_two_pow_sub_succ (i.nb_lt l), Nat.testBit_xor, Nat.testBit_two_pow_sub_one]
    by_cases hj : j < i.w.ty.bits
    · simp [hj]
    · simp [hj, Nat.testBit_eq_false_of_lt ((i.nb_lt l).trans_le (Nat.pow_le_pow_right (by decide) (Nat.not_lt.1 hj)))]
  rw [yAndn, complement]

theorem yShl_eq (i : Iss) (l : Nat) : yShl i l = (i.na l : Int) * 2 ^ i.count l := by
  rw [yShl]
  norm_cast

theorem ySra_eq (i : Iss) (l : Nat) :
    ySra i l = (if i.na l < 2 ^ (i.w.ty.bits - 1) then (i.na l : Int) else i.na l - 2 ^ i.w.ty.bits) / 2 ^ i.count l := by
  unfold ySra yASra
  obtain h | h := Nat.lt_or_ge (i.na l) (2 ^ (i.w.ty.bits - 1))
  · rw [if_neg (Nat.not_le.2 h), if_pos h]
  · rw [if_pos h, if_neg (Nat.not_lt.2 h)]

/-- The bits that ROL moves up and those that come round lie apart (R139). -/
theorem yRol_eq (i : Iss) (l : Nat) :
    yRol i l = (i.na l * 2 ^ i.count l % 2 ^ i.w.ty.bits ||| i.na l / 2 ^ (i.w.ty.bits - i.count l) : Nat) := by
  have split : 2 ^ i.w.ty.bits = 2 ^ (i.w.ty.bits - i.count l) * 2 ^ i.count l := by
    rw [← Nat.pow_add, Nat.sub_add_cancel (i.count_lt l).le]
  have round : i.na l / 2 ^ (i.w.ty.bits - i.count l) < 2 ^ i.count l := Nat.div_lt_of_lt_mul (split ▸ i.na_lt l)
  have apart := Nat.two_pow_add_eq_or_of_lt round (i.na l % 2 ^ (i.w.ty.bits - i.count l))
  rw [Nat.mul_comm, ← Nat.mul_mod_mul_right, ← split] at apart
  exact congrArg Nat.cast apart

/-- BFE's field of A, whose bits above 31 are its bit 31 or 0, read as signed or not (R140). -/
theorem yBfe_eq (i : Iss) (l : Nat) :
    yBfe i l = intSpec .bfe i.w.ty (i.ia l) (i.ib l) (i.ic l) (i.na l) (i.nb l) (i.count l) (i.rd32 l i.w.a) (i.rd32 l i.w.b) (i.rd32 l i.w.c) := by
  simp only [yBfe, intSpec, Bool.and_eq_true, decide_eq_true_eq]
  generalize i.rd32 l i.w.a = a, (i.rd32 l i.w.b).toNat % 32 = p, min (i.rd32 l i.w.c).toNat 32 = k
  have field : ((if i.w.ty.signed then a.signExtend 64 else a.zeroExtend 64) >>> p).toNat % 2 ^ k =
      if i.w.ty.signed then (a.signExtend 64).toNat / 2 ^ p % 2 ^ k else a.toNat / 2 ^ p % 2 ^ k := by
    split_ifs
    · rw [BitVec.toNat_ushiftRight, Nat.shiftRight_eq_div_pow]
    · rw [BitVec.toNat_ushiftRight, Nat.shiftRight_eq_div_pow, BitVec.toNat_setWidth_of_le (by decide)]
  have small : ((if i.w.ty.signed then a.signExtend 64 else a.zeroExtend 64) >>> p).toNat % 2 ^ k < 2 ^ k := Nat.mod_lt _ (by positivity)
  rw [← field]
  generalize ((if i.w.ty.signed then a.signExtend 64 else a.zeroExtend 64) >>> p).toNat % 2 ^ k = f at small
  by_cases hk : k = 0
  · subst hk
    obtain rfl : f = 0 := Nat.lt_one_iff.1 small
    rfl
  · simp only [hk, if_false, ne_eq, not_false_eq_true, true_and]

/-- The mask of BFI's field, bit by bit (R140). -/
theorem getLsbD_fieldMask (n p j : Nat) : (BitVec.ofNat 32 ((2 ^ n - 1) * 2 ^ p)).getLsbD j = decide (j < 32 ∧ p ≤ j ∧ j < p + n) := by
  rw [BitVec.getLsbD_ofNat, Nat.testBit_mul_two_pow, Nat.testBit_two_pow_sub_one, ← Bool.decide_and, ← Bool.decide_and]
  exact decide_eq_decide.2 (by omega)

/-- So the masked word takes the field from B and the rest from A. -/
theorem getLsbD_insertField (a b : W32) {n p j : Nat} (hj : j < 32) :
    ((a &&& ~~~(BitVec.ofNat 32 ((2 ^ n - 1) * 2 ^ p))) ||| ((b <<< p) &&& BitVec.ofNat 32 ((2 ^ n - 1) * 2 ^ p))).getLsbD j =
      if p ≤ j ∧ j < p + n then b.getLsbD (j - p) else a.getLsbD j := by
  simp only [BitVec.getLsbD_or, BitVec.getLsbD_and, BitVec.getLsbD_not, BitVec.getLsbD_shiftLeft, getLsbD_fieldMask]
  by_cases h : p ≤ j ∧ j < p + n
  · simp [h, hj]
  · simp [h, hj]

theorem yBfi_eq (i : Iss) (l : Nat) :
    yBfi i l = intSpec .bfi i.w.ty (i.ia l) (i.ib l) (i.ic l) (i.na l) (i.nb l) (i.count l) (i.rd32 l i.w.a) (i.rd32 l i.w.b) (i.rd32 l i.w.c) := by
  refine congrArg Nat.cast (Nat.eq_of_testBit_eq fun j => ?_)
  rw [BitVec.testBit_toNat, BitVec.testBit_toNat, BitVec.getLsbD_ofBoolListLE]
  by_cases hj : j < 32
  · rw [getLsbD_insertField _ _ hj]
    simp [hj]
  · rw [BitVec.getLsbD_of_ge _ _ (Nat.not_lt.1 hj)]
    simp [hj]

/-- R139, R140, R133. -/
theorem vectorIntegerWordsLandTheirResult : Claims.vectorIntegerWordsLandTheirResult := by
  intro op hop s w c i core h
  obtain rfl := h.w_eq
  simp only [vectorIntOps, List.mem_cons, List.not_mem_nil, or_false] at hop
  obtain rfl | rfl | rfl | rfl | rfl | rfl | rfl | rfl | rfl | rfl | rfl | rfl | rfl | rfl | rfl | rfl | rfl | rfl | rfl | rfl | rfl | rfl := hop
  · exact h.execFull_intBody yIadd rfl fun _ => rfl
  · exact h.execFull_intBody yIsub rfl fun _ => rfl
  · exact h.execFull_intBody yImul rfl fun _ => rfl
  · exact h.execFull_intBody yImulh rfl fun _ => rfl
  · exact h.execFull_intBody yImad rfl fun _ => rfl
  · exact h.execFull_intBody yImin rfl fun _ => min_def _ _
  · exact h.execFull_intBody yImax rfl fun _ => max_def _ _
  · exact h.execFull_intBody yIabs rfl (yIabs_eq i)
  · exact h.execFull_intBody yIneg rfl fun _ => rfl
  · exact h.execFull_intBody yAnd rfl fun _ => rfl
  · exact h.execFull_intBody yOr rfl fun _ => rfl
  · exact h.execFull_intBody yXor rfl fun _ => rfl
  · exact h.execFull_intBody yAndn rfl (yAndn_eq i)
  · exact h.execFull_intBody yShl rfl (yShl_eq i)
  · exact h.execFull_intBody yShr rfl fun _ => rfl
  · exact h.execFull_intBody ySra rfl (ySra_eq i)
  · exact h.execFull_intBody yRol rfl (yRol_eq i)
  · exact h.execFull_intBody yPopc rfl fun _ => rfl
  · exact h.execFull_intBody yClz rfl fun _ => rfl
  · exact h.execFull_intBody yBrev rfl fun _ => rfl
  · exact h.execFull_intBody yBfe rfl (yBfe_eq i)
  · exact h.execFull_intBody yBfi rfl (yBfi_eq i)

/-- SEL takes A where the k bit is 1 (R139). -/
theorem fSel_eq (i : Iss) (l : Nat) : fSel i l = if i.rd l i.w.c false = 0 then i.rd l i.w.b i.w.ty.wide else i.rd l i.w.a i.w.ty.wide :=
  ite_not _ _ _

theorem fMov_eq (i : Iss) (l : Nat) : fMov i l = if i.w.ty.isInt then intWriteSpec i.w.ty false (i.ia l) else i.rd l i.w.a false := by
  rw [fMov, intWrite_eq]

/-- IDOT4 sums the four products onto C, in any order (R140). -/
theorem idot4_eq (i : Iss) (l : Nat) :
    idot4 i l =
      (let t : Ty := if i.w.ty.signed then .i32 else .n32
       let el (x : W32) (j : Nat) : Int := intRead i.w.ty (x.toNat / 2 ^ (8 * j))
       intWriteSpec t (i.w.sub = 1) (intRead t (i.rd32 l i.w.c).toNat +
         ((List.range 4).map fun j => el (i.rd32 l i.w.a) j * el (i.rd32 l i.w.b) j).sum)) := by
  simp only [idot4, intWrite_eq, List.range_succ, List.range_zero, List.nil_append, List.cons_append, List.map_cons, List.map_nil, List.sum_cons,
    List.sum_nil, add_zero, add_assoc]

/-- R139, R140. -/
theorem moveSelectCompareWords : Claims.moveSelectCompareWords := by
  intro op s w c i core h
  obtain rfl := h.w_eq
  refine ⟨?mov, ?sel, ?icmp, ?copy, ?test, ?bits, ?idot4⟩
  case mov =>
    rintro rfl
    simp only [← fMov_eq]
    exact h.execFull_vecBody rfl (f := fMov)
  case sel =>
    rintro rfl
    simp only [← fSel_eq]
    exact h.execFull_vecBody rfl (f := fSel)
  case icmp =>
    rintro rfl hsub
    refine execFull_ok h (body := icmpBody) (not_onlyWaits_of_lanewise rfl) ?_
    simp only [icmpBody, h.g, intCompare_eq hsub]
  case copy =>
    rintro rfl hsub
    refine execFull_ok h (body := movkBody) (not_onlyWaits_of_lanewise rfl) ?_
    rw [movkBody, if_pos hsub, h.g]
  case test =>
    rintro rfl hsub
    refine execFull_ok h (body := movkBody) (not_onlyWaits_of_lanewise rfl) ?_
    rw [movkBody, if_neg (by rw [hsub]; decide), if_pos hsub, h.g]
  case bits =>
    rintro rfl hsub
    refine execFull_ok h (body := movkBody) (not_onlyWaits_of_lanewise rfl) ?_
    rw [movkBody, if_neg (by rw [hsub]; decide), if_neg (by rw [hsub]; decide), h.g]
  case idot4 =>
    rintro rfl
    simp only [← idot4_eq]
    exact h.execFull_vecBody rfl (f := idot4)

/-- Settles O2: each word's exact integer is its table's, and IntWrite of it lands in every lane of the present half. -/
theorem vectorIntegerWords : Obligations.vectorIntegerWords := ⟨vectorIntegerWordsLandTheirResult, moveSelectCompareWords⟩

end Sys2Proof.Machine
end

section
/-! SUPPORT. MODE and the pauses of a group (O17). -/
namespace Sys2Proof.Machine

/-- The low 32 bits of a word are its first parcel (R83). -/
theorem leNat_take_parcelBytes_mod (p : W32) (r : List W32) {n : Nat} (hn : 4 ≤ n) :
    leNat ((parcelBytes (p :: r)).take n) % 2 ^ 32 = p.toNat := by
  obtain ⟨m, rfl⟩ := Nat.exists_eq_add_of_le' hn
  have hp := p.isLt
  simp only [parcelBytes, List.flatMap_cons, natLe, List.cons_append, List.nil_append, List.take_succ_cons, leNat, BitVec.toNat_ofNat]
  omega

/-- A word is a whole number of parcels, at least one (R83). -/
theorem four_le_kindParcels (k : Nat) : 4 ≤ 4 * kindParcels k := by
  unfold kindParcels
  split_ifs <;> omega

/-- Bytes of parcels decode only to what the number of the word decodes to, and that number begins with the first parcel (R83). -/
theorem decodeBytes_error_of_first {p : W32} {r : List W32} (h : ∀ n, n % 2 ^ 32 = p.toNat → ∃ e, decodeNat n = .error e) :
    ∃ e, decodeBytes (parcelBytes (p :: r)) = .error e := by
  obtain ⟨b, t, hb⟩ : ∃ b t, parcelBytes (p :: r) = b :: t := ⟨_, _, rfl⟩
  obtain ⟨e, he⟩ := h _ (leNat_take_parcelBytes_mod p r (four_le_kindParcels (b.toNat % 4)))
  rw [hb] at he ⊢
  unfold decodeBytes
  simp only [he]
  split_ifs
  · exact ⟨_, rfl⟩
  · exact ⟨_, rfl⟩

/-- SSET with a SUB that is not listed is no instruction (R85, R138). -/
theorem decodeFull_sset {n : Nat} (hop : bitsOf n 2 8 = 0x10) (hsub : 2 ≤ bitsOf n 10 4) : ∃ e, decodeFull n = .error e := by
  have op : Op.ofCode (bitsOf n 2 8) = some .sset := by rw [hop]; rfl
  have sub : bitsOf n 10 4 % 2 ^ 4 = bitsOf n 10 4 := Nat.mod_mod _ _
  have unlisted : fmt .sset (bitsOf n 10 4) = none := by
    rw [fmt, onlySub, if_neg]
    simp only [List.contains_iff_mem, List.mem_cons, List.not_mem_nil, or_false]
    omega
  unfold decodeFull
  rw [op]
  dsimp only
  split
  · simp only [Full.wf, BitVec.toNat_ofNat, sub, unlisted, Bool.false_eq_true, if_false, Except.error.injEq, exists_eq']
  · exact ⟨_, rfl⟩

/-- So parcels whose first one is a full form of SSET with such a SUB do not decode. -/
theorem decodeBytes_sset {p : W32} {r : List W32} (hk : p.toNat % 4 = 1 ∨ p.toNat % 4 = 3)
    (hop : p.toNat / 2 ^ 2 % 2 ^ 8 = 0x10) (hsub : 2 ≤ p.toNat / 2 ^ 10 % 2 ^ 4) : ∃ e, decodeBytes (parcelBytes (p :: r)) = .error e := by
  refine decodeBytes_error_of_first fun n hn => ?_
  have kind : n % 4 = p.toNat % 4 := by omega
  have op : bitsOf n 2 8 = 0x10 := by unfold bitsOf; omega
  have sub : 2 ≤ bitsOf n 10 4 := by unfold bitsOf; omega
  rw [decodeNat, if_neg (by omega), if_neg (by omega)]
  exact decodeFull_sset op sub

/-- PAUSE writes the end of the pause and has it come; n = 0 leaves it (R31, log 100). -/
theorem State.pause_eq (s : State) (i : Iss) (n : Nat) :
    s.pause i n =
      if min n 65535 = 0 then s
      else (s.modGroup i.g fun y => { y with pausedTo := s.ctxClock i.t.ctx + 1 + min n 65535 }).sched (s.clock + 1 + min n 65535) (.pauseEnd i.g) := rfl

/-- R138. -/
theorem ssetWritesModeOrPauses : Claims.ssetWritesModeOrPauses := by
  refine ⟨?unlisted, fun s w c i core h hw => ⟨fun hsub => ?mode, fun hsub => ?pause⟩⟩
  case unlisted =>
    intro s c t gr raw hp hc ht hg hn hf p hk hop hsub
    obtain ⟨e, he⟩ : ∃ e, decodeBytes (parcelBytes raw) = .error e := by
      cases raw with
      | nil => exact ⟨_, rfl⟩
      | cons p r => exact decodeBytes_sset hk hop hsub
    rw [step_of_cur hp hc, issueWord_undecoded ht hg hn hf he, illegal_eq]
  case mode =>
    obtain rfl := h.w_eq
    refine execFull_ok h hw (body := ssetBody) ?_
    rw [ssetBody, h.g, if_pos hsub]
    by_cases hl : i.lanes = [] <;> simp [hl, State.setMode, modeBits, Iss.a]
  case pause =>
    obtain rfl := h.w_eq
    refine execFull_ok h hw (body := ssetBody) ?_
    have other : ¬ i.w.sub = 0 := by rw [hsub]; decide
    rw [ssetBody, if_neg other, State.pause_eq, h.g]
    by_cases hl : i.lanes = []
    · rw [if_pos (List.isEmpty_iff.2 hl)]
      exact congrArg Body.ok (if_pos (.inl hl)).symm
    · rw [if_neg (mt List.isEmpty_iff.1 hl)]
      exact congrArg Body.ok (if_congr (or_iff_right hl).symm rfl rfl)

/-- The two low bits of MODE are the rounding mode; clearing them is shifting them out and back (R111, R221). -/
theorem clearLowTwo_eq (x : W64) : x &&& ~~~(3 : W64) = x >>> 2 <<< 2 := by
  have mask (j : Nat) : (3 : W64).getLsbD j = decide (j < 2) := Nat.testBit_two_pow_sub_one 2 j
  apply BitVec.eq_of_getLsbD_eq
  intro j hj
  rw [BitVec.getLsbD_and, BitVec.getLsbD_not, mask, BitVec.getLsbD_shiftLeft, BitVec.getLsbD_ushiftRight]
  by_cases h : j < 2
  · simp [h]
  · have back : 2 + (j - 2) = j := by omega
    simp [h, hj, back]

/-- R221. -/
theorem setmodeAndGetmode : Claims.setmodeAndGetmode := by
  intro s w c i core
  refine ⟨fun h hw hl hsub => ?setmode, fun h hw => ⟨fun n hd hl => ?once, fun n hd => ?lanewise⟩⟩
  case setmode =>
    obtain rfl := h.w_eq
    refine execFull_ok h hw (body := bodySetmode) ?_
    unfold bodySetmode
    extract_lets m old
    rw [if_neg (mt List.isEmpty_iff.1 hl), h.g, clearLowTwo_eq]
    generalize i.w.sub.toNat = sub at hsub
    interval_cases sub <;> rfl
  case once =>
    obtain rfl := h.w_eq
    refine execFull_ok h hw (body := bodyGetmode) ?_
    simp [bodyGetmode, hd, Opnd.isS, hl, h.g, dstV]
  case lanewise =>
    obtain rfl := h.w_eq
    refine execFull_ok h hw (body := bodyGetmode) ?_
    simp [bodyGetmode, hd, Opnd.isS, h.g, dstV, List.map_eq_flatMap]

/-- Settles O17: SSET and SETMODE write MODE through its mask or pause the group, GETMODE lands it, and a SUB of SSET that is not listed does not decode. -/
theorem modesAndPausesOfTheGroup : Obligations.modesAndPausesOfTheGroup := ⟨ssetWritesModeOrPauses, setmodeAndGetmode⟩
end Sys2Proof.Machine
end

section
/-! SUPPORT. A word that throws E_ARITH for the lanes whose conditions MODE enables, or else acts (R115; O4, O5). -/
namespace Sys2Proof.Machine

/-- The lanes that throw, of a list of lanes with a condition each. -/
theorem arithThrows_map (mode : W64) (pc : Nat) (l : List Nat) (k : Nat → Conds) :
    arithThrows mode pc (l.map fun x => (x, k x)) =
      (l.filter fun x => trapped mode (k x)).map fun x => ⟨x, eArith, pc, BitVec.ofNat 64 (k x).bits⟩ := by
  simp only [arithThrows, List.map_map, List.filter_map, Function.comp_def]

theorem arithThrows_eq_nil {mode : W64} {pc : Nat} {l : List Nat} {k : Nat → Conds} (h : ∀ x ∈ l, trapped mode (k x) = false) :
    arithThrows mode pc (l.map fun x => (x, k x)) = [] := by
  rw [arithThrows_map, List.map_eq_nil_iff, List.filter_eq_nil_iff]
  exact fun x hx => by simp [h x hx]

theorem arithThrows_ne_nil {mode : W64} {pc : Nat} {l : List Nat} {k : Nat → Conds} (h : ∃ x ∈ l, trapped mode (k x) = true) :
    arithThrows mode pc (l.map fun x => (x, k x)) ≠ [] := by
  obtain ⟨x, hx, ht⟩ := h
  rw [arithThrows_map, ne_eq, List.map_eq_nil_iff]
  exact List.ne_nil_of_mem (List.mem_filter.2 ⟨hx, ht⟩)

end Sys2Proof.Machine
end

section
/-! SUPPORT. Conversions and block decodes (O4). -/
namespace Sys2Proof.Machine

/-! CVT. -/

theorem cvtBody_of_untrapped {i : Iss} {s : State} (h : ∀ l ∈ i.half, trapped i.gr.mode (cvtLane i l).2 = false) :
    cvtBody i s = .ok (s.land i.g 6 (i.half.flatMap fun l => dstV i.w.d l i.w.ty.wide (cvtLane i l).1)) := by
  have none := arithThrows_eq_nil (pc := i.cur.pc) h
  unfold cvtBody
  extract_lets r
  simp only [r, List.map_map, Function.comp_def, none, List.flatMap_map]

theorem cvtBody_of_trapped {i : Iss} {s : State} (h : ∃ l ∈ i.half, trapped i.gr.mode (cvtLane i l).2 = true) :
    cvtBody i s = .throws
      ((i.half.filter fun l => trapped i.gr.mode (cvtLane i l).2).map fun l => ⟨l, eArith, i.cur.pc, BitVec.ofNat 64 (cvtLane i l).2.bits⟩) := by
  have nonempty := arithThrows_ne_nil (pc := i.cur.pc) h
  rw [← arithThrows_map]
  unfold cvtBody
  extract_lets r
  have conds : (r.map fun x => (x.1, x.2.2)) = i.half.map fun l => (l, (cvtLane i l).2) := by simp only [r, List.map_map, Function.comp_def]
  rw [conds]
  split
  · next hn => exact absurd hn nonempty
  · rfl

/-- R146, R147. -/
theorem conversionsLandOrTrap : Claims.conversionsLandOrTrap := by
  intro s w c i core h st part src r out traps
  obtain rfl := h.w_eq
  have result (l : Nat) : cvtLane i l = (out l, (r l).2) := by
    unfold cvtLane
    by_cases hu : i.w.c.unused i.w.wc
    · simp only [hu, if_true, out, Bool.and_eq_true, decide_eq_true_eq]
      rfl
    · simp only [hu, Bool.false_eq_true, if_false, out]
      rfl
  refine ⟨fun hn => ?lands, fun ht => ?throws⟩
  case lands =>
    refine execFull_ok h (body := cvtBody) (not_onlyWaits_of_lanewise rfl) ?_
    rw [cvtBody_of_untrapped fun l hl => by rw [result]; exact hn l hl, h.g]
    simp only [result]
  case throws =>
    refine h.execFull_throws (body := cvtBody) (not_onlyWaits_of_lanewise rfl) ?_
    rw [cvtBody_of_trapped (by simp only [result]; exact ht), h.pc]
    simp only [result]
    rfl

/-! Block decodes. -/

/-- Two elements to a register, for elements given by their index (R148, R149). -/
theorem blockDst_map (n : Fin 248) (l m : Nat) (el : Nat → Nat) :
    blockDst (.v n) l ((List.range (2 * m)).map el) =
      (List.range m).map fun j => (.v l (n.val + j), BitVec.ofNat 64 (el (2 * j) + 2 ^ 16 * el (2 * j + 1))) := by
  simp only [blockDst, List.length_map, List.length_range, Nat.mul_div_cancel_left m Nat.two_pos]
  refine List.map_congr_left fun j hj => ?_
  have hj := List.mem_range.1 hj
  have even : 2 * j < 2 * m := by omega
  have odd : 2 * j + 1 < 2 * m := by omega
  simp [even, odd]

section
variable {s : State} {op : Op} {w : Full} {c : Cur} {i : Iss} {core : Core}

/-- A decode of 2m elements lands them two to a register. -/
theorem AtIssue.execFull_decBody {n : Fin 248} {el : Nat → Nat → Nat} (f : Iss → Nat → List Nat) (m : Nat) (h : AtIssue s op w c i core)
    (hk : issueKind op w = .lanewise) (hd : w.d = .v n) (hf : ∀ l, f i l = (List.range (2 * m)).map (el l)) :
    execFull op .lanewise (decBody f) w s = .next (lands s op w c i core 6 (i.half.flatMap fun l =>
      (List.range m).map fun j => (.v l (n.val + j), BitVec.ofNat 64 (el l (2 * j) + 2 ^ 16 * el l (2 * j + 1))))) := by
  obtain rfl := h.w_eq
  rw [← hk]
  refine execFull_ok h (not_onlyWaits_of_lanewise hk) ?_
  simp only [decBody, h.g, hd, hf, blockDst_map]
end

/-- R148, R149. -/
theorem blockDecodesLandInPairsOfElements : Claims.blockDecodesLandInPairsOfElements := by
  intro s w c i core regs
  constructor
  case left =>
    intro h n hd
    refine h.execFull_decBody (el := fun l e =>
      decodedBf16 ((cbValue ((i.rd32 l w.a).toNat / 2 ^ (if w.sub = 1 then 16 else 0) % 2 ^ 16) e).scaled ((i.rd32 l w.b).toNat % 256)))
      cbdecLane 4 rfl hd fun l => ?_
    obtain rfl := h.w_eq
    unfold cbdecLane
    rw [apply_ite (2 ^ ·)]
    rfl
  case right =>
    intro h ht n hd z
    refine h.execFull_decBody (el := fun l e => decodedBf16
      ((obValue ((i.rd32 l w.a).toNat / 2 ^ (z * e) % 2 ^ z) ((i.rd32 l w.b).toNat % 2 ^ z)).scaled ((i.rd32 l w.c).toNat % 256)))
      obdecLane (16 / z) rfl hd fun l => ?_
    obtain rfl := h.w_eq
    unfold obdecLane
    obtain ⟨bits, count⟩ : i.w.ty.bits = z ∧ 32 / z = 2 * (16 / z) := by
      obtain ht | ht := ht <;> simp [z, ht, Ty.bits]
    rw [bits, ← count]

/-- Settles O4: CVT throws for the lanes whose conditions are enabled and lands its parts where there are none; a decode lands its elements by index. -/
theorem conversionsAndBlocks : Obligations.conversionsAndBlocks := ⟨conversionsLandOrTrap, blockDecodesLandInPairsOfElements⟩

end Sys2Proof.Machine
end

section
/-! SUPPORT. The cross-lane range (O5). -/
namespace Sys2Proof.Machine

/-- The lane whose half writes an S destination is the lowest participating one (R150, log 68). -/
theorem Iss.first_iff (i : Iss) : i.first = true ↔ i.lanes ≠ [] ∧ i.lanes.headD 0 ∈ i.half := by
  unfold Iss.first
  cases i.lanes with
  | nil => simp
  | cons l r => simp

theorem low32_eq (wide : Bool) (x : W64) : low32 wide x = if wide then x else BitVec.ofNat 64 (x.toNat % 2 ^ 32) := by
  unfold low32
  congr 1
  apply BitVec.eq_of_toNat_eq
  simp

/-- The supplier of a lane is the source lane of R151. -/
theorem supplier_eq (i : Iss) (l : Nat) :
    supplier i l = sourceLane i.op i.w.sub.toNat l
      (if i.op = .bcast ∧ i.w.ty.wide then (i.rd l i.w.b true).toNat else (i.rd32 l i.w.b).toNat) i.gr.width i.gr.live := by
  have sub0 : (i.w.sub = 0) = (i.w.sub.toNat = 0) := by simp [BitVec.toNat_eq]
  have sub1 : (i.w.sub = 1) = (i.w.sub.toNat = 1) := by simp [BitVec.toNat_eq]
  unfold supplier sourceLane
  extract_lets b j k
  have same : j = k := by
    simp only [j, k, sub0, sub1]
    split
    · next shfl => rw [if_pos shfl, Nat.cast_add]
    · next other => rw [if_neg other]
  rw [same]
  simp only [Bool.and_eq_true, decide_eq_true_eq, and_assoc]

theorem halfLanes_subset (width half : Nat) (l : List Nat) : halfLanes width half l ⊆ l := by
  unfold halfLanes
  split
  · exact List.filter_sublist.subset
  · exact List.Subset.refl l

section
variable {s : State} {op : Op} {w : Full} {c : Cur} {i : Iss} {core : Core}

/-- A cross-lane word never only waits: each of its halves acts (R351). -/
theorem not_onlyWaits_of_cross (hk : issueKind op w = .cross) : ¬ onlyWaits op w c i := by
  rintro ⟨-, h | h⟩ <;> simp [hk] at h

/-- A cross-lane word reads the registers as they stand (R351). -/
theorem AtIssue.now_of_cross (h : AtIssue s op w c i core) (hk : issueKind op w = .cross) : i.now = i := h.now (by simp [hk])

/-- A cross-lane word whose meaning answers a state goes on with it. -/
theorem AtIssue.execFull_cross {body : Iss → State → Body} {f : State → State} (h : AtIssue s op w c i core) (hk : issueKind op w = .cross)
    (hb : body i (s.entered c i core) = .ok (f (s.entered c i core))) : execFull op .cross body w s = .next (issuedWith s op w c i core f) :=
  hk ▸ execFull_ok h (not_onlyWaits_of_cross hk) hb
/-- A cross-lane word whose meaning throws has issued without effect (R107). -/
theorem AtIssue.execFull_cross_throws {body : Iss → State → Body} {l : List LaneThrow} (h : AtIssue s op w c i core)
    (hk : issueKind op w = .cross) (hb : body i (s.entered c i core) = .throws l) :
    execFull op .cross body w s = .next (s.issueThrows c i.gr i.t.coord (classX op) w.yld w.gap.toNat l) :=
  hk ▸ h.execFull_throws (not_onlyWaits_of_cross hk) hb

/-- A word with a lane in its present half has participating lanes. -/
theorem AtIssue.lanes_ne_nil (h : AtIssue s op w c i core) (hl : i.half ≠ []) : i.lanes ≠ [] := by
  obtain ⟨-, -, -, -, -, -, lanes, half⟩ := preIssue_view h.checks
  have sub : i.half ⊆ i.lanes := by
    rw [half, lanes]
    exact halfLanes_subset _ _ _
  exact fun hn => hl (List.subset_nil.1 (hn ▸ sub))
end

/-- PERM, SHFL and BCAST have one meaning (R151). -/
theorem exec_laneCopy {op : Op} (hop : op ∈ [Op.perm, .shfl, .bcast]) (w : Full) (s : State) :
    issueKind op w = .cross ∧ exec (.ofFull op w) s = execFull op .cross permBody w s := by
  simp only [List.mem_cons, List.not_mem_nil, or_false] at hop
  obtain rfl | rfl | rfl := hop <;> exact ⟨rfl, rfl⟩

/-- R151, R150, R131. -/
theorem laneCopies : Claims.laneCopies := by
  intro op hop s w c i core h src v
  obtain rfl := h.w_eq
  obtain ⟨kind, word⟩ := exec_laneCopy hop i.w s
  have supplied (l : Nat) : supplier i l = src l := by
    have source := supplier_eq i l
    rw [h.op_eq] at source
    exact source
  have value (l : Nat) : crossVal i l = v l := by
    unfold crossVal
    rw [supplied]
    exact low32_eq _ _
  rw [word]
  refine h.execFull_cross kind ?_
  unfold permBody
  simp only [h.now_of_cross kind, value, h.g, i.first_iff]
  cases i.w.d with
  | s n => exact (apply_ite Body.ok _ _ _).symm
  | _ => rfl

/-- MATCH compares the type's bits (R151). -/
theorem maskedValue_eq_iff (wide : Bool) (x y : W64) :
    x &&& (if wide then BitVec.allOnes 64 else 0xFFFFFFFF) = y &&& (if wide then BitVec.allOnes 64 else 0xFFFFFFFF) ↔
      x.toNat % 2 ^ (if wide then 64 else 32) = y.toNat % 2 ^ (if wide then 64 else 32) := by
  have bits (z : W64) : (z &&& (if wide then BitVec.allOnes 64 else 0xFFFFFFFF)).toNat = z.toNat % 2 ^ (if wide then 64 else 32) := by
    rw [BitVec.toNat_and]
    cases wide
    · exact Nat.and_two_pow_sub_one_eq_mod z.toNat 32
    · exact Nat.and_two_pow_sub_one_eq_mod z.toNat 64
  rw [← bits, ← bits, BitVec.toNat_inj]

theorem not_isEmpty {α : Type} [DecidableEq α] (l : List α) : (!l.isEmpty) = decide (l ≠ []) := by cases l <;> rfl

/-- Values that all equal the first are all equal. -/
theorem all_eq_headD_iff {α : Type} (v : Nat → α) (l : List Nat) :
    (∀ a ∈ l, v a = v (l.headD 0)) ↔ ∀ a ∈ l, ∀ b ∈ l, v a = v b := by
  cases l with
  | nil => simp
  | cons x r => exact ⟨fun h a ha b hb => (h a ha).trans (h b hb).symm, fun h a ha => h a ha x List.mem_cons_self⟩

/-- R151. -/
theorem laneVotes : Claims.laneVotes := by
  intro s w c i core
  refine ⟨fun h => ?vote, fun h hl => ?matchI, fun h => ?elect⟩
  case vote =>
    intro set
    obtain rfl := h.w_eq
    have now := h.now_of_cross rfl
    refine ⟨fun hl hsub => ?all, fun hl hsub => ?any, fun hl hf hsub => ?mask, fun hl hf hsub => ?count⟩
    case all =>
      refine h.execFull_cross (body := voteBody) rfl ?_
      simp [voteBody, now, h.g, hsub, hl, set]
    case any =>
      refine h.execFull_cross (body := voteBody) rfl ?_
      have other : ¬ i.w.sub = 0 := by rw [hsub]; decide
      simp only [voteBody, now, h.g, if_neg other, if_pos hsub, List.isEmpty_iff, hl, if_false, not_isEmpty]
      rfl
    case mask =>
      have first := i.first_iff.2 ⟨hl, hf⟩
      refine h.execFull_cross (body := voteBody) rfl ?_
      simp [voteBody, now, h.g, hsub, first, set]
    case count =>
      have first := i.first_iff.2 ⟨hl, hf⟩
      refine h.execFull_cross (body := voteBody) rfl ?_
      simp [voteBody, now, h.g, hsub, first, set]
  case matchI =>
    intro v
    obtain rfl := h.w_eq
    have now := h.now_of_cross rfl
    refine ⟨fun hsub => ?mask, fun hsub => ?all⟩
    case mask =>
      refine h.execFull_cross (body := matchBody) rfl ?_
      simp only [matchBody, now, h.g, List.isEmpty_iff, hl, if_false, if_pos hsub, maskedValue_eq_iff]
      rfl
    case all =>
      refine h.execFull_cross (body := matchBody) rfl ?_
      have other : ¬ i.w.sub = 0 := by rw [hsub]; decide
      have same := all_eq_headD_iff (fun l => (i.rd l i.w.a i.w.ty.wide).toNat % 2 ^ (if i.w.ty.wide then 64 else 32)) i.lanes
      simp only [matchBody, now, h.g, List.isEmpty_iff, hl, if_false, if_neg other, maskedValue_eq_iff, List.all_eq, decide_eq_true_eq, same]
      rfl
  case elect =>
    obtain rfl := h.w_eq
    refine ⟨fun hl hsub => ?lane, fun hl hf hsub => ?number⟩
    case lane =>
      refine h.execFull_cross (body := electBody) rfl ?_
      simp [electBody, h.g, hsub, hl]
    case number =>
      have first := i.first_iff.2 ⟨hl, hf⟩
      refine h.execFull_cross (body := electBody) rfl ?_
      simp [electBody, h.g, hsub, first]

/-! SCAN and LRED (R152). -/

/-- What SCAN makes of its participating lanes: their results and the conditions of every step. -/
def Iss.scanned (i : Iss) : List (Nat × W32) × Conds :=
  scanLoop (i.w.sub.toNat % 8) i.w.ty i.md (8 ≤ i.w.sub.toNat) (fun l => i.rd32 l i.w.a) i.lanes none noConds

/-- What LRED makes of them, by the tree of R129 with absent leaves. -/
def Iss.reduced (i : Iss) : Option W32 × Conds :=
  treeFold (combine (i.w.sub.toNat % 8) i.w.ty i.md) (levels i.gr.width)
    (fun l => (if l ∈ i.lanes then some (i.rd32 l i.w.a) else none, noConds)) 0

/-- An enabled condition of any step is every participating lane's. -/
theorem arithThrows_of_trapped {mode : W64} {k : Conds} (h : trapped mode k = true) (pc : Nat) (l : List Nat) :
    arithThrows mode pc (l.map fun x => (x, k)) = l.map fun x => ⟨x, eArith, pc, BitVec.ofNat 64 k.bits⟩ := by
  simp only [arithThrows_map, h, List.filter_true]

section
variable {i : Iss} {s : State}

theorem scanBody_of_untrapped (now : i.now = i) (hl : i.half ≠ []) (h : trapped i.gr.mode i.scanned.2 = false) :
    scanBody i s =
      .ok (s.land i.g 10 ((i.scanned.1.filter fun x => i.half.contains x.1).flatMap fun x => dstV i.w.d x.1 false (x.2.setWidth 64))) := by
  have none := arithThrows_eq_nil (pc := i.cur.pc) (l := i.lanes) fun _ _ => h
  unfold Iss.scanned at none ⊢
  simp only [scanBody, now, List.isEmpty_iff, hl, if_false, none]

theorem scanBody_of_trapped (now : i.now = i) (hl : i.half ≠ []) (hp : i.lanes ≠ []) (h : trapped i.gr.mode i.scanned.2 = true) :
    scanBody i s = .throws (i.lanes.map fun l => ⟨l, eArith, i.cur.pc, BitVec.ofNat 64 i.scanned.2.bits⟩) := by
  have all := arithThrows_of_trapped h i.cur.pc i.lanes
  unfold Iss.scanned at all ⊢
  simp only [scanBody, now, List.isEmpty_iff, hl, if_false, all]
  split
  · next hn => exact absurd (List.map_eq_nil_iff.1 hn) hp
  · rfl

theorem lredBody_of_untrapped (now : i.now = i) (hl : i.half ≠ []) (hp : i.lanes ≠ []) (h : trapped i.gr.mode i.reduced.2 = false) :
    lredBody i s = .ok (match i.w.d with
      | .s n => if i.lanes.headD 0 ∈ i.half then s.land i.g 10 [(.s n.val, (i.reduced.1.getD 0).setWidth 64)] else s
      | d => s.land i.g 10 (i.half.flatMap fun l => dstV d l false ((i.reduced.1.getD 0).setWidth 64))) := by
  have none := arithThrows_eq_nil (pc := i.cur.pc) (l := i.lanes) fun _ _ => h
  unfold Iss.reduced at none ⊢
  simp only [lredBody, now, List.isEmpty_iff, hl, if_false, List.contains_iff_mem, none, i.first_iff, hp, ne_eq, not_false_eq_true, true_and]
  cases i.w.d with
  | s n => exact (apply_ite Body.ok _ _ _).symm
  | _ => rfl

theorem lredBody_of_trapped (now : i.now = i) (hl : i.half ≠ []) (hp : i.lanes ≠ []) (h : trapped i.gr.mode i.reduced.2 = true) :
    lredBody i s = .throws (i.lanes.map fun l => ⟨l, eArith, i.cur.pc, BitVec.ofNat 64 i.reduced.2.bits⟩) := by
  have all := arithThrows_of_trapped h i.cur.pc i.lanes
  unfold Iss.reduced at all ⊢
  simp only [lredBody, now, List.isEmpty_iff, hl, if_false, List.contains_iff_mem, all]
  split
  · next hn => exact absurd (List.map_eq_nil_iff.1 hn) hp
  · rfl
end

/-- R152. -/
theorem scansAndReductions : Claims.scansAndReductions := by
  intro s w c i core o md te
  refine ⟨fun h hl => ?scan, fun h hl => ?lred⟩
  case scan =>
    intro r
    obtain rfl := h.w_eq
    have now := h.now_of_cross rfl
    have hp : i.lanes ≠ [] := h.lanes_ne_nil hl
    refine ⟨fun hn => h.execFull_cross (body := scanBody) rfl ?lands, fun ht => h.execFull_cross_throws (body := scanBody) rfl ?throws⟩
    case lands =>
      rw [scanBody_of_untrapped now hl hn, h.g]
      rfl
    case throws =>
      rw [scanBody_of_trapped now hl hp ht, h.pc]
      rfl
  case lred =>
    intro r
    obtain rfl := h.w_eq
    have now := h.now_of_cross rfl
    have hp : i.lanes ≠ [] := h.lanes_ne_nil hl
    refine ⟨fun hn => h.execFull_cross (body := lredBody) rfl ?lands, fun ht => h.execFull_cross_throws (body := lredBody) rfl ?throws⟩
    case lands =>
      rw [lredBody_of_untrapped now hl hp hn, h.g]
      rfl
    case throws =>
      rw [lredBody_of_trapped now hl hp ht, h.pc]
      rfl

/-- Settles O5: every body reads the registers as they stand, so each lands what R151 and R152 make of the participating lanes, or throws. -/
theorem crossLaneWords : Obligations.crossLaneWords := ⟨laneCopies, laneVotes, scansAndReductions⟩

end Sys2Proof.Machine
end

section
/-! SUPPORT. Walks, faults and shoot-downs (O27). -/
namespace Sys2Proof.Machine

/-! What a walk brings to a group that waits for it (R161, R238, R241). -/

section
variable {s : State} {t : Team} {g : GRef} {mw : MemWord} {va : Nat}

theorem State.walkDone_of_ok {x : Trans} (h : s.walkTeam t va mw.act.needs.2 = .ok x) :
    s.walkDone t g mw va = (s.modCore t.coord fun c => tlbPut c t.ctx va x).retryHeld g := by
  simp only [State.walkDone, h]

theorem State.walkDone_of_bad (h : s.walkTeam t va mw.act.needs.2 = .bad) : s.walkDone t g mw va = s.failHeld g mw (s.step4Fails t mw none) := by
  simp only [State.walkDone, h]

/-- The address of a word's first access on a page, else the page's own. -/
theorem MemWord.onPage_headD_addr (mw : MemWord) (va : Nat) :
    ((mw.onPage va).headD { lane := 0, addr := va, size := 1 }).addr =
      ((mw.accs.filter fun a => a.addr / 4096 = va / 4096 ∨ (a.addr + a.size - 1) / 4096 = va / 4096).map fun a => a.addr).headD va := by
  have same : mw.onPage va = mw.accs.filter fun a => a.addr / 4096 = va / 4096 ∨ (a.addr + a.size - 1) / 4096 = va / 4096 := by
    simp [MemWord.onPage, beq_eq_decide]
  rw [same]
  cases mw.accs.filter fun a => a.addr / 4096 = va / 4096 ∨ (a.addr + a.size - 1) / 4096 = va / 4096 <;> rfl

theorem State.walkDone_of_missing (h : s.walkTeam t va mw.act.needs.2 = .missing) :
    let at_ := ((mw.accs.filter fun a => a.addr / 4096 = va / 4096 ∨ (a.addr + a.size - 1) / 4096 = va / 4096).map fun a => a.addr).headD va
    let r := s.newFault t.ctx at_ mw.act.kind (.group g)
    s.walkDone t g mw va = (r.2.park g (.fault r.1) mw.byw).modGroup g fun y => { y with held := some { mw with walking := false } } := by
  simp only [State.walkDone, h, MemWord.onPage_headD_addr]
end

theorem State.notify_clock (s : State) (ctx code : Nat) (body : List Byte) : (s.notify ctx code body).clock = s.clock := by
  unfold State.notify State.notifyTo
  dsimp only
  split
  · rfl
  · split <;> rfl

/-- A fault of a context is a record, told to the host, with the context's own limit (R238). -/
theorem State.newFault_eq {s : State} {ctx : Nat} {c : Ctx} (h : s.ctx? ctx = some c) (va kind : Nat) (u : FUser) :
    let r : FaultRec := { id := s.nextFault, ctx := ctx, va := va, kind := kind, user := u, deadline := s.ctxClock ctx + c.p.faultLimit }
    s.newFault ctx va kind u = (s.nextFault,
      (({ s with faults := s.faults ++ [r], nextFault := s.nextFault + 1 } : State).notify ctx 0xC005
        (bytesOfNat 8 s.nextFault ++ bytesOfNat 8 va ++ bytesOfNat 4 kind ++ bytesOfNat 4 ctx)).sched (s.clock + c.p.faultLimit) (.faultLimitExpire s.nextFault)) := by
  simp only [State.newFault, h, Option.map_some, Option.getD_some, State.notify_clock]

/-! Faults served and ended (R161, R230, R238, R239, R354). -/

section
variable {s : State} {f : FaultRec}

/-- The group of a fault that no longer waits for it is left alone. -/
theorem State.serveFault_group_other {g : GRef} {t : Team} {gr : Group} (hu : f.user = .group g) (ht : s.team? g.team = some t)
    (hg : s.group? g = some gr) (hw : gr.wake ≠ some (.fault f.id)) : s.serveFault f = s.setFault f.id 1 := by
  have team : (s.setFault f.id 1).team? g.team = some t := ht
  have group : (s.setFault f.id 1).group? g = some gr := hg
  simp only [State.serveFault, hu, State.serveGroup, team, group, if_pos hw]

theorem State.endFault_group_other {g : GRef} {gr : Group} (hu : f.user = .group g) (hg : s.group? g = some gr)
    (hw : gr.wake ≠ some (.fault f.id)) : s.endFault f = s.setFault f.id 2 := by
  have group : (s.setFault f.id 2).group? g = some gr := hg
  simp only [State.endFault, hu, group, if_pos hw]

/-- The group of a served fault walks again, but a SPAWN of an evicted one waits for its core. -/
theorem State.serveFault_group {g : GRef} {t : Team} {gr : Group} {mw : MemWord} (hu : f.user = .group g) (ht : s.team? g.team = some t)
    (hg : s.group? g = some gr) (hw : gr.wake = some (.fault f.id)) (hh : gr.held = some mw) (hs : gr.phase ≠ .evicted ∨ ∀ k, mw.act ≠ .spawn k) :
    s.serveFault f = (((s.setFault f.id 1).wakeGroup g).modGroup g fun y =>
      { y with held := y.held.map fun m => { m with walking := true } }).startWalk t.coord t.ctx f.va := by
  have team : (s.setFault f.id 1).team? g.team = some t := ht
  have group : (s.setFault f.id 1).group? g = some gr := hg
  simp only [State.serveFault, hu, State.serveGroup, team, group, hw, hh, Option.map_some, ne_eq, not_true_eq_false, if_false, Option.isNone_some, Bool.false_or]
  rw [if_neg]
  rw [Bool.and_eq_true, decide_eq_true_eq]
  rintro ⟨away, spawn⟩
  rcases hs with hs | hs
  · exact hs away
  · revert spawn
    split
    · next k hk => exact absurd (Option.some.inj hk) (hs k)
    · exact nofun

theorem State.endFault_group {g : GRef} {t : Team} {gr : Group} {mw : MemWord} (hu : f.user = .group g) (ht : s.team? g.team = some t)
    (hg : s.group? g = some gr) (hw : gr.wake = some (.fault f.id)) (hh : gr.held = some mw) :
    s.endFault f = (s.setFault f.id 2).failHeld g mw ((s.setFault f.id 2).step4Fails t mw (some f.va)) := by
  have team : (s.setFault f.id 2).team? g.team = some t := ht
  have group : (s.setFault f.id 2).group? g = some gr := hg
  simp only [State.endFault, hu, team, group, hw, hh, ne_eq, not_true_eq_false, if_false]

/-- An engine operation whose fault is served goes on where it has chunks left, and ends where it has none; one whose fault ends fails. -/
theorem State.serveFault_op {id : Nat} {o : EOp} (hu : f.user = .op id) (ho : s.op? id = some o) :
    s.serveFault f =
      if o.fault = some f.id then
        (if o.todo.isEmpty then ((s.setFault f.id 1).modOp id fun x => { x with fault := none }).closeOp id
         else ((s.setFault f.id 1).modOp id fun x => { x with fault := none }).enterEngine { o with fault := none })
      else s.setFault f.id 1 := by
  have op : (s.setFault f.id 1).op? id = some o := ho
  simp only [State.serveFault, hu, op]

theorem State.endFault_op {id : Nat} {o : EOp} (hu : f.user = .op id) (ho : s.op? id = some o) :
    s.endFault f =
      if o.fault = some f.id then ((s.setFault f.id 2).modOp id fun x => { x with fault := none }).engFail id ePage f.va else s.setFault f.id 2 := by
  have op : (s.setFault f.id 2).op? id = some o := ho
  simp only [State.endFault, hu, op]

theorem State.serveFault_add {n : Nat} (hu : f.user = .add n) :
    s.serveFault f = (s.adds.filter fun a => a.fault = f.id).foldl
      (fun u a => (u.addAt a.ctx a.va a.amount a.join a.byw a.launch a.task a.op a.entry).addOver a)
      { s.setFault f.id 1 with adds := s.adds.filter fun a => a.fault ≠ f.id } := by
  simp [State.serveFault, hu, State.setFault, bne, beq_eq_decide]

theorem State.endFault_add {n : Nat} (hu : f.user = .add n) :
    s.endFault f = (s.adds.filter fun a => a.fault = f.id).foldl
      (fun u a => (if a.task then u.raiseGrid a.launch (a.byw.headD {}) ePage (BitVec.ofNat 64 a.va)
        else u.raiseStarters a.byw ePage (BitVec.ofNat 64 a.va)).addOver a)
      { s.setFault f.id 2 with adds := s.adds.filter fun a => a.fault ≠ f.id } := by
  simp [State.endFault, hu, State.setFault, bne, beq_eq_decide]

/-- A stream goes on where its team is on a core. -/
theorem State.serveFault_stream {c q : Nat} {out : Bool} {d : StreamDesc} {t : Team} (hu : f.user = .stream c q out)
    (hd : s.faultedDesc f.id = some d) (ht : s.team? d.byw.g.team = some t) :
    let u := (s.setFault f.id 1).modStreams fun d => if d.fault = some f.id then { d with fault := none } else d
    s.serveFault f = if t.place = .resident then u.sched (s.clock + 1) (if out then .streamStoreElement t.coord q else .streamLoadElement t.coord q) else u := by
  have desc : (s.setFault f.id 1).faultedDesc f.id = some d := hd
  have team : (s.setFault f.id 1).team? d.byw.g.team = some t := ht
  simp only [State.serveFault, hu, desc, Option.bind_some, team]
  rfl

theorem State.endFault_stream {c q : Nat} {out : Bool} {d : StreamDesc} (hu : f.user = .stream c q out) (hd : s.faultedDesc f.id = some d) :
    s.endFault f = ((s.setFault f.id 2).modStreams fun d => if d.fault = some f.id then { d with fault := none } else d).failStream q
      { d with fault := none } ePage f.va := by
  have desc : (s.setFault f.id 2).faultedDesc f.id = some d := hd
  simp only [State.endFault, hu, desc]

theorem State.serveFault_chunk {x : ReducedChunk} (hu : f.user = .chunk x) : s.serveFault f = (s.setFault f.id 1).reducedChunk x := by
  simp only [State.serveFault, hu]

theorem State.endFault_chunk {x : ReducedChunk} (hu : f.user = .chunk x) : s.endFault f = (s.setFault f.id 2).refuseChunk x := by
  simp only [State.endFault, hu]
end

/-- R161, R230, R238, R239, R241, R354. -/
theorem faultsAreServedOrEnded : Claims.faultsAreServedOrEnded := by
  intro s
  refine ⟨fun t g mw va => ⟨fun x h => s.walkDone_of_ok h, fun h => s.walkDone_of_bad h, fun h => s.walkDone_of_missing h⟩,
    fun ctx va kind u c h => s.newFault_eq h va kind u, fun f => ⟨?group, ?op, ?add, ?stream, ?chunk⟩⟩
  case group =>
    intro g t gr hu ht hg
    refine ⟨fun hw => ⟨s.serveFault_group_other hu ht hg hw, s.endFault_group_other hu hg hw⟩, fun hw mw hh => ⟨fun hs => ?_, ?_⟩⟩
    · exact s.serveFault_group hu ht hg hw hh hs
    · exact s.endFault_group hu ht hg hw hh
  case op =>
    intro id o hu ho
    rw [s.serveFault_op hu ho, s.endFault_op hu ho]
    refine ⟨fun hf => ?_, fun hf => ?_⟩
    · rw [if_neg hf, if_neg hf]
      exact ⟨rfl, rfl⟩
    · rw [if_pos hf, if_pos hf]
      refine ⟨fun ht => ?_, fun ht => ?_, rfl⟩
      · exact if_neg (mt List.isEmpty_iff.1 ht)
      · exact if_pos (List.isEmpty_iff.2 ht)
  case add => exact fun n hu => ⟨s.serveFault_add hu, s.endFault_add hu⟩
  case stream =>
    intro c q out hu open_ d t hd ht
    have served := s.serveFault_stream hu hd ht
    exact ⟨fun hp => served.trans (if_pos hp), fun hp => served.trans (if_neg hp), s.endFault_stream hu hd⟩
  case chunk => exact fun x hu => ⟨s.serveFault_chunk hu, s.endFault_chunk hu⟩

/-! Walks, faults and shoot-downs as they become due. -/

/-- A walker that comes free takes up the walk of its die that has waited longest (R242). -/
def State.takeUpWalk (s : State) (die : Nat) : State :=
  match (s.dieWalks die)[15]? with
  | some x => s.runWalk x
  | none => s

theorem State.takeUpWalk_teams (s : State) (die : Nat) : (s.takeUpWalk die).teams = s.teams := by
  unfold State.takeUpWalk
  split <;> rfl

/-- A walk that is over is answered to a group whose held word waits for its page. -/
def State.answerWalk (s : State) (w : Walk) (t : Team) (g : Group) : State :=
  match g.held with
  | some mw => if mw.walking && mw.space = 0 && !(mw.onPage w.va).isEmpty then s.walkDone t ⟨t.id, g.slot⟩ mw w.va else s
  | none => s

theorem tableWalkComplete_becomes {s : State} {w : Walk} (h : (s.walks.find? fun x => x.id == w.id) = some w) :
    becomes (.tableWalkComplete w.id) s
      ((s.teams.filter fun t => t.coord == w.coord && t.ctx == w.ctx && t.place != .ended).foldl
        (fun u t => t.groups.foldl (fun u g => u.answerWalk w t g) u)
        (({ s with walks := s.walks.filter fun x => x.id != w.id } : State).takeUpWalk (Config.coordDie w.coord))) := by
  let taken := ({ s with walks := s.walks.filter fun x => x.id != w.id } : State).takeUpWalk (Config.coordDie w.coord)
  have teams : taken.teams = s.teams := State.takeUpWalk_teams _ _
  have answered : execTableWalkComplete w.id s = .next ((taken.teams.filter fun t => t.coord == w.coord && t.ctx == w.ctx && t.place != .ended).foldl
      (fun u t => t.groups.foldl (fun u g => u.answerWalk w t g) u) taken) := by
    unfold execTableWalkComplete
    rw [h]
    rfl
  rw [teams] at answered
  exact answered

/-- A fault is served once a mapping answers it (R238). -/
theorem faultServed_becomes {s : State} {f : FaultRec} (h : (s.faults.find? fun x => x.id == f.id && x.state == 0) = some f)
    (hm : s.walkCtx f.ctx f.va ≠ .missing) : becomes (.faultServed f.id) s (s.serveFault f) := by
  have mapped : s.mapped f = true := by
    unfold State.mapped
    split
    · next e => exact absurd e hm
    · rfl
  show execFaultServed f.id s = _
  unfold execFaultServed
  rw [h]
  dsimp only
  rw [if_pos mapped]

/-- A fault ends when its context's limit has passed (R238); a clock that stood still meanwhile has it asked again. -/
theorem faultLimitExpire_becomes {s : State} {f : FaultRec} (h : (s.faults.find? fun x => x.id == f.id && x.state == 0) = some f) :
    becomes (.faultLimitExpire f.id) s
      (if s.ctxClock f.ctx < f.deadline then s.sched (s.clock + (f.deadline - s.ctxClock f.ctx)) (.faultLimitExpire f.id) else s.endFault f) := by
  show execFaultLimitExpire f.id s = _
  unfold execFaultLimitExpire
  rw [h]

/-! Shoot-downs (R243). -/

/-- A shoot-down that meets no walk of its context takes the core's matching TLB entries and bounds the core's old accesses. -/
theorem State.reachCore_of_no_walks {s : State} {x : Shoot} {coord : Nat} (hc : ∃ k ∈ s.cores, k.coord = coord) (hw : ∀ w ∈ s.walks, w.ctx ≠ x.ctx) :
    s.reachCore x coord =
      { (s.modCore coord fun c => { c with tlb := c.tlb.filter fun e =>
          !(e.ctx == x.ctx && (e.page * 2 ^ e.bits < x.va + x.len && x.va < e.page * 2 ^ e.bits + 2 ^ e.bits)) }) with
        shoots := s.shoots.map fun (y : Shoot) =>
          if y.id = x.id then { y with left := y.left.map fun l => if l.1 = coord then (coord, some s.nextId) else l } else y } := by
  have known : (s.cores.any fun c => c.coord == coord) = true := by simpa using hc
  have none (p : Walk → Bool) (q : Walk → Bool) : (s.walks.filter fun w => p w && w.ctx == x.ctx && q w) = [] := by
    rw [List.filter_eq_nil_iff]
    intro w hm
    simp [hw w hm]
  unfold State.reachCore
  extract_lets hit cleared bounded
  have walks : bounded.walks = s.walks := by
    unfold bounded cleared
    split <;> rfl
  rw [walks, none, List.foldl_nil]
  unfold bounded cleared
  rw [if_pos known]
  rfl

section
variable {s : State} {x : Shoot} {coord : Nat}

/-- The state in which a core has been reached by a shoot-down. -/
def State.reached (s : State) (x : Shoot) (coord : Nat) : State := if (coord, none) ∈ x.left then s.reachCore x coord else s
/-- The shoot-down as it stands then. -/
def State.reachedShoot (s : State) (x : Shoot) (coord : Nat) : Shoot := ((s.reached x coord).shoots.find? fun y => y.id == x.id).getD x

/-- Once a core's old accesses are over, it is no longer awaited; when none is left the shoot-down ends. -/
theorem shootdownAck_becomes (h : (s.shoots.find? fun y => y.id == x.id && y.left.any fun l => l.1 == coord) = some x)
    (ho : (s.reached x coord).oldAccess coord ((((s.reachedShoot x coord).left.find? fun l => l.1 == coord).bind fun l => l.2).getD 0) = false) :
    let u := s.reached x coord
    let z := s.reachedShoot x coord
    let left := z.left.filter fun l => l.1 != coord
    (left ≠ [] → becomes (.shootdownAck x.id coord) s
      { u with shoots := u.shoots.map fun (y : Shoot) => if y.id = x.id then { y with left := left } else y }) ∧
    (∀ h code, left = [] → z.reply = some (h, code) → z.task = none → becomes (.shootdownAck x.id coord) s
      (((({ u with shoots := u.shoots.filter fun y => y.id != x.id } : State).freeFrames z.free).reply h code 0 []).tryTasks)) := by
  intro u z left
  have reached : (if x.left.contains (coord, none) then s.reachCore x coord else s) = u := if_congr List.contains_iff_mem rfl rfl
  have shoot : (u.shoots.find? fun y => y.id == x.id).getD x = z := rfl
  have acked : execShootdownAck x.id coord s = .next (
      if !left.isEmpty then { u with shoots := u.shoots.map fun (y : Shoot) => if y.id = x.id then { y with left := left } else y }
      else
        let v := ({ u with shoots := u.shoots.filter fun y => y.id != x.id } : State).freeFrames z.free
        let w := match z.reply with
          | some (h, code) => v.reply h code 0 []
          | none => v
        match z.task with
        | some (d, k) => w.endCommit d k
        | none => w.tryTasks) := by
    unfold execShootdownAck
    rw [h]
    dsimp only
    rw [reached, shoot]
    exact congrArg Host.Outcome.next (if_neg (ho ▸ Bool.false_ne_true))
  refine ⟨fun hl => ?more, fun h code hl hr ht => ?last⟩
  case more =>
    refine acked.trans (congrArg _ (if_pos ?_))
    rw [Bool.not_eq_true', ← Bool.not_eq_true, List.isEmpty_iff]
    exact hl
  case last =>
    refine acked.trans (congrArg _ ?_)
    rw [hl, hr, ht]
    rfl
end

/-- R238, R240 to R243. -/
theorem walksAndShootdowns : Claims.walksAndShootdowns := by
  intro s
  refine ⟨fun w _ h => ?walk, fun f h => ⟨fun hm => faultServed_becomes h hm, fun hd => ?ends, fun hd => ?asks⟩,
    fun x coord h => ⟨fun hc hw => State.reachCore_of_no_walks hc hw, fun ho => shootdownAck_becomes h ho⟩⟩
  case walk =>
    intro waits rest
    refine (tableWalkComplete_becomes h).trans ?_
    have answer (u : State) (t : Team) (g : Group) : u.answerWalk w t g = match g.held with
        | some mw => if waits g then u.walkDone t ⟨t.id, g.slot⟩ mw w.va else u
        | none => u := by
      unfold State.answerWalk waits
      cases g.held <;> rfl
    simp only [answer]
    rfl
  case ends =>
    have due := faultLimitExpire_becomes h
    rwa [if_neg (Nat.not_lt.2 hd)] at due
  case asks =>
    have due := faultLimitExpire_becomes h
    rwa [if_pos hd] at due

/-- Settles O27: each walk, answer, refusal and limit is told by who waits for it, and a shoot-down by which cores are left. -/
theorem walksFaultsAndShootdowns : Obligations.walksFaultsAndShootdowns := ⟨walksAndShootdowns, faultsAreServedOrEnded⟩

end Sys2Proof.Machine
end

section
/-! SUPPORT. The counter of a stream that is over waits for its release (O28). -/
namespace Sys2Proof.Machine
open Sys2Proof.Tests

/-- The machine of group 0 whose input stream 8 has moved its last element, while an earlier store of the group is in its core's path. -/
def streamedBehindStore : State := { streaming false 2 with path := [arrival .st none] }
/-- How many streams stand in input queue 0 of core 0 after a step. -/
def queuedStreams : Host.Outcome State Fault Refusal → Nat
  | .next s => ((s.core 0).qi.getD 0 {}).descs.length
  | _ => 0

/-- The team whose stream it is. -/
def streamingTeam : Team := (streamedBehindStore.team? 0).getD team0

theorem team?_streamedBehindStore : streamedBehindStore.team? 0 = some streamingTeam := by
  have there : (streamedBehindStore.team? 0).isSome = true := by decide
  obtain ⟨t, ht⟩ := Option.isSome_iff_exists.1 there
  rw [streamingTeam, ht]
  rfl

theorem headDesc_streamedBehindStore : streamedBehindStore.headDesc 8 = some (0, 0, desc0 false 2) := by decide

/-- The update of the stream's counter is a release at device scope (R175, R190), and the store comes before it: the stream is asked again. -/
theorem streamComplete_streamedBehindStore : queuedStreams (exec (.streamComplete 8) streamedBehindStore) = 1 := by decide

/-- Refutes O28: it has every stream that is over leave its queue and be counted at once, but the update of its counter is a release, which an
earlier store of its core that is not acknowledged holds back (R175, R190). -/
theorem not_memoryEventsPerform : ¬ Obligations.memoryEventsPerform := by
  intro h
  obtain ⟨-, -, -, -, streams⟩ := h
  obtain ⟨-, -, complete⟩ := streams 0 0 streamedBehindStore (desc0 false 2) [] streamingTeam team?_streamedBehindStore rfl
  have counted := congrArg queuedStreams (complete headDesc_streamedBehindStore (by decide) (by decide))
  refine absurd (streamComplete_streamedBehindStore.symm.trans counted) ?_
  decide

end Sys2Proof.Machine
end

section
/-! SUPPORT. Loads, stores, atomics and reductions whose accesses pass (O9). -/
namespace Sys2Proof.Machine

/-! Addresses. -/

/-- R158. -/
theorem addressesFollowR158 : Claims.addressesFollowR158 := by
  intro i l size disp
  have sum : i.rd l i.w.a true + (i.rd32 l i.w.b).signExtend 64 * BitVec.ofNat 64 size + disp =
      BitVec.ofInt 64 ((i.rd l i.w.a true).toNat + (i.rd32 l i.w.b).toInt * size + disp.toNat) := by
    simp only [BitVec.ofInt_add, BitVec.ofInt_mul, BitVec.ofInt_natCast, BitVec.ofNat_toNat, BitVec.setWidth_eq]
    rfl
  rw [addrOf, sum, BitVec.toNat_ofInt]
  rfl

/-! A word whose accesses pass starts. -/

section
variable {s u : State} {op : Op} {w : Full} {c : Cur} {i : Iss} {core : Core}

/-- The word of a form, as it starts (R161). -/
def MemForm.start (f : MemForm) (i : Iss) (u : State) : Body := startWord i u f.act f.space f.dst f.accs f.lanes

theorem accessesPass.lanes_ne_nil {f : MemForm} {load store : Bool} {l : List Nat} {g : Nat → Acc} (hp : accessesPass u c i f load store)
    (hf : f.accs = l.map g) : l.isEmpty = false := by
  rw [List.isEmpty_eq_false_iff]
  rintro rfl
  exact hp.1 hf

/-- No atomic or reduction in the core's path meets a load that passes (R183). -/
theorem loadBody_of_pass (h : AtIssue s op w c i core) {space : Nat} {x4 : Bool} {acq : Option Nat}
    (hp : accessesPass u c i (loadForm i space x4 acq) true false) : loadBody space x4 acq i u = (loadForm i space x4 acq).start i u := by
  have lanes := hp.lanes_ne_nil rfl
  obtain ⟨-, order, slots, checks, clear⟩ := hp
  unfold loadBody
  extract_lets size ls accs busy
  have idle : busy = false := by
    unfold busy
    rw [List.any_eq_false]
    intro a ha hb
    rw [Bool.and_eq_true, decide_eq_true_eq] at hb
    obtain ⟨hs, hb⟩ := hb
    have sized : a.size = size := by
      obtain ⟨l, -, rfl⟩ := List.mem_map.1 ha
      rfl
    split at hb
    · next x hx =>
      simp only [List.any_eq_true, Bool.and_eq_true, beq_iff_eq, bne_iff_ne, rangesMeet, decide_eq_true_eq, and_assoc] at hb
      obtain ⟨e, he, h0, h1, h2, h3, h4, h5, h6⟩ := hb
      refine clear rfl hs a ha x hx e he h0 h1 h2 h3 h4 ⟨?_, ?_⟩ <;> omega
    · exact Bool.false_ne_true hb
  have some_ : ls.isEmpty = false := lanes
  have held : u.orderHold i.g false = false := h.g ▸ order
  have free : u.noSlots i.t.coord (accSlots accs) = false := slots
  have pass : stepChecks u i.t i.cur.pc space true accs = [] := h.pc ▸ checks
  rw [idle, some_, held, free, pass]
  rfl

theorem storeBody_of_pass (h : AtIssue s op w c i core) {space : Nat} {x4 : Bool} {rel : Option Nat}
    (hp : accessesPass u c i (storeForm i space x4 rel) false true) : storeBody space x4 rel i u = (storeForm i space x4 rel).start i u := by
  have lanes := hp.lanes_ne_nil rfl
  obtain ⟨-, order, slots, checks, -⟩ := hp
  unfold storeBody
  extract_lets size accs
  have some_ : accs.isEmpty = false := List.isEmpty_map.trans lanes
  have held : u.orderHold i.g true = false := h.g ▸ order
  have free : u.noSlots i.t.coord (accSlots accs) = false := slots
  have pass : stepChecks u i.t i.cur.pc space false accs = [] := h.pc ▸ checks
  rw [some_, held, free, pass]
  rfl

/-- An ATOM has a destination, which is marked in every lane; a RED has none. -/
theorem atomBody_of_pass (h : AtIssue s op w c i core) {act : MemAct} {size : Nat} {dst : MDst} {data : Nat → Nat}
    (hp : accessesPass u c i (atomForm i act size dst (if dst == .none then [] else i.lanes) data) false (dst == .none)) :
    atomBody act size dst data i u = (atomForm i act size dst (if dst == .none then [] else i.lanes) data).start i u := by
  have lanes := hp.lanes_ne_nil rfl
  obtain ⟨-, order, slots, checks, -⟩ := hp
  unfold atomBody
  extract_lets space accs store
  have some_ : accs.isEmpty = false := List.isEmpty_map.trans lanes
  have held : u.orderHold i.g store = false := h.g ▸ order
  have free : u.noSlots i.t.coord (accSlots accs) = false := slots
  have pass : stepChecks u i.t i.cur.pc space false accs = [] := h.pc ▸ checks
  rw [some_, held, free, pass]
  rfl

/-- The meaning of a memory word. -/
def memBody : Op → Iss → State → Body
  | .ld => bodyLd
  | .ldacq => bodyLdacq
  | .st => bodySt
  | .strel => bodyStrel
  | .atom => bodyAtom
  | _ => bodyRed

theorem exec_memWord (hop : op ∈ [Op.ld, .ldacq, .st, .strel, .atom, .red]) :
    exec (.ofFull op w) s = execFull op (issueKind op w) (memBody op) w s := by
  simp only [List.mem_cons, List.not_mem_nil, or_false] at hop
  rcases hop with rfl | rfl | rfl | rfl | rfl | rfl <;> rfl

/-- ATOM's D is a V register (R170). -/
theorem isV_of_wf_atom (hw : w.wf .atom = true) : ∃ n, w.d = .v n := by
  simp only [Full.wf, fmt, Bool.and_eq_true] at hw
  obtain ⟨⟨⟨⟨⟨⟨⟨-, hd⟩, -⟩, -⟩, -⟩, -⟩, -⟩, -⟩ := hw
  have takes : dV.takes w.d = true := hd
  cases hd : w.d with
  | v n => exact ⟨n, rfl⟩
  | _ => rw [hd] at takes; exact absurd takes Bool.false_ne_true

theorem memBody_of_pass (h : AtIssue s op w c i core) (hop : op ∈ [Op.ld, .ldacq, .st, .strel, .atom, .red]) (hw : w.wf op = true)
    (hs : op = .ld ∨ op = .st → w.sub.toNat % 8 ≠ 4)
    (hp : accessesPass u c i (memForm op i) (decide (op = .ld ∨ op = .ldacq)) (decide (op = .st ∨ op = .strel ∨ op = .red))) :
    memBody op i u = (memForm op i).start i u := by
  obtain rfl := h.w_eq
  simp only [List.mem_cons, List.not_mem_nil, or_false] at hop
  rcases hop with rfl | rfl | rfl | rfl | rfl | rfl
  · exact (if_neg (hs (.inl rfl))).trans (loadBody_of_pass h hp)
  · exact loadBody_of_pass h hp
  · exact (if_neg (hs (.inr rfl))).trans (storeBody_of_pass h hp)
  · exact storeBody_of_pass h hp
  · obtain ⟨n, hd⟩ := isV_of_wf_atom hw
    have dst : (loadDst i false == .none) = false := by rw [loadDst, hd]; rfl
    have atom := atomBody_of_pass (u := u) h (act := .atom (i.w.sub.toNat % 8) i.w.ty) (size := i.w.ty.bits / 8) (dst := loadDst i false)
      (data := fun l => (i.rd l i.w.c i.w.ty.wide).toNat % 2 ^ (8 * (i.w.ty.bits / 8)))
    rw [dst] at atom
    exact atom hp
  · by_cases stat : i.w.sub.toNat % 8 = 6
    · have form : memForm .red i = atomForm i .stat 16 .none [] fun l => natOfTriple (i.triL l i.w.c) := if_pos stat
      rw [form] at hp ⊢
      exact (if_pos stat).trans (atomBody_of_pass (dst := .none) h hp)
    · have form : memForm .red i = atomForm i (.red (i.w.sub.toNat % 8) i.w.ty) (i.w.ty.bits / 8) .none []
          fun l => (i.rd l i.w.c i.w.ty.wide).toNat % 2 ^ (8 * (i.w.ty.bits / 8)) := if_neg stat
      rw [form] at hp ⊢
      exact (if_neg stat).trans (atomBody_of_pass (dst := .none) h hp)

theorem memForm_red_act (i : Iss) : (memForm .red i).act = if i.w.sub.toNat % 8 = 6 then .stat else .red (i.w.sub.toNat % 8) i.w.ty :=
  apply_ite MemForm.act _ _ _

/-- Only loads and ATOM read what is in memory. -/
theorem memForm_reads (hop : op ∈ [Op.ld, .ldacq, .st, .strel, .atom, .red]) (hr : (memForm op i).act.reads = true) :
    op = .ld ∨ op = .ldacq ∨ op = .atom := by
  simp only [List.mem_cons, List.not_mem_nil, or_false] at hop
  rcases hop with rfl | rfl | rfl | rfl | rfl | rfl
  · exact .inl rfl
  · exact .inr (.inl rfl)
  · exact absurd hr Bool.false_ne_true
  · exact absurd hr Bool.false_ne_true
  · exact .inr (.inr rfl)
  · rw [memForm_red_act] at hr
    split at hr <;> exact absurd hr Bool.false_ne_true

theorem memForm_act_ne_code (hop : op ∈ [Op.ld, .ldacq, .st, .strel, .atom, .red]) : (memForm op i).act ≠ .code := by
  simp only [List.mem_cons, List.not_mem_nil, or_false] at hop
  rcases hop with rfl | rfl | rfl | rfl | rfl | rfl
  · exact nofun
  · exact nofun
  · exact nofun
  · exact nofun
  · exact nofun
  · rw [memForm_red_act]
    split <;> exact nofun
end

/-- R161, R165, R167, R170, R171. -/
theorem memoryWordsAct : Claims.memoryWordsAct := by
  intro op hop s w c i core h hw hwf hs u f load hp v mw
  rw [exec_memWord hop]
  have starts := memBody_of_pass h hop hwf hs hp
  refine ⟨fun hspace present => ?team, fun hspace tr ht => ?global⟩
  case team =>
    refine execFull_ok h hw (starts.trans ?_) (f := fun _ => _)
    exact startWord_local h hspace fun hr => present (memForm_reads hop hr)
  case global =>
    refine execFull_ok h hw (starts.trans ?_) (f := fun _ => _)
    have begins := startWord_global h (memForm_act_ne_code hop) ht
    unfold mw f MemForm.start at *
    rw [hspace]
    exact begins

/-! What leaves, and what takes a place in the store path (R162, R183, R188). -/

/-- A request of a load leaves, with the step that lands it. -/
def State.leaveLoad (v : State) (x : LoadReq × Nat) : State :=
  ({ v with loads := v.loads ++ [x.1], nextId := v.nextId + 1 } : State).after x.2 (.loadLanding x.1.id)
/-- The request of a line's accesses, by its number, with its least latency; `k` is the core as the word found it. -/
def lineRequest (k : Core) (v : State) (t : Team) (mw : MemWord) (acq : Option Nat) (id : Nat) (l : List (Acc × Nat)) : LoadReq × Nat :=
  let l1Ok := match acq with
    | some sc => decide (sc < 3)
    | none => true
  let pa := (l.headD (⟨0, 0, 1, 0, 0, []⟩, 0)).2
  let hit := l1Ok && (l1Line k (pa / 128)).isSome
  ({ id := id, coord := t.coord, byw := mw.byw, space := mw.space, dst := mw.dst, accs := l.map fun x => x.1, pas := l.map fun x => x.2, acq := acq,
     remote := mw.space = 0 && !hit && homeDie pa ≠ Config.coordDie t.coord },
   if mw.space ≠ 0 then 8 else if hit then 14 else v.sliceLeast t.coord pa 20)

/-- The requests of a word are numbered as they leave. -/
theorem foldl_leaveLoad (k : Core) (v : State) (t : Team) (mw : MemWord) (acq : Option Nat) (ls : List (List (Acc × Nat))) :
    ls.foldl (fun u l => u.leaveLoad (lineRequest k u t mw acq u.nextId l)) v =
      (ls.mapIdx fun j l => lineRequest k v t mw acq (v.nextId + j) l).foldl State.leaveLoad v := by
  induction ls generalizing v with
  | nil => rfl
  | cons l ls ih =>
    rw [List.foldl_cons, ih, List.mapIdx_cons, List.foldl_cons, Nat.add_zero]
    refine congrArg (List.foldl _ _) (congrArg (fun f => List.mapIdx f ls) ?_)
    funext j y
    have number : (v.leaveLoad (lineRequest k v t mw acq v.nextId l)).nextId + j = v.nextId + (j + 1) := Nat.add_assoc _ 1 j ▸ Nat.add_comm 1 j ▸ rfl
    rw [number]
    rfl

theorem farMiss_eq (u : State) (t : Team) (mw : MemWord) (acq : Option Nat) (pa : Nat) :
    farMiss u t mw acq pa = (mw.space = 0 && !((match acq with
      | some sc => decide (sc < 3)
      | none => true) && (l1Line (u.core t.coord) (pa / 128)).isSome) && decide (homeDie pa ≠ Config.coordDie t.coord)) := by
  unfold farMiss
  cases acq <;> simp [bne, beq_eq_decide]

theorem mapIdx_map_eq {α β γ : Type} (f : Nat → β → γ) (g : α → β) (l : List α) : (l.map g).mapIdx f = l.mapIdx fun j x => f j (g x) := by
  apply List.ext_getElem?
  intro j
  simp [Option.map_map, Function.comp_def]

/-- The first access that meets a line lies on it. -/
theorem line_of_headD {pas : List (Acc × Nat)} {ln : Nat} (h : ln ∈ (pas.map fun x => x.2 / 128).eraseDups) (d : Acc × Nat) :
    ((pas.filter fun x => x.2 / 128 == ln).headD d).2 / 128 = ln := by
  obtain ⟨x, hx, rfl⟩ := List.mem_map.1 (List.mem_eraseDups.1 h)
  have there : x ∈ pas.filter fun y => y.2 / 128 == x.2 / 128 := List.mem_filter.2 ⟨hx, beq_self_eq_true _⟩
  cases hf : pas.filter fun y => y.2 / 128 == x.2 / 128 with
  | nil => exact absurd (hf ▸ there) List.not_mem_nil
  | cons y l =>
    have first : y ∈ pas.filter fun y => y.2 / 128 == x.2 / 128 := hf ▸ List.mem_cons_self
    exact beq_iff_eq.1 (List.mem_filter.1 first).2

theorem lineRequests_eq (u : State) (t : Team) (mw : MemWord) (acq : Option Nat) (pas : List (Acc × Nat)) :
    lineRequests u t mw acq pas =
      (groupLines pas false).mapIdx fun j l => lineRequest (u.core t.coord) u t mw acq (u.nextId + j) l := by
  have head (l : List (Acc × Nat)) : (l.map fun x => x.2).headD 0 = (l.headD (⟨0, 0, 1, 0, 0, []⟩, 0)).2 := by
    cases l <;> rfl
  rw [groupLines, if_neg Bool.false_ne_true, mapIdx_map_eq]
  unfold lineRequests lineRequest
  refine List.mapIdx_eq_mapIdx_iff.2 fun j hj => ?_
  have line := line_of_headD (List.getElem_mem hj) (⟨0, 0, 1, 0, 0, []⟩, 0)
  simp only [head, farMiss_eq, line]
  cases acq <;> rfl

/-- Loads leave line by line; a miss on another die parks the group (R162, R164). -/
theorem State.perform_ld {u : State} {t : Team} {mw : MemWord} {acq : Option Nat} (ha : mw.act = .ld acq) (hd : mw.dst.isPc = false)
    (pas : List (Acc × Nat)) :
    u.perform t mw pas =
      if pas.any fun x => farMiss u t mw acq x.2 then ((lineRequests u t mw acq pas).foldl State.leaveLoad u).park mw.byw.g .remote mw.byw
      else (lineRequests u t mw acq pas).foldl State.leaveLoad u := by
  simp only [State.perform, ha]
  rw [lineRequests_eq, ← foldl_leaveLoad, ← hd]
  simp only [farMiss_eq] <;> rfl

theorem State.perform_st {u : State} {t : Team} {mw : MemWord} {rel : Option Nat} (ha : mw.act = .st rel) (pas : List (Acc × Nat)) :
    u.perform t mw pas = (mw.entries t.coord pas).foldl (fun v e => v.doStore t e) u := by
  simp only [State.perform, ha]

/-- An atomic, a reduction or a counter addition takes its place, dropping the line that its core's L1 holds (R165, R171). -/
def State.placeAtom (v : State) (t : Team) (e : PathEntry) : State :=
  let w := v.loadFirst e
  (if e.space = 0 then w.modCore t.coord fun c => { c with l1 := c.l1.filter fun y => y.1 ≠ e.pa / 128 } else w).insertEntry e

theorem State.perform_atom {u : State} {t : Team} {mw : MemWord} (hp : mw.act.inPath = true) (hs : ∀ rel, mw.act ≠ .st rel) (pas : List (Acc × Nat)) :
    u.perform t mw pas = ((mw.entries t.coord pas).foldl (fun v e => v.placeAtom t e) u).parkAtom t mw pas := by
  have place (v : State) (e : PathEntry) : v.placeAtom t e =
      (if e.space = 0 then (v.loadFirst e).dropLine t.coord (e.pa / 128) else v.loadFirst e).insertEntry e := by
    simp [State.placeAtom, State.dropLine, bne, beq_eq_decide]
  simp only [place]
  cases ha : mw.act with
  | st rel => exact absurd ha (hs rel)
  | atom _ _ => simp only [State.perform, ha]
  | red _ _ => simp only [State.perform, ha]
  | stat => simp only [State.perform, ha]
  | ctradd _ _ => simp only [State.perform, ha]
  | _ => rw [ha] at hp; exact absurd hp Bool.false_ne_true

/-- An atomic on another die parks its group (R162). -/
theorem State.parkAtom_eq (v : State) (t : Team) (mw : MemWord) (pas : List (Acc × Nat)) :
    let far := mw.space = 0 ∧ ∃ x ∈ pas, homeDie x.2 ≠ Config.coordDie t.coord
    ((∃ op ty, mw.act = .atom op ty) ∧ far → v.parkAtom t mw pas = v.park mw.byw.g .remote mw.byw) ∧
    (¬ ((∃ op ty, mw.act = .atom op ty) ∧ far) → v.parkAtom t mw pas = v) := by
  intro far
  have away : (mw.space = 0 && pas.any fun x => homeDie x.2 ≠ Config.coordDie t.coord) = true ↔ far := by simp [far]
  unfold State.parkAtom
  split
  · next op ty ha =>
    rw [if_congr away rfl rfl]
    exact ⟨fun h => if_pos h.2, fun h => if_neg fun hf => h ⟨⟨op, ty, ha⟩, hf⟩⟩
  · next ha =>
    refine ⟨fun h => ?_, fun _ => rfl⟩
    obtain ⟨⟨op, ty, hb⟩, -⟩ := h
    exact absurd hb (ha op ty)

/-! The entries of a word (R183, R188). -/

/-- An entry stands in the path for an access of a word, under a number. -/
def namesAccess (mw : MemWord) (coord : Nat) (e : PathEntry) (id : Nat) (a : Acc) (pa : Nat) : Prop :=
  (e.id, e.coord, e.byw, e.lane, e.space, e.addr, e.pa, e.size, e.data, e.cmp) = (id, coord, mw.byw, a.lane, mw.space, a.addr, pa, a.size, a.data, a.cmp) ∧
  (∀ rel, mw.act = .st rel → e.kind = .st ∧ e.rel = rel) ∧ (∀ op ty, mw.act = .atom op ty → (e.kind, e.op, e.ty, e.rel) = (.atom, op, ty, none)) ∧
  (∀ op ty, mw.act = .red op ty → (e.kind, e.op, e.ty, e.rel) = (.red, op, ty, none)) ∧ (mw.act = .stat → (e.kind, e.rel) = (.stat, none)) ∧
  (∀ sc n, mw.act = .ctradd sc n → (e.kind, e.rel) = (.ctradd, some sc))

theorem namesAccess_entryOf (mw : MemWord) (coord id : Nat) (a : Acc) (pa : Nat) :
    namesAccess mw coord { entryOf mw coord a pa with id := id } id a pa := by
  refine ⟨rfl, fun rel h => ?_, fun op ty h => ?_, fun op ty h => ?_, fun h => ?_, fun sc n h => ?_⟩ <;> simp [entryOf, h]

/-- The entry that stands for quarter j of a 16-byte store. -/
def quarterOf (mw : MemWord) (coord : Nat) (x : Acc × Nat) (j : Nat) : PathEntry :=
  entryOf mw coord { x.1 with addr := x.1.addr + 4 * j, size := 4, data := x.1.data / 2 ^ (32 * j) % 2 ^ 32 } (x.2 + 4 * j)

theorem MemWord.entries_eq (mw : MemWord) (coord : Nat) (pas : List (Acc × Nat)) :
    mw.entries coord pas = (pas.flatMap fun x => if mw.act.isSt && x.1.size = 16 then (List.range 4).map (quarterOf mw coord x) else [entryOf mw coord x.1 x.2]).mapIdx
      fun i e => { e with id := mw.id0 + i } := rfl

section
variable {mw : MemWord} {coord k : Nat} {pas : List (Acc × Nat)} {x : Acc × Nat}

/-- An access of another size, or of another word than a store, has one entry. -/
theorem MemWord.entries_getElem? (h : (∀ y ∈ pas, y.1.size ≠ 16) ∨ mw.act.isSt = false) (hx : pas[k]? = some x) :
    (mw.entries coord pas)[k]? = some { entryOf mw coord x.1 x.2 with id := mw.id0 + k } := by
  have whole : (pas.flatMap fun x => if mw.act.isSt && x.1.size = 16 then (List.range 4).map (quarterOf mw coord x) else [entryOf mw coord x.1 x.2]) =
      pas.map fun x => entryOf mw coord x.1 x.2 := by
    rw [List.map_eq_flatMap]
    refine List.flatMap_congr fun y hy => if_neg ?_
    rw [Bool.and_eq_true, decide_eq_true_eq]
    rintro ⟨hst, hsize⟩
    rcases h with h | h
    · exact h y hy hsize
    · exact Bool.false_ne_true (h.symm.trans hst)
  rw [MemWord.entries_eq, whole, List.getElem?_mapIdx, List.getElem?_map, hx]
  rfl

/-- Where the parts of one element stand among those of all, each having n. -/
theorem getElem?_flatMap_of_length {α β : Type} {f : α → List β} {n : Nat} {l : List α} {k j : Nat} {y : α} (hf : ∀ x ∈ l, (f x).length = n)
    (hk : l[k]? = some y) (hj : j < n) : (l.flatMap f)[n * k + j]? = (f y)[j]? := by
  induction l generalizing k with
  | nil => exact absurd hk nofun
  | cons x l ih =>
    have hx := hf x List.mem_cons_self
    rw [List.flatMap_cons]
    cases k with
    | zero =>
      obtain rfl : x = y := Option.some.inj hk
      rw [Nat.mul_zero, Nat.zero_add, List.getElem?_append_left (hx ▸ hj)]
    | succ k =>
      rw [List.getElem?_append_right (by rw [hx, Nat.mul_succ]; omega), hx, show n * (k + 1) + j - n = n * k + j by rw [Nat.mul_succ]; omega]
      exact ih (fun x hm => hf x (List.mem_cons_of_mem _ hm)) hk

/-- A 16-byte store has four entries, 4 bytes each (R188). -/
theorem MemWord.entries_quarter (hs : ∀ y ∈ pas, y.1.size = 16) (hst : mw.act.isSt = true) (hx : pas[k]? = some x) {j : Nat} (hj : j < 4) :
    (mw.entries coord pas)[4 * k + j]? = some { quarterOf mw coord x j with id := mw.id0 + 4 * k + j } := by
  have parts : (pas.flatMap fun x => if mw.act.isSt && x.1.size = 16 then (List.range 4).map (quarterOf mw coord x) else [entryOf mw coord x.1 x.2]) =
      pas.flatMap fun x => (List.range 4).map (quarterOf mw coord x) :=
    List.flatMap_congr fun y hy => if_pos (by rw [hst, hs y hy]; rfl)
  have quarter : ((List.range 4).map (quarterOf mw coord x))[j]? = some (quarterOf mw coord x j) := by
    rw [List.getElem?_map, List.getElem?_range hj, Option.map_some]
  rw [MemWord.entries_eq, parts, List.getElem?_mapIdx, getElem?_flatMap_of_length (fun _ _ => by simp) hx hj, quarter, Nat.add_assoc]
  rfl
end

/-! The path (R165, R179, R181, R183, R185). -/

section
variable {u : State} {t : Team} {e : PathEntry}

theorem State.loadFirst_of_none (h : ∀ r ∈ u.loads, e.overtakes r = false) : u.loadFirst e = u := by
  have none : (u.loads.filter fun r => e.overtakes r && r.ctm.isNone) = [] := by
    rw [List.filter_eq_nil_iff]
    intro r hr
    simp [h r hr]
  rw [State.loadFirst, none]
  rfl

/-- The one load that a lane's next entry would overtake takes its value. -/
theorem State.loadFirst_of_one {r : LoadReq} {y : Team} (h : (u.loads.filter fun r => e.overtakes r && r.ctm.isNone) = [r])
    (hy : u.team? r.byw.g.team = some y) (hw : u.loadWaits r = false) :
    u.loadFirst e = { u with loads := u.loads.map fun (x : LoadReq) => if x.id = r.id then { x with got := some (u.loadValues y x) } else x } := by
  rw [State.loadFirst, h]
  show (match u.team? r.byw.g.team with | some t => _ | none => _) = _
  simp only [hy, hw, Bool.false_eq_true, if_false]

theorem insertBy_of_last {α : Type} (f : α → Nat) (x : α) {l : List α} (h : ∀ y ∈ l, f y < f x) : insertBy f x l = l ++ [x] := by
  induction l with
  | nil => rfl
  | cons y l ih =>
    rw [insertBy, if_neg (Nat.not_le.2 (h y List.mem_cons_self)), ih fun z hz => h z (List.mem_cons_of_mem _ hz)]
    rfl

/-- A younger entry than any stands last, with the step that performs it. -/
theorem State.insertEntry_of_last (hk : e.kind = .st ∨ e.kind = .atom ∨ e.kind = .red ∨ e.kind = .stat ∨ e.kind = .ctradd)
    (h : ∀ y ∈ u.path, y.id < e.id) : u.insertEntry e = u.entersPath e := by
  have last : insertBy (fun (x : PathEntry) => x.id) e u.path = u.path ++ [e] := insertBy_of_last _ e h
  unfold State.insertEntry State.entersPath
  rw [last]
  rcases hk with hk | hk | hk | hk | hk <;> cases hr : e.rel <;> simp [hk]

/-- In a list by rising numbers, the last element that has a property is the one that has it and is younger than all others. -/
theorem getLast?_filter_of_youngest {l : List PathEntry} {p : PathEntry → Bool} (hl : l.Pairwise fun x y => x.id ≤ y.id) (he : e ∈ l) (hp : p e = true)
    (hy : ∀ x ∈ l, x = e ∨ x.id < e.id) : (l.filter p).getLast? = some e := by
  have mem : e ∈ l.filter p := List.mem_filter.2 ⟨he, hp⟩
  have order := hl.filter p
  rcases List.eq_nil_or_concat (l.filter p) with none | ⟨m, z, some_⟩
  · exact absurd (none ▸ mem) List.not_mem_nil
  · rw [some_] at mem order ⊢
    rw [List.concat_eq_append] at mem order ⊢
    have last : z ∈ l := (List.mem_filter.1 (some_ ▸ List.concat_eq_append ▸ List.mem_append_right m (List.mem_singleton.2 rfl))).1
    rw [List.getLast?_append, List.getLast?_singleton]
    refine congrArg some ((hy z last).resolve_right fun younger => ?_)
    rcases List.mem_append.1 mem with hm | hm
    · have := (List.pairwise_append.1 order).2.2 e hm z (List.mem_singleton.2 rfl)
      omega
    · rw [List.mem_singleton.1 hm] at younger
      omega

/-- The byte of the youngest store that covers it is the core's (R183). -/
theorem pathByte_of_youngest {l : List PathEntry} (hl : l.Pairwise fun x y => x.id ≤ y.id) (he : e ∈ l) (hk : e.kind = .st) (hs : e.space = 0)
    (hy : ∀ x ∈ l, x = e ∨ x.id < e.id) {i : Nat} (hi : i < e.size) : pathByte l (e.pa + i) = some (BitVec.ofNat 8 (e.data / 2 ^ (8 * i))) := by
  have covers : (e.kind == .st && e.space == 0 && e.pa ≤ e.pa + i && e.pa + i < e.pa + e.size) = true := by simp [hk, hs, hi]
  unfold pathByte
  rw [getLast?_filter_of_youngest hl he covers hy]
  simp

/-- The youngest store of a core is in its path once it has entered. -/
theorem State.mem_corePath_entersPath (he : e.coord = t.coord) (h : ∀ y ∈ u.path ++ u.heldEntries t.coord, y.id < e.id) :
    e ∈ (u.entersPath e).corePath t.coord ∧ ∀ x ∈ (u.entersPath e).corePath t.coord, x = e ∨ x.id < e.id := by
  have path : (u.entersPath e).corePath t.coord =
      sortBy (fun (x : PathEntry) => x.id) (((u.path ++ [e]).filter fun x => x.coord == t.coord) ++ u.heldEntries t.coord) := rfl
  have mem (x : PathEntry) : x ∈ (u.entersPath e).corePath t.coord ↔ ((x ∈ u.path ∨ x = e) ∧ x.coord = t.coord) ∨ x ∈ u.heldEntries t.coord := by
    rw [path, (sortBy_perm _ _).mem_iff]
    simp [or_and_right, or_assoc]
  refine ⟨(mem e).2 (.inl ⟨.inr rfl, he⟩), fun x hx => ?_⟩
  rcases (mem x).1 hx with ⟨hx | hx, -⟩ | hx
  · exact .inr (h x (List.mem_append_left _ hx))
  · exact .inl hx
  · exact .inr (h x (List.mem_append_right _ hx))

theorem l1Put_eq_mostRecent (c : Core) (line : Nat) (x : List Byte × List Nat) : l1Put c line x = mostRecent c line x := by
  simp [l1Put, mostRecent, bne, beq_eq_decide]

/-- A global store writes the line that its core's L1 holds, then the most recent of its set, and allocates none (R165, R181). -/
theorem State.doStore_global (hk : e.kind = .st) (hs : e.space = 0) (he : e.coord = t.coord) (hl : ∀ r ∈ u.loads, e.overtakes r = false)
    (h : ∀ y ∈ u.path ++ u.heldEntries t.coord, y.id < e.id) :
    u.doStore t e = (u.entersPath e).modCore t.coord fun c => match (c.l1.find? fun y => y.1 == e.pa / 128) with
      | some (_, b, p) => mostRecent c (e.pa / 128) (b.mapIdx fun i x =>
          if e.pa % 128 ≤ i ∧ i < e.pa % 128 + e.size then BitVec.ofNat 8 (e.data / 2 ^ (8 * (i - e.pa % 128))) else x, p)
      | none => c := by
  obtain ⟨mem, youngest⟩ := State.mem_corePath_entersPath he h
  have order : ((u.entersPath e).corePath t.coord).Pairwise fun x y => x.id ≤ y.id := pairwise_sortBy _ _
  have bytes : ((List.range e.size).map fun i => (pathByte ((u.entersPath e).corePath t.coord) (e.pa + i)).getD 0) =
      (List.range e.size).map fun i => BitVec.ofNat 8 (e.data / 2 ^ (8 * i)) :=
    List.map_congr_left fun i hi => by rw [pathByte_of_youngest order mem hk hs youngest (List.mem_range.1 hi), Option.getD_some]
  have enters := State.insertEntry_of_last (.inl hk) fun y hy => h y (List.mem_append_left _ hy)
  unfold State.doStore
  dsimp only
  rw [if_pos hs, State.loadFirst_of_none hl, enters, bytes]
  unfold State.storeL1
  refine congrArg (State.modCore _ _) (funext fun c => ?_)
  rw [l1Line]
  cases c.l1.find? fun y => y.1 == e.pa / 128 with
  | none => rfl
  | some y =>
    simp only [Option.map_some, l1Put_eq_mostRecent, List.length_map, List.length_range]
    refine congrArg (fun b => mostRecent c (e.pa / 128) (b, y.2.2)) (congrArg (fun f => List.mapIdx f y.2.1) ?_)
    funext i x
    split
    · next hi =>
      have inside : i - e.pa % 128 < e.size := by omega
      simp [List.getD_eq_getElem?_getD, inside]
    · rfl

/-- A store to a team space writes its bytes when nothing keeps it waiting, and enters the path otherwise (R165, R184). -/
theorem State.doStore_team (hk : e.kind = .st) (hs : e.space ≠ 0) (hl : ∀ r ∈ u.loads, e.overtakes r = false) (h : ∀ y ∈ u.path, y.id < e.id) :
    (e.rel = none → u.mayPerform e = true → u.teamPoison t.id e.space e.addr e.size = false →
      u.doStore t e = u.writeTeam t.id e.space e.addr (bytesOfNat e.size e.data)) ∧
    (e.rel ≠ none ∨ u.mayPerform e = false ∨ u.teamPoison t.id e.space e.addr e.size = true → u.doStore t e = u.entersPath e) := by
  have enters := State.insertEntry_of_last (.inl hk) h
  have stores : u.doStore t e = if e.rel.isNone && u.mayPerform e && !u.teamPoison t.id e.space e.addr e.size
      then u.writeTeam t.id e.space e.addr (bytesOfNat e.size e.data) else u.entersPath e := by
    unfold State.doStore
    dsimp only
    rw [if_neg hs, State.loadFirst_of_none hl, enters]
  refine ⟨fun hr hm hp => ?_, fun held => ?_⟩
  · rw [stores, hr, hm, hp]
    rfl
  · rw [stores, if_neg]
    simp only [Bool.and_eq_true, Bool.not_eq_true', Option.isNone_iff_eq_none]
    rintro ⟨⟨hr, hm⟩, hp⟩
    rcases held with held | held | held
    · exact held hr
    · exact Bool.false_ne_true (held.symm.trans hm)
    · exact Bool.false_ne_true (hp.symm.trans held)
end

/-- R162, R164, R165, R170, R171, R181, R183, R185, R188. -/
theorem accessesActOnTheirPath : Claims.accessesActOnTheirPath := by
  intro u t mw pas
  refine ⟨fun acq ha hd => ?ld, fun rel ha => ?st, fun hp hs => ?atom, fun k x hx => ?entries, fun e => ⟨fun hl => ?none, fun r y hr hy hw => ?one, fun hk h => ?last, fun hk he hl h => ⟨fun hs => ?global, fun hs => ?team⟩⟩⟩
  case ld => exact State.perform_ld ha hd pas
  case st => exact State.perform_st ha pas
  case atom =>
    intro v far
    have places := State.perform_atom (u := u) (t := t) hp hs pas
    have parks := State.parkAtom_eq v t mw pas
    exact ⟨fun h => places.trans (parks.1 h), fun h => places.trans (parks.2 h)⟩
  case entries =>
    intro names
    refine ⟨fun h => ⟨_, MemWord.entries_getElem? h hx, namesAccess_entryOf _ _ _ _ _⟩, fun hs hst j hj => ⟨_, MemWord.entries_quarter hs hst hx hj, ?_⟩⟩
    exact namesAccess_entryOf _ _ _ _ _
  case none => exact State.loadFirst_of_none hl
  case one => exact State.loadFirst_of_one hr hy hw
  case last => exact State.insertEntry_of_last hk h
  case global => exact State.doStore_global hk hs he hl h
  case team => exact State.doStore_team hk hs hl fun y hy => h y (List.mem_append_left _ hy)

/-- Settles O9: a word that passes starts on its form's accesses, and each act is told by what it makes of the loads under way, the store path,
the L1 and the team's bytes. -/
theorem memoryWords : Obligations.memoryWords := ⟨addressesFollowR158, memoryWordsAct, accessesActOnTheirPath⟩

end Sys2Proof.Machine
end

section
/-! SUPPORT. CTM accesses, fences, prefetches, probes and stream descriptors (O10). -/
namespace Sys2Proof.Machine

section
variable {s u : State} {op : Op} {w : Full} {c : Cur} {i : Iss} {core : Core}

/-! Accesses to another team (R159, R166). -/

theorem ty_bits_le (t : Ty) : t.bits ≤ 64 := by cases t <;> decide

/-- Only the .x4 form accesses 16 bytes (R160). -/
theorem accSize_eq_16_iff (t : Ty) (x4 : Bool) : accSize t x4 = 16 ↔ x4 = true := by
  have := ty_bits_le t
  cases x4
  · simp [accSize]
    omega
  · simp [accSize]

/-- The lanes of a ctm word that access, and what each of them accesses, to which core. -/
def ctmLanes (i : Iss) (load : Bool) : List Nat := if load then accLanes i else i.lanes
def ctmAcc (i : Iss) (load x4 : Bool) (l : Nat) : Acc × Nat :=
  ({ lane := l, addr := addrOf i l (accSize i.w.ty x4) 0, size := accSize i.w.ty x4, data := if load then 0 else storeData i l x4 (accSize i.w.ty x4) },
   (i.rd32 l i.w.c).toNat % 256)

/-- The accesses of a ctm word pass their checks at issue: a core of the cluster, its window, alignment; and no hold stands. -/
structure CtmPasses (u : State) (i : Iss) (load x4 : Bool) : Prop where
  lanes : ctmLanes i load ≠ []
  order : u.orderHold i.g (!load) = false
  slots : u.noSlots i.t.coord ((ctmLanes i load).map fun l => ((ctmOf u i l).1 + 1, addrOf i l (accSize i.w.ty x4) 0)) = false
  sound : ∀ l ∈ ctmLanes i load, i.t.hasCore (ctmOf u i l).1 = true ∧ chkTeam i.t (addrOf i l (accSize i.w.ty x4) 0) (accSize i.w.ty x4) load = none ∧
    addrOf i l (accSize i.w.ty x4) 0 % accSize i.w.ty x4 = 0

/-- A load of the ctm space leaves, with the generation of its target. -/
def State.leaveCtm (x : State) (i : Iss) (b : Starter) (dst : MDst) (a : Acc) (k : Nat × Nat) : State :=
  State.after ({ x with
    loads := x.loads ++ [{ id := x.nextId, coord := i.t.coord, byw := b, space := 4, dst := dst, accs := [a], acq := none, remote := false, ctm := some k }]
    nextId := x.nextId + 1 } : State) (Config.meshCc (Config.meshWay i.t.coord k.1 + 1)) (.ctmArrival x.nextId)
/-- The store that a lane's ctm store is kept as: one of team memory, for another core. -/
def ctmWord (u : State) (i : Iss) : MemWord :=
  { act := .st none, byw := u.starter i.g (maskOf i.lanes) i.cur.pc, exec := i.cur.exec, space := 1, dst := .none, accs := [], saved := [], savedS := [],
    walking := false, t0 := u.clock }
/-- A store of the ctm space enters the path, bound for its target. -/
def State.pushCtm (x : State) (i : Iss) (e : PathEntry) (k : Nat × Nat) : State := x.pushEntry { e with kind := .ctm, ty := i.w.ty, ctm := some k }

/-- What a ctm word does whose accesses pass. -/
theorem ctmBody_of_pass {load x4 : Bool} (h : CtmPasses u i load x4) :
    ctmBody load x4 i u = .ok (
      if load then
        (ctmLanes i load).foldl (fun x l => x.leaveCtm i (u.starter i.g (maskOf i.lanes) i.cur.pc) (loadDst i x4) (ctmAcc i true x4 l).1 (ctmOf u i l))
          (u.modGroup i.g fun y => { y with regs := (ctmLanes i load).foldl (fun r l => r.markDst RegSt.emptied l (loadDst i x4)) y.regs })
      else
        (ctmLanes i load).foldl (fun x l =>
          ((ctmWord u i).entries i.t.coord
            [((ctmAcc i false x4 l).1, (ctmAcc i false x4 l).1.addr)]).foldl (fun x e => x.pushCtm i e (ctmOf u i l)) x) u) := by
  obtain ⟨lanes, order, slots, sound⟩ := h
  unfold ctmBody
  extract_lets size ls accs s1 s2 bad b dst gen
  have accs_eq : accs = (ctmLanes i load).map (ctmAcc i load x4) := rfl
  have inside : s1 = [] := by
    unfold s1
    rw [List.filterMap_eq_nil_iff, accs_eq]
    intro x hx
    obtain ⟨l, hl, rfl⟩ := List.mem_map.1 hx
    obtain ⟨hcore, hteam, -⟩ := sound l hl
    have here : i.t.hasCore (ctmAcc i load x4 l).2 = true := hcore
    have window : chkTeam i.t (ctmAcc i load x4 l).1.addr size load = none := hteam
    simp only [here, window, Bool.not_true, Bool.false_eq_true, if_false, Option.map_none]
  have aligned : s2 = [] := by
    unfold s2
    rw [List.map_eq_nil_iff, List.filter_eq_nil_iff, accs_eq]
    intro x hx
    obtain ⟨l, hl, rfl⟩ := List.mem_map.1 hx
    have zero : (ctmAcc i load x4 l).1.addr % size = 0 := (sound l hl).2.2
    simp [zero]
  have sound_ : bad = [] := by
    unfold bad
    rw [inside, aligned]
    rfl
  have some_ : ls.isEmpty = false := List.isEmpty_eq_false_iff.2 lanes
  have free : u.noSlots i.t.coord (accs.map fun x => (x.2 + 1, x.1.addr)) = false := by
    rw [accs_eq, List.map_map]
    exact slots
  simp only [some_, order, free, sound_, Bool.or_self, Bool.false_eq_true, if_false, List.isEmpty_nil, Bool.not_true]
  rw [accs_eq, List.foldl_map, List.foldl_map]
  cases load <;> rfl

/-- An entry takes its number where it is pushed. -/
theorem foldl_pushCtm_numbered (i : Iss) (k : Nat × Nat) (l : List PathEntry) (n : Nat) (x : State) :
    (l.mapIdx fun j e => ({ e with id := n + j } : PathEntry)).foldl (fun x e => x.pushCtm i e k) x = l.foldl (fun x e => x.pushCtm i e k) x := by
  induction l generalizing n x with
  | nil => rfl
  | cons e l ih =>
    rw [List.mapIdx_cons, List.foldl_cons, List.foldl_cons, ← ih (n + 1)]
    refine congrArg (fun f => List.foldl _ _ (List.mapIdx f l)) ?_
    funext j y
    rw [Nat.add_right_comm, Nat.add_assoc]

/-- The entries of a lane's ctm store are its stores, of 16 bytes in four (R188). -/
theorem foldl_pushCtm (u x : State) (i : Iss) (x4 : Bool) (l : Nat) (k : Nat × Nat) :
    ((ctmWord u i).entries i.t.coord [((ctmAcc i false x4 l).1, (ctmAcc i false x4 l).1.addr)]).foldl (fun x e => x.pushCtm i e k) x =
      (ctmStores i l (addrOf i l (accSize i.w.ty x4) 0) (accSize i.w.ty x4)).foldl (fun (x : State) a =>
        x.pushEntry { id := 0, coord := i.t.coord, byw := u.starter i.g (maskOf i.lanes) i.cur.pc, lane := l, kind := .ctm, space := 1, addr := a.addr,
                      pa := a.addr, size := a.size, data := a.data, cmp := 0, op := 0, ty := i.w.ty, reg := 0, rel := none, ctm := some k }) x := by
  rw [MemWord.entries, foldl_pushCtm_numbered, List.flatMap_singleton]
  have sixteen : decide (accSize i.w.ty x4 = 16) = x4 := Bool.eq_iff_iff.2 (decide_eq_true_iff.trans (accSize_eq_16_iff _ _))
  have split_ : ((ctmWord u i).act.isSt && decide ((ctmAcc i false x4 l).1.size = 16)) = x4 := sixteen
  rw [split_, ctmStores, sixteen]
  by_cases hx : accSize i.w.ty x4 = 16
  · rw [if_pos hx, if_pos ((accSize_eq_16_iff _ _).1 hx), List.foldl_map, List.foldl_map]
    rfl
  · rw [if_neg hx, if_neg (mt (accSize_eq_16_iff _ _).2 hx)]
    rfl

end

/-- R159, R166. -/
theorem ctmWordsLeaveForTheirTarget : Claims.ctmWordsLeaveForTheirTarget := by
  intro op hop s w c i core h hw hs u load ls x4 size hl ho hn hsound
  obtain rfl := h.w_eq
  have stores : (!decide (op = .ld)) = decide (op = .st) := by
    simp only [List.mem_cons, List.not_mem_nil, or_false] at hop
    rcases hop with rfl | rfl <;> rfl
  have pass (y : Bool) (hy : y = decide (op = .ld)) (hls : ctmLanes i y = ls) : CtmPasses u i y x4 := by
    subst hy
    exact ⟨hls ▸ hl, stores ▸ h.g ▸ ho, hls ▸ hn, hls ▸ hsound⟩
  refine ⟨fun hop => ?ld, fun hop => ?st⟩
  case ld =>
    subst hop
    have lanes : ctmLanes i true = ls := by
      unfold ls ctmLanes accLanes
      simp [load]
    have leaves := ctmBody_of_pass (pass true rfl lanes)
    refine execFull_ok h hw (body := bodyLd) ((if_pos hs).trans (leaves.trans ?_)) (f := fun _ => _)
    rw [lanes, h.g, h.pc]
    rfl
  case st =>
    subst hop
    have lanes : ctmLanes i false = ls := by
      unfold ls
      simp [load, ctmLanes]
    have enters := ctmBody_of_pass (pass false rfl lanes)
    refine execFull_ok h hw (body := bodySt) ((if_pos hs).trans (enters.trans ?_)) (f := fun _ => _)
    simp only [foldl_pushCtm]
    rw [lanes, h.g, h.pc]
    rfl

/-! FENCE, PREF and PROBE (R169, R172, R173). -/

section
variable {u : State} {i : Iss}

theorem bodyFence_of_pass (hl : i.lanes ≠ []) (ho : u.orderHold i.g true = false) :
    let sc := i.w.sub.toNat / 3 + 1
    let rel := i.w.sub.toNat % 3 ≠ 0
    let acq := i.w.sub.toNat % 3 ≠ 1
    let v := if rel then u.pushEntry { id := 0, coord := i.t.coord, byw := u.starter i.g (maskOf i.lanes) i.cur.pc, lane := 0, kind := .fence, space := 0, addr := 0,
                                       pa := 0, size := 0, data := 0, cmp := 0, op := 0, ty := .i32, reg := 0, rel := some sc } else u
    bodyFence i u = .ok (if acq then (v.modGroup i.g fun y => { y with fenceAcq := some (max sc (y.fenceAcq.getD 0)) }).endFence i.g else v) := by
  intro sc rel acq v
  unfold bodyFence
  dsimp only
  rw [if_neg (mt List.isEmpty_iff.1 hl), ho, if_neg Bool.false_ne_true]
  have released : (if i.w.sub.toNat % 3 = 0 then u else u.pushEntry { id := 0, coord := i.t.coord, byw := u.starter i.g (maskOf i.lanes) i.cur.pc, lane := 0, kind := .fence, space := 0, addr := 0, pa := 0, size := 0, data := 0, cmp := 0, op := 0, ty := .i32, reg := 0, rel := some sc }) = v :=
    (ite_not _ _ _).symm
  rw [released]
  exact congrArg Body.ok (ite_not _ _ _).symm

/-- What PREF makes of one lane's address, with the lines that it has asked for: nothing where it could fault or has no request slot. -/
def prefLane (u : State) (i : Iss) (y : List Nat × State) (l : Nat) : List Nat × State :=
  let a := addrOf i l 1 i.disp
  let asked := if a / 128 ∈ y.1 then y.1 else y.1 ++ [a / 128]
  match y.2.walkTeam i.t a false with
  | .ok x =>
    if canonical a ∧ ¬ y.2.locked i.t.coord i.t 0 a 1 true ∧ u.slotsUsed i.t.coord + asked.length ≤ 2048 ∧ pteRd x.leaf then
      (asked, if i.w.sub = 0 ∧ l1Line (y.2.core i.t.coord) (x.pa / 128) = none then y.2.fillL1 i.t.coord (x.pa / 128) else y.2)
    else y
  | _ => y

theorem bodyPref_of_pass (ho : i.lanes = [] ∨ u.orderHold i.g true = false) : bodyPref i u = .ok (i.lanes.foldl (prefLane u i) ([], u)).2 := by
  have free : (!i.lanes.isEmpty && u.orderHold i.g true) = false := by
    rcases ho with hl | ho
    · simp [hl]
    · simp [ho]
  unfold bodyPref
  dsimp only
  rw [free, if_neg Bool.false_ne_true]
  refine congrArg (fun f => Body.ok (List.foldl f ([], u) i.lanes).2) ?_
  funext y l
  unfold prefLane
  dsimp only
  generalize addrOf i l 1 i.disp = a
  have asked : (if y.1.contains (a / 128) then y.1 else y.1 ++ [a / 128]) = if a / 128 ∈ y.1 then y.1 else y.1 ++ [a / 128] :=
    if_congr List.contains_iff_mem rfl rfl
  rw [asked]
  have some_ : 0 < (if a / 128 ∈ y.1 then y.1 else y.1 ++ [a / 128]).length := by
    split
    · next hm => exact List.length_pos_of_mem hm
    · simp
  generalize (if a / 128 ∈ y.1 then y.1 else y.1 ++ [a / 128]) = new at some_
  have room : 2048 - u.slotsUsed i.t.coord < new.length ↔ ¬ u.slotsUsed i.t.coord + new.length ≤ 2048 := by omega
  cases y.2.walkTeam i.t a false with
  | missing => simp
  | bad => simp
  | ok x =>
    by_cases drop : (!canonical a || y.2.locked i.t.coord i.t 0 a 1 true || decide (2048 - u.slotsUsed i.t.coord < new.length)) = true
    · refine (if_pos drop).trans (if_neg ?_).symm
      rintro ⟨hc, hk, hr, -⟩
      simp [hc, hk, hr, room] at drop
    · obtain ⟨⟨hc, hk⟩, hr⟩ : (canonical a = true ∧ y.2.locked i.t.coord i.t 0 a 1 true = false) ∧ u.slotsUsed i.t.coord + new.length ≤ 2048 := by
        simpa [room] using drop
      refine (if_neg drop).trans ?_
      cases hp : pteRd x.leaf <;> simp [hc, hk, hr, hp]

/-- Record slots read as present; an orphaned line comes before an absent one (R173). -/
theorem probeState_eq (t : Team) (space a : Nat) : probeState t space a =
    if space = 1 ∧ 0x7E800 ≤ a then 0 else if a / 128 ∈ (t.buf space).orphan then 2 else if a / 128 ∈ (t.buf space).absent then 1 else 0 := by
  simp [probeState]

/-- PROBE lands the states of its lanes, or in a mask which of them read as present. -/
def probeLands (d : Opnd) (lanes : List Nat) (st : Nat → Nat) : List (LDst × W64) :=
  match d with
  | .k _ => dstK d (lanes.map fun l => (l, st l = 0))
  | d => lanes.flatMap fun l => dstV d l false (BitVec.ofNat 64 (st l))

theorem bodyProbe_of_pass (hl : i.lanes ≠ []) (ho : u.orderHold i.g true = false)
    (hs : ∀ l ∈ i.lanes, chkSpace i.t i.w.sub.toNat (addrOf i l 1 i.disp) 1 true = none) :
    bodyProbe i u = .ok (u.land i.g 4 (probeLands i.w.d i.lanes fun l => probeState i.t i.w.sub.toNat (addrOf i l 1 i.disp))) := by
  unfold bodyProbe
  extract_lets sp accs bad r
  have sound : bad = [] := by
    unfold bad
    rw [List.filterMap_eq_nil_iff]
    intro x hx
    obtain ⟨l, hl, rfl⟩ := List.mem_map.1 hx
    exact congrArg (Option.map _) (hs l hl)
  have some_ : r.isEmpty = false := by
    unfold r accs
    simp [hl]
  rw [sound, some_, ho, Bool.and_false]
  simp only [Bool.false_eq_true, if_false, List.isEmpty_nil, Bool.not_true]
  unfold r accs sp probeLands
  cases i.w.d <;> simp [List.map_map, Function.comp_def, List.flatMap_map]
end

/-- R164, R168, R169, R172, R173. -/
theorem fencePrefetchProbe : Claims.fencePrefetchProbe := by
  intro s w c i core
  refine ⟨fun h hw hl ho => ?fence, fun h hw ho => ?pref, fun h hw hl ho => ?probe⟩
  case fence =>
    obtain rfl := h.w_eq
    refine execFull_ok h hw (body := bodyFence) ((bodyFence_of_pass hl (h.g ▸ ho)).trans ?_) (f := fun _ => _)
    rw [h.g, h.pc]
  case pref =>
    obtain rfl := h.w_eq
    exact execFull_ok h hw (body := bodyPref) (bodyPref_of_pass (h.g ▸ ho)) (f := fun _ => _)
  case probe =>
    intro sp a hs st
    obtain rfl := h.w_eq
    refine execFull_ok h hw (body := bodyProbe) ((bodyProbe_of_pass hl (h.g ▸ ho) hs).trans ?_) (f := fun _ => _)
    have states : (fun l => probeState i.t i.w.sub.toNat (addrOf i l 1 i.disp)) = st := funext fun l => probeState_eq _ _ _
    rw [states, h.g]
    rfl

/-! Streams (R175, R176). -/

section
variable {u : State} {i : Iss} {out : Bool}

/-- The stream that LDSTRM or STSTRM describes. -/
def streamOf (u : State) (i : Iss) (out : Bool) : StreamDesc :=
  { id := u.nextId, byw := u.starter i.g (maskOf i.lanes) i.cur.pc, out := out, ty := i.w.ty, team := decide (i.w.sub.toNat / 4 % 2 = 1),
    base := (i.rdOnce i.w.a).toNat, count := (i.rdOnce i.w.b).toNat, stride := (i.rdOnce i.w.c).toInt, ctr := (i.rdOnce i.w.d).toNat
    first := (u.path.filter fun e => e.byw.g = i.g).map fun e => e.id }
/-- The streams of its queue before it. -/
def streamsBefore (u : State) (i : Iss) (out : Bool) : List StreamDesc :=
  ((if out then (u.core i.t.coord).qo else (u.core i.t.coord).qi).getD (i.w.sub.toNat % 4) {}).descs
/-- It enters its queue, and the engine is asked when no other was pending. -/
def State.queueStream (u : State) (i : Iss) (out : Bool) : State :=
  let q := i.w.sub.toNat % 4
  let add (l : List StreamQ) : List StreamQ := modNth l q fun y => { y with descs := y.descs ++ [streamOf u i out] }
  let v := { (u.modCore i.t.coord fun k => if out then { k with qo := add k.qo } else { k with qi := add k.qi }) with nextId := u.nextId + 1 }
  if streamsBefore u i out = [] then v.after 1 (if out then .streamStoreElement i.t.coord q else .streamLoadElement i.t.coord q) else v

/-- Its first and last element, its counter and its base pass their checks. -/
structure StreamPasses (i : Iss) (out : Bool) : Prop where
  count : (i.rdOnce i.w.b).toNat < 2 ^ 32
  ends : (i.rdOnce i.w.b).toNat ≠ 0 →
    chkSpace i.t (if i.w.sub.toNat / 4 % 2 = 1 then 1 else 0) (i.rdOnce i.w.a).toNat (i.w.ty.bits / 8) (!out) = none ∧
    chkSpace i.t (if i.w.sub.toNat / 4 % 2 = 1 then 1 else 0)
      ((((i.rdOnce i.w.a).toNat : Int) + ((i.rdOnce i.w.b).toNat - 1 : Nat) * (i.rdOnce i.w.c).toInt * (i.w.ty.bits / 8 : Nat)) % 2 ^ 64).toNat
      (i.w.ty.bits / 8) (!out) = none
  ctr : (i.rdOnce i.w.d).toNat = 0 ∨ canonical (i.rdOnce i.w.d).toNat = true
  base : (i.rdOnce i.w.a).toNat % (i.w.ty.bits / 8) = 0
  aligned : (i.rdOnce i.w.d).toNat % 8 = 0

theorem bodyStream_of_pass (hl : i.lanes ≠ []) (ho : u.orderHold i.g false = false) (hp : StreamPasses i out)
    (hq : (streamsBefore u i out).length < 4) : bodyStream out i u = .ok (u.queueStream i out) := by
  obtain ⟨small, ends, ctr_, based, aligned⟩ := hp
  unfold bodyStream
  extract_lets q team sp size base count stride ctr last chk bad k qs d entered numbered
  have first : (if count = 0 then none else chk base) = none := by
    split
    · rfl
    · next hc => exact congrArg (Option.map _) (ends hc).1
  have last_ : (if count = 0 then none else chk last.toNat) = none := by
    split
    · rfl
    · next hc => exact congrArg (Option.map _) (ends hc).2
  have counter : (decide (ctr ≠ 0) && !canonical ctr) = false := by
    rcases ctr_ with h | h
    · simp [ctr, h]
    · simp [ctr, h]
  have sound : bad = none := by
    unfold bad
    rw [if_neg (Nat.not_le.2 small), first, last_]
    dsimp only
    rw [counter, if_neg Bool.false_ne_true, if_neg (not_not.2 based), if_neg (not_not.2 aligned)]
  have room : ¬ 4 ≤ (qs.getD q {}).descs.length := Nat.not_le.2 hq
  have desc : d = streamOf u i out := by
    unfold d streamOf
    simp only [beq_eq_decide]
    rfl
  clear_value d
  subst desc
  rw [if_neg (mt List.isEmpty_iff.1 hl), ho, if_neg Bool.false_ne_true, sound]
  refine (if_neg room).trans (congrArg Body.ok ?_)
  cases before : streamsBefore u i out with
  | nil =>
    have asked : (qs.getD q {}).descs = [] := before
    rw [asked, State.queueStream, before]
    rfl
  | cons x l =>
    have asked : (qs.getD q {}).descs = x :: l := before
    rw [asked, State.queueStream, before]
    rfl
end

/-- R175, R176. -/
theorem streamWordsQueueTheirDescriptor : Claims.streamWordsQueueTheirDescriptor := by
  intro op hop s w c i core h hw u out q team sp size base count stride ctr last k qs hl ho small ends hc hb ha hq
  obtain rfl := h.w_eq
  have space : sp = if i.w.sub.toNat / 4 % 2 = 1 then 1 else 0 := if_congr decide_eq_true_iff rfl rfl
  have pass : StreamPasses i out := ⟨small, space ▸ ends, hc, hb, ha⟩
  have queues := bodyStream_of_pass hl (h.g ▸ ho) pass hq
  have word : exec (.ofFull op i.w) s = execFull op (issueKind op i.w) (bodyStream out) i.w s := by
    simp only [List.mem_cons, List.not_mem_nil, or_false] at hop
    rcases hop with rfl | rfl <;> rfl
  rw [word]
  refine execFull_ok h hw (queues.trans ?_) (f := fun _ => _)
  unfold State.queueStream streamOf
  rw [h.g, h.pc]
  rfl

/-- Settles O10: the body of each word, its checks passed, is what its rule says. -/
theorem ctmFenceProbeAndStreamWords : Obligations.ctmFenceProbeAndStreamWords :=
  ⟨ctmWordsLeaveForTheirTarget, fencePrefetchProbe, streamWordsQueueTheirDescriptor⟩

end Sys2Proof.Machine
end

section
/-! SUPPORT. What a step may change of memory and registers (O51). A lemma has its operation's name after `State.Within`, so the proof about
a composed update reads as the update does: `h.modGroup.issued.raise`. -/
namespace Sys2Proof.Machine
-- one proof at a time, as where memory's one form is shown: each of the many short proofs would otherwise wait with a thread of its own
set_option Elab.async false

/-- What may change: bytes of global memory; bytes of a team's space, by team, space code of 1 to 4 and address; and, but for a word at its
issue, the values in registers. -/
structure Changes where
  dram : Nat → Prop
  team : Nat → Nat → Nat → Prop
  issue : Prop

/-- The values in registers, by lane and number. -/
def Regs.values (r : Regs) (l n : Nat) : W32 × W64 × W64 × Triple := ((r.getV l n).val, (r.getS n).val, r.getK n, r.getM l n)
/-- A group but for its scheduling, its landings on their way and its registers' marks. -/
def Group.kept (y : Group) : Nat × (W64 × W64 × W64 × List TryEntry × Nat × Nat × Bool × Option (List Nat × Nat)) × (Nat → Nat → W32 × W64 × W64 × Triple) :=
  (y.slot, y.values, y.regs.values)
/-- What `Team.Within` speaks of. -/
def Team.kept (x : Team) : Nat × Option (Nat × Nat) × Sparse Rec × (Mem × Mem × Mem × Mem) × List Group :=
  (x.id, x.task, x.recs, (x.tm.mem, x.abuf.mem, x.wbuf.mem, x.cbuf.mem), x.groups)
/-- The space code of 1 to 4 under which a space code names a memory of a team. -/
def arrayOf (space : Nat) : Nat := if space = 1 ∨ space = 2 ∨ space = 3 then space else 4

structure Team.Within (C : Changes) (x y : Team) : Prop where
  id : y.id = x.id
  task : y.task = x.task
  recs : y.recs = x.recs
  bytes : ∀ sp ∈ [1, 2, 3, 4], ∀ a, ¬ C.team x.id sp a → (y.buf sp).mem.read1 a = (x.buf sp).mem.read1 a
  poison : ∀ sp ∈ [1, 2, 3, 4], (y.buf sp).mem.poison ⊆ (x.buf sp).mem.poison
  groups : C.issue → y.groups.map Group.kept = x.groups.map Group.kept

structure State.Within (C : Changes) (s t : State) : Prop where
  bytes : ∀ a, ¬ C.dram a → t.dram.read1 a = s.dram.read1 a
  poison : t.dram.poison ⊆ s.dram.poison
  dram : C.issue → t.dram = s.dram
  teams : List.Forall₂ (Team.Within C) s.teams t.teams

/-- A word's meaning changes no more: the state it answers, and what it does to any state when it is held. -/
def Body.Within (C : Changes) (s : State) : Body → Prop
  | .ok t => s.Within C t
  | .hold f => ∀ u : State, s.Within C u → s.Within C (f u)
  | _ => True

section
variable {C : Changes} {x y z : Team} {s t u : State} {α β : Type}

/-! Memory and arrays. -/

theorem Mem.poison_writeBytes (m : Mem) (a : Nat) (l : List Byte) : (m.writeBytes a l).poison ⊆ m.poison := by
  have put (m : Mem) (a : Nat) : (m.put a l).poison = m.poison := by
    induction l generalizing m a with
    | nil => rfl
    | cons b l ih => exact ih _ _
  exact fun b hb => put m a ▸ List.mem_of_mem_filter hb

theorem Mem.poisoned_mono {m k : Mem} (h : k.poison ⊆ m.poison) {a n : Nat} (hm : m.poisoned a n = false) : k.poisoned a n = false :=
  List.any_eq_false.2 fun b hb => List.any_eq_false.1 hm b (h hb)

theorem arrayOf_mem (space : Nat) : arrayOf space ∈ [1, 2, 3, 4] := by
  unfold arrayOf
  split
  · next h => rcases h with rfl | rfl | rfl <;> decide
  · decide

theorem Team.buf_arrayOf (x : Team) (space : Nat) : x.buf (arrayOf space) = x.buf space := by
  unfold arrayOf
  split
  · rfl
  · next h =>
    obtain ⟨h1, h2, h3⟩ : space ≠ 1 ∧ space ≠ 2 ∧ space ≠ 3 := by omega
    simp [Team.buf, h1, h2, h3]

theorem Team.buf_modBuf (x : Team) (space : Nat) (f : Buf → Buf) {sp : Nat} (hs : sp ∈ [1, 2, 3, 4]) :
    (x.modBuf space f).buf sp = if sp = arrayOf space then f (x.buf sp) else x.buf sp := by
  simp only [List.mem_cons, List.not_mem_nil, or_false] at hs
  unfold arrayOf Team.modBuf
  split
  · next h => rcases hs with rfl | rfl | rfl | rfl <;> simp [Team.buf, h]
  split
  · next h => rcases hs with rfl | rfl | rfl | rfl <;> simp [Team.buf, h]
  split
  · next h => rcases hs with rfl | rfl | rfl | rfl <;> simp [Team.buf, h]
  · next h1 h2 h3 => rcases hs with rfl | rfl | rfl | rfl <;> simp [Team.buf, h1, h2, h3]

theorem Team.modBuf_others (x : Team) (space : Nat) (f : Buf → Buf) :
    (x.modBuf space f).id = x.id ∧ (x.modBuf space f).task = x.task ∧ (x.modBuf space f).recs = x.recs ∧ (x.modBuf space f).groups = x.groups := by
  unfold Team.modBuf
  split
  · exact ⟨rfl, rfl, rfl, rfl⟩
  split
  · exact ⟨rfl, rfl, rfl, rfl⟩
  split <;> exact ⟨rfl, rfl, rfl, rfl⟩

/-! Teams. -/

theorem Team.Within.of_kept (h : y.kept = x.kept) : x.Within C y := by
  simp only [Team.kept, Prod.mk.injEq] at h
  obtain ⟨hid, htask, hrecs, ⟨htm, ha, hw, hc⟩, hg⟩ := h
  have mem : ∀ sp ∈ [1, 2, 3, 4], (y.buf sp).mem = (x.buf sp).mem := by
    simp only [List.forall_mem_cons, List.not_mem_nil, false_implies, implies_true, and_true]
    exact ⟨htm, ha, hc, hw⟩
  exact ⟨hid, htask, hrecs, fun sp hs _ _ => by rw [mem sp hs], fun sp hs => mem sp hs ▸ fun _ hb => hb, fun _ => by rw [hg]⟩

theorem Team.Within.refl (x : Team) : x.Within C x := .of_kept rfl

theorem Team.Within.trans (h : x.Within C y) (k : y.Within C z) : x.Within C z where
  id := k.id.trans h.id
  task := k.task.trans h.task
  recs := k.recs.trans h.recs
  bytes sp hs a ha := (k.bytes sp hs a (by rwa [h.id])).trans (h.bytes sp hs a ha)
  poison sp hs _ hb := h.poison sp hs (k.poison sp hs hb)
  groups hi := (k.groups hi).trans (h.groups hi)

theorem Team.Within.ite {c : Prop} [Decidable c] (hy : x.Within C y) (hz : x.Within C z) : x.Within C (if c then y else z) := by
  split
  · exact hy
  · exact hz

theorem Team.Within.mapGroups {f : Group → Group} (hf : C.issue → ∀ y, (f y).kept = y.kept) : x.Within C { x with groups := x.groups.map f } :=
  ⟨rfl, rfl, rfl, fun _ _ _ _ => rfl, fun _ _ _ hb => hb, fun hi => by
    rw [List.map_map]
    exact List.map_congr_left fun y _ => hf hi y⟩

theorem Team.Within.modGroup {n : Nat} {f : Group → Group} (hf : C.issue → ∀ y, (f y).kept = y.kept) : x.Within C (x.modGroup n f) :=
  .mapGroups fun hi y => by
    split
    · exact hf hi y
    · rfl

theorem Team.Within.clearYield {q r : Nat} : x.Within C (x.clearYield q r) :=
  .mapGroups fun _ y => by split <;> rfl

/-- A write of bytes that may change. -/
theorem Team.Within.writeBuf {space a : Nat} {l : List Byte} (hC : ∀ k, a ≤ k → k < a + l.length → C.team x.id (arrayOf space) k) :
    x.Within C (x.modBuf space fun b => { b with mem := b.mem.writeBytes a l }) := by
  obtain ⟨hid, htask, hrecs, hg⟩ := x.modBuf_others space fun b => { b with mem := b.mem.writeBytes a l }
  refine ⟨hid, htask, hrecs, fun sp hs k hk => ?_, fun sp hs => ?_, fun _ => by rw [hg]⟩ <;> rw [Team.buf_modBuf x space _ hs] <;> split
  · next h =>
    refine Mem.read1_writeBytes_ne _ _ _ _ ?_
    by_contra hin
    exact hk (h ▸ hC k (by omega) (by omega))
  · rfl
  · exact Mem.poison_writeBytes _ _ _
  · exact fun _ hb => hb

/-! How states are put together. -/

theorem State.Within.refl (s : State) : s.Within C s :=
  ⟨fun _ _ => rfl, fun _ hb => hb, fun _ => rfl, List.forall₂_same.2 fun x _ => .refl x⟩

theorem State.Within.trans (h : s.Within C t) (k : t.Within C u) : s.Within C u where
  bytes a ha := (k.bytes a ha).trans (h.bytes a ha)
  poison _ hb := h.poison (k.poison hb)
  dram hi := (k.dram hi).trans (h.dram hi)
  teams := by
    have trans {l m n : List Team} (hlm : List.Forall₂ (Team.Within C) l m) (hmn : List.Forall₂ (Team.Within C) m n) : List.Forall₂ (Team.Within C) l n := by
      induction hlm generalizing n with
      | nil => exact hmn
      | cons hx _ ih =>
        cases hmn with
        | cons hy hmn => exact .cons (hx.trans hy) (ih hmn)
    exact trans h.teams k.teams

theorem State.Within.set (h : s.Within C t) (hd : u.dram = t.dram := by rfl) (ht : u.teams = t.teams := by rfl) : s.Within C u := by
  obtain ⟨bytes, poison, dram, teams⟩ := h
  exact ⟨fun a ha => by rw [hd, bytes a ha], hd ▸ poison, fun hi => hd.trans (dram hi), ht ▸ teams⟩

theorem State.Within.ite {c : Prop} [Decidable c] (ht : s.Within C t) (hu : s.Within C u) : s.Within C (if c then t else u) := by
  split
  · exact ht
  · exact hu

theorem State.Within.foldlMem {f : State → α → State} {l : List α} (h : s.Within C t) (hf : ∀ u, ∀ x ∈ l, s.Within C u → s.Within C (f u x)) :
    s.Within C (l.foldl f t) := by
  induction l generalizing t with
  | nil => exact h
  | cons x l ih => exact ih (hf t x List.mem_cons_self h) fun u y hy => hf u y (List.mem_cons_of_mem x hy)

theorem State.Within.foldl {f : State → α → State} {l : List α} (h : s.Within C t) (hf : ∀ u x, s.Within C u → s.Within C (f u x)) :
    s.Within C (l.foldl f t) := h.foldlMem fun u x _ hu => hf u x hu

theorem State.Within.mapTeams {f : Team → Team} (h : s.Within C t) (hf : ∀ x : Team, x.Within C (f x) := by exact fun _ => .of_kept rfl) :
    s.Within C { t with teams := t.teams.map f } :=
  ⟨h.bytes, h.poison, h.dram, List.forall₂_map_right_iff.2 (h.teams.imp fun _ y hy => hy.trans (hf y))⟩

theorem State.Within.modTeam {n : Nat} {f : Team → Team} (h : s.Within C t)
    (hf : ∀ x : Team, x.id = n → x.Within C (f x) := by exact fun _ _ => .of_kept rfl) : s.Within C (t.modTeam n f) :=
  h.mapTeams fun x => by
    split
    · next hx => exact hf x hx
    · exact .refl x

theorem State.Within.modGroup {g : GRef} {f : Group → Group} (h : s.Within C t)
    (hf : C.issue → ∀ y, (f y).kept = y.kept := by exact fun _ _ => rfl) : s.Within C (t.modGroup g f) :=
  h.modTeam fun _ _ => .modGroup hf

theorem State.Within.writeDram {a : Nat} {l : List Byte} (h : s.Within C t) (hi : ¬ C.issue) (hC : ∀ k, a ≤ k → k < a + l.length → C.dram k) :
    s.Within C { t with dram := t.dram.writeBytes a l } where
  bytes k hk := by
    refine (Mem.read1_writeBytes_ne _ _ _ _ ?_).trans (h.bytes k hk)
    by_contra hin
    exact hk (hC k (by omega) (by omega))
  poison _ hb := h.poison (Mem.poison_writeBytes _ _ _ hb)
  dram hi' := absurd hi' hi
  teams := h.teams

theorem Body.Within.ite {c : Prop} [Decidable c] {a b : Body} (ha : a.Within C s) (hb : b.Within C s) : (if c then a else b).Within C s := by
  split
  · exact ha
  · exact hb

/-! What the parts of a state become. -/

theorem State.Within.team? (h : s.Within C t) (n : Nat) : Option.Rel (Team.Within C) (s.team? n) (t.team? n) := by
  have find {l m : List Team} (hlm : List.Forall₂ (Team.Within C) l m) :
      Option.Rel (Team.Within C) (l.find? fun x => x.id == n) (m.find? fun x => x.id == n) := by
    induction hlm with
    | nil => exact .none
    | @cons x y l m hxy _ ih =>
      simp only [List.find?_cons, hxy.id]
      split
      · exact .some hxy
      · exact ih
  exact find h.teams

theorem Team.group?_kept (x : Team) (n : Nat) : (x.group? n).map Group.kept = (x.groups.map Group.kept).find? fun k => k.1 == n := by
  rw [List.find?_map]
  rfl

theorem State.Within.group? (h : s.Within C t) (hi : C.issue) (g : GRef) : (t.group? g).map Group.kept = (s.group? g).map Group.kept := by
  unfold State.group?
  have ht := h.team? g.team
  generalize s.team? g.team = x at ht ⊢
  generalize t.team? g.team = y at ht ⊢
  cases ht with
  | some hxy => exact (Team.group?_kept _ _).trans ((congrArg _ (hxy.groups hi)).trans (Team.group?_kept _ _).symm)
  | none => rfl

/-- What a group holds is as before. -/
theorem State.Within.group?_map {γ : Type} (h : s.Within C t) (hi : C.issue) (g : GRef) {f : Group → γ} {e} (hf : f = e ∘ Group.kept) :
    (t.group? g).map f = (s.group? g).map f := by
  rw [hf, ← Option.map_map, ← Option.map_map, h.group? hi g]

theorem State.Within.recs (h : s.Within C t) : t.teams.map (fun x => x.recs) = s.teams.map fun x => x.recs := by
  have all {l m : List Team} (hlm : List.Forall₂ (Team.Within C) l m) : m.map (fun x => x.recs) = l.map fun x => x.recs := by
    induction hlm with
    | nil => rfl
    | cons hxy _ ih => rw [List.map_cons, List.map_cons, hxy.recs, ih]
  exact all h.teams

/-- Every team stands in the next state, with the bytes that may not change. -/
theorem State.Within.mem (h : s.Within C t) (hx : x ∈ s.teams) : ∃ y ∈ t.teams, x.Within C y := by
  obtain ⟨i, hi, rfl⟩ := List.mem_iff_getElem.1 hx
  obtain ⟨hl, hget⟩ := List.forall₂_iff_get.1 h.teams
  exact ⟨t.teams[i], List.getElem_mem _, hget i hi (hl ▸ hi)⟩

end
end Sys2Proof.Machine
end

section
/-! SUPPORT. What the shared operations change (O51): scheduling, exceptions, waits and messages change no register's value and no memory. -/
namespace Sys2Proof.Machine
set_option Elab.async false

section
variable {C : Changes} {s t : State}

/-! Time, cores and clusters. -/

theorem State.Within.modCore {c : Nat} {f : Core → Core} (h : s.Within C t) : s.Within C (t.modCore c f) := h.set
theorem State.Within.modCluster {l c : Nat} {f : Cluster → Cluster} (h : s.Within C t) : s.Within C (t.modCluster l c f) := h.set
theorem State.Within.sched {n : Nat} {i : Instr} (h : s.Within C t) : s.Within C (t.sched n i) := h.set
theorem State.Within.after {n : Nat} {i : Instr} (h : s.Within C t) : s.Within C (t.after n i) := h.set
theorem State.Within.again {i : Instr} (h : s.Within C t) : s.Within C (t.again i) := h.sched

/-! Taking an exception. -/

theorem State.Within.throwInto {r : RegionId} {x : Rec} {inst : Option Nat} (h : s.Within C t) : s.Within C (t.throwInto r x inst) := by
  unfold State.throwInto
  split
  · exact h.ite h.set
  · exact h.set

theorem State.Within.noteTask {x : Team} {r : RegionId} (h : s.Within C t) : s.Within C (t.noteTask x r) := by
  unfold State.noteTask
  split
  · exact h.set
  · exact h

theorem State.Within.stopThrower {g : GRef} {into : List RegionId} (h : s.Within C t) : s.Within C (t.stopThrower g into) := h.set

theorem State.Within.raiseAt {g : GRef} {cc : Nat} {l : List LaneThrow} (h : s.Within C t) : s.Within C (t.raiseAt g cc l) := by
  unfold State.raiseAt
  split
  · exact (h.foldl fun _ _ hu => hu.noteTask.throwInto).stopThrower
  · exact h

theorem State.Within.raise {g : GRef} {l : List LaneThrow} (h : s.Within C t) : s.Within C (t.raise g l) := h.raiseAt

theorem State.Within.raiseLive {g : GRef} {cc code : Nat} {x : W64} (h : s.Within C t) : s.Within C (t.raiseLive g cc code x) := by
  unfold State.raiseLive
  split
  · exact h.raiseAt
  · exact h

theorem State.Within.raiseWork {b : Starter} {cc code flags : Nat} {x : W64} (h : s.Within C t) : s.Within C (t.raiseWork b cc code x flags) := by
  unfold State.raiseWork
  split
  · exact (h.foldl fun _ _ hu => hu.noteTask.throwInto).stopThrower
  · exact h

theorem State.Within.payOwed {g : GRef} (h : s.Within C t) : s.Within C (t.payOwed g) := by
  unfold State.payOwed
  split
  · refine h.modGroup.foldl fun _ x hu => ?_
    split
    · exact hu.raiseWork
    · exact hu.raiseLive
  · exact h

theorem State.Within.raiseStarter {b : Starter} {code : Nat} {x : W64} (h : s.Within C t) : s.Within C (t.raiseStarter b code x) :=
  h.modGroup.ite h.raiseWork
theorem State.Within.raiseLane {b : Starter} {lane code x : Nat} (h : s.Within C t) : s.Within C (t.raiseLane b lane code x) := h.raiseStarter

/-! Waits (R39, R229). -/

theorem State.Within.ageOthers {coord quarter rank : Nat} {me : GRef} (h : s.Within C t) : s.Within C (t.ageOthers coord quarter rank me) :=
  h.foldl fun _ _ hu => hu.foldl fun _ _ hv => hv.modGroup.sched.ite hv.modGroup
theorem State.Within.wakeGroup {g : GRef} (h : s.Within C t) : s.Within C (t.wakeGroup g) := h.modGroup
theorem State.Within.park {g : GRef} {w : Wake} {b : Starter} (h : s.Within C t) : s.Within C (t.park g w b) := h.modGroup

theorem State.Within.acquire {g : GRef} {scope : Nat} (h : s.Within C t) : s.Within C (t.acquire g scope) := by
  unfold State.acquire
  split
  · exact h.modCore.ite h
  · exact h

theorem State.Within.evalCounters (h : s.Within C t) : s.Within C t.evalCounters := by
  refine h.foldl fun _ _ hu => hu.foldl fun _ _ hv => ?_
  split
  · split
    · exact hv.wakeGroup.acquire.ite hv
    · exact hv
  · exact hv

/-! Messages (R333, R334, R337). -/

theorem State.Within.notify {ctx code : Nat} {body : List Byte} (h : s.Within C t) : s.Within C (t.notify ctx code body) := by
  unfold State.notify State.notifyTo
  dsimp only
  split
  · exact h.set
  · exact h.set.ite h.set

theorem State.Within.localNotice {ctx : Nat} (h : s.Within C t) : s.Within C (t.localNotice ctx) := h.notify
theorem State.Within.eccNotice {pas : List Nat} (h : s.Within C t) : s.Within C (t.eccNotice pas) :=
  h.foldl fun _ _ hu => hu.foldl fun _ _ hv => hv.ite hv.notify

theorem State.Within.haltGroup {g : GRef} {reason tag : Nat} (h : s.Within C t) : s.Within C (t.haltGroup g reason tag) := by
  unfold State.haltGroup
  split
  · exact h.ite h.modGroup.notify
  · exact h

/-! What issuing leaves. -/

theorem Group.kept_tickDefer (y : Group) : y.tickDefer.kept = y.kept := by
  have pending : y.endDefer.kept = y.kept := by
    unfold Group.endDefer
    split <;> rfl
  exact pending
theorem Group.kept_leaveCatch (y : Group) (exec : W64) : (y.leaveCatch exec).kept = y.kept := rfl
theorem Group.kept_advance (y : Group) (exec : W64) (len : Nat) : (y.advance exec len).kept = y.kept := rfl
theorem Group.kept_joinHeld (y : Group) : y.joinHeld.kept = y.kept := rfl

theorem State.Within.entered {c : Cur} {i : Iss} {core : Core} (h : s.Within C t) : s.Within C (t.entered c i core) := by
  unfold State.entered
  refine h.modCore.ite (h.modCore.modGroup fun _ y => ?_)
  exact (Group.kept_joinHeld _).trans ((Group.kept_advance _ _ _).trans y.kept_tickDefer)

/-- No word is at issue any more; a quarter may be asked again. -/
theorem State.Within.noCur {l : List (Nat × Nat)} (h : s.Within C t) : s.Within C { t with cur := none, todo := l } := h.set

theorem State.Within.issued {g : GRef} {c : Cur} {width quarter role : Nat} {x yld : Bool} {gap coord : Nat} (h : s.Within C t) :
    s.Within C (t.issued g c width quarter role x yld gap coord) := by
  unfold State.issued
  extract_lets e aged busy cleared issued told
  have ha : s.Within C aged := h.ite h.ageOthers
  have hc : s.Within C cleared := State.Within.mapTeams (ha.modCore : s.Within C busy) fun x => Team.Within.clearYield.ite (.refl x)
  have hi : s.Within C issued := hc.modGroup
  have ht : s.Within C told := by
    unfold told
    split
    · exact hi.ite hi.haltGroup
    · exact hi
  exact ht.payOwed.set

theorem State.Within.issueThrows {c : Cur} {gr : Group} {coord gap : Nat} {x yld : Bool} {l : List LaneThrow} (h : s.Within C t) :
    s.Within C (t.issueThrows c gr coord x yld gap l) := by
  unfold State.issueThrows State.issueRaises
  exact State.Within.raise (State.Within.issued (h.modGroup fun _ y => (Group.kept_leaveCatch _ _).trans y.kept_tickDefer))

theorem State.Within.issueStalls {c : Cur} {coord q : Nat} (h : s.Within C t) : s.Within C (t.issueStalls c coord q) := by
  unfold State.issueStalls
  exact State.Within.noCur (State.Within.payOwed h.modGroup)

theorem State.Within.halfDone {c : Cur} {coord quarter : Nat} {latch : Regs} {held : List Landing} (h : s.Within C t) :
    s.Within C (t.halfDone c coord quarter latch held) := by
  unfold State.halfDone
  extract_lets aged busy
  have ha : s.Within C aged := by
    unfold aged
    split
    · exact h.ageOthers
    · exact h
  have hb : s.Within C busy := ha.modCore
  exact State.Within.noCur hb.modGroup

theorem State.Within.left {op : Op} {w : Full} {c : Cur} {i : Iss} (h : s.Within C t) : s.Within C (t.left op w c i) :=
  (h.modGroup.halfDone.ite h.halfDone).ite h.issued

/-- A word's meaning stalls. -/
theorem AtIssue.issueFull_stalls {op : Op} {w : Full} {c : Cur} {i : Iss} {core : Core} {body : Iss → State → Body} (h : AtIssue s op w c i core)
    (hw : ¬ onlyWaits op w c i) (hb : body i (s.entered c i core) = .stall) :
    issueFull op w (issueKind op w) body c s = s.issueStalls c i.t.coord i.gr.quarter := by
  unfold issueFull
  rw [h.team, h.group]
  simp only [h.checks]
  unfold onlyWaits firstHalf at hw
  rw [if_neg hw]
  unfold State.entered at hb
  dsimp only at hb
  rw [hb]
/-- A word's meaning holds it: it does so to the state before the word. -/
theorem AtIssue.issueFull_holds {op : Op} {w : Full} {c : Cur} {i : Iss} {core : Core} {body : Iss → State → Body} {f : State → State}
    (h : AtIssue s op w c i core) (hw : ¬ onlyWaits op w c i) (hb : body i (s.entered c i core) = .hold f) :
    issueFull op w (issueKind op w) body c s = { f s with cur := none } := by
  unfold issueFull
  rw [h.team, h.group]
  simp only [h.checks]
  unfold onlyWaits firstHalf at hw
  rw [if_neg hw]
  unfold State.entered at hb
  dsimp only at hb
  rw [hb]

/-- A word at issue changes no more than its meaning, which is asked in the state that it enters, and what issuing leaves. -/
theorem AtIssue.within {op : Op} {w : Full} {c : Cur} {i : Iss} {core : Core} {body : Iss → State → Body} (h : AtIssue s op w c i core)
    (hb : (body i (s.entered c i core)).Within C s) : s.Within C (issueFull op w (issueKind op w) body c s) := by
  have hs : s.Within C s := .refl s
  by_cases hw : onlyWaits op w c i
  · rw [issueFull_half h hw]
    exact hs.halfDone
  cases e : body i (s.entered c i core) with
  | ok u =>
    rw [e] at hb
    rw [issueFull_ok h hw e]
    exact State.Within.left hb
  | throws l =>
    rw [issueFull_throws h hw e]
    exact hs.issueThrows
  | stall =>
    rw [h.issueFull_stalls hw e]
    exact hs.issueStalls
  | hold f =>
    rw [e] at hb
    rw [h.issueFull_holds hw e]
    exact (hb s hs).set

end
end Sys2Proof.Machine
end

section
/-! SUPPORT. What ST, STREL, ATOM and RED change at their issue (O51). -/
namespace Sys2Proof.Machine
set_option Elab.async false

/-! A destination that is marked empty keeps its value (R93). -/

/-- An entry that is not the default is read whatever the list holds. -/
theorem spGet_spPut_of_ne {α : Type} [DecidableEq α] {d v : α} (l : Sparse α) (n : Nat) (hv : v ≠ d) : spGet d (spPut d l n v) n = v := by
  induction l with
  | nil => simp [spPut, spGet, hv]
  | cons x l ih =>
    obtain ⟨k, w⟩ := x
    unfold spPut
    split
    · simp [spGet]
    split
    · simp [spGet]
    · next hk => simp [spGet, Ne.symm hk, ih]

theorem Regs.values_markV (r : Regs) (lane n : Nat) : (r.markV RegSt.emptied lane n).values = r.values := by
  funext a b
  have val : ((r.markV RegSt.emptied lane n).getV a b).val = (r.getV a b).val := by
    unfold Regs.markV Regs.setV Regs.getV
    by_cases hk : a * 256 + b = lane * 256 + n
    · rw [hk, spGet_spPut_of_ne]
      exact fun hd => absurd (congrArg (fun x => x.st.full) hd) Bool.false_ne_true
    · rw [spGet_spPut_ne _ hk]
  exact congrArg (·, _) val

theorem Regs.values_markS (r : Regs) (n : Nat) : (r.markS RegSt.emptied n).values = r.values := by
  funext a b
  have val : ((r.markS RegSt.emptied n).getS b).val = (r.getS b).val := by
    unfold Regs.markS Regs.setS Regs.getS
    by_cases hk : b = n
    · rw [hk, spGet_spPut_of_ne]
      exact fun hd => absurd (congrArg (fun x => x.st.full) hd) Bool.false_ne_true
    · rw [spGet_spPut_ne _ hk]
  exact congrArg (_, ·, _) val

theorem Regs.values_foldl {α : Type} {f : Regs → α → Regs} (hf : ∀ r x, (f r x).values = r.values) (r : Regs) (l : List α) :
    (l.foldl f r).values = r.values := by
  induction l generalizing r with
  | nil => rfl
  | cons x l ih => exact (ih _).trans (hf r x)

theorem Regs.values_markDst (r : Regs) (lane : Nat) (d : MDst) : (r.markDst RegSt.emptied lane d).values = r.values := by
  unfold Regs.markDst
  split
  · exact r.values_markS _
  · exact Regs.values_foldl (fun r n => r.values_markV lane n) r _

theorem Group.kept_markDst (y : Group) (lanes : List Nat) (d : MDst) :
    Group.kept { y with regs := lanes.foldl (fun r l => r.markDst RegSt.emptied l d) y.regs } = y.kept :=
  congrArg (y.slot, y.values, ·) (Regs.values_foldl (fun r l => r.values_markDst l d) y.regs lanes)

section
variable {C : Changes} {s t u : State} {x : Team} {mw : MemWord} {i : Iss}

/-! The store path. -/

theorem State.Within.insertEntry {e : PathEntry} (h : s.Within C t) : s.Within C (t.insertEntry e) := by
  unfold State.insertEntry
  refine h.set.after.ite ?_
  split <;> exact h.set.after
theorem State.Within.pushEntry {e : PathEntry} (h : s.Within C t) : s.Within C (t.pushEntry e) := h.set.insertEntry

theorem State.Within.writeTeam {n space a : Nat} {b : List Byte} (h : s.Within C t)
    (hC : ∀ k, a ≤ k → k < a + b.length → C.team n (arrayOf space) k) : s.Within C (t.writeTeam n space a b) :=
  (h.modTeam fun _ hx => .writeBuf fun k hk hl => hx ▸ hC k hk hl).evalCounters

theorem State.Within.loadFirst {e : PathEntry} (h : s.Within C t) : s.Within C (t.loadFirst e) :=
  h.foldl fun _ _ hu => by
    split
    · exact hu.ite hu.set
    · exact hu

/-- A store writes at its issue only where its bytes may change. -/
theorem State.Within.doStore {e : PathEntry} (h : s.Within C t)
    (hC : e.space ≠ 0 → ∀ k, e.addr ≤ k → k < e.addr + e.size → C.team x.id (arrayOf e.space) k) : s.Within C (t.doStore x e) := by
  unfold State.doStore
  dsimp only
  split
  · exact h.loadFirst.insertEntry.modCore
  next hs =>
  refine State.Within.ite (h.loadFirst.writeTeam fun k hk hl => hC hs k hk ?_) h.loadFirst.insertEntry
  rwa [bytesOfNat_length] at hl

theorem State.Within.placeAtom {e : PathEntry} (h : s.Within C t) : s.Within C (t.placeAtom x e) :=
  (h.loadFirst.modCore.ite h.loadFirst).insertEntry

theorem State.Within.parkAtom {pas : List (Acc × Nat)} (h : s.Within C t) : s.Within C (t.parkAtom x mw pas) := by
  unfold State.parkAtom
  split
  · exact h.park.ite h
  · exact h

/-! A word whose checks are over. -/

/-- The bytes of team memory that a store's accesses name may change. -/
def Changes.admits (C : Changes) (n : Nat) (act : MemAct) (space : Nat) (accs : List Acc) : Prop :=
  act.isSt = true → space ≠ 0 → ∀ b ∈ accs, ∀ k, b.addr ≤ k → k < b.addr + b.size → C.team n (arrayOf space) k

/-- An entry is a part of one of its word's accesses. -/
theorem MemWord.mem_entries {coord : Nat} {pas : List (Acc × Nat)} {e : PathEntry} (he : e ∈ mw.entries coord pas) :
    e.space = mw.space ∧ ∃ y ∈ pas, y.1.addr ≤ e.addr ∧ e.addr + e.size ≤ y.1.addr + y.1.size := by
  rw [MemWord.entries_eq, List.mem_mapIdx] at he
  obtain ⟨j, hj, rfl⟩ := he
  have hm := List.getElem_mem hj
  generalize (pas.flatMap _)[j] = p at hm ⊢
  obtain ⟨y, hy, hp⟩ := List.mem_flatMap.1 hm
  split at hp
  · next h16 =>
    obtain ⟨k, hk, rfl⟩ := List.mem_map.1 hp
    have size : y.1.size = 16 := by simpa using (Bool.and_eq_true_iff.1 h16).2
    have quarter : k < 4 := List.mem_range.1 hk
    refine ⟨rfl, y, hy, Nat.le_add_right _ _, ?_⟩
    show y.1.addr + 4 * k + 4 ≤ y.1.addr + y.1.size
    omega
  · obtain rfl := List.mem_singleton.1 hp
    exact ⟨rfl, y, hy, le_refl _, le_refl _⟩

theorem State.Within.perform {pas : List (Acc × Nat)} (h : s.Within C t) (hp : mw.act.inPath = true) (hC : C.admits x.id mw.act mw.space mw.accs)
    (hpas : ∀ y ∈ pas, y.1 ∈ mw.accs) : s.Within C (t.perform x mw pas) := by
  by_cases hst : ∃ rel, mw.act = .st rel
  · obtain ⟨rel, ha⟩ := hst
    rw [State.perform_st ha]
    refine h.foldlMem fun v e he hv => hv.doStore fun hs k hk hl => ?_
    obtain ⟨space, y, hy, hlo, hhi⟩ := MemWord.mem_entries he
    rw [space] at hs ⊢
    exact hC (by rw [ha]; rfl) hs y.1 (hpas y hy) k (by omega) (by omega)
  · rw [State.perform_atom hp fun rel ha => hst ⟨rel, ha⟩]
    exact (h.foldl fun _ _ hv => hv.placeAtom).parkAtom

theorem State.Within.startWalk {coord ctx va : Nat} (h : s.Within C t) : s.Within C (t.startWalk coord ctx va) :=
  h.ite (h.set.after.ite h.set)

theorem State.Within.enterWord (h : s.Within C t) (hp : mw.act.inPath = true) (hC : C.admits x.id mw.act mw.space mw.accs)
    (hu : t.enterWord x mw = .ok u) : s.Within C u := by
  unfold State.enterWord at hu
  extract_lets pc tr misses need prot filled reads b orph absent at hu
  split at hu
  · split at hu
    · cases hu
      exact (h.foldl fun _ _ hv => hv.startWalk).modGroup
    split at hu
    · cases hu
    · cases hu
      have hf : s.Within C filled := h.foldl fun _ _ hv => by
        split
        · exact hv.modCore
        · exact hv
      refine State.Within.perform hf.modGroup hp hC fun y hy => ?_
      simp only [tr, List.map_map, List.mem_map] at hy
      obtain ⟨a, ha, rfl⟩ := hy
      exact ha
  · split at hu
    · cases hu
    split at hu <;> cases hu
    · exact State.Within.modGroup h.park
    · refine State.Within.perform h.modGroup hp hC fun y hy => ?_
      obtain ⟨a, ha, rfl⟩ := List.mem_map.1 hy
      exact ha

theorem State.Within.waitList {keys : List (List Nat)} (h : s.Within C t) : s.Within C (waitList i keys t) :=
  State.Within.issueStalls h.modGroup

theorem State.Within.startWord {act : MemAct} {space : Nat} {dst : MDst} {accs : List Acc} {lanes : List Nat} (h : s.Within C t)
    (hp : act.inPath = true) (hC : C.admits i.t.id act space accs) : (startWord i t act space dst accs lanes).Within C s := by
  unfold Machine.startWord
  refine Body.Within.ite (fun _ hu => hu.waitList) ?_
  split
  · next u hu =>
    have hn : s.Within C { t with nextId := t.nextId + 4 * accs.length } := h.set
    exact State.Within.enterWord (hn.modGroup fun _ y => y.kept_markDst lanes dst) hp hC hu
  · exact trivial

/-! The words' meanings. -/

theorem State.Within.storeBody {space : Nat} {x4 : Bool} {rel : Option Nat} (h : s.Within C t)
    (hC : C.admits i.t.id (.st rel) space (storeForm i space x4 rel).accs) : (storeBody space x4 rel i t).Within C s := by
  unfold Machine.storeBody
  refine Body.Within.ite h (Body.Within.ite trivial ?_)
  split
  · exact h.startWord rfl hC
  · exact trivial

theorem State.Within.ctmBody {load x4 : Bool} (h : s.Within C t) : (ctmBody load x4 i t).Within C s := by
  unfold Machine.ctmBody
  refine Body.Within.ite h (Body.Within.ite trivial (Body.Within.ite trivial (Body.Within.ite ?_ ?_)))
  · exact State.Within.foldl (h.modGroup fun _ y => y.kept_markDst _ _) fun _ _ hu => hu.set.after
  · exact h.foldl fun _ _ hu => hu.foldl fun _ _ hv => hv.pushEntry

theorem State.Within.atomBody {act : MemAct} {size : Nat} {dst : MDst} {data : Nat → Nat} (h : s.Within C t) (hp : act.inPath = true)
    (hst : act.isSt = false) : (atomBody act size dst data i t).Within C s := by
  unfold Machine.atomBody
  refine Body.Within.ite h (Body.Within.ite trivial ?_)
  split
  · exact h.startWord hp fun hs => absurd hs (by rw [hst]; exact Bool.false_ne_true)
  · exact trivial

theorem arrayOf_eq_self {space : Nat} (h0 : space ≠ 0) (h3 : space ≤ 3) : arrayOf space = space := if_pos (by omega)

/-- ST names a space of 0 to 4 (R159). -/
theorem sub_of_wf_st {w : Full} (hw : w.wf .st = true) : w.sub.toNat % 8 ≤ 4 := by
  by_contra h
  simp [Full.wf, fmt, h] at hw

/-- The bytes that a store of the own team's memory or buffers names. -/
def namedByStore (op : Op) (i : Iss) (n sp a : Nat) : Prop :=
  (op = .st ∨ op = .strel) ∧ sp ≠ 4 ∧ sp = (memForm op i).space ∧ n = i.t.id ∧ ∃ b ∈ (memForm op i).accs, b.addr ≤ a ∧ a < b.addr + b.size

/-- A word's issue changes those bytes, no global memory and no register's value. -/
def issueChanges (op : Op) (i : Iss) : Changes := ⟨fun _ => False, namedByStore op i, True⟩

theorem memBody_within {op : Op} (hop : op ∈ [Op.st, .strel, .atom, .red]) (hw : i.w.wf op = true) (h : s.Within (issueChanges op i) t) :
    (memBody op i t).Within (issueChanges op i) s := by
  simp only [List.mem_cons, List.not_mem_nil, or_false] at hop
  rcases hop with rfl | rfl | rfl | rfl
  · show (bodySt i t).Within _ s
    unfold bodySt
    split
    · exact h.ctmBody
    next hs =>
    have h3 : spaceOf i.w ≤ 3 := Nat.lt_succ_iff.1 (lt_of_le_of_ne (sub_of_wf_st hw) hs)
    refine h.storeBody fun _ h0 b hb k hk hl => ?_
    rw [arrayOf_eq_self h0 h3]
    exact ⟨.inl rfl, hs, rfl, rfl, b, hb, hk, hl⟩
  · have h1 : i.w.sub.toNat / 8 ≤ 1 := by omega
    refine h.storeBody fun _ h0 b hb k hk hl => ?_
    rw [arrayOf_eq_self h0 (by omega)]
    exact ⟨.inr rfl, Nat.ne_of_lt (by omega), rfl, rfl, b, hb, hk, hl⟩
  · exact h.atomBody rfl rfl
  · exact Body.Within.ite (h.atomBody rfl rfl) (h.atomBody rfl rfl)

/-- THE ISSUE OF A STORE, an atomic or a reduction changes no more than the bytes it names. -/
theorem AtIssue.store_within {op : Op} {w : Full} {c : Cur} {core : Core} (h : AtIssue s op w c i core) (hop : op ∈ [Op.st, .strel, .atom, .red])
    (hw : w.wf op = true) (ht : Machine.exec (.ofFull op w) s = .next t) : s.Within (issueChanges op i) t := by
  obtain rfl := h.w_eq
  have mem : op ∈ [Op.ld, .ldacq, .st, .strel, .atom, .red] := by
    simp only [List.mem_cons, List.not_mem_nil, or_false] at hop ⊢
    tauto
  rw [exec_memWord mem, execFull_next h.cur] at ht
  cases ht
  exact h.within (memBody_within hop hw (State.Within.refl s).entered)

end
end Sys2Proof.Machine
end

section
/-! SUPPORT. What performing an entry of the store path changes (O51). -/
namespace Sys2Proof.Machine
set_option Elab.async false

section
variable {C : Changes} {s t u : State}

/-! What an acknowledgement brings: fences, barriers and queues. A queue lands what its waiters pop, so a word's issue has no part in it. -/

theorem State.Within.endFence {g : GRef} (h : s.Within C t) : s.Within C (t.endFence g) := by
  unfold State.endFence
  split
  · split
    · exact h.ite (State.Within.acquire h.modGroup)
    · exact h
  · exact h

theorem State.Within.wakeBar {x : Team} {w : Wake} {scope : Nat} (h : s.Within C t) : s.Within C (t.wakeBar x w scope) :=
  h.foldl fun _ _ hu => hu.wakeGroup.acquire

theorem State.Within.evalBarId {tid id : Nat} (h : s.Within C t) : s.Within C (t.evalBarId tid id) := by
  unfold State.evalBarId
  split
  · exact h
  · exact State.Within.foldl h.modTeam fun _ _ hu => hu.wakeBar

theorem State.Within.arriveCluster {tid id : Nat} (h : s.Within C t) : s.Within C (t.arriveCluster tid id) := by
  unfold State.arriveCluster
  split
  · exact h
  · exact State.Within.modCluster h.modTeam

theorem State.Within.evalClusterId {l c id : Nat} (h : s.Within C t) : s.Within C (t.evalClusterId l c id) := by
  unfold State.evalClusterId
  split
  · exact h
  · exact State.Within.ite (h.modCluster.foldl fun _ _ hu => hu.wakeBar.modTeam) h

theorem State.Within.evalBars (h : s.Within C t) : s.Within C t.evalBars :=
  ((h.foldl fun _ _ hu => hu.foldl fun _ _ hv => hv.evalBarId).foldl fun _ _ hu => hu.foldl fun _ _ hv => hv.arriveCluster).foldl
    fun _ _ hu => hu.foldl fun _ _ hv => hv.foldl fun _ _ hw => hw.evalClusterId

theorem State.Within.modQueue {tid q : Nat} {f : HwQ → HwQ} (h : s.Within C t) : s.Within C (t.modQueue tid q f) := h.modTeam

theorem State.Within.serveQueue {n tid q : Nat} (hi : ¬ C.issue) (h : s.Within C t) : s.Within C (State.serveQueue n t tid q) := by
  induction n generalizing t with
  | zero => exact h
  | succ n ih =>
    unfold State.serveQueue
    split
    · exact h
    dsimp only
    split
    · exact h
    split
    · exact h
    split
    · exact h.modGroup
    · exact ih (State.Within.acquire (h.modQueue.modGroup fun hi' => absurd hi' hi))

theorem State.Within.serve {tid q : Nat} (hi : ¬ C.issue) (h : s.Within C t) : s.Within C (t.serve tid q) := by
  refine State.Within.ite (State.Within.sched ?_) h
  unfold State.serveNow
  split
  · exact h.serveQueue hi
  · exact h

theorem State.Within.serveAll (hi : ¬ C.issue) (h : s.Within C t) : s.Within C t.serveAll :=
  h.foldl fun _ _ hu => hu.foldl fun _ _ hv => hv.ite (hv.serve hi)

theorem State.Within.entryGone {e : PathEntry} (hi : ¬ C.issue) (h : s.Within C t) : s.Within C (t.entryGone e) :=
  (State.Within.endFence (State.Within.set h)).evalBars.serveAll hi

/-! An entry at its point of coherence. -/

/-- The bytes of an entry may change, in global memory or in its team's. -/
structure Changes.admitsEntry (C : Changes) (e : PathEntry) : Prop where
  global : e.space = 0 → ∀ k, e.pa ≤ k → k < e.pa + e.size → C.dram k
  team : e.space ≠ 0 → ∀ k, e.addr ≤ k → k < e.addr + e.size → C.team e.byw.g.team (arrayOf e.space) k

theorem State.Within.ownerWrite {e : PathEntry} {x : Nat} (hi : ¬ C.issue) (hC : C.admitsEntry e) (h : s.Within C t) :
    s.Within C (t.ownerWrite e x) := by
  unfold State.ownerWrite
  split
  · next hs => exact (h.writeDram hi fun k hk hl => hC.global hs k hk (by rwa [bytesOfNat_length] at hl)).evalCounters
  · next hs => exact h.writeTeam fun k hk hl => hC.team hs k hk (by rwa [bytesOfNat_length] at hl)

/-- An entry's bytes stay free of poison, a team stays without a task. -/
def State.spares (s : State) (e : PathEntry) : Prop := (s.ownerRead e).2 = false ∨ ∀ m, s.team? e.byw.g.team = some m → m.task = none

theorem State.Within.ownerRead {e : PathEntry} (h : s.Within C t) (he : (s.ownerRead e).2 = false) : (t.ownerRead e).2 = false := by
  unfold State.ownerRead at he ⊢
  split
  · next hs =>
    rw [if_pos hs] at he
    exact Mem.poisoned_mono h.poison he
  next hs =>
  rw [if_neg hs] at he
  have ht := h.team? e.byw.g.team
  generalize s.team? e.byw.g.team = x at ht he
  generalize t.team? e.byw.g.team = y at ht
  cases ht with
  | none => rfl
  | @some x y hxy =>
    have mono := hxy.poison (arrayOf e.space) (arrayOf_mem e.space)
    rw [Team.buf_arrayOf, Team.buf_arrayOf] at mono
    exact Mem.poisoned_mono mono he

theorem State.Within.noTask {n : Nat} (h : s.Within C t) (hs : ∀ m, s.team? n = some m → m.task = none) : ∀ m, t.team? n = some m → m.task = none := by
  intro y hy
  have ht := h.team? n
  rw [hy] at ht
  generalize s.team? n = x at ht hs
  cases ht with
  | some hxy => exact hxy.task.trans (hs _ rfl)

theorem State.Within.spares {e : PathEntry} (h : s.Within C t) (he : s.spares e) : t.spares e := he.imp h.ownerRead h.noTask

/-- E_ECC in a team that is no task's throws. -/
theorem State.Within.eccOr {x : Team} {g : GRef} {pc : Nat} {l : List (Nat × Nat × Nat)} (hx : x.task = none) (h : s.Within C t) :
    s.Within C (t.eccOr x g pc l) := by
  unfold State.eccOr
  rw [hx]
  exact h.raise

theorem State.Within.entryNotice {e : PathEntry} (h : s.Within C t) : s.Within C (t.entryNotice e) := by
  unfold State.entryNotice
  refine h.eccNotice.ite ?_
  split
  · exact h.localNotice
  · exact h

theorem State.Within.eccEntry {e : PathEntry} {bad : Bool} (hb : bad = false ∨ ∀ m, t.team? e.byw.g.team = some m → m.task = none)
    (h : s.Within C t) : s.Within C (t.eccEntry e bad) := by
  unfold State.eccEntry
  dsimp only
  have told : t.Within C (if bad = true then t.entryNotice e else t) := (State.Within.refl t).entryNotice.ite (.refl t)
  split
  · next x hx =>
    have task : x.task = none := told.noTask (hb.resolve_left (Bool.noConfusion ·)) x hx
    exact ((h.trans told).eccOr task).ite (h.trans told).raiseLane
  · exact h.trans told

theorem State.Within.performEntry {e : PathEntry} (hi : ¬ C.issue) (hC : C.admitsEntry e) (hk : e.kind = .st ∨ e.kind = .atom ∨ e.kind = .red ∨ e.kind = .stat)
    (he : t.spares e) (h : s.Within C t) : s.Within C (t.performEntry e) := by
  have told {v : State} (hv : t.Within C v) : (t.ownerRead e).2 = false ∨ ∀ m, v.team? e.byw.g.team = some m → m.task = none :=
    he.imp_right hv.noTask
  have same := State.Within.refl (C := C) t
  refine h.trans ?_
  unfold State.performEntry
  split
  case h_5 =>
    have gone := (same.ownerWrite hi hC (x := e.data)).entryGone hi (e := e)
    exact gone.eccEntry (told gone)
  case h_6 =>
    dsimp only
    have written := same.ite (c := (t.ownerRead e).2 = true) (same.ownerWrite hi hC (x := entryNew e (t.ownerRead e).1))
    split
    · exact State.Within.after (State.Within.set (written.entryNotice.ite written))
    · exact (written.entryGone hi).eccEntry (told (written.entryGone hi))
  -- no fence, ring work, store to another core or counter addition is meant
  all_goals
    next other =>
    rw [other] at hk
    simp at hk

/-- Entries are performed one after another. -/
theorem State.Within.performEntries {l : List PathEntry} (hi : ¬ C.issue) (hC : ∀ e ∈ l, C.admitsEntry e)
    (hk : ∀ e ∈ l, e.kind = .st ∨ e.kind = .atom ∨ e.kind = .red ∨ e.kind = .stat) (he : ∀ e ∈ l, s.spares e) :
    s.Within C (l.foldl (fun s e => s.performEntry e) s) :=
  (State.Within.refl s).foldlMem fun _ e hl hu => hu.performEntry hi (hC e hl) (hk e hl) (hu.spares (he e hl))

/-! What the frame of the performed entries says. -/

/-- The bytes of entries. -/
def entryChanges (l : List PathEntry) : Changes where
  dram k := ∃ e ∈ l, e.space = 0 ∧ e.pa ≤ k ∧ k < e.pa + e.size
  team n sp k := ∃ e ∈ l, e.space ≠ 0 ∧ n = e.byw.g.team ∧ sp = arrayOf e.space ∧ e.addr ≤ k ∧ k < e.addr + e.size
  issue := False

theorem entryChanges_admits {l : List PathEntry} {e : PathEntry} (he : e ∈ l) : (entryChanges l).admitsEntry e :=
  ⟨fun hs _ hk hl => ⟨e, he, hs, hk, hl⟩, fun hs _ hk hl => ⟨e, he, hs, rfl, rfl, hk, hl⟩⟩

theorem performedOnly_of_within {l : List PathEntry} (h : s.Within (entryChanges l) t) : performedOnly s t l := by
  refine ⟨fun a ha => h.bytes a fun ⟨e, he, hs⟩ => ha e he hs, fun x hx => ?_⟩
  obtain ⟨y, hy, hxy⟩ := h.mem hx
  exact ⟨y, hy, hxy.id, fun sp hs a ha => hxy.bytes sp hs a fun ⟨e, he, hc⟩ => ha e he hc⟩

/-- The entries that reach one location with an entry are of its kind. -/
theorem State.kind_of_mates {e x : PathEntry} (hx : x ∈ s.mates e) : x.kind = e.kind := by
  unfold State.mates at hx
  split at hx
  · have word := (Bool.and_eq_true_iff.1 (List.mem_filter.1 hx).2).1
    simp only [PathEntry.sameWord, Bool.and_eq_true, beq_iff_eq] at word
    exact word.2
  · rw [List.mem_singleton.1 hx]

end

/-- The issue of a store changes the bytes it names only. -/
theorem issueChangesItsBytesOnly {op : Op} {s t : State} {i : Iss} (h : s.Within (issueChanges op i) t) :
    t.dram = s.dram ∧ t.teams.map (fun x => x.recs) = s.teams.map (fun x => x.recs) ∧
    (∀ g, (t.group? g).map Group.values = (s.group? g).map Group.values) ∧
    (∀ g l n, (t.group? g).map (fun y => y.regs.values l n) = (s.group? g).map fun y => y.regs.values l n) ∧
    (∀ x ∈ s.teams, ∃ y ∈ t.teams, y.id = x.id ∧ ∀ sp ∈ [1, 2, 3, 4], ∀ a, ¬ namedByStore op i x.id sp a →
      (y.buf sp).mem.read1 a = (x.buf sp).mem.read1 a) := by
  refine ⟨h.dram trivial, h.recs, fun g => ?_, fun g l n => ?_, fun x hx => ?_⟩
  · exact h.group?_map trivial g (e := fun k => k.2.1) rfl
  · exact h.group?_map trivial g (e := fun k => k.2.2 l n) rfl
  · obtain ⟨y, hy, hxy⟩ := h.mem hx
    exact ⟨y, hy, hxy.id, hxy.bytes⟩

/-- What an entry's event performs, or nothing. -/
theorem eventPerformsItsEntries {s t : State} {id : Nat} {e : PathEntry} (he : s.entry? id = some e)
    (hk : e.kind = .st ∨ e.kind = .atom ∨ e.kind = .red ∨ e.kind = .stat) (hs : ∀ x ∈ e :: s.mates e, s.spares x) :
    (exec (.storeAck id) s = .next t ∨ exec (.storePathRelease id) s = .next t → s.Within (entryChanges [e]) t) ∧
    (exec (.atomAtOwner id) s = .next t → s.Within (entryChanges (e :: s.mates e)) t) := by
  have self := State.Within.refl (C := entryChanges [e]) s
  have one : s.Within (entryChanges [e]) (s.performEntry e) :=
    self.performEntry not_false (entryChanges_admits List.mem_cons_self) hk (hs e List.mem_cons_self)
  refine ⟨fun h => ?_, fun h => ?_⟩
  · rcases h with h | h <;> cases h <;> rw [he] <;> exact one.ite self.again
  · cases h
    rw [he]
    refine State.Within.ite (State.Within.performEntries not_false ?_ ?_ ?_) (State.Within.refl s).again
    · exact fun x hx => entryChanges_admits (List.mem_cons_of_mem e hx)
    · exact fun x hx => by rwa [State.kind_of_mates hx]
    · exact fun x hx => hs x (List.mem_cons_of_mem e hx)

/-- Settles O51: what a store's issue and an entry's performance change are the bytes that they name. -/
theorem storesWriteTheirBytesOnly : Obligations.storesWriteTheirBytesOnly := by
  refine ⟨fun op hop s w c i core t h hw ht => ?_, fun s id t e he hk hs => ?_⟩
  · exact issueChangesItsBytesOnly (h.store_within hop hw ht)
  · obtain ⟨alone, all⟩ := eventPerformsItsEntries (t := t) he hk hs
    exact ⟨fun h => performedOnly_of_within (alone h), fun h => performedOnly_of_within (all h)⟩

end Sys2Proof.Machine
end

section
/-! SUPPORT. Reductions in switch slots, their results, and the trees of groups (O38). -/
namespace Sys2Proof.Machine

/-! What a slot merges (R255, R287). -/

/-- A list in strictly rising order of a key is what sorting by that key makes of it, however it came. -/
theorem sortBy_eq_of_perm {α : Type} (f : α → Nat) {l m : List α} (h : l.Perm m) (hl : l.Pairwise fun a b => f a < f b) : sortBy f m = l := by
  have distinct : l.Pairwise fun a b => f a ≠ f b := hl.imp fun h => Nat.ne_of_lt h
  have same : (sortBy f m).Perm l := (sortBy_perm f m).trans h.symm
  refine same.eq_of_pairwise (fun a b ha hb hab hba => ?_) (pairwise_sortBy f m) (hl.imp fun h => Nat.le_of_lt h)
  by_contra hne
  have : Std.Symm fun a b => f a ≠ f b := ⟨fun _ _ h => h.symm⟩
  exact distinct.forall (same.subset ha) hb hne (Nat.le_antisymm hab hba)

theorem SwSlot.merged_of_perm {y : SwSlot} {l : List (Nat × List Nat)} (h : l.Perm y.got) (hl : l.Pairwise fun a b => a.1 < b.1) :
    y.merged = match l with
      | [] => []
      | a :: rest => rest.foldl (fun acc b => acc.zipWith (mergeElem y.first.sig) b.2) a.2 := by
  unfold SwSlot.merged
  rw [sortBy_eq_of_perm _ h hl]
  cases l <;> rfl

section
variable {x : CollSig} {t : Ty} {a b : Nat}

/-- The operation of R170 that an operator of a reduction merges by. -/
def mergeOp (x : CollSig) : Nat := if x.op = 1 then 0 else if x.op = 2 then 2 else 1

theorem mergeElem_stat (ho : x.op = 4) : mergeElem x a b = natOfTriple (mmerge (tripleOfBytes a) (tripleOfBytes b)) := if_pos ho

theorem mergeElem_int (ht : Ty.all.getD x.ty .i32 = t) (hi : t.isInt = true) (ho : x.op ≠ 4) :
    mergeElem x a b = atomNew (mergeOp x) t (t.bits / 8) a b 0 := by
  subst ht
  rw [mergeElem, if_neg ho]
  exact if_pos hi

theorem ne_f32_of_isInt (hi : t.isInt = true) : t ≠ .f32 := by
  rintro rfl
  exact absurd hi (by decide)

theorem mergeElem_add (ht : Ty.all.getD x.ty .i32 = t) (hi : t.isInt = true) (ho : x.op = 1) :
    mergeElem x a b = (a + b) % 2 ^ (8 * (t.bits / 8)) := by
  rw [mergeElem_int ht hi (by omega), mergeOp, if_pos ho]
  exact if_neg (ne_f32_of_isInt hi)

theorem mergeElem_max (ht : Ty.all.getD x.ty .i32 = t) (hi : t.isInt = true) (hs : t.signed = false) (ho : x.op = 2) :
    mergeElem x a b = max a b := by
  rw [mergeElem_int ht hi (by omega), mergeOp, if_neg (by omega), if_pos ho]
  simp [atomNew, if_neg (ne_f32_of_isInt hi), hs, Nat.max_def]

theorem mergeElem_min (ht : Ty.all.getD x.ty .i32 = t) (hi : t.isInt = true) (hs : t.signed = false) (ho : x.op = 3) :
    mergeElem x a b = min a b := by
  rw [mergeElem_int ht hi (by omega), mergeOp, if_neg (by omega), if_neg (by omega)]
  simp [atomNew, if_neg (ne_f32_of_isInt hi), hs, Nat.min_def]

/-- Floats, narrow ones too, are merged as f32 (R255). -/
theorem mergeElem_float (lo : 8 ≤ x.ty) (hi : x.ty ≤ 10) (ho : x.op ≠ 4) : mergeElem x a b = atomNew (mergeOp x) .f32 4 a b 0 := by
  have float : (Ty.all.getD x.ty .i32).isInt = false := by
    generalize x.ty = n at lo hi
    interval_cases n <;> rfl
  rw [mergeElem, if_neg ho]
  exact if_neg (Bool.not_eq_true _ ▸ float)

end

/-- R255, R287. -/
theorem slotsMergeInPortOrder : Claims.slotsMergeInPortOrder := by
  refine ⟨fun y l => SwSlot.merged_of_perm, fun x a b => ?_⟩
  have ofTy {n : Nat} (h : x.ty = n) : Ty.all.getD x.ty .i32 = Ty.all.getD n .i32 := congrArg (Ty.all.getD · .i32) h
  refine ⟨fun add ht => ?_, fun add ht => ?_, fun most ht => ?_, fun least ht => ?_, fun lo hi => ?_, mergeElem_stat⟩
  · obtain h0 | h1 : x.ty = 0 ∨ x.ty = 1 := by omega
    · exact mergeElem_add (t := .i32) (ofTy h0) rfl add
    · exact mergeElem_add (t := .n32) (ofTy h1) rfl add
  · rcases ht with h6 | h7
    · exact mergeElem_add (t := .i64) (ofTy h6) rfl add
    · exact mergeElem_add (t := .n64) (ofTy h7) rfl add
  · rcases ht with h1 | h7
    · exact mergeElem_max (t := .n32) (ofTy h1) rfl rfl most
    · exact mergeElem_max (t := .n64) (ofTy h7) rfl rfl most
  · rcases ht with h1 | h7
    · exact mergeElem_min (t := .n32) (ofTy h1) rfl rfl least
    · exact mergeElem_min (t := .n64) (ofTy h7) rfl rfl least
  · refine ⟨fun add => ?_, fun most => ?_, fun least => ?_⟩
    · rw [mergeElem_float lo hi (by omega), mergeOp, if_pos add]
      rfl
    · rw [mergeElem_float lo hi (by omega), mergeOp, if_neg (by omega), if_pos most]
      rfl
    · rw [mergeElem_float lo hi (by omega), mergeOp, if_neg (by omega), if_neg (by omega)]
      rfl

/-! A switch, its slots and its ports. -/

@[simp] theorem State.switch_id (s : State) (n : Nat) : (s.switch n).id = n := by
  unfold State.switch
  cases h : s.switches.find? fun x => x.id == n with
  | none => rfl
  | some w =>
    have named := List.find?_some h
    exact beq_iff_eq.1 named

theorem State.switch_modSwitch (s : State) (n : Nat) {f : Switch → Switch} (hf : ∀ k, (f k).id = k.id) :
    (s.modSwitch n f).switch n = f (s.switch n) := by
  have here : ((f (s.switch n)).id == n) = true := by rw [hf, s.switch_id, beq_self_eq_true]
  have found : ((s.modSwitch n f).switches.find? fun x => x.id == n) = some (f (s.switch n)) :=
    List.find?_cons_of_pos (p := fun x : Switch => x.id == n) here
  rw [State.switch, found]
  rfl

section
variable {s : State} {x : Contribution} {sw : Nat} {y : SwSlot} {e : TreeEntry}

/-- A contribution is held in its slot, and counted when it is this rank's own; then the slot is looked at. -/
theorem State.holdPart_eq (s : State) (x : Contribution) : s.holdPart x = ((s.slotHolds x).accepted x).closeSlot x.sw x := by
  unfold State.holdPart State.slotHolds
  refine congrArg (fun u : State => (u.accepted x).closeSlot x.sw x) ?_
  unfold State.modSwitch
  dsimp only
  cases h : (s.switch x.sw).slots.find? fun y => y.is x with
  | some z =>
    have its := List.find?_some h
    have held : ((s.switch x.sw).slots.any fun y => y.cgrp == x.cgrp && y.seq == x.seq && y.chunk == x.chunk) = true :=
      List.any_eq_true.2 ⟨z, List.mem_of_find?_eq_some h, its⟩
    rw [if_pos held]
    rfl
  | none =>
    have free : ¬ ((s.switch x.sw).slots.any fun y => y.cgrp == x.cgrp && y.seq == x.seq && y.chunk == x.chunk) = true := fun hc => by
      obtain ⟨z, hz, hx⟩ := List.any_eq_true.1 hc
      exact List.find?_eq_none.1 h z hz hx
    rw [if_neg free]
    rfl

/-- Every port of CHILD has delivered to the slot (R287). -/
def SwSlot.hasAll (y : SwSlot) (e : TreeEntry) : Prop := ∀ p, p < 8 → e.child.getLsbD p = true → ∃ g ∈ y.got, g.1 = p

theorem SwSlot.hasAll_iff (y : SwSlot) (e : TreeEntry) :
    ((List.range 8).all fun p => !e.child.getLsbD p || y.got.any fun g => g.1 == p) = true ↔ y.hasAll e := by
  simp only [SwSlot.hasAll, List.all_eq_true, List.mem_range, Bool.or_eq_true, Bool.not_eq_true', List.any_eq_true, beq_iff_eq,
    ← Bool.not_eq_true, ← imp_iff_not_or]

/-- A slot that lacks a port's contribution, or whose call names a lost rank, stays (R287, R288). -/
theorem State.closeSlot_of_waits (hy : ((s.switch sw).slots.find? fun y => y.is x) = some y) (he : (s.switch sw).entry? x.cgrp = some e)
    (h : ¬ y.hasAll e ∨ s.namesLost y.first = true) : s.closeSlot sw x = s := by
  simp only [State.closeSlot, hy, he]
  refine if_pos ?_
  rwa [Bool.or_eq_true, Bool.not_eq_true', ← Bool.not_eq_true, y.hasAll_iff e]

theorem State.closeSlot_of_delivered (hy : ((s.switch sw).slots.find? fun y => y.is x) = some y) (he : (s.switch sw).entry? x.cgrp = some e)
    (ha : y.hasAll e) (hl : s.namesLost y.first = false) :
    s.closeSlot sw x = (if y.mismatch then s.dropCall sw x else s.modSwitch sw fun k => { k with slots := k.slots.filter fun z => !z.is x }).sendUp sw e
      { y.first with elems := if y.mismatch then [] else y.merged, mismatch := y.mismatch } := by
  simp only [State.closeSlot, hy, he]
  refine if_neg ?_
  rw [(y.hasAll_iff e).2 ha, hl]
  decide

theorem State.sendDown_eq (he : (s.switch sw).entry? x.cgrp = some e) (hm : x.mismatch = false) : s.sendDown sw x = s.leavesDown sw e x := by
  simp only [State.sendDown, he, hm, Bool.false_eq_true, if_false, State.leavesDown, Bool.not_eq_true']

theorem State.sendUp_root (hr : e.root = true) : s.sendUp sw e x = s.sendDown sw x := if_pos hr

theorem State.sendUp_parent {q : Nat × Nat} (hr : e.root = false) (hq : facing sw e.parent = some q) :
    s.sendUp sw e x = s.after (linkLeast sw q.1) (.switchContribution { x with sw := q.1, port := q.2 }) := by
  simp only [State.sendUp, hr, hq, Bool.false_eq_true, if_false]

/-- The entries of a switch stay when its slots are given up. -/
theorem State.entry?_without_slots (s : State) (sw cgrp : Nat) (p : SwSlot → Bool) :
    ((s.modSwitch sw fun k => { k with slots := k.slots.filter p }).switch sw).entry? cgrp = (s.switch sw).entry? cgrp := by
  rw [State.switch_modSwitch s sw (f := fun k => { k with slots := k.slots.filter p }) fun _ => rfl]
  rfl

/-- The merged chunk of a full slot leaves, and the slot is free. -/
theorem State.closeSlot_merged (hy : ((s.switch sw).slots.find? fun y => y.is x) = some y) (he : (s.switch sw).entry? x.cgrp = some e)
    (ha : y.hasAll e) (hl : s.namesLost y.first = false) (hm : y.mismatch = false) :
    s.closeSlot sw x = (s.modSwitch sw fun k => { k with slots := k.slots.filter fun z => !z.is x }).sendUp sw e
      { y.first with elems := y.merged, mismatch := false } := by
  rw [State.closeSlot_of_delivered hy he ha hl]
  simp only [hm, Bool.false_eq_true, if_false]

/-- A full slot that holds a mismatch sends a mark, and the call is dropped here. -/
theorem State.closeSlot_mismatch (hy : ((s.switch sw).slots.find? fun y => y.is x) = some y) (he : (s.switch sw).entry? x.cgrp = some e)
    (ha : y.hasAll e) (hl : s.namesLost y.first = false) (hm : y.mismatch = true) :
    s.closeSlot sw x = (s.dropCall sw x).sendUp sw e { y.first with elems := [], mismatch := true } := by
  rw [State.closeSlot_of_delivered hy he ha hl]
  simp only [hm, if_true]

theorem State.drainPorts_of_none (n : Nat) (h : ∀ y ∈ (s.switch sw).waiting, (s.switch sw).takes y = false) : State.drainPorts n s sw = s := by
  have noRoom : ((s.switch sw).waiting.find? fun y => (s.switch sw).takes y) = none :=
    List.find?_eq_none.2 fun y hy => ne_true_of_eq_false (h y hy)
  cases n with
  | zero => rfl
  | succ n => simp only [State.drainPorts, noRoom]

/-- The first that waits goes in where it has room. -/
theorem State.drainPorts_of_first {n : Nat} {y : Contribution} {rest : List Contribution} (hw : (s.switch sw).waiting = y :: rest)
    (hy : (s.switch sw).takes y = true) :
    State.drainPorts (n + 1) s sw = State.drainPorts n ((s.modSwitch sw fun k => { k with waiting := k.waiting.eraseIdx 0 }).holdPart y) sw := by
  have first : ((s.switch sw).waiting.find? fun y => (s.switch sw).takes y) = some y := by
    rw [hw]
    exact List.find?_cons_of_pos hy
  have at0 : (((s.switch sw).waiting.findIdx? fun z => z == y).getD 0) = 0 := by
    rw [hw, List.findIdx?_cons, beq_self_eq_true]
    rfl
  simp only [State.drainPorts, first, at0]

end

/-- An arrival at a switch, by a link that is not retired (R284, R287, R327). -/
theorem exec_switchContribution {s : State} {x : Contribution} (hsw : x.sw < 12) (hr : (s.linkOf x).retired = false) :
    exec (.switchContribution x) s = .next
      (if (s.linkOf x).training then s.again (.switchContribution x)
       else if (s.switch x.sw).comesDown x then
        State.drainPorts ((s.sendDown x.sw x).switch x.sw).waiting.length (s.sendDown x.sw x) x.sw
       else if (x.cgrp, x.seq) ∈ (s.switch x.sw).dropped then s
       else if (s.switch x.sw).takes x then State.drainPorts ((s.holdPart x).switch x.sw).waiting.length (s.holdPart x) x.sw
       else s.modSwitch x.sw fun k => { k with waiting := k.waiting ++ [x] }) := by
  refine congrArg Host.Outcome.next ?_
  refine (if_neg ?_).trans ?_
  · rw [hr, Bool.or_false, decide_eq_true_eq]
    exact Nat.not_le.2 hsw
  · simp only [List.contains_iff_mem]

/-- R284, R287. -/
theorem contributionsMergeAndLeave : Claims.contributionsMergeAndLeave := by
  intro s x hsw hret sw drained
  have arrives := exec_switchContribution hsw hret
  refine ⟨fun training => ?_, fun trained => ⟨?down, ?dropped, ?waits, ?held⟩, fun n => State.drainPorts_of_none n, fun n y rest => State.drainPorts_of_first⟩
  · rwa [if_pos training] at arrives
  all_goals rw [if_neg (ne_true_of_eq_false trained)] at arrives
  case down =>
    intro down e he hm
    rwa [if_pos down, State.sendDown_eq he hm] at arrives
  case dropped =>
    intro up gone
    rwa [if_neg (ne_true_of_eq_false up), if_pos gone] at arrives
  case waits =>
    intro up kept full
    rwa [if_neg (ne_true_of_eq_false up), if_neg kept,
      if_neg (ne_true_of_eq_false full)] at arrives
  case held =>
    intro up kept room v y e hy he all
    rw [if_neg (ne_true_of_eq_false up), if_neg kept, if_pos room,
      State.holdPart_eq] at arrives
    refine ⟨fun h => ?_, fun ha hl hm => ⟨fun hr hc => ?_, fun q hr hq => ?_⟩, fun ha hl hm q hr hq => ?_⟩
    · rwa [State.closeSlot_of_waits hy he h] at arrives
    · rw [State.closeSlot_merged hy he ha hl hm, State.sendUp_root hr] at arrives
      have there := (v.entry?_without_slots x.sw y.first.cgrp fun z => !z.is x).trans (hc ▸ he)
      rwa [State.sendDown_eq (x := { y.first with elems := y.merged, mismatch := false }) there rfl] at arrives
    · rwa [State.closeSlot_merged hy he ha hl hm, State.sendUp_parent hr hq] at arrives
    · rwa [State.closeSlot_mismatch hy he ha hl hm, State.sendUp_parent hr hq] at arrives

/-! Results (R190, R248, R254, R255, R285, R287). -/

section
variable {s : State} {o : EOp} {r : Shape} {c : Nat}

theorem State.accepted_of_ne {x : Contribution} (h : x.port ≠ 4) : s.accepted x = s := if_pos h

theorem EOp.throwers_eq (o : EOp) : o.throwers = if o.slices = [] then [o.byw] else o.slices.map fun x => x.byw := by
  unfold EOp.throwers
  cases o.slices <;> rfl

/-- An operation is some word's. -/
theorem EOp.throwers_isEmpty (o : EOp) : o.throwers.isEmpty = false := by
  unfold EOp.throwers
  cases o.slices <;> rfl

theorem State.chunkOver_countBytes (s : State) (o : EOp) (c n : Nat) : (s.countBytes o n).chunkOver o c = s.chunkCounted o c n := by
  unfold State.chunkCounted State.chunkOver State.countBytes
  rw [o.throwers_eq]

/-- The bytes of a chunk of a transfer that this rank reads: all its elements. -/
theorem State.chunkReads_size {seq : Nat} (hk : o.kind = .cpyt r seq) :
    ((s.chunkReads o c).map fun y => y.2.2) = (r.chunkElems c).map fun _ => r.z := by
  simp only [State.chunkReads, hk, List.map_map]
  rfl

/-- A chunk of a reduction is counted at the call's own target, and acknowledged where peers have a part (R198, R254). -/
theorem State.countChunk_of_reduces {seq : Nat} (hk : o.kind = .cpyt r seq) (ho : r.op ≠ 0) (hu : s.updateReady o = true) :
    let u := s.chunkCounted o c ((r.chunkElems c).map fun _ => r.z).sum
    s.countChunk o c = (if u.toPeers o.ctx r then u.awaitAck o.id c else u).closeOp o.id := by
  intro u
  have counted : (s.countBytes o ((s.chunkReads o c).map fun y => y.2.2).sum).chunkOver o c = u := by
    rw [State.chunkOver_countBytes, State.chunkReads_size hk]
  unfold State.countChunk
  simp only [hu, Bool.not_true, Bool.false_eq_true, if_false, hk, ne_eq, ho, not_false_eq_true, decide_true, Bool.true_or, if_true]
  rw [counted]

theorem State.accepted_of_running {x : Contribution} (hc : s.callOp x.cgrp x.seq = some (o, r)) (hp : x.port = 4)
    (hr : r.chunks.getD x.chunk 0 ∈ o.running) : s.accepted x = s.countChunk o (r.chunks.getD x.chunk 0) := by
  simp only [State.accepted, hp, ne_eq, not_true_eq_false, if_false, hc, List.contains_iff_mem.2 hr, Bool.not_true, Bool.false_eq_true]

/-- The types of R102 stand in the order of their numbers; past the last one i32 is read. -/
theorem getD_all_eq_iff {t : Ty} (ht : t ≠ .i32) (n : Nat) : Ty.all.getD n .i32 = t ↔ n = t.code := by
  constructor
  · rintro rfl
    have named : ∀ k < 16, (Ty.all.getD k .i32).code = k := by decide
    exact (named n (Nat.lt_of_not_le fun past => ht (List.getD_eq_default Ty.all .i32 past))).symm
  · rintro rfl
    cases t <;> rfl

/-- The bytes of an element as it is delivered (R126, R255). -/
theorem delivered_eq (x : CollSig) (z e : Nat) :
    delivered x z e = bytesOfNat z (if x.op ≠ 4 ∧ (x.ty = 9 ∨ x.ty = 10) then (cvtBits (if x.ty = 9 then .bf16 else .f16) .f32 rneMode e).1 else e) := by
  have bf16 := getD_all_eq_iff (t := .bf16) nofun x.ty
  have f16 := getD_all_eq_iff (t := .f16) nofun x.ty
  refine congrArg (bytesOfNat z) ?_
  simp only [bf16, f16, Ty.code, Bool.and_eq_true, Bool.or_eq_true, decide_eq_true_eq]
  split
  · next narrow =>
    rcases narrow.2 with h | h
    · rw [bf16.2 h, if_pos h]
    · rw [f16.2 h, if_neg (by omega)]
  · rfl

section
variable {x : Contribution} {sw : Nat}

/-- A result for a rank that takes none: only the call's end is noted. -/
theorem State.toRank_of_not_dest (hc : s.callOp x.cgrp x.seq = some (o, r)) (hm : x.mismatch = false) (hd : s.isDest o.ctx r = false) :
    s.toRank sw x = (s.modOp o.id fun y => { y with landed := y.landed ++ [r.chunks.getD x.chunk 0] }).closeOp o.id := by
  simp only [State.toRank, hc, hm, hd, Bool.false_eq_true, if_false, Bool.not_false, if_true]

theorem State.toRank_of_dest (hc : s.callOp x.cgrp x.seq = some (o, r)) (hm : x.mismatch = false) (hd : s.isDest o.ctx r = true) :
    let c := r.chunks.getD x.chunk 0
    let w := ((r.chunkElems c).zip x.elems).flatMap fun y => (delivered x.sig r.z y.2).mapIdx fun i b => (r.dstAddr (c / 2 ^ 32) y.1 + i, b)
    s.toRank sw x = s.after (Config.meshCc 16) (.reducedChunkWrite
      { ctx := o.ctx, launch := o.launch, die := sw / 3, cgrp := x.cgrp, seq := x.seq, tileCtr := if r.ctr = 0 then 0 else r.ctr + 8 * (c / 2 ^ 32),
        space := cpySpace r.space, writes := w, size := w.length, op := o.id, chunk := c, mismatch := false, plain := false }) := by
  simp only [State.toRank, hc, hm, hd, Bool.false_eq_true, if_false, Bool.not_true]
end

section
variable {x : ReducedChunk}

/-- A chunk that stands at its destination is counted by its tile counter. -/
theorem State.tallyChunk_of_ready (ho : s.op? x.op = some o) (h : x.tileCtr = 0 ∨ s.updateReady o = true) :
    s.tallyChunk x = ((if x.tileCtr = 0 then s else s.addAt x.ctx x.tileCtr x.size false o.throwers x.launch false x.op).modOp x.op fun y =>
      { y with placed := y.placed.erase x.chunk, landed := y.landed ++ [x.chunk] }).closeOp x.op := by
  simp only [State.tallyChunk, ho, State.addTile, o.throwers_isEmpty]
  refine if_neg ?_
  rcases h with h | h <;> simp [h]

theorem State.tallyChunk_of_waits (ho : s.op? x.op = some o) (hc : x.tileCtr ≠ 0) (hu : s.updateReady o = false) :
    s.tallyChunk x = (s.modOp x.op fun y => { y with placed := if x.chunk ∈ y.placed then y.placed else y.placed ++ [x.chunk] }).again (.reducedChunkWrite x) := by
  simp only [State.tallyChunk, ho, List.contains_iff_mem]
  exact if_pos (by simp [hc, hu])

theorem exec_reducedChunkWrite_of_placed (ho : s.op? x.op = some o) (hm : x.mismatch = false) (hp : x.chunk ∈ o.placed) :
    exec (.reducedChunkWrite x) s = .next (s.tallyChunk x) := by
  have stands : s.chunkPlaced x = true := by simp [State.chunkPlaced, ho, hm, hp]
  exact congrArg Host.Outcome.next (if_pos stands)

/-- The lines of a chunk's team, where only one team takes it. -/
theorem State.setPresent_singleton (s : State) (o : EOp) (c : Nat) (t : Team) :
    let later := (o.notLanded.filter fun d => d != c).filter fun d => (s.chunkTeams o d).any fun z => z.id == t.id
    s.setPresent o c [t] = s.linesCome t ((s.chunkLines o c).filter fun l => !(later.flatMap fun d => s.chunkLines o d).contains l) := by
  simp only [State.setPresent, List.foldl_cons, List.foldl_nil, State.linesCome, List.isEmpty_iff]
  rfl

/-- A chunk whose bytes a call of this rank takes is written where its team has them, its lines present, and then counted. -/
theorem exec_reducedChunkWrite_of_lands {seq : Nat} {t : Team} (hh : s.heldChunk x = false) (hm : x.mismatch = false) (hd : s.deadCall x = false)
    (hb : s.chunkBad x = none) (ho : s.op? x.op = some o) (hn : x.chunk ∉ o.placed) (hk : o.kind = .cpyt r seq) (hr : r.overlaps = false)
    (ht : s.team? o.team = some t) :
    exec (.reducedChunkWrite x) s = .next
      (((s.engWrite o o.team (x.writes.map fun y => (x.space, y.1, 1)) (x.writes.map fun y => y.2)).setPresent o x.chunk [t]).tallyChunk x) := by
  have fresh : s.chunkPlaced x = false := by simp [State.chunkPlaced, ho, hn]
  refine congrArg Host.Outcome.next ((if_neg (ne_true_of_eq_false fresh)).trans ((if_neg (ne_true_of_eq_false hh)).trans ?_))
  simp only [State.reducedChunk, hm, hd, ho, hb, Option.isNone_some, Bool.and_false, Bool.or_false, Bool.false_eq_true, if_false, State.landChunk,
    State.placeChunk, hk, State.cpytBytes, hr, ht, Option.toList_some]
end

end

/-- R190, R248, R254, R255, R285, R287. -/
theorem resultsReachTheirRank : Claims.resultsReachTheirRank := by
  intro s
  refine ⟨fun x o r hc => ⟨State.accepted_of_ne, ?counted, ?result⟩, fun x o ho hm hp => ?placed, ?lands⟩
  case counted =>
    intro seq hp hk hr run ready u hu
    subst hu
    rw [State.accepted_of_running hc hp run, State.countChunk_of_reduces hk hr ready]
    exact ⟨fun own => congrArg (State.closeOp · o.id) (if_neg (ne_true_of_eq_false own)), fun peers => congrArg (State.closeOp · o.id) (if_pos peers)⟩
  case result =>
    intro sw hm
    refine ⟨State.toRank_of_not_dest hc hm, fun hd => ?_⟩
    rw [State.toRank_of_dest hc hm hd]
    simp only [delivered_eq]
  case placed =>
    intro counted due
    refine (exec_reducedChunkWrite_of_placed ho hm hp).trans ?_
    rw [State.tallyChunk_of_ready ho due]
  case lands =>
    intro x o r seq t hh hm hd hb ho _ hn hk hr w ht later v hv
    have lands := exec_reducedChunkWrite_of_lands hh hm hd hb ho hn hk hr ht
    rw [State.setPresent_singleton] at lands
    refine ⟨fun hc hu => ?_, fun hc hu => ?_, fun hc => ?_⟩
    · rwa [State.tallyChunk_of_ready hv (.inr hu), if_neg hc] at lands
    · rwa [State.tallyChunk_of_waits hv hc hu] at lands
    · rwa [State.tallyChunk_of_ready hv (.inl hc), if_pos hc] at lands

/-! Lost ranks, trees and port buffers (R286, R288, R332, R343). -/

section
variable {s : State} {c : Ctx}

theorem Ctx.mayLose_of {rank : Nat} (hl : rank ∉ c.lost) (hm : rank ≠ c.me) (hr : ∃ x ∈ c.ranks, x.1 = rank) : c.mayLose rank = true := by
  simp only [Ctx.mayLose, Bool.and_eq_true, Bool.not_eq_true', List.any_eq_true, beq_iff_eq, decide_eq_true_eq]
  exact ⟨⟨by simpa using hl, hm⟩, hr⟩

theorem exec_rankLost {rank : Nat} (hc : s.ctx? c.id = some c) (h : c.mayLose rank = true) : exec (.rankLost c.id rank) s = .next (s.loseRank c rank) := by
  refine congrArg Host.Outcome.next ?_
  simp only [hc, h, if_true]

theorem State.buildTree_of_ctx (hc : s.ctx? c.id = some c) (g : Nat) (members : List Nat) :
    let old := (s.switches.flatMap fun w => w.entries).filter fun e => e.cgrp == g && e.v
    let epoch := if old = [] then 0 else ((old.map fun e => e.epoch).foldl max 0 + 1) % 65536
    let a := if old = [] then s else s.failSlots g
    let b : State := { a with switches := a.switches.map fun (w : Switch) => { w with entries := w.entries.filter fun e => e.cgrp != g, homes := w.homes.filter fun n => n != g } }
    let plan := b.treePlan c g epoch members
    let d := if b.treeRoom plan.1 g then plan.2.foldl (fun u x => u.modSwitch x.1 fun w => { w with entries := w.entries ++ [x.2] }) b else b
    s.buildTree c.id g members = (List.range 12).foldl (fun u sw => State.drainPorts (u.switch sw).waiting.length u sw)
      (d.modSwitch plan.1 fun w => { w with homes := w.homes ++ [g] }) := by
  intro old epoch a b plan d
  unfold State.buildTree
  split
  · next gone => exact absurd (gone.symm.trans hc) nofun
  next x hx =>
  obtain rfl : c = x := Option.some.inj (hc.symm.trans hx)
  extract_lets last failed cleared plan' written
  have failed_eq : failed = a := by
    unfold failed a
    simp only [List.isEmpty_iff]
  have epoch_eq : last % 65536 = epoch := by
    unfold last epoch
    cases old <;> rfl
  have cleared_eq : cleared = b := by
    unfold cleared
    rw [failed_eq]
  have plan_eq : plan' = plan := by
    unfold plan'
    rw [epoch_eq, cleared_eq]
  have written_eq : written = d := by
    unfold written
    rw [plan_eq, cleared_eq]
  rw [written_eq, plan_eq]
end

/-- R286, R288, R332, R343. -/
theorem treesAreRebuilt : Claims.treesAreRebuilt := by
  intro s c hc
  refine ⟨fun rank hl hm hr => exec_rankLost hc (Ctx.mayLose_of hl hm hr), fun g members => State.buildTree_of_ctx hc g members, fun port n hp hn hr ht => ?_⟩
  have port_ok : ¬ (decide (16 ≤ port) || decide (4096 < n) || (s.link (.port port)).retired) = true := by
    simp [hp, hn, hr]
  refine ⟨fun room => ?_, fun full => ?_, ?_⟩
  · refine congrArg Host.Outcome.next ((if_neg port_ok).trans ?_)
    rw [if_neg Bool.false_ne_true, if_neg (ne_true_of_eq_false ht), if_neg (Nat.not_lt.2 room)]
  · refine congrArg Host.Outcome.next ((if_neg port_ok).trans ?_)
    rw [if_neg Bool.false_ne_true, if_neg (ne_true_of_eq_false ht), if_pos full]
  · exact congrArg Host.Outcome.next ((if_neg port_ok).trans (if_pos rfl))

/-- Settles O38: a slot's merge by sorting its contributions by port, then the arrival, the result, and the tree told by the checks of each. -/
theorem switchesAndPorts : Obligations.switchesAndPorts :=
  ⟨slotsMergeInPortOrder, contributionsMergeAndLeave, resultsReachTheirRank, treesAreRebuilt⟩

end Sys2Proof.Machine
end

section
/-! SUPPORT. Commands of service: the almanac, sparing, retirement, rank maps, trees and quanta (O46). -/
namespace Sys2Proof.Machine

/-! What a command does that passes the checks of R333 to R335. -/

section
variable {s t : State} {h : Hdr} {code p : Nat}

theorem replyCode_of_hdrOk (hh : Config.hdrOk h = true) (hc : code < 0x8000) : replyCode h code = 0x8000 + code := by
  simp only [Config.hdrOk, Bool.and_eq_true] at hh
  rw [replyCode, Option.isNone_iff_eq_none.1 hh.2, Option.getD_none]
  exact if_pos hc

theorem State.command_of_ok {f : Nat → State} (ok : commandOk s h code p) (hc : code < 0x8000) : s.command h code f = f p := by
  obtain ⟨power, header, ⟨x, session, principal⟩, new, ended⟩ := ok
  have unrecorded : (s.replayable.find? fun r => r.1 == p && r.2.1 == h.tag && r.2.2.code == replyCode h code) = none := by
    refine List.find?_eq_none.2 fun r hr hit => new r hr ?_
    rw [replyCode_of_hdrOk header hc] at hit
    simpa only [Bool.and_eq_true, beq_iff_eq, and_assoc] using hit
  have unheld : s.pendingCmds.any (s.isPending p h code) = false := List.any_eq_false.2 fun x hx => ne_true_of_eq_false (ended x hx)
  simp only [State.command, power, session, header, principal, unrecorded, unheld, Bool.not_true, Bool.false_eq_true, if_false]

theorem becomes_of_command {i : Instr} {f : Nat → State} (hi : exec i s = .next (s.command h code f)) (ok : commandOk s h code p)
    (ht : f p = t) (hc : code < 0x8000 := by decide) : becomes i s t := by
  rw [becomes, hi, State.command_of_ok ok hc, ht]

/-- A command that has an expert form only. -/
theorem becomes_of_expert {i : Instr} {f : Nat → State} (hi : exec i s = .next (s.command h code fun q => if h.form = 0 then s.reply h code 1 [] else f q))
    (ok : commandOk s h code p) (hf : h.form = 1) (ht : f p = t) (hc : code < 0x8000 := by decide) : becomes i s t :=
  becomes_of_command hi ok ((if_neg (by omega)).trans ht) hc

theorem becomes_of_ctxCommand {i : Instr} {c : Ctx} {f : Ctx → State} (hi : exec i s = .next (s.ctxCommand h code f)) (on : onContext s h code c)
    (ht : f c = t) (hc : code < 0x8000 := by decide) : becomes i s t := by
  refine becomes_of_command hi on.1 ?_ hc
  simp only [on.2, ne_eq, not_true_eq_false, if_false, ht]
end

section
variable {s : State} {h : Hdr} {p : Nat}

/-! The almanac, the count of offered cores, and the engines' quanta (R272, R315, R322, R328, R330). -/

theorem almRead_becomes (u : UnitId) (ok : commandOk s h 0x0060 p) :
    becomes (.almRead h u) s (if unitOk u then s.reply h 0x0060 0 (almBytes u (s.alm u)) else s.reply h 0x0060 3 []) :=
  becomes_of_command rfl ok rfl

theorem almWrite_core_becomes {k f : Nat} (ok : commandOk s h 0x0061 p) (hk : Config.coordOk k = true) (hf : f ≤ 65535) :
    becomes (.almWrite h (.core k) f) s ((s.setAlm (.core k) fun a => { a with floor := f }).reply h 0x0061 0 []) := by
  refine becomes_of_command rfl ok ?_
  rw [if_neg (by simp [unitOk, hk]), if_neg (Nat.not_lt.2 hf), if_pos rfl]

theorem almWriteEcc_slice_becomes {k n : Nat} (ok : commandOk s h 0x0061 p) (hk : Config.coordOk k = true) (hn : n ≤ 1) :
    becomes (.almWriteEcc h (.slice k) n) s ((if n = 1 then s.startEcc (.slice k) else s).reply h 0x0061 0 []) := by
  refine becomes_of_command rfl ok ?_
  rw [if_neg (by simp [unitOk, hk]), if_neg (Nat.not_lt.2 hn)]
  simp only [Bool.true_and, decide_eq_true_eq]

theorem engineQ_becomes {die : Nat} {q : List Nat} (ok : commandOk s h 0x0088 p) (hf : h.form = 1) (hd : die < 4) (hl : q.length = 4)
    (hq : ∀ n ∈ q, n % 2048 = 0 ∧ 2048 ≤ n ∧ n ≤ 65536) :
    becomes (.engineQ h die q) s
      (((List.range 16).foldl (fun s e => s.modEngine (die * 16 + e) fun x => { x with quantum := q }) s).reply h 0x0088 0 []) := by
  refine becomes_of_command rfl ok (if_neg ?_)
  have fits : (q.any fun n => decide (n % 2048 ≠ 0) || decide (n < 2048) || decide (65536 < n)) = false :=
    List.any_eq_false.2 fun n hn => by simpa [and_assoc] using hq n hn
  rw [hf, hl, fits, Bool.or_false, decide_eq_false (Nat.not_le.2 hd)]
  decide

/-! Sparing (R325 to R328). -/

theorem spare_lane_becomes {l : LinkId} (ok : commandOk s h 0x0070 p) (hf : h.form = 1) (hl : linkOk l = true) :
    becomes (.spare h (.lane l)) s (if (s.link l).spareUsed then s.reply h 0x0070 4 [] else (s.failLane l).reply h 0x0070 0 []) :=
  becomes_of_expert rfl ok hf (if_neg (by rw [hl]; decide))

theorem spare_row_becomes {c l b row : Nat} (ok : commandOk s h 0x0070 p) (hf : h.form = 1) :
    becomes (.spare h (.row c l b row)) s
      (if unitOk (.bank c l b) = false then s.reply h 0x0070 3 []
       else if (.bank c l b, row) ∈ s.rowCopies ∨ (.bank c l b, row) ∈ s.flash.rows then s.reply h 0x0070 8 []
       else if (s.alm (.bank c l b)).spare = 0 then s.reply h 0x0070 4 []
       else (s.spareRow (.bank c l b) row).reply h 0x0070 0 []) := by
  refine becomes_of_expert rfl ok hf ?_
  simp only [Bool.not_eq_true', Bool.or_eq_true, List.contains_iff_mem]

theorem spare_line_becomes {c line : Nat} (ok : commandOk s h 0x0070 p) (hf : h.form = 1) :
    becomes (.spare h (.line c line)) s
      (if Config.coordOk c = false then s.reply h 0x0070 3 []
       else if (c, line) ∈ s.flash.tmLines then s.reply h 0x0070 8 []
       else if (s.alm (.teamMem c)).spare = 0 then s.reply h 0x0070 4 []
       else (s.spareTmLine c line).reply h 0x0070 0 []) := by
  refine becomes_of_expert rfl ok hf ?_
  simp only [Bool.not_eq_true', List.contains_iff_mem]
  rfl

theorem State.spareTmLine_of_spare {c line : Nat} (hs : (s.alm (.teamMem c)).spare ≠ 0) :
    s.spareTmLine c line = ({ s with flash := { s.flash with tmLines := s.flash.tmLines ++ [(c, line)] } } : State).setAlm (.teamMem c) fun a =>
      { a with spare := a.spare - 1 } :=
  if_pos (Nat.pos_of_ne_zero hs)

theorem State.spareTmLine_of_none {c line : Nat} (hs : (s.alm (.teamMem c)).spare = 0) : s.spareTmLine c line = s.startRetire c 5 :=
  if_neg (by omega)

theorem State.spareRow_eq (s : State) (u : UnitId) (row : Nat) :
    s.spareRow u row =
      if (u, row) ∈ s.rowCopies then s
      else if (s.rowCopies.filter fun x => x.1 = u).length < (s.alm u).spare then
        ({ s with rowCopies := s.rowCopies ++ [(u, row)] } : State).after 1 (.repairRowCopyComplete u row)
      else (Config.freeRowFrames (unitKey u) row).foldl (fun v f => v.retireFrame f) s := by
  simp only [State.spareRow, List.contains_iff_mem, beq_eq_decide]

/-! Retirement of cores and quadrants (R328, R329). -/

/-- What a RETIRE does with the cores it names (R334): it is refused where one is halted, and answered at once where none is left. -/
def State.retireAll (s : State) (h : Hdr) (p : Nat) (l : List Nat) (f : State → State) : State :=
  let left := l.filter fun c => (s.alm (.core c)).state ≠ 2
  if left.any fun c => s.coreHalted c then s.reply h 0x0071 7 []
  else if left.isEmpty then (f s).reply h 0x0071 0 []
  else f { s with retiring := s.retiring ++ [(Hdr.of h p, left)] }

theorem State.retireAll_of_halted {l : List Nat} {f : State → State}
    (hh : ∃ c ∈ l.filter fun c => (s.alm (.core c)).state ≠ 2, s.coreHalted c = true) : s.retireAll h p l f = s.reply h 0x0071 7 [] :=
  if_pos (List.any_eq_true.2 hh)

theorem State.retireAll_of_none {l : List Nat} {f : State → State} (hl : (l.filter fun c => (s.alm (.core c)).state ≠ 2) = []) :
    s.retireAll h p l f = (f s).reply h 0x0071 0 [] := by
  simp only [State.retireAll, hl, List.any_nil, Bool.false_eq_true, if_false, List.isEmpty_nil, if_true]

theorem State.retireAll_of_left {l left : List Nat} {f : State → State} (hl : (l.filter fun c => (s.alm (.core c)).state ≠ 2) = left) (hn : left ≠ [])
    (hh : ∀ c ∈ left, s.coreHalted c = false) :
    s.retireAll h p l f = f { s with retiring := s.retiring ++ [(Hdr.of h p, left)] } := by
  have running : (left.any fun c => s.coreHalted c) = false := List.any_eq_false.2 fun c hc => ne_true_of_eq_false (hh c hc)
  simp only [State.retireAll, hl, running, Bool.false_eq_true, if_false, List.isEmpty_iff, hn]

theorem retire_core_becomes {k : Nat} (ok : commandOk s h 0x0071 p) (hf : h.form = 1) (hk : Config.coordOk k = true) :
    becomes (.retire h (.core k)) s
      (if (s.alm (.core k)).state = 2 then s.reply h 0x0071 8 [] else s.retireAll h p [k] fun u => u.startRetire k 8) :=
  becomes_of_expert rfl ok hf (if_neg (by rw [hk]; decide))

theorem retire_quadrant_becomes {d q : Nat} (ok : commandOk s h 0x0071 p) (hf : h.form = 1) :
    becomes (.retire h (.quadrant d q)) s
      (if 4 ≤ d ∨ 4 ≤ q then s.reply h 0x0071 3 []
       else if (s.alm (.quadrant d q)).state = 2 then s.reply h 0x0071 8 []
       else s.retireAll h p ((Config.dieCoords d).filter fun c => quadrantOf c = q) fun u => u.retireQuadrant d q 8) := by
  refine becomes_of_expert rfl ok hf (if_congr ?_ rfl rfl)
  rw [Bool.or_eq_true, decide_eq_true_eq, decide_eq_true_eq]

theorem State.retireQuadrant_of_live {d q cause : Nat} (hq : (s.alm (.quadrant d q)).state ≠ 2) :
    s.retireQuadrant d q cause = ((Config.dieCoords d).filter fun c => quadrantOf c = q).foldl (fun v c => (v.startRetire c 9).retireSlice c 9)
      (s.setAlm (.quadrant d q) fun a => { a with state := 2, cause := cause, day := s.day }) :=
  if_neg hq

section
variable {k cause : Nat}

theorem State.startRetire_of_retired (hk : (s.alm (.core k)).state = 2) : s.startRetire k cause = s := if_pos hk

theorem State.startRetire_of_spare (hk : (s.alm (.core k)).state = 1) :
    s.startRetire k cause = (s.setAlm (.core k) fun a => { a with state := 2, cause := cause, day := s.day }).retireDone k :=
  (if_neg (by omega)).trans (if_pos hk)

theorem State.startRetire_of_service (h1 : (s.alm (.core k)).state ≠ 1) (h2 : (s.alm (.core k)).state ≠ 2) :
    let u := s.modCore k fun c => { c with retireAfter := some (if cause = 4 then 4 else c.retireAfter.getD cause) }
    s.startRetire k cause = if (s.core k).draining = true ∨ (s.core k).testing = true then u else u.drain k := by
  refine (if_neg h2).trans ((if_neg h1).trans ?_)
  simp only [Bool.or_eq_true]
end

/-! Rank maps and trees (R285, R286, R288, R343). -/

section
variable {c : Ctx} {x : RankBody}

/-- A context's endpoint for a rank stays by its new map. -/
def sameEnd (c : Ctx) (x : RankBody) (r : Nat) : Bool := (c.ranks.find? fun e => e.1 == r) == (x.endpoints.find? fun e => e.1 == r)

/-- The context has its new map, and the trees of its groups whose members moved are built anew (R288). -/
def State.remapped (s : State) (c : Ctx) (x : RankBody) : State :=
  let u := s.modCtx c.id fun y => { y with rank := x.rank, ranks := x.endpoints, hasRanks := true, lost := y.lost.filter (sameEnd c x) }
  ((u.groupsOf c).filter fun z => z.2.any fun r => !sameEnd c x r).foldl (fun v z => v.buildTree c.id z.1 z.2) u

theorem rankmap_none_becomes (on : onContext s h 0x0080 c) (hx : x.group = none) :
    becomes (.rankmap h x) s ((s.remapped c x).reply h 0x0080 0 []) := by
  refine becomes_of_ctxCommand rfl on ?_
  simp only [hx]
  rfl

theorem rankmap_group_becomes {g : Nat} {ms : List Nat} (on : onContext s h 0x0080 c) (hx : x.group = some (g, ms)) :
    becomes (.rankmap h x) s
      (if ¬ ∀ r ∈ ms, r = x.rank ∨ ∃ e ∈ x.endpoints, e.1 = r then s.reply h 0x0080 3 []
       else if s.treeFits { c with rank := x.rank, ranks := x.endpoints, hasRanks := true } g ms = false then s.reply h 0x0080 4 []
       else ((((s.remapped c x).modCtx c.id fun y =>
         { y with colls := (y.colls.filter fun (z : Nat × List Nat × Nat) => z.1 ≠ g) ++ [(g, ms, 0)] }).establish c.id g ms).reply h 0x0080 0 [])) := by
  refine becomes_of_ctxCommand rfl on ?_
  have known_iff : (ms.all fun r => decide (r = x.rank) || x.endpoints.any fun e => e.1 == r) = true ↔ ∀ r ∈ ms, r = x.rank ∨ ∃ e ∈ x.endpoints, e.1 = r := by
    simp only [List.all_eq_true, Bool.or_eq_true, decide_eq_true_eq, List.any_eq_true, beq_iff_eq]
  have others : (fun z : Nat × List Nat × Nat => decide (z.1 ≠ g)) = fun z => z.1 != g := by
    funext z
    rw [bne, beq_eq_decide, decide_not]
  simp only [hx]
  rw [others]
  by_cases hk : ∀ r ∈ ms, r = x.rank ∨ ∃ e ∈ x.endpoints, e.1 = r
  · rw [if_neg (not_not.2 hk), known_iff.2 hk]
    cases hfit : s.treeFits { c with rank := x.rank, ranks := x.endpoints, hasRanks := true } g ms
    · rfl
    · rfl
  · rw [if_pos hk, Bool.eq_false_iff.2 (known_iff.not.2 hk)]
    rfl

theorem State.groupsOf_eq_nil {u : State} (hc : c.colls = []) (hl : ∀ l ∈ u.launches, l.ctx ≠ c.id ∨ l.completed = true ∨ l.body.cgrp = 0) :
    u.groupsOf c = [] := by
  have plainOnly : (u.launches.filter fun l => l.ctx == c.id && !l.completed && l.established && l.body.cgrp ≠ 0) = [] := by
    refine List.filter_eq_nil_iff.2 fun l hm hit => ?_
    simp only [Bool.and_eq_true, beq_iff_eq, Bool.not_eq_true', decide_eq_true_eq] at hit
    obtain ⟨⟨⟨own, live⟩, -⟩, coll⟩ := hit
    rcases hl l hm with other | done | plain
    · exact other own
    · exact absurd done (ne_true_of_eq_false live)
    · exact coll plain
  rw [State.groupsOf, hc, plainOnly]
  rfl

/-- Without groups, a new map builds no tree anew. -/
theorem State.remapped_of_alone (hn : c.colls = []) (hl : ∀ l ∈ s.launches, l.ctx ≠ c.id ∨ l.completed = true ∨ l.body.cgrp = 0) :
    s.remapped c x = s.modCtx c.id fun y => { y with rank := x.rank, ranks := x.endpoints, hasRanks := true, lost := y.lost.filter (sameEnd c x) } := by
  have alone : (s.modCtx c.id fun y => { y with rank := x.rank, ranks := x.endpoints, hasRanks := true, lost := y.lost.filter (sameEnd c x) }).groupsOf c = [] :=
    State.groupsOf_eq_nil hn hl
  rw [State.remapped, alone]
  rfl

theorem tree_unknown_becomes {g : Nat} (on : onContext s h 0x0081 c) (hg : ∀ x ∈ s.groupsOf c, x.1 ≠ g) :
    becomes (.tree h g none) s (s.reply h 0x0081 3 []) := by
  refine becomes_of_ctxCommand rfl on (if_pos ?_)
  rw [Bool.not_eq_true', List.any_eq_false]
  exact fun x hx => by rw [beq_iff_eq]; exact hg x hx

theorem groupsOf_known {g : Nat} (hg : ∃ x ∈ s.groupsOf c, x.1 = g) : ¬ (!(s.groupsOf c).any fun x => x.1 == g) = true := by
  obtain ⟨x, hx, rfl⟩ := hg
  rw [List.any_eq_true.2 ⟨x, hx, beq_self_eq_true x.1⟩]
  decide

theorem tree_read_becomes {g : Nat} (on : onContext s h 0x0081 c) (hg : ∃ x ∈ s.groupsOf c, x.1 = g) :
    let es := (List.range 12).flatMap fun n => ((s.switch n).entries.filter fun e => e.cgrp == g).map fun e => (n, e)
    becomes (.tree h g none) s
      (s.reply h 0x0081 0 (bytesOfNat 4 (s.homeOf g) ++ bytesOfNat 4 es.length ++ es.flatMap fun x => bytesOfNat 8 x.1 ++ bytesOfNat 8 (TreeEntry.word x.2))) :=
  becomes_of_ctxCommand rfl on (if_neg (groupsOf_known hg))

theorem tree_write_becomes {g sw : Nat} {e : TreeEntry} (on : onContext s h 0x0081 c) (hg : ∃ x ∈ s.groupsOf c, x.1 = g) :
    becomes (.tree h g (some (sw, e))) s
      (if h.form = 0 ∨ 12 ≤ sw ∨ e.cgrp ≠ g then s.reply h 0x0081 1 []
       else if 64 ≤ ((s.switch sw).entries.filter fun y => y.cgrp ≠ g).length then s.reply h 0x0081 4 []
       else (s.modSwitch sw fun w => { w with entries := ((s.switch sw).entries.filter fun y => y.cgrp ≠ g) ++ [e] }).reply h 0x0081 0 []) := by
  refine becomes_of_ctxCommand rfl on ((if_neg (groupsOf_known hg)).trans ?_)
  simp only [bne, beq_eq_decide, decide_not, Bool.or_eq_true, decide_eq_true_eq, or_assoc, ne_eq, Bool.not_eq_true', decide_eq_false_iff_not]
end
end

/-- R272, R286, R315, R322, R328, R330, R343, R346. -/
theorem almanacMapsAndTrees : Claims.almanacMapsAndTrees := by
  intro s h p
  refine ⟨fun u ok => ?almRead, fun k f ok hk hf => almWrite_core_becomes ok hk hf, fun k ok hk => ?almEcc, fun ok => ?health, fun l ok hf hl => ?lane,
    fun k ok hf hk => ?core, fun x c on hx hc hl => ?rankmap, fun g c on => ⟨tree_unknown_becomes on, tree_read_becomes on⟩,
    fun die q ok hf hd hl hq => engineQ_becomes ok hf hd hl hq⟩
  case almRead =>
    have read := almRead_becomes u ok
    exact ⟨fun hu => by rwa [if_pos hu] at read, fun hu => by rwa [if_neg (ne_true_of_eq_false hu)] at read⟩
  case almEcc =>
    exact ⟨almWriteEcc_slice_becomes (n := 1) ok hk (by decide), almWriteEcc_slice_becomes (n := 0) ok hk (by decide)⟩
  case health =>
    refine ⟨becomes_of_command rfl ok rfl, fun d hf hd => becomes_of_command rfl ok (if_neg ?_)⟩
    simp [hf, Nat.ne_of_gt hd]
  case lane =>
    have spared := spare_lane_becomes ok hf hl
    exact ⟨fun hu => by rwa [if_neg (ne_true_of_eq_false hu)] at spared, fun hu => by rwa [if_pos hu] at spared⟩
  case core =>
    have retired := retire_core_becomes ok hf hk
    refine ⟨fun h2 => by rwa [if_pos h2] at retired, fun h2 running => ?_⟩
    have left : ([k].filter fun c => (s.alm (.core c)).state ≠ 2) = [k] := List.filter_cons_of_pos (decide_eq_true h2)
    rwa [if_neg h2, State.retireAll_of_left left (List.cons_ne_nil k []) fun c hc => List.mem_singleton.1 hc ▸ running] at retired
  case rankmap =>
    have mapped := rankmap_none_becomes on hx
    rwa [State.remapped_of_alone hc hl] at mapped

/-- R180, R286, R288, R322, R325, R326, R328, R329, R343, R346, R355. -/
theorem sparingRetirementAndGroups : Claims.sparingRetirementAndGroups := by
  intro s h p
  refine ⟨fun c l b row ok hf => ?row, fun u row => ?spareRow, fun c line ok hf => ?line, fun d q ok hf => ?quadrant,
    fun k cause => ⟨State.startRetire_of_retired, State.startRetire_of_spare, fun h1 h2 => ?start⟩, fun x c g ms on hx => ?rankmap, fun g sw e c on hg => ?tree⟩
  case row =>
    intro u known
    have spared := spare_row_becomes (c := c) (l := l) (b := b) (row := row) ok hf
    refine ⟨fun hu => ?_, fun hu hk => ?_, fun hu hk hs => ?_, fun hu hk hs => ?_⟩
    · rwa [if_pos hu] at spared
    all_goals rw [if_neg (ne_false_of_eq_true hu)] at spared
    · rwa [if_pos hk] at spared
    all_goals rw [if_neg hk] at spared
    · rwa [if_pos hs] at spared
    · rwa [if_neg hs] at spared
  case spareRow =>
    rw [State.spareRow_eq]
    exact ⟨fun hc => if_pos hc, fun hc room => (if_neg hc).trans (if_pos room), fun hc full => (if_neg hc).trans (if_neg (Nat.not_lt.2 full))⟩
  case line =>
    intro u
    have spared := spare_line_becomes (c := c) (line := line) ok hf
    refine ⟨fun hu => ?_, fun hu hk => ?_, fun hu hk hs => ?_, fun hu hk hs => ?_, State.spareTmLine_of_none⟩
    · rwa [if_pos hu] at spared
    all_goals rw [if_neg (ne_false_of_eq_true hu)] at spared
    · rwa [if_pos hk] at spared
    all_goals rw [if_neg hk] at spared
    · rwa [if_pos hs] at spared
    · rwa [if_neg hs, State.spareTmLine_of_spare hs] at spared
  case quadrant =>
    intro cs left go
    have retired := retire_quadrant_becomes (d := d) (q := q) ok hf
    refine ⟨fun out => ?_, fun hd hq => ⟨fun h2 => ?_, fun h2 => ⟨fun halted => ?_, fun running => ⟨fun hl => ?_, fun hl => ?_⟩⟩⟩, State.retireQuadrant_of_live⟩
    · rwa [if_pos out] at retired
    all_goals rw [if_neg (by omega)] at retired
    · rwa [if_pos h2] at retired
    all_goals rw [if_neg h2] at retired
    · rwa [State.retireAll_of_halted halted] at retired
    · rwa [State.retireAll_of_none hl] at retired
    · rwa [State.retireAll_of_left rfl hl running] at retired
  case start =>
    intro u
    have started := State.startRetire_of_service (cause := cause) h1 h2
    exact ⟨fun busy => started.trans (if_pos busy), fun hd ht => started.trans (if_neg (by rw [hd, ht]; decide))⟩
  case rankmap =>
    intro map known same u v
    have mapped := rankmap_group_becomes on hx
    refine ⟨fun hk => ?_, fun hk fits => ?_, fun hk fits => ?_⟩
    · rwa [if_pos hk] at mapped
    all_goals rw [if_neg (not_not.2 hk)] at mapped
    · rwa [if_pos fits] at mapped
    · rwa [if_neg (ne_false_of_eq_true fits)] at mapped
  case tree =>
    intro rest
    have written := tree_write_becomes (sw := sw) (e := e) on hg
    refine ⟨fun bad => by rwa [if_pos bad] at written, fun hf hsw hc => ?_⟩
    rw [if_neg (by omega)] at written
    exact ⟨fun full => by rwa [if_pos full] at written, fun room => by rwa [if_neg (Nat.not_le.2 room)] at written⟩

/-- Settles O46: each command passes its header's checks once, and is then told by the branches of its own. -/
theorem serviceCommands : Obligations.serviceCommands := ⟨almanacMapsAndTrees, sparingRetirementAndGroups⟩

end Sys2Proof.Machine
end

section
/-! SUPPORT. The throws and stalls of the control words, and the targets that they name (R107, R199, R201, R202). -/
namespace Sys2Proof.Machine

section
variable {s : State} {op : Op} {w : Full} {c : Cur} {i : Iss} {core : Core}

/-- A word that is illegal for its operands throws E_ILLEGAL in every guarded lane, with its parcels as value (R199). -/
theorem AtIssue.illegalGuard_eq (h : AtIssue s op w c i core) :
    illegalGuard i = .throws (i.lanes.map fun l => ⟨l, 0x01, c.pc, rawValue c.raw⟩) := by
  rw [illegalGuard, h.pc, h.raw]
  rfl

theorem AtIssue.guardThrow_eq (h : AtIssue s op w c i core) (code value : Nat) :
    guardThrow i code value = .throws (i.lanes.map fun l => ⟨l, code, c.pc, BitVec.ofNat 64 value⟩) := by
  rw [guardThrow, h.pc]

/-- The target of a relative word, by its exact value (R201). -/
theorem AtIssue.relTarget_eq (h : AtIssue s op w c i core) (o : Opnd) : relTarget i o = branchTarget c ((i.rdOnce o).setWidth 32) := by
  have sum : BitVec.ofNat 32 i.cur.pc + 4 * (i.rdOnce o).setWidth 32 = BitVec.ofInt 32 (i.cur.pc + 4 * ((i.rdOnce o).setWidth 32).toInt) := by
    rw [BitVec.ofInt_add, BitVec.ofInt_mul, BitVec.ofInt_natCast, BitVec.ofInt_toInt]
    rfl
  rw [relTarget, sum, BitVec.toNat_ofInt, h.pc]
  rfl

/-- A word whose meaning stalls is asked again (R36, R39). -/
theorem AtIssue.execFull_stalls {body : Iss → State → Body} (h : AtIssue s op w c i core) (hw : ¬ onlyWaits op w c i)
    (hb : body i (s.entered c i core) = .stall) :
    execFull op (issueKind op w) body w s = .next (s.issueStalls c i.t.coord i.gr.quarter) := by
  rw [execFull_next h.cur, h.issueFull_stalls hw hb]

end

theorem targetCode_eq_none_iff {size x : Nat} : targetCode size x = none ↔ x % 4 = 0 ∧ x < size := by
  unfold targetCode
  split_ifs with h4 hs
  · exact ⟨nofun, fun fine => absurd fine.1 h4⟩
  · exact ⟨nofun, fun fine => absurd fine.2 (Nat.not_lt.2 hs)⟩
  · exact ⟨fun _ => ⟨not_not.1 h4, Nat.lt_of_not_le hs⟩, fun _ => rfl⟩

theorem eq_of_targetCode {size x k : Nat} (h : targetCode size x = some k) : k = 0x05 ∧ x % 4 ≠ 0 ∨ k = 0x06 ∧ size ≤ x := by
  unfold targetCode at h
  split_ifs at h with h4 hs
  · exact .inl ⟨(Option.some.inj h).symm, h4⟩
  · exact .inr ⟨(Option.some.inj h).symm, hs⟩

/-- The lanes whose target is no instruction address of the image, as the model lists them. -/
def badLanes (size : Nat) (lanes : List Nat) (tg : Nat → Nat) : List (Nat × Nat × Nat) :=
  (lanes.map fun l => (l, tg l)).filterMap fun x => (badTarget size x.2).map fun k => (x.1, k, x.2)

theorem badLanes_eq_nil_iff {size : Nat} {lanes : List Nat} {tg : Nat → Nat} :
    badLanes size lanes tg = [] ↔ ∀ l ∈ lanes, targetCode size (tg l) = none := by
  simp only [badLanes, List.filterMap_eq_nil_iff, List.forall_mem_map, Option.map_eq_none_iff]
  rfl

theorem throwsOf_badLanes (pc size : Nat) (lanes : List Nat) (tg : Nat → Nat) :
    throwsOf pc (badLanes size lanes tg) =
      lanes.filterMap fun l => (targetCode size (tg l)).map fun k => ⟨l, k, pc, BitVec.ofNat 64 (tg l)⟩ := by
  simp only [throwsOf, badLanes, List.filterMap_map, List.map_filterMap, Option.map_map, Function.comp_def]
  rfl

end Sys2Proof.Machine
end

section
/-! SUPPORT. BRA (R201; O11). -/
namespace Sys2Proof.Machine

section
variable {s u : State} {op : Op} {w : Full} {c : Cur} {i : Iss} {core : Core}

theorem bodyBra_of_lands (h : AtIssue s op w c i core) (hx : i.lanes = [] ∨ branchTarget c ((i.rdOnce i.w.a).setWidth 32) < u.codeSize i.t) :
    bodyBra i u = .ok (if i.lanes = [] then u else goTo u c.g (i.lanes.map fun l => (l, branchTarget c ((i.rdOnce i.w.a).setWidth 32)))) := by
  unfold bodyBra
  extract_lets x
  have target : x = branchTarget c ((i.rdOnce i.w.a).setWidth 32) := h.relTarget_eq _
  by_cases hl : i.lanes = []
  · rw [if_pos (List.isEmpty_iff.2 hl), if_pos hl]
  · rw [if_neg (mt List.isEmpty_iff.1 hl), if_neg hl, target, if_neg (Nat.not_le.2 (hx.resolve_left hl)), h.g]
    rfl

theorem bodyBra_of_leaves (h : AtIssue s op w c i core) (hl : i.lanes ≠ []) (hx : u.codeSize i.t ≤ branchTarget c ((i.rdOnce i.w.a).setWidth 32)) :
    bodyBra i u = .throws (i.lanes.map fun l => ⟨l, 0x06, c.pc, BitVec.ofNat 64 (branchTarget c ((i.rdOnce i.w.a).setWidth 32))⟩) := by
  unfold bodyBra
  rw [if_neg (mt List.isEmpty_iff.1 hl), h.relTarget_eq, if_pos hx, h.guardThrow_eq]
  rfl
end

/-- Settles O11: the model's wrapping sum is the exact target mod 2^32, which lies in the image or is thrown. -/
theorem branchesGoToTheirTarget : Obligations.branchesGoToTheirTarget := by
  refine ⟨fun s w c i core h hw => ?_, fun off s => rfl⟩
  obtain rfl := h.w_eq
  exact ⟨fun hx => execFull_ok h hw (body := bodyBra) (bodyBra_of_lands h hx) (f := fun u => if i.lanes = [] then u else goTo u c.g _),
    fun hl hx => h.execFull_throws hw (body := bodyBra) (bodyBra_of_leaves h hl hx)⟩
end Sys2Proof.Machine
end

section
/-! SUPPORT. A word that throws leaves the PC of every lane (R107; O12). -/
namespace Sys2Proof.Machine

/-- The PCs of every group's lanes, by team and slot. -/
def State.pcs (s : State) : List (Nat × List (Nat × Sparse W32)) := s.teams.map fun t => (t.id, t.groups.map fun y => (y.slot, y.pcs))

/-- What the machine shows of the PC of a group's lane. -/
theorem State.group?_map_pc (s : State) (g : GRef) (l : Nat) :
    (s.group? g).map (fun y => y.pc l) =
      ((s.pcs.find? fun x => x.1 == g.team).bind fun x => x.2.find? fun y => y.1 == g.slot).map fun y => spGet 0 y.2 l := by
  unfold State.pcs State.group? State.team? Team.group?
  rw [List.find?_map]
  simp only [Function.comp_def]
  cases s.teams.find? fun x => x.id == g.team with
  | none => rfl
  | some t =>
    simp only [Option.map_some, Option.bind_some, List.find?_map, Option.map_map, Function.comp_def]
    rfl

theorem State.pcs_mapTeams (s : State) {f : Team → Team} (hf : ∀ t, (f t).id = t.id ∧ (f t).groups.map (fun y => (y.slot, y.pcs)) = t.groups.map fun y => (y.slot, y.pcs)) :
    State.pcs { s with teams := s.teams.map f } = s.pcs := by
  unfold State.pcs
  rw [List.map_map]
  refine List.map_congr_left fun t _ => ?_
  rw [Function.comp_apply, (hf t).1, (hf t).2]

theorem State.pcs_modGroup (s : State) (g : GRef) {f : Group → Group} (hf : ∀ y, (f y).slot = y.slot ∧ (f y).pcs = y.pcs := by exact fun _ => ⟨rfl, rfl⟩) :
    (s.modGroup g f).pcs = s.pcs := by
  refine s.pcs_mapTeams fun t => ?_
  split
  · refine ⟨rfl, List.map_map.trans (List.map_congr_left fun y _ => ?_)⟩
    rw [Function.comp_apply]
    split
    · rw [(hf y).1, (hf y).2]
    · rfl
  · exact ⟨rfl, rfl⟩

theorem State.pcs_foldl {α : Type} {f : State → α → State} (hf : ∀ u x, (f u x).pcs = u.pcs) (l : List α) (s : State) : (l.foldl f s).pcs = s.pcs := by
  induction l generalizing s with
  | nil => rfl
  | cons x l ih => rw [List.foldl_cons, ih, hf]

section
variable (s : State) (g : GRef)

theorem State.pcs_throwInto (r : RegionId) (x : Rec) (inst : Option Nat) : (s.throwInto r x inst).pcs = s.pcs := by
  unfold State.throwInto
  split
  · exact (apply_ite State.pcs _ _ _).trans (ite_self _)
  · rfl

theorem State.pcs_noteTask (t : Team) (r : RegionId) : (s.noteTask t r).pcs = s.pcs := by
  unfold State.noteTask
  split <;> rfl

theorem State.pcs_raiseAt (cc : Nat) (l : List LaneThrow) : (s.raiseAt g cc l).pcs = s.pcs := by
  unfold State.raiseAt
  split
  · exact State.pcs_foldl (fun u _ => (State.pcs_throwInto _ _ _ _).trans (u.pcs_noteTask _ _)) l s
  · rfl

theorem State.pcs_raiseLive (cc code : Nat) (x : W64) : (s.raiseLive g cc code x).pcs = s.pcs := by
  unfold State.raiseLive
  split
  · exact s.pcs_raiseAt _ _ _
  · rfl

theorem State.pcs_raiseWork (b : Starter) (cc code : Nat) (x : W64) (flags : Nat) : (s.raiseWork b cc code x flags).pcs = s.pcs := by
  unfold State.raiseWork
  split
  · exact State.pcs_foldl (fun u _ => (State.pcs_throwInto _ _ _ _).trans (u.pcs_noteTask _ _)) _ s
  · rfl

theorem State.pcs_payOwed : (s.payOwed g).pcs = s.pcs := by
  unfold State.payOwed
  split
  · refine (State.pcs_foldl (fun u x => ?_) _ _).trans (s.pcs_modGroup g)
    split
    · exact u.pcs_raiseWork _ _ _ _ _
    · exact u.pcs_raiseLive _ _ _ _
  · rfl

theorem State.pcs_ageOthers (coord quarter rank : Nat) : (s.ageOthers coord quarter rank g).pcs = s.pcs := by
  refine State.pcs_foldl (fun u t => State.pcs_foldl (fun v y => ?_) _ u) _ s
  dsimp only
  split
  · exact v.pcs_modGroup _
  · exact v.pcs_modGroup _

theorem State.pcs_notify (ctx code : Nat) (body : List Byte) : (s.notify ctx code body).pcs = s.pcs := by
  unfold State.notify State.notifyTo
  dsimp only
  split
  · rfl
  · exact (apply_ite State.pcs _ _ _).trans (ite_self _)

theorem State.pcs_haltGroup (reason tag : Nat) : (s.haltGroup g reason tag).pcs = s.pcs := by
  unfold State.haltGroup
  split
  · split
    · rfl
    · exact (State.pcs_notify _ _ _ _).trans (s.pcs_modGroup g)
  · rfl

theorem Team.clearYield_pcs (quarter role : Nat) (t : Team) :
    (t.clearYield quarter role).groups.map (fun y => (y.slot, y.pcs)) = t.groups.map fun y => (y.slot, y.pcs) := by
  rw [Team.clearYield, List.map_map]
  refine List.map_congr_left fun y _ => ?_
  rw [Function.comp_apply]
  split <;> rfl

theorem State.pcs_issued (c : Cur) (width quarter role : Nat) (x yld : Bool) (gap coord : Nat) :
    (s.issued g c width quarter role x yld gap coord).pcs = s.pcs := by
  unfold State.issued
  extract_lets e aged busy cleared issued told
  have aged_pcs : aged.pcs = s.pcs := (apply_ite State.pcs _ _ _).trans (by rw [State.pcs_ageOthers, ite_self])
  have cleared_pcs : cleared.pcs = busy.pcs := by
    refine busy.pcs_mapTeams fun t => ?_
    split
    · exact ⟨rfl, t.clearYield_pcs _ _⟩
    · exact ⟨rfl, rfl⟩
  have issued_pcs : issued.pcs = cleared.pcs := cleared.pcs_modGroup g
  have told_pcs : told.pcs = issued.pcs := by
    unfold told
    split
    · exact (apply_ite State.pcs _ _ _).trans (by rw [State.pcs_haltGroup, ite_self])
    · rfl
  calc _ = told.pcs := told.pcs_payOwed g
    _ = busy.pcs := by rw [told_pcs, issued_pcs, cleared_pcs]
    _ = s.pcs := aged_pcs

theorem State.pcs_issueThrows (c : Cur) (gr : Group) (coord : Nat) (x yld : Bool) (gap : Nat) (l : List LaneThrow) :
    (s.issueThrows c gr coord x yld gap l).pcs = s.pcs := by
  have ticks (y : Group) : (y.tickDefer.leaveCatch c.exec).slot = y.slot ∧ (y.tickDefer.leaveCatch c.exec).pcs = y.pcs := by
    have pending : y.endDefer.slot = y.slot ∧ y.endDefer.pcs = y.pcs := by
      unfold Group.endDefer
      split <;> exact ⟨rfl, rfl⟩
    exact pending
  calc _ = _ := State.pcs_raiseAt _ _ _ _
    _ = _ := State.pcs_issued _ _ _ _ _ _ _ _ _ _
    _ = s.pcs := s.pcs_modGroup _ ticks
end

end Sys2Proof.Machine
end

section
/-! SUPPORT. Jumps, calls and returns (R202, R203; O12, O13). -/
namespace Sys2Proof.Machine

section
variable {s u : State} {op : Op} {w : Full} {c : Cur} {i : Iss} {core : Core}

/-- The target of a JMPI's lane (R202). -/
def jmpiTarget (i : Iss) (l : Nat) : Nat := (i.rd32 l i.w.a).toNat

theorem bodyJmpi_of_sound (h : AtIssue s op w c i core) (ht : ∀ l ∈ i.lanes, targetCode (u.codeSize i.t) (jmpiTarget i l) = none) :
    bodyJmpi i u = .ok (goTo u c.g (i.lanes.map fun l => (l, jmpiTarget i l))) := by
  have sound : badLanes (u.codeSize i.t) i.lanes (jmpiTarget i) = [] := badLanes_eq_nil_iff.2 ht
  rw [← h.g]
  exact if_pos (List.isEmpty_iff.2 sound)

theorem bodyJmpi_of_bad (h : AtIssue s op w c i core) (ht : ∃ l ∈ i.lanes, targetCode (u.codeSize i.t) (jmpiTarget i l) ≠ none) :
    bodyJmpi i u = .throws (i.lanes.filterMap fun l => (targetCode (u.codeSize i.t) (jmpiTarget i l)).map fun k => ⟨l, k, c.pc, BitVec.ofNat 64 (jmpiTarget i l)⟩) := by
  have bad : badLanes (u.codeSize i.t) i.lanes (jmpiTarget i) ≠ [] := fun hn => by
    obtain ⟨l, hl, hne⟩ := ht
    exact hne (badLanes_eq_nil_iff.1 hn l hl)
  rw [← throwsOf_badLanes, ← h.pc]
  exact if_neg (mt List.isEmpty_iff.1 bad)
end

/-- R202, R107. -/
theorem jmpiSetsEachLanesPc : Claims.jmpiSetsEachLanesPc := by
  intro s w c i core h hw size tg
  obtain rfl := h.w_eq
  exact ⟨fun ht => execFull_ok h hw (body := bodyJmpi) (bodyJmpi_of_sound h ht) (f := fun u => goTo u c.g _),
    fun ht => h.execFull_throws hw (body := bodyJmpi) (bodyJmpi_of_bad h ht)⟩

/-- Settles O12: a lane's target has no code of failure just when it is an aligned offset of the image, and a throw keeps every group's PCs. -/
theorem jmpiGoesToEachLanesTarget : Obligations.jmpiGoesToEachLanesTarget := by
  intro s w c i core h hw size tg
  obtain ⟨jumps, throws⟩ := jmpiSetsEachLanesPc s w c i core h hw
  refine ⟨fun ht => jumps fun l hl => targetCode_eq_none_iff.2 (ht l hl), ?_⟩
  rintro ⟨l, hl, hn⟩
  have bad : targetCode size (tg l) ≠ none := mt targetCode_eq_none_iff.1 hn
  refine ⟨_, _, throws ⟨l, hl, bad⟩, rfl, ?_, ?_, fun g l => ?_⟩
  · obtain ⟨k, hk⟩ := Option.ne_none_iff_exists'.1 bad
    exact List.ne_nil_of_mem (List.mem_filterMap.2 ⟨l, hl, by rw [hk]; rfl⟩)
  · intro x hx
    obtain ⟨l, hl, hm⟩ := List.mem_filterMap.1 hx
    obtain ⟨k, hk, rfl⟩ := Option.map_eq_some_iff.1 hm
    exact ⟨hl, eq_of_targetCode hk⟩
  · rw [State.group?_map_pc, State.group?_map_pc, State.pcs_issueThrows]

section
variable {s u : State} {op : Op} {w : Full} {c : Cur} {i : Iss} {core : Core}

/-- The access of a lane to its return slot, of 4 bytes in team memory (R203). -/
def returnSlot (i : Iss) (data l : Nat) : Acc := { lane := l, addr := addrOf i l 4 i.disp, size := 4, data := data }
/-- CALL stores the offset after it, RET loads the lanes' PCs. -/
def callWord (c : Cur) (i : Iss) : MemForm := ⟨.st none, 1, .none, i.lanes.map (returnSlot i ((c.pc + c.len) % 2 ^ 32)), []⟩
def retWord (c : Cur) (i : Iss) : MemForm := ⟨.ld none, 1, .pc c.exec c.len, i.lanes.map (returnSlot i 0), []⟩
/-- The target of a CALL's lane (R203). -/
def callTarget (c : Cur) (i : Iss) (l : Nat) : Nat :=
  if i.w.sub = 0 then branchTarget c ((i.rdOnce i.w.d).setWidth 32) else (i.rd32 l i.w.d).toNat

theorem bodyCall_of_pass (h : AtIssue s op w c i core) (hp : accessesPass u c i (callWord c i) false true)
    (ht : ∀ l ∈ i.lanes, targetCode (u.codeSize i.t) (callTarget c i l) = none) :
    bodyCall i u = (callWord c i).start i (goTo u c.g (i.lanes.map fun l => (l, callTarget c i l))) := by
  have lanes := hp.lanes_ne_nil rfl
  obtain ⟨-, order, slots, checks, -⟩ := hp
  unfold bodyCall
  extract_lets tg bad accs
  have targets : tg = i.lanes.map fun l => (l, callTarget c i l) := by
    unfold tg callTarget
    rw [h.relTarget_eq]
  have sound : bad = [] := by
    unfold bad
    rw [targets]
    exact badLanes_eq_nil_iff.2 ht
  have form : accs = (callWord c i).accs := by
    unfold accs
    rw [h.pc, h.len]
    rfl
  have some_ : accs.isEmpty = false := List.isEmpty_map.trans lanes
  have held : u.orderHold i.g true = false := h.g ▸ order
  have free : u.noSlots i.t.coord (accSlots accs) = false := form ▸ slots
  have pass : stepChecks u i.t i.cur.pc 1 false accs = [] := h.pc ▸ form ▸ checks
  rw [some_, held, free, pass, sound, targets, form, h.g]
  rfl

theorem bodyRet_of_pass (h : AtIssue s op w c i core) (hp : accessesPass u c i (retWord c i) true false) :
    bodyRet i u = (retWord c i).start i (goTo u c.g (i.lanes.map fun l => (l, c.pc))) := by
  have lanes := hp.lanes_ne_nil rfl
  obtain ⟨-, order, slots, checks, -⟩ := hp
  unfold bodyRet
  extract_lets accs
  have some_ : accs.isEmpty = false := List.isEmpty_map.trans lanes
  have held : u.orderHold i.g false = false := h.g ▸ order
  have free : u.noSlots i.t.coord (accSlots accs) = false := slots
  have pass : stepChecks u i.t i.cur.pc 1 true accs = [] := h.pc ▸ checks
  rw [some_, held, free, pass, h.pc, h.exec, h.len, h.g]
  rfl
end

/-- R203. -/
theorem callsAndReturns : Claims.callsAndReturns := by
  intro s w c i core acc
  refine ⟨fun h hw => ?call, fun h hw => ?ret⟩
  case call =>
    intro u f tg hp ht
    obtain rfl := h.w_eq
    refine execFull_ok h hw (body := bodyCall) ((bodyCall_of_pass h hp ht).trans ?_) (f := fun u => _)
    exact startWord_local h Nat.one_ne_zero fun hr => absurd hr Bool.false_ne_true
  case ret =>
    intro u f u' hp present
    obtain rfl := h.w_eq
    refine execFull_ok h hw (body := bodyRet) ((bodyRet_of_pass h hp).trans ?_) (f := fun _ => _)
    exact startWord_local h Nat.one_ne_zero fun _ => present

/-- Settles O13: JMPI by its targets' codes; CALL and RET, their checks passed, start on their accesses once the lanes have moved. -/
theorem jumpsCallsAndReturns : Obligations.jumpsCallsAndReturns := ⟨jmpiSetsEachLanesPc, callsAndReturns⟩
end Sys2Proof.Machine
end

section
/-! SUPPORT. Barriers and waits on counters (R206, R207, R209; O14). -/
namespace Sys2Proof.Machine

section
variable {s u : State} {op : Op} {w : Full} {c : Cur} {i : Iss} {core : Core} {cl : Bool}

/-- The state of a barrier word's id, as it issues (R206, R207). -/
def barOf (cl : Bool) (i : Iss) : BarSt := spGet {} (if cl then i.t.barcs else i.t.bars) (i.rdOnce i.w.a).toNat

/-- A barrier word names an id and a count that fit the arrivals so far. -/
def barFine (cl : Bool) (i : Iss) : Prop :=
  (i.rdOnce i.w.b).toNat ≤ 32 ∧ (i.rdOnce i.w.a).toNat ≤ (if cl then 7 else 15) ∧ ((i.rdOnce i.w.b).toNat = 0 → i.gr.spawned = false) ∧
    ((barOf cl i).count = none ∨ (barOf cl i).count = some (i.rdOnce i.w.b).toNat)

/-- A group arrives: it is counted under its id, fixes the count, and parks until all have arrived. -/
def State.arrive (u : State) (cl : Bool) (c : Cur) (i : Iss) : State :=
  let id := (i.rdOnce i.w.a).toNat
  let b := { barOf cl i with count := some (i.rdOnce i.w.b).toNat, arrived := (barOf cl i).arrived ++ [(i.gr.slot, u.nextId)] }
  let v := u.modTeam i.t.id fun t => if cl then { t with barcs := spPut {} t.barcs id b } else { t with bars := spPut {} t.bars id b }
  (v.park c.g (if cl then .barc id b.inst else .bar id b.inst) (v.starter c.g (maskOf i.lanes) c.pc)).evalBars

theorem AtIssue.barBody_eq (h : AtIssue s op w c i core) (hl : i.lanes ≠ []) (cl : Bool) (u : State) :
    (¬ barFine cl i → barBody cl i u = illegalGuard i) ∧ (barFine cl i → barBody cl i u = .ok (u.arrive cl c i)) := by
  unfold barBody
  extract_lets id cnt st clash st' v
  have counts : clash = false ↔ st.count = none ∨ st.count = some cnt := by
    unfold clash
    cases st.count <;> simp
  have fine : (decide (32 < cnt) || decide ((if cl then 7 else 15) < id) || (decide (cnt = 0) && i.gr.spawned) || clash) = false ↔ barFine cl i := by
    simp only [Bool.or_eq_false_iff, decide_eq_false_iff_not, Nat.not_lt, Bool.and_eq_false_imp, decide_eq_true_eq, and_assoc, counts]
    rfl
  rw [if_neg (mt List.isEmpty_iff.1 hl)]
  refine ⟨fun hf => if_pos (eq_true_of_ne_false (mt fine.1 hf)), fun hf => (if_neg (ne_true_of_eq_false (fine.2 hf))).trans ?_⟩
  rw [h.g, h.pc]
  rfl
end

/-- R206, R207. -/
theorem barriersArriveAndPark : Claims.barriersArriveAndPark := by
  intro op hop s w c i core h hw hl id n b fine
  obtain rfl := h.w_eq
  have body (cl : Bool) (hk : exec (.ofFull op i.w) s = execFull op (issueKind op i.w) (barBody cl) i.w s) (hx : classX op = false) :
      (¬ barFine cl i → exec (.ofFull op i.w) s = .next (s.issueThrows c i.gr i.t.coord false i.w.yld i.w.gap.toNat
        (i.lanes.map fun l => ⟨l, 0x01, c.pc, rawValue c.raw⟩))) ∧
      (barFine cl i → exec (.ofFull op i.w) s = .next (issuedWith s op i.w c i core fun u => u.arrive cl c i)) := by
    obtain ⟨unfit, fit⟩ := h.barBody_eq hl cl (s.entered c i core)
    rw [hk, ← hx]
    exact ⟨fun hf => h.execFull_throws hw ((unfit hf).trans h.illegalGuard_eq), fun hf => execFull_ok h hw (fit hf) (f := fun u => u.arrive cl c i)⟩
  simp only [List.mem_cons, List.not_mem_nil, or_false] at hop
  rcases hop with rfl | rfl
  · exact body false rfl rfl
  · exact body true rfl rfl

section
variable {s u : State} {op : Op} {w : Full} {c : Cur} {i : Iss} {core : Core}

/-- The one access of a WAITGE, and what it waits for (R209). -/
def waitAcc (i : Iss) : Acc := { lane := 0, addr := (i.rdOnce i.w.a).toNat, size := 8 }
def waitDeadline (u : State) (i : Iss) : Option Nat := if i.w.c.unused i.w.wc then none else some (u.ctxClock i.t.ctx + (i.rdOnce i.w.c).toNat)
def waitAct (u : State) (i : Iss) : MemAct := .waitge (i.rdOnce i.w.b).toNat (i.w.sub.toNat % 8) (waitDeadline u i)

theorem bodyWaitge_of_pass (h : AtIssue s op w c i core) (hl : i.lanes ≠ []) (ho : u.orderHold c.g false = false)
    (hs : chkSpace i.t (i.w.sub.toNat / 8) (i.rdOnce i.w.a).toNat 8 true = none) (ha : (i.rdOnce i.w.a).toNat % 8 = 0) :
    bodyWaitge i u = startWord i u (waitAct u i) (i.w.sub.toNat / 8) .none [waitAcc i] [] := by
  unfold bodyWaitge
  extract_lets sp a dl
  have pass : chkSpace i.t sp a 8 true = none := hs
  rw [if_neg (mt List.isEmpty_iff.1 hl), h.g, ho, if_neg Bool.false_ne_true, pass]
  exact if_neg (not_not.2 ha)

/-- The group parks for its counter, which is looked at at once (R209). -/
theorem State.perform_waitge (v : State) (t : Team) {mw : MemWord} {target scope : Nat} {dl : Option Nat} (ha : mw.act = .waitge target scope dl) (a : Acc) (pa : Nat) :
    v.perform t mw [(a, pa)] = (v.park mw.byw.g (.counter (mw.space == 1) a.addr target scope dl) mw.byw).evalCounters := by
  simp only [State.perform, ha]
end

/-- R209. -/
theorem waitgeParksOnItsCounter : Claims.waitgeParksOnItsCounter := by
  intro s w c i core h hw hl u a sp dl wk wait accs held ho hs ha
  obtain rfl := h.w_eq
  have starts : bodyWaitge i u = startWord i u (waitAct u i) sp .none accs [] := bodyWaitge_of_pass h hl ho hs ha
  have parks (v : State) (pa : Nat) :
      v.perform i.t (memWordOf u c i (waitAct u i) sp .none accs []) [(waitAcc i, pa)] = wait v := by
    rw [State.perform_waitge v i.t rfl]
    have group : (memWordOf u c i (waitAct u i) sp .none accs []).byw.g = c.g := starter_g _ _ _ _
    rw [group]
    unfold wait wk memWordOf
    rw [beq_eq_decide]
    rfl
  refine ⟨fun team => ?team, fun glob x hx hr => ?glob⟩
  case team =>
    have act := startWord_local h (act := waitAct u i) (dst := .none) (accs := accs) (lanes := []) (u := u) (space := sp) (by omega) fun hr => absurd hr Bool.false_ne_true
    refine execFull_ok h hw (body := bodyWaitge) (starts.trans (act.trans ?_)) (f := fun u => _)
    exact congrArg Body.ok (parks _ _)
  case glob =>
    have page : translates (marked u c.g .none accs []) i true false accs [x] := by
      refine ⟨rfl, fun p hp => ?_⟩
      obtain rfl := List.mem_singleton.1 hp
      exact ⟨hx, fun _ => hr, fun hn => absurd hn Bool.false_ne_true⟩
    have act := startWord_global h (act := waitAct u i) (u := u) (dst := .none) (accs := accs) (lanes := []) nofun page
    rw [glob] at starts parks
    refine execFull_ok h hw (body := bodyWaitge) (starts.trans (act.trans ?_)) (f := fun u => _)
    exact congrArg Body.ok (parks _ _)

/-- Settles O14: a barrier word by whether its id and count fit; WAITGE starts on its one access, in team memory or through the TLB. -/
theorem barriersAndCounterWaits : Obligations.barriersAndCounterWaits := ⟨barriersArriveAndPark, waitgeParksOnItsCounter⟩
end Sys2Proof.Machine
end

section
/-! SUPPORT. Service calls and spawns at issue (R210, R211, R220; O16). -/
namespace Sys2Proof.Machine

theorem bytesOfNat_eq_natLe (n x : Nat) : bytesOfNat n x = natLe n x := by
  induction n generalizing x with
  | zero => rfl
  | succ n ih => exact congrArg (_ :: ·) (ih _)

section
variable {s u : State} {op : Op} {w : Full} {c : Cur} {i : Iss} {core : Core}

/-- Argument j of a TRAP's lane: register B + j, or 0 (R210). -/
def trapArg (i : Iss) (l j : Nat) : Nat :=
  match i.w.b with
  | .v n => if j < i.w.sub.toNat then ((i.regs l).getV l (n.val + j)).val.toNat else 0
  | _ => 0

/-- The bytes of a lane's block (R210). -/
theorem AtIssue.trapBlock_eq (h : AtIssue s op w c i core) (u : State) (l : Nat) :
    trapBlock i u l =
      natLe 2 (i.rdOnce i.w.a).toNat ++ [BitVec.ofNat 8 l, BitVec.ofNat 8 i.gr.slot] ++ natLe 2 i.t.cluster ++ [BitVec.ofNat 8 i.t.pos, 0] ++
        natLe 8 (u.codeBase i.t + c.pc) ++ natLe 4 (trapArg i l 0) ++ natLe 4 (trapArg i l 1) ++ natLe 4 (trapArg i l 2) ++ natLe 4 (trapArg i l 3) := by
  unfold trapBlock
  extract_lets args
  have arg (j : Nat) : args.getD j 0 = trapArg i l j := by
    unfold args trapArg
    cases i.w.b with
    | v n =>
      by_cases hj : j < i.w.sub.toNat
      · simp [List.getD_eq_getElem?_getD, hj]
      · simp [List.getD_eq_getElem?_getD, hj]
    | _ => rfl
  have four : (List.range 4).flatMap (fun j => bytesOfNat 4 (args.getD j 0)) =
      natLe 4 (trapArg i l 0) ++ natLe 4 (trapArg i l 1) ++ natLe 4 (trapArg i l 2) ++ natLe 4 (trapArg i l 3) := by
    simp only [arg, bytesOfNat_eq_natLe]
    simp [List.range_succ]
  rw [four, h.pc]
  simp [bytesOfNat_eq_natLe, natLe]

/-- TRAP marks the lanes' D empty and parks the group with its blocks, to be written once the ring has room (R210, R211). -/
def State.trap (u : State) (c : Cur) (i : Iss) (d : Nat) : State :=
  ((u.modGroup c.g fun y =>
    { y with
      regs := i.lanes.foldl (fun r l => r.markDst RegSt.emptied l (.v d i.w.ty false)) y.regs
      trapBlocks := i.lanes.map (trapBlock i u), trapLanes := i.lanes, trapDst := d, trapWide := i.w.ty.wide, trapStatus := [] }).park c.g .trapSlot
    (u.starter c.g (maskOf i.lanes) c.pc)).sched u.clock (.trapBlocksWritten c.g)

theorem bodyTrap_of_unknown (h : AtIssue s op w c i core) (hl : i.lanes ≠ []) (ha : 0xFFFF < (i.rdOnce i.w.a).toNat) :
    bodyTrap i u = .throws (i.lanes.map fun l => ⟨l, 0x01, c.pc, rawValue c.raw⟩) := by
  rw [← h.illegalGuard_eq]
  exact (if_neg (mt List.isEmpty_iff.1 hl)).trans (if_pos ha)

theorem bodyTrap_of_service (h : AtIssue s op w c i core) (hl : i.lanes ≠ []) (ha : (i.rdOnce i.w.a).toNat ≤ 0xFFFF) {d : Fin 248} (hd : i.w.d = .v d) :
    bodyTrap i u = .ok (u.trap c i d.val) := by
  refine (if_neg (mt List.isEmpty_iff.1 hl)).trans ((if_neg (Nat.not_lt.2 ha)).trans ?_)
  unfold loadDst
  rw [hd, h.g, h.pc]
  rfl
end

/-- R210, R211, R199. -/
theorem trapKeepsItsBlocksAndParks : Claims.trapKeepsItsBlocksAndParks := by
  intro s w c i core h hw hl d hd block
  obtain rfl := h.w_eq
  have blocks (u : State) : trapBlock i u = block u := funext fun l => h.trapBlock_eq u l
  refine ⟨fun ha => h.execFull_throws hw (body := bodyTrap) (bodyTrap_of_unknown h hl ha), fun ha => ?_⟩
  refine execFull_ok h hw (body := bodyTrap) ((bodyTrap_of_service h hl ha hd).trans ?_) (f := fun u => _)
  unfold State.trap
  rw [blocks]

section
variable {s u : State} {op : Op} {w : Full} {c : Cur} {i : Iss} {core : Core}

/-- The record that a SPAWN's lane offers, as an access that needs its join address (R42, R220). -/
def spawnAcc (i : Iss) (b l : Nat) : Acc :=
  { lane := l, addr := (i.rdOnce i.w.c).toNat, size := 8, data := (i.rd32 l i.w.a).toNat, cmp := i.w.sub.toNat,
    words := (List.range i.w.sub.toNat).map fun j => ((i.regs l).getV l (b + j)).val }

/-- A SPAWN passes its checks: its payload's length, each lane's entry, and the join address (R220). -/
structure SpawnPasses (u : State) (i : Iss) : Prop where
  pos : 1 ≤ i.w.sub.toNat
  le : i.w.sub.toNat ≤ 4
  entry : ∀ l ∈ i.lanes, targetCode (u.codeSize i.t) (i.rd32 l i.w.a).toNat = none
  aligned : (i.rdOnce i.w.c).toNat % 8 = 0
  canonical : canonical (i.rdOnce i.w.c).toNat = true

theorem bodySpawn_of_pass (hl : i.lanes ≠ []) (hp : SpawnPasses u i) {k : Fin 8} {b : Fin 248} (hk : i.w.d = .k k) (hb : i.w.b = .v b) :
    bodySpawn i u = startWord i u (.spawn k.val) 0 .none (i.lanes.map (spawnAcc i b.val)) [] := by
  obtain ⟨pos, le, entry, aligned, canon⟩ := hp
  unfold bodySpawn
  extract_lets n ent join badE words accs
  have sound : badE = [] := by
    unfold badE ent
    rw [List.filter_eq_nil_iff, List.forall_mem_map]
    intro l hm
    obtain ⟨h4, hs⟩ := targetCode_eq_none_iff.1 (entry l hm)
    simp only [Bool.or_eq_true, decide_eq_true_eq]
    omega
  have form : accs = i.lanes.map (spawnAcc i b.val) := by
    unfold accs ent words spawnAcc
    rw [hb, List.map_map]
    rfl
  have some_ : ent.isEmpty = false := List.isEmpty_map.trans (List.isEmpty_eq_false_iff.2 hl)
  have canonJoin : canonical join = true := canon
  rw [some_, sound, if_neg (not_not.2 aligned), canonJoin, form, hk]
  rfl

/-- The records are offered one lane after the other, and the accepted lanes land in the k register (R220). -/
theorem State.perform_spawn (v : State) (t : Team) {mw : MemWord} {k : Nat} {lanes : List Nat} {acc : Nat → Acc} (ha : mw.act = .spawn k)
    (hm : mw.accs = lanes.map acc) (hl : ∀ l, (acc l).lane = l) (pas : List (Acc × Nat)) :
    v.perform t mw pas =
      let r := lanes.foldl (fun (x : List Nat × State) l =>
        let y := x.2.offerSpawn t ⟨(acc l).data, (acc l).cmp, (acc l).addr, (acc l).words, some (mw.byw.g, mw.id0)⟩
        (if y.1 then x.1 ++ [l] else x.1, y.2)) ([], v)
      r.2.landFrom mw.byw.g mw.t0 4 [(.k k (maskOf lanes), maskOf r.1)] := by
  simp only [State.perform, ha, State.doSpawn, hm, List.foldl_map, List.map_map, Function.comp_def, hl, List.map_id']
end

/-- R220, R42. -/
theorem spawnOffersItsRecords : Claims.spawnOffersItsRecords := by
  intro s w c i core h hw hl k b hk hb u join n acc accs hn hn' he ha hc tr page
  obtain rfl := h.w_eq
  have starts := bodySpawn_of_pass (u := u) hl ⟨hn, hn', he, ha, hc⟩ hk hb
  have act := startWord_global h (u := u) (act := .spawn k.val) (dst := .none) (accs := accs) (lanes := []) nofun page
  refine execFull_ok h hw (body := bodySpawn) (starts.trans (act.trans ?_)) (f := fun u => _)
  have group : (memWordOf u c i (.spawn k.val) 0 .none accs []).byw.g = c.g := starter_g _ _ _ _
  have offers (v : State) (pas : List (Acc × Nat)) :=
    State.perform_spawn v i.t (mw := memWordOf u c i (.spawn k.val) 0 .none accs []) (lanes := i.lanes) (acc := acc) rfl rfl (fun _ => rfl) pas
  rw [actsAt, offers, group]
  rfl

/-- Settles O16: TRAP by its service, its blocks byte for byte; SPAWN starts on its lanes' accesses, which offer the records in order. -/
theorem trapsAndSpawns : Obligations.trapsAndSpawns := ⟨trapKeepsItsBlocksAndParks, spawnOffersItsRecords⟩
end Sys2Proof.Machine
end

section
/-! SUPPORT. EXIT, PAUSE and BKPT (R204, R205, R222; O18). -/
namespace Sys2Proof.Machine

section
variable {s u : State} {op : Op} {w : Full} {c : Cur} {i : Iss} {core : Core}

/-- The guarded lanes end; those of a spawned group are first added to its join counter (R204, R48). -/
def State.exitLanes (u : State) (c : Cur) (i : Iss) : State :=
  (if i.gr.spawned then u.joinAdd i.t.coord (u.starter c.g (maskOf i.lanes) c.pc) i.gr.join i.lanes.length else u).endLanes c.g (maskOf i.lanes)

theorem bodyExit_of_room (h : AtIssue s op w c i core) (hl : i.lanes ≠ []) (hr : i.gr.spawned = true → u.noSlots i.t.coord [(0, i.gr.join)] = false) :
    bodyExit i u = .ok (u.exitLanes c i) := by
  have room : (i.gr.spawned && u.noSlots i.t.coord [(0, i.gr.join)]) = false := Bool.and_eq_false_imp.2 hr
  unfold bodyExit State.exitLanes
  rw [if_neg (mt List.isEmpty_iff.1 hl), room, h.g, h.pc]
  rfl

theorem bodyExit_of_full (hl : i.lanes ≠ []) (hs : i.gr.spawned = true) (hf : u.noSlots i.t.coord [(0, i.gr.join)] = true) : bodyExit i u = .stall := by
  unfold bodyExit
  rw [if_neg (mt List.isEmpty_iff.1 hl), hs, hf]
  rfl

theorem bodyExit_of_none (hl : i.lanes = []) : bodyExit i u = .ok u := if_pos (List.isEmpty_iff.2 hl)

theorem bodyPause_once (h : AtIssue s op w c i core) (hl : i.lanes ≠ []) (hs : i.w.sub = 0) :
    bodyPause i u = .ok (if min (pauseCount i 32) 65535 = 0 then u
      else (u.modGroup c.g fun y => { y with pausedTo := u.ctxClock i.t.ctx + 1 + min (pauseCount i 32) 65535 }).sched
        (u.clock + 1 + min (pauseCount i 32) 65535) (.pauseEnd c.g)) := by
  refine (if_neg (mt List.isEmpty_iff.1 hl)).trans ((if_pos hs).trans ?_)
  rw [State.pause_eq, h.g]

/-- Each guarded lane is deferred by its own count (R31, R205). -/
theorem bodyPause_defer (h : AtIssue s op w c i core) (hl : i.lanes ≠ []) (hs : i.w.sub ≠ 0) :
    bodyPause i u = .ok (u.modGroup c.g fun y =>
      i.lanes.foldl (fun y l => if min (pauseCount i l) 65535 = 0 then y else y.setDefer l (min (pauseCount i l) 65535)) y) := by
  have zero (l : Nat) : min (pauseCount i l) 65535 = 0 ↔ pauseCount i l = 0 := by omega
  refine (if_neg (mt List.isEmpty_iff.1 hl)).trans ((if_neg hs).trans ?_)
  simp only [zero, h.g]

/-- The context of a word has a debug session (R222). -/
def hasDebugSession (u : State) (i : Iss) : Prop := ∃ x, u.ctx? i.t.ctx = some x ∧ x.debug ≠ none

theorem AtIssue.bodyBkpt_eq (h : AtIssue s op w c i core) (u : State) :
    (i.lanes = [] ∨ ((i.rdOnce i.w.a).toNat ≤ 0xFFFF ∧ ¬ hasDebugSession u i) → bodyBkpt i u = .ok u) ∧
    (i.lanes ≠ [] → (i.rdOnce i.w.a).toNat ≤ 0xFFFF → hasDebugSession u i → bodyBkpt i u = .ok (u.haltGroup c.g 2 (i.rdOnce i.w.a).toNat)) ∧
    (i.lanes ≠ [] → 0xFFFF < (i.rdOnce i.w.a).toNat → bodyBkpt i u = illegalGuard i) := by
  unfold bodyBkpt
  extract_lets on
  have session : on = true ↔ hasDebugSession u i := by
    unfold on hasDebugSession
    cases u.ctx? i.t.ctx <;> simp
  refine ⟨fun hn => ?_, fun hl ha hd => ?_, fun hl ha => ?_⟩
  · by_cases hl : i.lanes = []
    · exact if_pos (List.isEmpty_iff.2 hl)
    · obtain ⟨ha, hd⟩ := hn.resolve_left hl
      rw [if_neg (mt List.isEmpty_iff.1 hl), if_neg (Nat.not_lt.2 ha), eq_false_of_ne_true (mt session.1 hd)]
      rfl
  · rw [if_neg (mt List.isEmpty_iff.1 hl), if_neg (Nat.not_lt.2 ha), session.2 hd, h.g]
    rfl
  · exact (if_neg (mt List.isEmpty_iff.1 hl)).trans (if_pos ha)
end

/-- R204, R205, R31, R164. -/
theorem exitNopPause : Claims.exitNopPause := by
  intro s w c i core
  refine ⟨fun h hw hl => ?exit, fun h hw hl => ?none, fun h => ?nop, fun h hw hl => ?pause⟩
  case exit =>
    intro full
    obtain rfl := h.w_eq
    exact ⟨fun room => execFull_ok h hw (body := bodyExit) (bodyExit_of_room h hl room) (f := fun u => u.exitLanes c i),
      fun hs hf => h.execFull_stalls hw (body := bodyExit) (bodyExit_of_full hl hs hf)⟩
  case none => exact execFull_ok h hw (body := bodyExit) (bodyExit_of_none hl) (f := fun u => u)
  case nop => exact execFull_ok h (not_onlyWaits_of_lanewise rfl) (body := bodyNop) rfl (f := fun u => u)
  case pause =>
    intro n
    obtain rfl := h.w_eq
    have word : exec (.pause i.w) s = execFull .pause (issueKind .pause i.w) bodyPause i.w s := rfl
    rw [word]
    refine ⟨fun hs => ?_, fun hs => ?_⟩
    · exact execFull_ok h hw (bodyPause_once h hl hs) (f := fun u => _)
    · exact execFull_ok h hw (bodyPause_defer h hl (by rw [hs]; decide)) (f := fun u => u.modGroup c.g _)

/-- R222, R199. -/
theorem bkptHaltsUnderDebug : Claims.bkptHaltsUnderDebug := by
  intro s w c i core h hw dbg tag
  obtain rfl := h.w_eq
  obtain ⟨passes, halts, unknown⟩ := h.bodyBkpt_eq (s.entered c i core)
  exact ⟨fun hn => execFull_ok h hw (body := bodyBkpt) (passes hn) (f := fun u => u),
    fun hl ha hd => execFull_ok h hw (body := bodyBkpt) (halts hl ha hd) (f := fun u => u.haltGroup c.g 2 tag),
    fun hl ha => h.execFull_throws hw (body := bodyBkpt) ((unknown hl ha).trans h.illegalGuard_eq)⟩

/-- Settles O18: each word by its guarded lanes and what its rule asks of the machine: a request slot, a count, a debug session. -/
theorem exitPauseAndBreakpoint : Obligations.exitPauseAndBreakpoint := ⟨exitNopPause, bkptHaltsUnderDebug⟩
end Sys2Proof.Machine
end

section
/-! SUPPORT. Service calls after their issue (R210, R211, R236, R237; O34). -/
namespace Sys2Proof.Machine

section
variable {s : State} {g : GRef} {t : Team} {gr : Group} {c : Ctx}

/-- The blocks of a TRAP enter the ring, each call awaited from now, and each has firmware come for it (R210, R211, R236). -/
theorem trapBlocksWritten_becomes (ht : s.team? g.team = some t) (hg : s.group? g = some gr) (hc : s.ctx? t.ctx = some c) (hw : gr.wake = some .trapSlot)
    (room : c.ring.length + gr.trapBlocks.length ≤ c.p.ring) (untimed : c.p.serviceTimeout = none) :
    let blocks := gr.trapBlocks.mapIdx fun j b => (c.nextSeq + j, b)
    let u := (s.modCtx t.ctx fun x =>
      { x with
        ring := x.ring ++ blocks
        calls := x.calls ++ blocks.map fun b => (b.1, g, (b.2.getD 2 0).toNat, s.ctxClock t.ctx, false)
        nextSeq := x.nextSeq + blocks.length }).modGroup g fun y => { y with wake := some .trapReply, trapBlocks := [], evictNow := true }
    becomes (.trapBlocksWritten g) s (blocks.foldl (fun s _ => s.after 6500 (.serviceCallForward t.ctx)) u) := by
  intro blocks u
  show execTrapBlocksWritten g s = _
  simp only [execTrapBlocksWritten, ht, hg, hc, hw, untimed, ne_eq, not_true_eq_false, if_false, if_neg (Nat.not_lt.2 room)]
  rfl

theorem serviceCallForward_becomes {q : Nat} {b : List Byte} {rest : List (Nat × List Byte)} (hc : s.ctx? c.id = some c) (hr : c.ring = (q, b) :: rest) :
    becomes (.serviceCallForward c.id) s ((s.modCtx c.id fun x =>
      { x with ring := rest, forwarded := x.forwarded + 1,
               calls := x.calls.map fun y => if y.1 = q then (y.1, y.2.1, y.2.2.1, y.2.2.2.1, true) else y }).notify c.id 0xC004
        (b ++ bytesOfNat 8 c.id ++ bytesOfNat 8 q)) := by
  show execServiceCallForward c.id s = _
  simp only [execServiceCallForward, hc, hr]

theorem serviceTimeout_becomes {q d : Nat} {x : Nat × GRef × Nat × Nat × Bool} (hc : s.ctx? c.id = some c) (hx : (c.calls.find? fun y => y.1 == q) = some x)
    (hd : c.p.serviceTimeout = some d) (due : x.2.2.2.1 + d ≤ s.ctxClock c.id) :
    becomes (.serviceTimeout c.id q) s (s.applyReply c.id q 0 0x14) := by
  show execServiceTimeout c.id q s = _
  simp only [execServiceTimeout, hc, hx, hd, if_neg (Nat.not_lt.2 due)]
  rfl

theorem trapResume_becomes (ht : s.team? g.team = some t) (hg : s.group? g = some gr) (hr : t.place = .resident) (he : gr.phase = .evicted)
    (hs : gr.staysOff = false) : becomes (.trapResume g) s ((if gr.wakeMet then s.acquire g 5 else s).restoreGroup t.coord g) := by
  have back : (decide (t.place ≠ .resident) || decide (gr.phase ≠ .evicted) || gr.staysOff) = false := by rw [hr, he, hs]; rfl
  show execTrapResume g s = _
  simp only [execTrapResume, ht, hg, back, Bool.false_eq_true, if_false]
end

/-- Settles O34: each event of a call, by the check that it passes. -/
theorem serviceCallsGoOut : Obligations.serviceCallsGoOut := fun _ =>
  ⟨fun _ _ _ _ ht hg hc hw room untimed => trapBlocksWritten_becomes ht hg hc hw room untimed,
   fun _ _ _ _ hc hr => serviceCallForward_becomes hc hr,
   fun _ _ _ _ hc hx hd due => serviceTimeout_becomes hc hx hd due,
   fun _ _ _ ht hg hr he hs => trapResume_becomes ht hg hr he hs⟩
end Sys2Proof.Machine
end

section
/-! SUPPORT. Debug sessions (R222, R223, R344, R345; O47). -/
namespace Sys2Proof.Machine

section
variable {s t : State} {h : Hdr} {code : Nat} {c : Ctx} {d : Debug}

/-- A debug command on a context with a debug session does what it does for that session (R344). -/
theorem becomes_of_debugCommand {i : Instr} {f : Ctx → Debug → State} (hi : exec i s = .next (s.debugCommand h code f)) (on : onDebug s h code c d)
    (ht : f c d = t) (hc : code < 0x8000 := by decide) : becomes i s t := by
  refine becomes_of_ctxCommand hi on.1 ?_ hc
  simp only [on.2, ht]

theorem attach_becomes {freeze : Bool} (on : onContext s h 0x0090 c) (hf : freeze = true → h.form = 1) :
    becomes (.attach h freeze) s ((s.modCtx c.id fun y => { y with debug := some ⟨h.session, freeze, match c.debug with
      | some d => d.bps
      | none => []⟩ }).reply h 0x0090 0 []) := by
  refine becomes_of_ctxCommand rfl on (if_neg ?_)
  rw [Bool.and_eq_true, decide_eq_true_eq]
  rintro ⟨expert, plain⟩
  have := hf expert
  omega

theorem haltG_becomes {x : HaltTarget} {off : Bool} (on : onDebug s h 0x0091 c d) (hf : off = true → h.form = 1) (hn : s.named c.id x ≠ []) :
    becomes (.haltG h x off) s (((s.named c.id x).foldl (fun s g => s.haltOne off g) s).reply h 0x0091 0 []) := by
  refine becomes_of_debugCommand rfl on ((if_neg ?_).trans (if_neg (mt List.isEmpty_iff.1 hn)))
  rw [Bool.and_eq_true, decide_eq_true_eq]
  rintro ⟨expert, plain⟩
  have := hf expert
  omega

theorem resume_becomes {x : HaltTarget} (on : onDebug s h 0x0092 c d) (hn : s.named c.id x ≠ []) :
    becomes (.resume h x) s (((s.named c.id x).foldl (fun s g => s.resumeOne g) s).reply h 0x0092 0 []) :=
  becomes_of_debugCommand rfl on (if_neg (mt List.isEmpty_iff.1 hn))

theorem step_becomes {g : GRef} {gr : Group} (on : onDebug s h 0x0093 c d) (hn : s.named c.id (.group g) ≠ []) (hg : s.group? g = some gr)
    (hh : gr.halted = true) : becomes (.step h g) s (((s.resumeOne g).modGroup g fun y => { y with haltDue := 3 }).reply h 0x0093 0 []) := by
  refine becomes_of_debugCommand rfl on ?_
  simp only [if_neg (mt List.isEmpty_iff.1 hn), hg, hh, Bool.not_true, Bool.false_eq_true, if_false]

theorem breakSet_becomes {n : Nat} {a : Option Nat} (on : onDebug s h 0x0094 c d) (hn : n < 8) :
    becomes (.breakSet h n a) s ((s.modCtx c.id fun y =>
      { y with debug := some { d with bps := (d.bps.filter fun b => b.1 ≠ n) ++ a.toList.map fun a => (n, a) } }).reply h 0x0094 0 []) := by
  refine becomes_of_debugCommand rfl on ((if_neg (Nat.not_le.2 hn)).trans ?_)
  cases a with
  | none => rw [Option.toList_none, List.map_nil, List.append_nil]
  | some a => rfl

theorem stateRead_becomes {g : GRef} {t : Team} {gr : Group} (on : onDebug s h 0x0095 c d) (ht : s.team? g.team = some t) (hc : t.ctx = c.id)
    (hp : t.place ≠ .ended) (hg : s.group? g = some gr) (hx : gr.phase ≠ .exited) (hs : gr.halted = true ∨ gr.phase = .evicted) :
    becomes (.stateRead h g) s (s.reply h 0x0095 0
      (let locks := if t.place = .away then [] else s.lockRecords t.coord
       groupBytes t.kern.regs gr ++ bytesOfNat 4 locks.length ++ locks.flatMap (bytesOfNat 16))) := by
  have mine : ((s.team? g.team).filter fun t => t.ctx == c.id && t.place != .ended) = some t := by simp [ht, hc, hp]
  have stopped : (decide (gr.phase = .exited) || (!gr.halted && decide (gr.phase ≠ .evicted))) = false := by
    rcases hs with hs | hs <;> simp [hx, hs]
  refine becomes_of_debugCommand rfl on ?_
  simp only [mine, hg]
  exact if_neg (ne_true_of_eq_false stopped)
end

/-- Settles O47: each command passes its header's checks and finds its session, and is then told by the branches of its own. -/
theorem debugCommands : Obligations.debugCommands := by
  intro s h c
  refine ⟨fun freeze on hf => attach_becomes on hf, fun d x off on hf hn => haltG_becomes on hf hn, fun d x on hn => resume_becomes on hn,
    fun d g gr on hn hg hh => step_becomes on hn hg hh, fun d n a on hn => ⟨breakSet_becomes on hn, ?_⟩,
    fun d g t gr on ht hc hp hg hx hs => stateRead_becomes on ht hc hp hg hx hs⟩
  have removed := breakSet_becomes (a := none) on hn
  rwa [Option.toList_none, List.map_nil, List.append_nil] at removed
end Sys2Proof.Machine
end

section
/-! SUPPORT. Starts of engine operations and of their chunks (R46, R239, R249 to R254, R272, R273; O29). -/
namespace Sys2Proof.Machine

theorem mem_sortSlices {x : Slice} {l : List Slice} : x ∈ sortSlices l ↔ x ∈ l := (sortBy_perm _ l).mem_iff

/-! Operations start or are refused (R46, R251, R252, R254). -/

section
variable {s : State} {o : EOp} {t : Team}

/-- The accesses that an operation comes after are acknowledged, as `execEngineOpStart` asks it. -/
theorem acked_iff : (!s.path.any fun e => o.first.contains e.id) = true ↔ ∀ e ∈ s.path, e.id ∉ o.first := by simp

variable (ho : s.op? o.id = some o) (hn : o.started = false) (hf : s.frozen o.ctx = false)
include ho hn hf

section
variable {x : Slice} {rest : List Slice} (hk : o.kind = .cpy) (all : s.hasAllSlices o = true) (stays : o.stopped = false) (ht : s.team? o.team = some t)
  (hs : o.slices = x :: rest)
include hk all stays ht hs

theorem engineOpStart_starts_copy (sound : ∀ y ∈ o.slices, sliceBad t x y = none) (acked : ∀ e ∈ s.path, e.id ∉ o.first) (hr : t.place = .resident) :
    becomes (.engineOpStart o.id) s (s.startCopy o t) := by
  have noneBad : (sortSlices (x :: rest)).findSome? (fun y => sliceBad t x y) = none :=
    List.findSome?_eq_none_iff.2 fun y hy => sound y (hs ▸ mem_sortSlices.1 hy)
  have may : ((!s.path.any fun e => o.first.contains e.id) && t.place == .resident) = true := by
    rw [acked_iff.2 acked, hr]
    rfl
  show execEngineOpStart o.id s = _
  simp only [execEngineOpStart, ho, hn, hf, hk, all, stays, ht, hs, List.headD_cons, noneBad, may, Bool.not_true, Bool.false_eq_true, if_false, if_true]

theorem engineOpStart_refuses_copy {k v : Nat} (bad : ((sortSlices o.slices).findSome? fun y => sliceBad t x y) = some (k, v)) :
    becomes (.engineOpStart o.id) s (s.refuseCopy o k v) := by
  rw [hs] at bad
  show execEngineOpStart o.id s = _
  simp only [execEngineOpStart, ho, hn, hf, hk, all, stays, ht, hs, List.headD_cons, bad, Bool.not_true, Bool.false_eq_true, if_false]
end

theorem engineOpStart_starts_tensorCopy {r : Shape} {n : Nat} (hk : o.kind = .cpyt r n) (acked : ∀ e ∈ s.path, e.id ∉ o.first) :
    becomes (.engineOpStart o.id) s ((s.modOp o.id fun x => { x with started := true }).enterEngine o) := by
  show execEngineOpStart o.id s = _
  simp only [execEngineOpStart, ho, hn, hf, hk, acked_iff.2 acked, Bool.false_eq_true, if_false, if_true]

variable (ht : s.team? o.team = some t) (room : s.lockRoom o.coord 1 = true)
include ht room

theorem engineOpStart_starts_spawnSpill {n : Nat} (hk : o.kind = .spawnOut n) (acked : ∀ e ∈ s.path, e.id ∉ o.first)
    (released : ∀ r ∈ o.spawns, s.spawnReleased t.coord r = true) :
    becomes (.engineOpStart o.id) s
      ((({ s with locks := s.locks ++ ringLock o true (s.spawnBase t).1 (s.spawnBase t).2 n o.spawns.length } : State).modOp o.id fun x =>
        { x with started := true }).enterEngine o) := by
  show execEngineOpStart o.id s = _
  simp only [execEngineOpStart, ho, hn, hf, hk, ht, acked_iff.2 acked, List.all_eq_true.2 released, room, Bool.and_true, Bool.false_eq_true, if_false, if_true]

theorem engineOpStart_starts_spawnRefill {n : Nat} (hk : o.kind = .spawnIn n) :
    becomes (.engineOpStart o.id) s
      ((({ s with locks := s.locks ++ ringLock o false (s.spawnBase t).1 (s.spawnBase t).2 t.ringHead n } : State).modOp o.id fun x =>
        { x with started := true }).enterEngine o) := by
  show execEngineOpStart o.id s = _
  simp only [execEngineOpStart, ho, hn, hf, hk, ht, room, Bool.false_eq_true, if_false, if_true]
end

/-- R46, R251, R252, R254, R272. -/
theorem engineOperationsStart : Claims.engineOperationsStart := by
  intro s o ho hn hf acked
  refine ⟨fun hk all stays t ht x rest hs => ⟨fun sound ha hr => engineOpStart_starts_copy ho hn hf hk all stays ht hs sound ha hr,
      fun k v bad => engineOpStart_refuses_copy ho hn hf hk all stays ht hs bad⟩,
    fun r n hk ha => engineOpStart_starts_tensorCopy ho hn hf hk ha, fun t ht room => ⟨fun n hk ha released => ?_, fun n hk => ?_⟩⟩
  · exact engineOpStart_starts_spawnSpill ho hn hf ht room hk ha released
  · exact engineOpStart_starts_spawnRefill ho hn hf ht room hk

/-! How a copy starts and is refused, and how a chunk meets a fault (R239, R249 to R251, R273). -/

section
variable {s : State} {o : EOp}

theorem State.lockRoom_iff {c n : Nat} : s.lockRoom c n = true ↔ (s.locks.filter fun k => k.coord = c ∧ k.saved = false).length + n ≤ 64 := by
  simp [State.lockRoom, beq_eq_decide]

/-- Every core has room for those of the locks that it is to hold (R275). -/
def State.lockRooms (s : State) (locks : List Lock) : Bool :=
  (locks.map fun k => k.coord).eraseDups.all fun c => s.lockRoom c (locks.filter fun k => k.coord == c).length

theorem State.lockRooms_iff {locks : List Lock} : s.lockRooms locks = true ↔
    ∀ c, (s.locks.filter fun k => k.coord = c ∧ k.saved = false).length + (locks.filter fun k => k.coord = c).length ≤ 64 ∨ ∀ k ∈ locks, k.coord ≠ c := by
  simp only [State.lockRooms, List.all_eq_true, List.mem_eraseDups, List.mem_map, forall_exists_index, and_imp, State.lockRoom_iff]
  constructor
  · intro h c
    by_cases hc : ∃ k ∈ locks, k.coord = c
    · obtain ⟨k, hk, rfl⟩ := hc
      exact .inl (h _ k hk rfl)
    · exact .inr fun k hk e => hc ⟨k, hk, e⟩
  · rintro h _ k hk rfl
    exact (h k.coord).resolve_right fun none => none k hk rfl

theorem State.remoteDsts_eq : s.remoteDsts o =
    o.slices.flatMap fun x => if x.mask = 0 then [] else ((s.sliceTeams o x).filter fun y => y.id ≠ o.team).map fun y => (y, x) := by
  simp [State.remoteDsts, bne, beq_eq_decide]

/-- A copy's locks in the other teams of its masks (R251). -/
def State.farLocks (s : State) (o : EOp) : List Lock :=
  (s.remoteDsts o).flatMap fun x => mkLock o.id x.1.coord 1 true x.1.ctx x.1.id x.2.dst x.2.bytes
/-- The locks are taken and the lines of the other teams go absent (R250, R251). -/
def State.cutFar (s : State) (o : EOp) : State :=
  (s.remoteDsts o).foldl (fun (u : State) x => u.modTeam x.1.id fun y => y.modBuf 1 fun b => b.clearLines (linesIn b x.2.dst x.2.bytes))
    { s with locks := s.locks ++ s.farLocks o }
/-- The operation of a copy that starts, its chunks all to start, with the generations it was started for (R251). -/
def State.startedCopy (s : State) (o : EOp) (t : Team) : EOp :=
  { o with gathering := false, started := true, todo := o.chunks,
           gens := o.positions.filterMap fun p => (s.teamAt t.launch t.cluster p).map fun x => (p, x.gen) }

theorem State.startCopy_of_full {t : Team} (full : s.lockRooms (s.farLocks o) = false) : s.startCopy o t = s.again (.engineOpStart o.id) :=
  if_pos (congrArg not full)

theorem State.startCopy_of_room {t : Team} (room : s.lockRooms (s.farLocks o) = true) : s.startCopy o t =
    let o' := s.startedCopy o t
    let u := (s.cutFar o).modOp o.id fun _ => o'
    if o.chunks.isEmpty then u.dropOp o' else u.enterEngine o' :=
  if_neg (ne_true_of_eq_false (congrArg not room))

theorem State.unclear_eq : s.unclear o = o.slices.foldl (fun (u : State) x => if x.cleared = [] then u
    else (u.modTeam o.team fun y => y.modBuf x.dstSpace fun b => b.setLines x.cleared).wakeLines o.team) s := by
  simp only [State.unclear, List.isEmpty_iff]

theorem State.blockOp_of_sound {c : Nat} (hr : s.engBad o (s.chunkReads o c) false = none) (hw : s.engBad o (s.ownWrites o c) true = none) :
    s.blockOp o c = none := by
  simp only [State.blockOp, hr, hw]

/-- What a chunk's first piece that cannot be accessed does to its operation: a fault (code 0) or its end (R239). -/
theorem State.blockOp_of_bad {c k va : Nat} {wr : Bool} (bad : (s.engBad o (s.chunkReads o c) false = some (k, va) ∧ wr = false) ∨
      (s.engBad o (s.chunkReads o c) false = none ∧ s.engBad o (s.ownWrites o c) true = some (k, va) ∧ wr = true)) :
    s.blockOp o c = some (if k = 0 then s.faultOp o va wr else s.engFail o.id k va) := by
  rcases bad with ⟨hr, rfl⟩ | ⟨hr, hw, rfl⟩
  · cases k with
    | zero => simp only [State.blockOp, hr, if_true]
    | succ k => simp only [State.blockOp, hr, if_neg k.succ_ne_zero]
  · cases k with
    | zero => simp only [State.blockOp, hr, hw, if_true]
    | succ k => simp only [State.blockOp, hr, hw, if_neg k.succ_ne_zero]
end

/-- R239, R249 to R251, R273. -/
theorem copiesStartOrAreRefused : Claims.copiesStartOrAreRefused := by
  intro s o
  refine ⟨fun t _ _ => ?_, fun k v => ?_, fun c => ⟨State.blockOp_of_sound, fun k va wr bad => ⟨fun hk => ?_, fun hk => ?_⟩⟩,
    fun va wr => ⟨fun hf => ?_, fun hf => ?_⟩⟩
  · intro far locks room cut o'
    have hfar : s.remoteDsts o = far := State.remoteDsts_eq
    have hlocks : s.farLocks o = locks := by rw [State.farLocks, hfar]
    have hcut : s.cutFar o = cut := by rw [State.cutFar, hfar, hlocks]
    have rooms : s.lockRooms (s.farLocks o) = true ↔ room := hlocks ▸ State.lockRooms_iff
    refine ⟨fun full => State.startCopy_of_full (Bool.eq_false_iff.2 (mt rooms.1 full)), fun free chunks => ?_, fun free noChunk => ?_⟩
    · rw [State.startCopy_of_room (rooms.2 free), hcut]
      exact if_neg (mt List.isEmpty_iff.1 chunks)
    · rw [State.startCopy_of_room (rooms.2 free), hcut]
      exact if_pos (List.isEmpty_iff.2 noChunk)
  · rw [State.refuseCopy, State.unclear_eq]
  · rw [State.blockOp_of_bad bad, if_pos hk]
  · rw [State.blockOp_of_bad bad, if_neg hk]
  · rw [State.faultOp, if_pos (Option.isSome_iff_ne_none.2 hf)]
  · rw [State.faultOp, hf]
    rfl

/-! The deficit round robin (R272, R273). -/

section
variable {s : State} {e : Engine} {o : EOp} {n : Nat}

theorem State.drrHead_of_append {c : Nat} {pre post : List EOp} (hq : (e.queues.getD c []).filterMap (fun i => s.op? i) = pre ++ o :: post)
    (hpre : ∀ x ∈ pre, s.mayChunk x = false) (ho : s.mayChunk o = true) : s.drrHead e c = some o := by
  rw [State.drrHead, hq, List.find?_append, List.find?_eq_none.2 fun x hx => by simp [hpre x hx], Option.none_or, List.find?_cons_of_pos ho]

/-- The engine with its class visited: a quantum is added once a visit (R272). -/
def Engine.visit (e : Engine) : Engine :=
  if e.visited then e else { e with deficit := modNth e.deficit e.cls (fun d => d + e.quantum.getD e.cls 2048), visited := true }

theorem drrWait_of_head (ho : s.drrHead e e.cls = some o) : drrWait s (n + 1) e =
    if s.chunkSize o (o.todo.headD 0) ≤ e.visit.deficit.getD e.cls 0 then e.visit
    else drrWait s n { e.visit with cls := (e.cls + 1) % 4, visited := false } := by
  simp only [drrWait, ho]
  rfl

theorem drrWait_of_empty (hn : s.drrHead e e.cls = none) (hq : e.queues.getD e.cls [] = []) : drrWait s (n + 1) e =
    drrWait s n { e with deficit := modNth e.deficit e.cls fun _ => 0, cls := (e.cls + 1) % 4, visited := false } := by
  simp only [drrWait, hn, hq, List.isEmpty_nil, if_true]

theorem drrWait_of_held (hn : s.drrHead e e.cls = none) (hq : e.queues.getD e.cls [] ≠ []) : drrWait s (n + 1) e =
    drrWait s n { e with cls := (e.cls + 1) % 4, visited := false } := by
  simp only [drrWait, hn, List.isEmpty_iff, if_neg hq]
end


/-- The bytes of a chunk are charged to the class in which its engine waits (R272). -/
def State.chargeChunk (s : State) (n : Nat) (o : EOp) (c : Nat) : State :=
  s.modEngine n fun x => { x with deficit := modNth x.deficit (s.engine n).cls fun d => d - s.chunkSize o c }

/-- Chunk `c` of the operation starts, with `rest` still to start: its engine reads it for `read` cc and holds a slot for it, and an operation with
no chunk left leaves its queue (R273). -/
def State.startChunk (s : State) (n read : Nat) (o : EOp) (c : Nat) (rest : List Nat) : State :=
  let o' := { o with todo := rest, running := o.running ++ [c] }
  let u := (s.modEngine n fun x => { x with portFree := s.clock + read, slots := x.slots + 1 }).modOp o.id fun _ => o'
  if rest = [] then u.leaveEngine o' else u

theorem State.startChunk_clock (s : State) (n read : Nat) (o : EOp) (c : Nat) (rest : List Nat) : (s.startChunk n read o c rest).clock = s.clock := by
  unfold State.startChunk
  split <;> rfl

theorem allStarted_eq_false {l : List EOp} (busy : ∃ o ∈ l, o.todo ≠ []) : (l.all fun o => o.todo.isEmpty) = false := by
  obtain ⟨o, ho, todo⟩ := busy
  exact List.all_eq_false.2 ⟨o, ho, mt List.isEmpty_iff.1 todo⟩

theorem State.turnEngine_eq {s : State} {n t : Nat} : s.turnEngine n t = if (t, .chunkStart n) ∈ s.agenda then s else s.sched t (.chunkStart n) := by
  refine if_congr ?_ rfl rfl
  simp [List.any_eq_true]

section
variable {s v : State} {e : Engine} {n : Nat} (hv : s.drrGo n = v) (he : v.engine n = e)
include hv he

theorem chunkStart_ends (idle : ∀ o ∈ e.queues.flatten.filterMap fun i => v.op? i, o.todo = []) : becomes (.chunkStart n) s v := by
  have done : ((e.queues.flatten.filterMap fun i => v.op? i).all fun o => o.todo.isEmpty) = true :=
    List.all_eq_true.2 fun o ho => List.isEmpty_iff.2 (idle o ho)
  show execChunkStart n s = _
  simp only [execChunkStart, hv, he, done, if_true]

variable (busy : ∃ o ∈ e.queues.flatten.filterMap fun i => v.op? i, o.todo ≠ [])
include busy

theorem chunkStart_waits_port (reading : v.clock < e.portFree) : becomes (.chunkStart n) s (v.turnEngine n e.portFree) := by
  show execChunkStart n s = _
  simp only [execChunkStart, hv, he, allStarted_eq_false busy, Bool.false_eq_true, if_false, if_pos reading]

variable (free : e.portFree ≤ v.clock)
include free

theorem chunkStart_waits_cc (held : 32 ≤ e.slots ∨ v.drrHead e e.cls = none) : becomes (.chunkStart n) s (v.turnEngine n (v.clock + 1)) := by
  have noHead : (if 32 ≤ e.slots then none else v.drrHead e e.cls) = none := by
    rcases held with full | noHead
    · exact if_pos full
    · rw [noHead, ite_self]
  show execChunkStart n s = _
  simp only [execChunkStart, hv, he, allStarted_eq_false busy, Bool.false_eq_true, if_false, if_neg (Nat.not_lt.2 free), noHead]

/-- Where the loop waits with the port and a slot free, the head's chunk is charged, and then starts unless something blocks it. -/
theorem chunkStart_serves {o : EOp} {c : Nat} {rest : List Nat} (slot : e.slots < 32) (head : v.drrHead e e.cls = some o) (todo : o.todo = c :: rest) :
    let a := v.chargeChunk n o c
    let read := Config.meshCc ((v.chunkSize o c + 127) / 128)
    becomes (.chunkStart n) s ((a.blockOp o c).elim
      ((((a.startChunk n read o c rest).drrGo n).after (read + Config.meshCc 16) (chunkDone o c)).turnEngine n (v.clock + read))
      fun b => (b.drrGo n).turnEngine n (v.clock + 1)) := by
  intro a read
  subst he
  have clock : ((a.startChunk n read o c rest).drrGo n).clock = v.clock := a.startChunk_clock n read o c rest
  show execChunkStart n s = _
  simp only [execChunkStart, hv, allStarted_eq_false busy, Bool.false_eq_true, if_false, if_neg (Nat.not_lt.2 free), if_neg (Nat.not_le.2 slot), head,
    todo, List.headD_cons, List.drop_succ_cons, List.drop_zero, List.isEmpty_iff]
  refine congrArg Host.Outcome.next ?_
  split
  · next b blocked =>
      rw [show a.blockOp o c = some b from blocked]
      rfl
  · next sound =>
      rw [show a.blockOp o c = none from sound, ← clock]
      rfl
end

/-- R272, R273. -/
theorem enginesStartChunks : Claims.enginesStartChunks := by
  refine ⟨fun s n e => ⟨drrWait_of_empty, drrWait_of_held, fun o ho => ⟨fun covered => ?_, fun short => ?_⟩, fun pre o post => State.drrHead_of_append⟩, ?_⟩
  · exact (drrWait_of_head ho).trans (if_pos covered)
  · exact (drrWait_of_head ho).trans (if_neg (Nat.not_le.2 short))
  intro n s v e ops turn goOn
  have turn_eq : turn = fun u t => u.turnEngine n t := funext₂ fun u t => State.turnEngine_eq.symm
  rw [turn_eq]
  refine ⟨chunkStart_ends rfl rfl, fun busy => ⟨chunkStart_waits_port rfl rfl busy, chunkStart_waits_cc rfl rfl busy,
    fun o c rest free slot head todo => ?_⟩⟩
  intro a read o' u
  have served : becomes (.chunkStart n) s ((a.blockOp o c).elim _ _) := chunkStart_serves rfl rfl busy free slot head todo
  refine ⟨fun sound => ?_, fun b bad => ?_⟩
  · rw [sound] at served
    exact served
  · rw [bad] at served
    exact served

/-- Settles O29: the starts of operations, how copies start and are refused, and the loop that starts their chunks. -/
theorem enginesRun : Obligations.enginesRun := ⟨engineOperationsStart, copiesStartOrAreRefused, enginesStartChunks⟩
end Sys2Proof.Machine
end

section
/-! SUPPORT. A word of the engines, its holds passed; and CPYT as its record passes (R253 to R256; O19). -/
namespace Sys2Proof.Machine

section
variable {s u : State} {op : Op} {w : Full} {c : Cur} {i : Iss} {core : Core}

theorem engineReady.lanes (hr : engineReady u c i) : ¬ i.lanes.isEmpty = true := mt List.isEmpty_iff.1 hr.1

theorem AtIssue.engHold_eq (h : AtIssue s op w c i core) (hr : engineReady u c i) : engHold i u = false := by
  rw [engHold, h.g]
  exact hr.2
end

@[simp] theorem State.collTake_clock (s : State) (launch ctx cgrp : Nat) : (s.collTake launch ctx cgrp).clock = s.clock := by
  unfold State.collTake
  split
  · split <;> rfl
  · rfl
/-- The class of a transfer that its record names: 0 and 1 are one (R253). -/
theorem ite_le_one_eq_max (n : Nat) : (if n ≤ 1 then 1 else n) = max 1 n := by split <;> omega

section
variable {s u : State} {w : Full} {c : Cur} {i : Iss} {core : Core}

/-- The locks of a transfer on this rank: its source, and its destination where it is one (R254). -/
def cpytLocks (u : State) (i : Iss) (r : Shape) : List Lock :=
  mkLock u.nextId i.t.coord 0 false i.t.ctx i.t.id r.src r.span ++
    if u.isDest i.t.ctx r then mkLock u.nextId i.t.coord (cpySpace r.space) true i.t.ctx i.t.id r.dst r.dstSpan else []

/-- The transfer as the engine holds it. -/
def cpytOp (u : State) (c : Cur) (i : Iss) (ctr : Nat) (r : Shape) : EOp :=
  { engOp u c i (.cpyt r ((u.collNext i.t.launch i.t.ctx r.cgrp).getD 0))
      (if isUrgent u i.t.ctx then 0 else max 1 (r.ops / 64)) (if ctr = 0 then .none else .counter ctr) with todo := r.chunks, home := u.homeOf r.cgrp }

/-- The lines of this rank's destination. -/
def cpytLines (u : State) (i : Iss) (r : Shape) (o : EOp) : List Nat :=
  if u.isDest i.t.ctx r = true ∧ cpySpace r.space ≠ 0 then ((r.chunks.flatMap (u.chunkLines o)).map fun x => x.2).eraseDups else []

/-- The transfer enters: its locks, its sequence number, and its destination's lines cleared. -/
def State.enterCpyt (u : State) (c : Cur) (i : Iss) (ctr : Nat) (r : Shape) : State :=
  let o := cpytOp u c i ctr r
  let lines := cpytLines u i r o
  let v := addOp (if r.op = 0 then u else u.collTake i.t.launch i.t.ctx r.cgrp) o (cpytLocks u i r)
  (if lines = [] then v else v.modTeam i.t.id fun t => t.modBuf (cpySpace r.space) fun b => b.clearLines lines).sched u.clock (.engineOpStart u.nextId)

theorem AtIssue.startCpyt_of_room (h : AtIssue s .cpyt w c i core) {ctr : Nat} {r : Shape} (room : u.lockRoom i.t.coord (cpytLocks u i r).length = true) :
    startCpyt i u ctr r = .ok (u.enterCpyt c i ctr r) := by
  unfold startCpyt
  extract_lets dest sp locks seq n o lines v v' v''
  have op : o = cpytOp u c i ctr r := by
    unfold o n cpytOp engOp
    rw [ite_le_one_eq_max, h.g, h.pc]
  have cleared : lines = cpytLines u i r (cpytOp u c i ctr r) := by
    unfold lines cpytLines
    rw [op]
    simp only [dest, sp, Bool.and_eq_true, decide_eq_true_eq]
  have entered : v''.sched u.clock (.engineOpStart u.nextId) = u.enterCpyt c i ctr r := by
    dsimp only [State.enterCpyt]
    rw [← cleared, ← op]
    unfold v''
    simp only [List.isEmpty_iff]
    rfl
  have clock : v''.clock = u.clock := by
    have taken : v.clock = u.clock := by
      unfold v
      split <;> simp
    unfold v''
    split <;> exact taken
  have free : (!u.lockRoom i.t.coord locks.length) = false := congrArg (!·) room
  rw [free, clock, ← entered]
  rfl

theorem AtIssue.bodyCpyt_of_pass (h : AtIssue s .cpyt w c i core) (hr : engineReady u c i) {x : Trans} {r : Shape} (a4 : (i.rdOnce i.w.a).toNat % 64 = 0)
    (c8 : (i.rdOnce i.w.d).toNat % 8 = 0) (ac : canonical (i.rdOnce i.w.a).toNat = true) (hx : u.tlb? i.t (i.rdOnce i.w.a).toNat false = some x)
    (rd : pteRd x.leaf = true) (sound : u.dram.poisoned x.pa 64 = false) (hp : parseShape (u.dram.bytes x.pa 64) = r) (r8 : r.ctr % 8 = 0)
    (canon : ∀ p ∈ [(i.rdOnce i.w.d).toNat, r.ctr, r.src], canonical p = true) (dst : r.space = 0 → canonical r.dst = true)
    (good : shapeBad u i.t (u.dram.bytes x.pa 64) r = false) :
    bodyCpyt i u = startCpyt i u (i.rdOnce i.w.d).toNat r := by
  obtain ⟨ctr, tileCtr, src⟩ : canonical (i.rdOnce i.w.d).toNat = true ∧ canonical r.ctr = true ∧ canonical r.src = true := by simpa using canon
  unfold bodyCpyt
  extract_lets a d
  subst hp
  have dstOk : (decide ((parseShape (u.dram.bytes x.pa 64)).space = 0) && !canonical (parseShape (u.dram.bytes x.pa 64)).dst) = false := by
    simpa using dst
  simp only [hr.lanes, h.engHold_eq hr, a, d, a4, c8, ac, hx, rd, sound, r8, ctr, tileCtr, src, dstOk, good, ne_eq, not_true, Bool.not_true, Bool.false_eq_true, if_false]
end

/-- Settles O19: a record that passes is the transfer's shape, and with room for its locks the transfer enters as the shape says. -/
theorem tensorTransfersEnterTheEngine : Obligations.tensorTransfersEnterTheEngine := by
  intro s w c i core h hw u a ctr hr a4 c8 ac x hx rd sound raw r r8 canon dst good sp locks room
  obtain rfl := h.w_eq
  have enters : bodyCpyt i u = .ok (u.enterCpyt c i ctr r) :=
    (h.bodyCpyt_of_pass hr a4 c8 ac hx rd sound rfl r8 canon dst good).trans (h.startCpyt_of_room room)
  refine execFull_ok h hw (body := bodyCpyt) (enters.trans ?_) (f := fun u => _)
  rfl
end Sys2Proof.Machine
end

section
/-! SUPPORT. The number of a copy's slice (O20). -/
namespace Sys2Proof.Machine
open Sys2Proof.Tests

/-- A loader group at a CPY of its team's first copy, with no counter; the next number of the machine is 1. -/
def copier : State := loader [(2, 2 ^ 40), (3, 64)]
def firstCopy : Full := copyW 1 (.imm 0)
/-- The numbers of the slices that the engines hold after a step. -/
def sliceNums : Host.Outcome State Fault Refusal → List Nat
  | .next s => s.ops.flatMap fun o => o.slices.map fun x => x.num
  | _ => []

/-- The slice keeps the number of its word, below which its group's accesses come before it (R190, R195). -/
theorem sliceNums_copier : sliceNums (exec (.cpy firstCopy) copier) = [1] := by decide

/-- What O20 has the first slice of a copy make of the state: its slice `cpySlice` has no number. -/
def State.copiedBy (u : State) (w : Full) (c : Cur) (i : Iss) : State :=
  let x0 := cpySlice u w c i
  let lines := sliceLines i.t x0
  let x := { x0 with cleared := lines.filter fun l => !(i.t.buf x0.dstSpace).absent.contains l }
  let o := { engOp u c i .cpy (if isUrgent u i.t.ctx then 0 else 1)
               (if 8 ≤ w.sub.toNat then .stage i.t.id x.ctr else if x.ctr = 0 then .none else .counter x.ctr) with
             slices := [x], gathering := true, inst := i.gr.cpys }
  (countCpy ((addOp u o (sliceLocks x i.t u.nextId)).modTeam i.t.id fun t => t.modBuf x.dstSpace fun b => b.clearLines lines) c.g).sched u.clock
    (.engineOpStart u.nextId)

/-- The word meets what O20 asks of a first slice, and what O20 has it make holds a slice of number 0. -/
def copiesUnnumbered (c : Cur) (i : Iss) (core : Core) : Bool :=
  let u := copier.entered c i core
  acts .cpy firstCopy c i && !u.orderHold c.g false && !i.gr.spawned && (joins u i).isNone &&
    u.lockRoom i.t.coord (sliceLocks (cpySlice u firstCopy c i) i.t u.nextId).length && sliceNums (.next (issuedWith copier .cpy firstCopy c i core fun u => u.copiedBy firstCopy c i)) == [0]

theorem copier_goes : goes copier .cpy firstCopy copiesUnnumbered = true := by decide

/-- Refutes O20: its slice has no number, but a slice keeps the number of its word, by which the copy's counter waits for what its group did
before the word (R190, R195). -/
theorem not_copiesAndCounters : ¬ Obligations.copiesAndCounters := by
  rintro ⟨copies, -⟩
  obtain ⟨c, i, core, h, meets⟩ := atIssue_of_goes copier_goes
  simp only [copiesUnnumbered, Bool.and_eq_true, Bool.not_eq_true', Option.isNone_iff_eq_none, beq_iff_eq] at meets
  obtain ⟨⟨⟨⟨⟨acted, held⟩, parent⟩, first⟩, room⟩, unnumbered⟩ := meets
  obtain ⟨waits, lanes⟩ := acts_iff acted
  have copied := (copies copier firstCopy c i core h waits ⟨lanes, held⟩ parent (fun h8 => absurd h8 (by decide))).1 first room
  have same := congrArg sliceNums copied
  rw [sliceNums_copier] at same
  exact absurd (same.trans unnumbered) (by decide)
end Sys2Proof.Machine
end

section
/-! SUPPORT. QPUSH, QPOP and QSTEAL as they issue (R260 to R263; O21). -/
namespace Sys2Proof.Machine

section
variable {s u : State} {w : Full} {c : Cur} {i : Iss} {core : Core}

/-- The queue that a word names, as it issues. -/
def queueOf (i : Iss) : HwQ := i.t.queue (i.w.sub.toNat % 4)

theorem regD_of_v {d : Fin 248} (hd : i.w.d = .v d) : regD i = d.val := by rw [regD, hd]

/-! QPUSH (R260). -/

/-- The records that a QPUSH's lanes push. -/
def pushRecs (i : Iss) (d : Nat) : List (List W32) := i.lanes.map fun l => (List.range 8).map fun j => ((i.regs l).getV l (d + j)).val
/-- How many of them stay on the chip: none while the ring holds records. -/
def chipShare (i : Iss) : Nat := if (queueOf i).tail = (queueOf i).head then min i.lanes.length (queueOf i).free else 0
/-- The chip takes its share, and the ring makes room for the others. -/
def State.pushOnChip (u : State) (c : Cur) (i : Iss) (d : Nat) : State :=
  u.modQueue i.t.id (i.w.sub.toNat % 4) fun y =>
    { y with
      chip := y.chip ++ ((pushRecs i d).take (chipShare i)).map fun r => { words := r, rel := some (c.g, u.nextId) }
      tail := y.tail + (i.lanes.length - chipShare i) }
/-- The spill that takes the others to the ring. -/
def pushSpill (u : State) (c : Cur) (i : Iss) (d : Nat) : EOp :=
  { engOp u c i (.spill (i.w.sub.toNat % 4) (queueOf i).tail) 2 .none with recs := (pushRecs i d).drop (chipShare i), todo := [0] }
/-- The spill enters with the push. -/
def State.pushToRing (u : State) (c : Cur) (i : Iss) (d : Nat) : State :=
  ({ u.pushOnChip c i d with ops := u.ops ++ [pushSpill u c i d], nextId := u.nextId + 1 } : State).sched u.clock (.queueSpillStart u.nextId)

theorem pushRecs_eq {d : Fin 248} (hd : i.w.d = .v d) : i.lanes.map (recWords i) = pushRecs i d.val := by
  refine List.map_congr_left fun l _ => ?_
  rw [recWords, hd]

theorem HwQ.ring_eq_zero_iff {x : HwQ} (hx : x.head ≤ x.tail) : x.ring = 0 ↔ x.tail = x.head := by
  unfold HwQ.ring
  omega

/-- What a QPUSH does by its lanes, its queue's capacity and the room on the chip. -/
theorem AtIssue.bodyQpush_eq (h : AtIssue s .qpush w c i core) (hr : engineReady u c i) {d : Fin 248} (hd : i.w.d = .v d) (hq : (queueOf i).head ≤ (queueOf i).tail) :
    bodyQpush i u =
      let q := i.w.sub.toNat % 4
      let rest := i.lanes.length - chipShare i
      if (queueOf i).cap = 0 ∧ 32 < i.lanes.length then guardThrow i eQueue q
      else if rest ≠ 0 ∧ ((queueOf i).cap = 0 ∨ (queueOf i).cap < (queueOf i).tail - (queueOf i).head + rest) then .stall
      else if rest = 0 then .ok ((u.pushOnChip c i d.val).serve i.t.id q)
      else .ok ((u.pushToRing c i d.val).serve i.t.id q) := by
  unfold bodyQpush
  extract_lets q x k chipN ringN recs s1 o s2 rest
  have share : chipN = chipShare i := by
    have empty : x.ring = 0 ↔ (queueOf i).tail = (queueOf i).head := HwQ.ring_eq_zero_iff hq
    unfold chipN chipShare
    simp only [empty]
    rfl
  have left : ringN = rest := congrArg (k - ·) share
  have some' : k ≠ 0 := mt List.length_eq_zero_iff.1 hr.1
  have chip : s1 = u.pushOnChip c i d.val := by
    unfold s1 recs State.pushOnChip
    rw [left, share, pushRecs_eq hd, h.g]
  have spilled : s2 = if rest = 0 then u.pushOnChip c i d.val else u.pushToRing c i d.val := by
    have op : o = pushSpill u c i d.val := by
      unfold o recs pushSpill engOp
      rw [pushRecs_eq hd, share, h.g, h.pc]
      rfl
    unfold s2
    rw [left, chip, op]
    rfl
  rw [if_neg some', h.engHold_eq hr, if_neg Bool.false_ne_true, spilled, left]
  simp only [Bool.and_eq_true, Bool.or_eq_true, decide_eq_true_eq]
  refine if_congr Iff.rfl rfl (if_congr Iff.rfl rfl ?_)
  by_cases none' : rest = 0
  · rw [if_pos none', if_pos none']
  · rw [if_neg none', if_neg none']
end

/-- R260. -/
theorem pushesGoToTheChipThenTheRing : Claims.pushesGoToTheChipThenTheRing := by
  intro s w c i core h hw d hd u q x recs n put hr hq
  obtain rfl := h.w_eq
  have body := h.bodyQpush_eq hr hd hq
  have share : n = chipShare i := rfl
  refine ⟨fun all small => ?_, fun more cap room => ?_, fun cap wide => ?_⟩
  · have none' : i.lanes.length - chipShare i = 0 := by omega
    have fits : ¬ ((queueOf i).cap = 0 ∧ 32 < i.lanes.length) := fun ⟨cap, wide⟩ => by
      have := small cap
      omega
    rw [none', if_neg fits, if_neg (by omega), if_pos rfl] at body
    exact execFull_ok h hw (body := bodyQpush) (body.trans rfl) (f := fun u => _)
  · have some' : i.lanes.length - chipShare i ≠ 0 := by omega
    have fits : ¬ ((queueOf i).cap = 0 ∧ 32 < i.lanes.length) := fun both => cap both.1
    have ring : ¬ (i.lanes.length - chipShare i ≠ 0 ∧ ((queueOf i).cap = 0 ∨ (queueOf i).cap < (queueOf i).tail - (queueOf i).head + (i.lanes.length - chipShare i))) :=
      fun ⟨_, full⟩ => full.elim cap (Nat.not_lt.2 room)
    rw [if_neg fits, if_neg ring, if_neg some'] at body
    exact execFull_ok h hw (body := bodyQpush) (body.trans rfl) (f := fun u => _)
  · rw [if_pos ⟨cap, wide⟩, h.guardThrow_eq] at body
    exact h.execFull_throws hw (body := bodyQpush) body

section
variable {f : Group → Group} (hf : ∀ y, (f y).held = y.held ∧ (f y).phase = y.phase)
include hf

/-- What a group's change of registers leaves of the words that its core holds for their pages. -/
theorem State.heldEntries_modGroup (s : State) (g : GRef) (coord : Nat) : (s.modGroup g f).heldEntries coord = s.heldEntries coord := by
  unfold State.heldEntries State.resident
  rw [State.modGroup_teams, List.filter_map, List.flatMap_map]
  have stays : (fun t : Team => t.coord == coord && t.place == .resident) ∘ (fun t : Team => if t.id = g.team then t.modGroup g.slot f else t) =
      fun t => t.coord == coord && t.place == .resident := by
    funext t
    dsimp only [Function.comp]
    split <;> rfl
  rw [stays]
  refine List.flatMap_congr fun t _ => ?_
  split
  · rw [Team.modGroup, List.flatMap_map]
    refine List.flatMap_congr fun y _ => ?_
    have same : (if y.slot = g.slot then f y else y).held = y.held ∧ (if y.slot = g.slot then f y else y).phase = y.phase := by
      split
      · exact hf y
      · exact ⟨rfl, rfl⟩
    dsimp only
    rw [same.1, same.2]
    rfl
  · rfl

theorem State.corePath_modGroup (s : State) (g : GRef) (coord : Nat) : (s.modGroup g f).corePath coord = s.corePath coord := by
  unfold State.corePath
  rw [s.heldEntries_modGroup hf]
  rfl

theorem State.released_modGroup (s : State) (g x : GRef) (coord scope before : Nat) :
    (s.modGroup g f).released x coord scope before = s.released x coord scope before := by
  unfold State.released
  rw [s.corePath_modGroup hf]
  rfl

/-- A QPOP finds the same records before and after its lanes' registers are marked. -/
theorem State.qAvail_modGroup (s : State) (g : GRef) (t : Team) (slot : Nat) (x : HwQ) : (s.modGroup g f).qAvail t slot x = s.qAvail t slot x := by
  unfold State.qAvail State.pushed
  simp only [s.released_modGroup hf]
end

section
variable {s u : State} {w : Full} {c : Cur} {i : Iss} {core : Core}

/-! QPOP (R261, R190). -/

/-- The registers that take a record in each of the lanes are marked empty. -/
def State.emptyLanes (u : State) (c : Cur) (lanes : List Nat) (d : Nat) : State :=
  u.modGroup c.g fun y => { y with regs := lanes.foldl (fun r l => emptyRun r l d) y.regs }
theorem State.qAvail_emptyLanes (lanes : List Nat) (d : Nat) (t : Team) (slot : Nat) (x : HwQ) :
    (u.emptyLanes c lanes d).qAvail t slot x = u.qAvail t slot x :=
  u.qAvail_modGroup (f := fun y => { y with regs := lanes.foldl (fun r l => emptyRun r l d) y.regs }) (fun _ => ⟨rfl, rfl⟩) ..

/-- The n oldest records that are not lent leave the chip of the word's queue. -/
def State.leaveChip (u : State) (i : Iss) (n : Nat) : State :=
  u.modQueue i.t.id (i.w.sub.toNat % 4) fun y => { y with chip := (HwQ.take n (queueOf i).chip).2 }
/-- How many records the form that does not wait takes: none before a pop that waits. -/
def popShare (u : State) (i : Iss) : Nat :=
  if (queueOf i).waiters = [] then min i.lanes.length (u.qAvail i.t i.gr.slot (queueOf i)).length else 0
/-- The pop must wait: another does, or there are not enough records. -/
def popWaits (u : State) (i : Iss) : Prop := (queueOf i).waiters ≠ [] ∨ (u.qAvail i.t i.gr.slot (queueOf i)).length < i.lanes.length

/-- The form that does not wait serves its first lanes and tells them by its k register. -/
def State.popNow (u : State) (c : Cur) (i : Iss) (d n : Nat) : State :=
  ((((u.leaveChip i n).emptyLanes c (i.lanes.take n) d).landRecs c.g d ((i.lanes.take n).zip (HwQ.take n (queueOf i).chip).1)).land c.g 4
    (dstK i.w.c (i.lanes.map fun l => (l, decide (l ∈ i.lanes.take n))))).sched u.clock (.queueRefillStart i.t.id (i.w.sub.toNat % 4))
/-- The group joins those that wait for records. -/
def State.popLater (u : State) (c : Cur) (i : Iss) (d : Nat) : State :=
  let q := i.w.sub.toNat % 4
  let v := (u.emptyLanes c i.lanes d).modQueue i.t.id q fun y => { y with waiters := y.waiters ++ [(i.gr.slot, i.lanes.map fun l => (l, d))] }
  (v.park c.g (.queue q) (v.starter c.g (maskOf i.lanes) c.pc)).sched u.clock (.queueRefillStart i.t.id q)
/-- Every lane takes its record, and the group acquires. -/
def State.popAll (u : State) (c : Cur) (i : Iss) (d : Nat) : State :=
  let n := i.lanes.length
  (((((u.emptyLanes c i.lanes d).leaveChip i n).landRecs c.g d (i.lanes.zip (HwQ.take n (queueOf i).chip).1)).acquire c.g 2).sched u.clock
    (.queueRefillStart i.t.id (i.w.sub.toNat % 4)))

@[simp] theorem State.modQueue_clock (s : State) (n q : Nat) (f : HwQ → HwQ) : (s.modQueue n q f).clock = s.clock := rfl
@[simp] theorem State.landRecs_clock (s : State) (g : GRef) (d : Nat) (l : List (Nat × List W32)) : (s.landRecs g d l).clock = s.clock := rfl

theorem AtIssue.bodyQpop_now (h : AtIssue s .qpop w c i core) (hr : engineReady u c i) {d : Fin 248} (hd : i.w.d = .v d) (hs : 4 ≤ i.w.sub.toNat) :
    bodyQpop i u = .ok (u.popNow c i d.val (popShare u i)) := by
  have some' : i.lanes.length ≠ 0 := mt List.length_eq_zero_iff.1 hr.1
  have share : (if (queueOf i).waiters.isEmpty = true then min i.lanes.length (u.qAvail i.t i.gr.slot (queueOf i)).length else 0) = popShare u i := by
    simp only [List.isEmpty_iff]
    rfl
  have told (n : Nat) : (i.lanes.map fun l => (l, (i.lanes.take n).contains l)) = i.lanes.map fun l => (l, decide (l ∈ i.lanes.take n)) := by
    simp only [List.contains_eq_mem]
  unfold bodyQpop
  extract_lets q nb x k d' n r got v v' v''
  have taken : n = popShare u i := share
  rw [if_neg some', h.engHold_eq hr, if_neg Bool.false_ne_true, if_pos hs]
  have result : v''.sched v''.clock (.queueRefillStart i.t.id q) = u.popNow c i d.val n := by
    have clock : v''.clock = u.clock := by
      unfold v'' v' v
      simp only [State.land_clock, State.landRecs_clock, State.modGroup_clock, State.modQueue_clock]
    have state : v'' = (((u.leaveChip i n).emptyLanes c (i.lanes.take n) d.val).landRecs c.g d.val ((i.lanes.take n).zip (HwQ.take n (queueOf i).chip).1)).land c.g 4
        (dstK i.w.c (i.lanes.map fun l => (l, decide (l ∈ i.lanes.take n)))) := by
      unfold v'' v' v got r d'
      rw [told, regD_of_v hd, h.g]
      rfl
    rw [clock, state]
    rfl
  rw [← taken, ← result]

theorem AtIssue.bodyQpop_wide (h : AtIssue s .qpop w c i core) (hr : engineReady u c i) (hs : i.w.sub.toNat < 4) (hk : 32 < i.lanes.length) :
    bodyQpop i u = guardThrow i eQueue (i.w.sub.toNat % 4) := by
  have some' : i.lanes.length ≠ 0 := mt List.length_eq_zero_iff.1 hr.1
  unfold bodyQpop
  extract_lets
  rw [if_neg some', h.engHold_eq hr, if_neg Bool.false_ne_true, if_neg (Nat.not_le.2 hs), if_pos hk]

theorem AtIssue.bodyQpop_eq (h : AtIssue s .qpop w c i core) (hr : engineReady u c i) {d : Fin 248} (hd : i.w.d = .v d) (hs : i.w.sub.toNat < 4)
    (hk : i.lanes.length ≤ 32) :
    (popWaits u i → bodyQpop i u = .ok (u.popLater c i d.val)) ∧ (¬ popWaits u i → bodyQpop i u = .ok (u.popAll c i d.val)) := by
  have some' : i.lanes.length ≠ 0 := mt List.length_eq_zero_iff.1 hr.1
  unfold bodyQpop
  extract_lets q nb x k d' n r got v v' v'' e late r' all
  have marked : e = u.emptyLanes c i.lanes d.val := by
    unfold e d'
    rw [regD_of_v hd, h.g]
    rfl
  have waits : (!x.waiters.isEmpty || decide ((e.qAvail i.t i.gr.slot x).length < k)) = true ↔ popWaits u i := by
    rw [marked, State.qAvail_emptyLanes]
    simp only [Bool.or_eq_true, Bool.not_eq_true', List.isEmpty_eq_false_iff, decide_eq_true_eq]
    rfl
  have later : (late.park i.g (.queue q) (late.starter i.g (maskOf i.lanes) i.cur.pc)).sched late.clock (.queueRefillStart i.t.id q) = u.popLater c i d.val := by
    unfold late d'
    rw [marked, regD_of_v hd, h.g, h.pc]
    rfl
  have served : ((all.landRecs i.g d' (i.lanes.zip r'.1)).acquire i.g 2).sched all.clock (.queueRefillStart i.t.id q) = u.popAll c i d.val := by
    unfold all r' d'
    rw [marked, regD_of_v hd, h.g]
    rfl
  rw [if_neg some', h.engHold_eq hr, if_neg Bool.false_ne_true, if_neg (Nat.not_le.2 hs), if_neg (Nat.not_lt.2 hk)]
  refine ⟨fun hp => ?_, fun hp => ?_⟩
  · rw [if_pos (waits.2 hp), later]
  · rw [if_neg (mt waits.1 hp), served]
end

/-- R261, R190. -/
theorem popsTakeRecordsInOrder : Claims.popsTakeRecordsInOrder := by
  intro s w c i core h hw d hd u q x k empty keep hr
  obtain rfl := h.w_eq
  refine ⟨fun now => ?_, fun waits few hp => ?_, fun waits few none' enough => ?_, fun waits wide => ?_⟩
  · exact execFull_ok h hw (body := bodyQpop) ((h.bodyQpop_now hr hd now).trans rfl) (f := fun u => _)
  · exact execFull_ok h hw (body := bodyQpop) (((h.bodyQpop_eq hr hd waits few).1 hp).trans rfl) (f := fun u => _)
  · have may : ¬ popWaits u i := fun hp => hp.elim (· none') (Nat.not_lt.2 enough)
    exact execFull_ok h hw (body := bodyQpop) (((h.bodyQpop_eq hr hd waits few).2 may).trans rfl) (f := fun u => _)
  · exact h.execFull_throws hw (body := bodyQpop) ((h.bodyQpop_wide hr waits wide).trans (h.guardThrow_eq _ _))

section
variable {s u : State} {w : Full} {c : Cur} {i : Iss} {core : Core}

/-! QSTEAL (R262, R263). -/

/-- The coordinate at which a lane steals. -/
def stealAt (i : Iss) (l : Nat) : Nat := (i.rd32 l i.w.b).toNat
/-- The lanes that name no other team of the cluster. -/
def badSteals (i : Iss) : List Nat := i.lanes.filter fun l => stealAt i l = i.t.coord ∨ i.t.hasCore (stealAt i l) = false
/-- A lane's request leaves for its victim. -/
def State.sendSteal (v : State) (b : Starter) (i : Iss) (d k l : Nat) : State :=
  let st : Steal := { id := v.nextId, byw := b, lane := l, reg := d, kreg := k, q := i.w.sub.toNat % 4,
                      victim := ((clusterTeam v i.t (stealAt i l)).map fun t => t.id).getD 0 }
  ({ v with steals := v.steals ++ [st], nextId := v.nextId + 1 } : State).after (v.stealLeast st) (.stealRequestServe st.id)

theorem AtIssue.bodyQsteal_eq (h : AtIssue s .qsteal w c i core) (hr : engineReady u c i) {d : Fin 248} {k : Fin 8} (hd : i.w.d = .v d) (hk : i.w.c = .k k) :
    (badSteals i = [] → bodyQsteal i u =
      .ok (i.lanes.foldl (fun v l => v.sendSteal (u.starter c.g (maskOf i.lanes) c.pc) i d.val k.val l) (u.emptyLanes c i.lanes d.val))) ∧
    (badSteals i ≠ [] → bodyQsteal i u = .throws ((badSteals i).map fun l => ⟨l, 0x06, c.pc, BitVec.ofNat 64 (stealAt i l)⟩)) := by
  unfold bodyQsteal
  extract_lets d' kr co bad b v
  have bads : bad = (badSteals i).map fun l => (l, stealAt i l) := by
    unfold bad co badSteals
    rw [List.filter_map]
    simp only [Function.comp_def, Bool.or_eq_decide, Bool.not_eq_true', decide_eq_true_eq, stealAt]
    rfl
  have some' : co.isEmpty = false := List.isEmpty_map.trans (List.isEmpty_eq_false_iff.2 hr.1)
  rw [some', if_neg Bool.false_ne_true, h.engHold_eq hr, if_neg Bool.false_ne_true]
  refine ⟨fun hb => ?_, fun hb => ?_⟩
  · have none' : bad.isEmpty = true := by rw [bads, hb]; rfl
    have marked : v = u.emptyLanes c i.lanes d.val := by
      unfold v co d'
      rw [regD_of_v hd, h.g]
      simp only [List.foldl_map]
      rfl
    have reg : kr = k.val := by
      unfold kr
      rw [hk]
    unfold co d' b
    rw [none', Bool.not_true, if_neg Bool.false_ne_true, List.foldl_map, marked, regD_of_v hd, reg, h.g, h.pc]
    rfl
  · have some' : bad.isEmpty = false := by
      rw [bads]
      exact List.isEmpty_map.trans (List.isEmpty_eq_false_iff.2 hb)
    rw [some', Bool.not_false, if_pos rfl, bads, List.map_map, h.pc]
    rfl
end

/-- R262, R263. -/
theorem stealsAskTheirVictims : Claims.stealsAskTheirVictims := by
  intro s w c i core h hw d k hd hk u co bad hr
  obtain rfl := h.w_eq
  obtain ⟨sound, wrong⟩ := h.bodyQsteal_eq hr hd hk
  refine ⟨fun good => ?_, fun bads hb some' => ?_⟩
  · have none' : badSteals i = [] := List.filter_eq_nil_iff.2 fun l hl hbad => good l hl (of_decide_eq_true hbad)
    exact execFull_ok h hw (body := bodyQsteal) ((sound none').trans rfl) (f := fun u => _)
  · subst hb
    exact h.execFull_throws hw (body := bodyQsteal) (wrong some')

/-- Settles O21: a push by what the chip takes of it, a pop by whether it must wait, a steal by whether each lane names a victim. -/
theorem queueWords : Obligations.queueWords := ⟨pushesGoToTheChipThenTheRing, popsTakeRecordsInOrder, stealsAskTheirVictims⟩
end Sys2Proof.Machine
end

section
/-! SUPPORT. TSUBMIT as its descriptor passes (R264, R279; O22). -/
namespace Sys2Proof.Machine

theorem foldl_keeps {β γ : Type} {π : State → γ} {f : State → β → State} (hf : ∀ u x, π (f u x) = π u) (l : List β) (s : State) : π (l.foldl f s) = π s := by
  induction l generalizing s with
  | nil => rfl
  | cons x l ih => exact (ih _).trans (hf s x)

/-- Evaluating the counters changes groups and cores alone. -/
theorem State.evalCounters_keeps {γ : Type} {π : State → γ} (hg : ∀ (u : State) g f, π (u.modGroup g f) = π u) (hc : ∀ (u : State) c f, π (u.modCore c f) = π u)
    (s : State) : π s.evalCounters = π s := by
  have acquired (u : State) (g : GRef) (sc : Nat) : π (u.acquire g sc) = π u := by
    unfold State.acquire
    split
    · split
      · exact hc ..
      · rfl
    · rfl
  refine foldl_keeps (fun u t => foldl_keeps (fun v g => ?_) _ _) _ _
  split
  · split
    · split
      · exact (acquired ..).trans (hg ..)
      · rfl
    · rfl
  · rfl

@[simp] theorem State.writePa_clock (s : State) (pa : Nat) (b : List Byte) : (s.writePa pa b).clock = s.clock :=
  State.evalCounters_keeps (π := State.clock) (fun _ _ _ => rfl) (fun _ _ _ => rfl) _
@[simp] theorem State.writePa_nextTask (s : State) (pa : Nat) (b : List Byte) : (s.writePa pa b).nextTask = s.nextTask :=
  State.evalCounters_keeps (π := State.nextTask) (fun _ _ _ => rfl) (fun _ _ _ => rfl) _

/-! The six range words of a descriptor: four of reads, then two of writes (R264). -/

section
variable (g : Nat → Nat) {nr nw : Nat}

theorem take_readRanges (hr : nr ≤ 4) : ((List.range 6).map g).take nr = (List.range nr).map g := by
  rw [← List.map_take, List.take_range, Nat.min_eq_left (by omega)]

theorem take_writeRanges (hw : nw ≤ 2) : (((List.range 6).map g).drop 4).take nw = (List.range nw).map fun k => g (4 + k) := by
  have last : ((List.range 6).map g).drop 4 = (List.range 2).map fun k => g (4 + k) := rfl
  rw [last, ← List.map_take, List.take_range, Nat.min_eq_left hw]

theorem unusedRanges_zero (hr : ∀ j, nr ≤ j → j < 4 → g j = 0) (hw : ∀ j, nw ≤ j → j < 2 → g (4 + j) = 0) :
    ∀ x ∈ (((List.range 6).map g).take 4).drop nr ++ ((List.range 6).map g).drop (4 + nw), x = 0 := by
  intro x hx
  rcases List.mem_append.1 hx with hx | hx
  · obtain ⟨j, hj, rfl⟩ := List.mem_drop_iff_getElem.1 hx
    simp only [List.length_take, List.length_map, List.length_range] at hj
    simpa using hr (nr + j) (by omega) (by omega)
  · obtain ⟨j, hj, rfl⟩ := List.mem_drop_iff_getElem.1 hx
    simp only [List.length_map, List.length_range] at hj
    rw [List.getElem_map, List.getElem_range, Nat.add_assoc]
    exact hw (nw + j) (by omega) (by omega)
end

section
variable {s u : State} {w : Full} {c : Cur} {i : Iss} {core : Core}

/-- The ranges that a descriptor's task reads, and those that it writes. -/
def descReads (raw : List Byte) : List (Option (Nat × Nat)) := (List.range (le2 raw 4 1)).map fun k => rangeOf (le2 raw (16 + 8 * k) 8)
def descWrites (raw : List Byte) : List (Option (Nat × Nat)) := (List.range (le2 raw 5 1)).map fun k => rangeOf (le2 raw (48 + 8 * k) 8)

/-- A descriptor passes the checks of R264. -/
structure DescPasses (raw : List Byte) : Prop where
  aligned : le2 raw 8 8 % 8 = 0
  canon : canonical (le2 raw 8 8) = true
  reads : le2 raw 4 1 ≤ 4
  writes : le2 raw 5 1 ≤ 2
  reserved : le2 raw 6 2 = 0
  ranges : ∀ r ∈ descReads raw ++ descWrites raw, r ≠ none
  spareReads : ∀ j, le2 raw 4 1 ≤ j → j < 4 → le2 raw (16 + 8 * j) 8 = 0
  spareWrites : ∀ j, le2 raw 5 1 ≤ j → j < 2 → le2 raw (48 + 8 * j) 8 = 0

/-- The kernel of a task is one core's, without queues in rings (R264). -/
structure TaskKernel (m : Image) (raw : List Byte) (k : Kern) : Prop where
  found : (m.kerns.find? fun k => k.entry == le2 raw 0 4) = some k
  cw : k.cw = 1
  ch : k.ch = 1
  qcap : ∀ n ∈ k.qcap, n = 0

section
variable (raw : List Byte)

/-- A descriptor's range words, from byte 16 on. -/
def rangeWord (k : Nat) : Nat := le2 raw (16 + 8 * k) 8

theorem rangeWord_write (k : Nat) : rangeWord raw (4 + k) = le2 raw (48 + 8 * k) 8 := by
  rw [rangeWord, Nat.mul_add, ← Nat.add_assoc]

variable {raw} (desc : DescPasses raw)
include desc

theorem DescPasses.descReads_eq : (((List.range 6).map (rangeWord raw)).take (le2 raw 4 1)).map rangeOf = descReads raw := by
  rw [take_readRanges _ desc.reads, List.map_map]
  rfl

theorem DescPasses.descWrites_eq : ((((List.range 6).map (rangeWord raw)).drop 4).take (le2 raw 5 1)).map rangeOf = descWrites raw := by
  rw [take_writeRanges _ desc.writes, List.map_map]
  simp only [Function.comp_def, rangeWord_write]
  rfl

/-- None of the checks whose failure is E_BOUNDS fails. -/
theorem DescPasses.bounds :
    (decide (4 < le2 raw 4 1) || decide (2 < le2 raw 5 1) || decide (le2 raw 6 2 ≠ 0) || !canonical (le2 raw 8 8) ||
      (descReads raw ++ descWrites raw).any (fun r => r.isNone) ||
      ((((List.range 6).map (rangeWord raw)).take 4).drop (le2 raw 4 1) ++ ((List.range 6).map (rangeWord raw)).drop (4 + le2 raw 5 1)).any fun u => decide (u ≠ 0)) = false := by
  obtain ⟨-, canon, reads, writes, reserved, ranges, spareReads, spareWrites⟩ := desc
  have unused := unusedRanges_zero (rangeWord raw) spareReads fun j lo hi => (rangeWord_write raw j).trans (spareWrites j lo hi)
  simp only [Bool.or_eq_false_iff, decide_eq_false_iff_not, List.any_eq_false, Option.isNone_iff_eq_none, decide_eq_true_eq, Bool.not_eq_false', not_not]
  exact ⟨⟨⟨⟨⟨Nat.not_lt.2 reads, Nat.not_lt.2 writes⟩, reserved⟩, canon⟩, ranges⟩, unused⟩
end

theorem AtIssue.bodyTsubmit_of_pass (h : AtIssue s .tsubmit w c i core) (hr : engineReady u c i) (released : u.released c.g i.t.coord 4 u.nextId = true)
    (a8 : (i.rdOnce i.w.a).toNat % 128 = 0) (ac : canonical (i.rdOnce i.w.a).toNat = true) {x : Trans} (hx : u.tlb? i.t (i.rdOnce i.w.a).toNat true = some x)
    (rd : pteRd x.leaf = true) (wr : pteWr x.leaf = true) (sound : u.dram.poisoned x.pa 128 = false) {l : Launch} {m : Image} {k : Kern}
    (hl : u.launch? i.t.launch = some l) (hm : u.image? l.body.image = some m) (hk : TaskKernel m (u.dram.bytes x.pa 128) k)
    (desc : DescPasses (u.dram.bytes x.pa 128)) (room : (u.tasks.filter fun k => k.die == Config.coordDie i.t.coord).length < 1024) :
    bodyTsubmit i u = .ok (enterTask i u (i.rdOnce i.w.a).toNat x.pa (u.dram.bytes x.pa 128) ((descReads (u.dram.bytes x.pa 128)).filterMap id)
      ((descWrites (u.dram.bytes x.pa 128)).filterMap id) m.body.dataVa) := by
  obtain ⟨found, cw, ch, qcap⟩ := hk
  have image : ((u.launch? i.t.launch).bind fun l => u.image? l.body.image) = some m := by rw [hl, Option.bind_some, hm]
  have queues : k.qcap.all (fun n => decide (n = 0)) = true := by simpa using qcap
  have reads := desc.descReads_eq
  have writes := desc.descWrites_eq
  have bounds := desc.bounds
  unfold rangeWord at reads writes bounds
  unfold bodyTsubmit
  simp only [hr.lanes, h.engHold_eq hr, h.g, released, a8, ac, hx, rd, wr, sound, image, Option.bind_some, found, cw, ch, queues, reads, writes, bounds, desc.aligned,
    Nat.not_le.2 room, Bool.not_true, Bool.and_true, Bool.or_false, Bool.false_eq_true, if_false, ne_eq, not_true_eq_false, decide_true, Option.map_some, Option.getD_some]

/-- The task of a descriptor at its submission. -/
def submitted (u : State) (c : Cur) (i : Iss) (desc : Nat) (raw : List Byte) : Task :=
  { die := Config.coordDie i.t.coord, id := u.nextTask, launch := i.t.launch, ctx := i.t.ctx, desc := desc, entry := le2 raw 0 4, join := le2 raw 8 8,
    reads := (descReads raw).filterMap id, writes := (descWrites raw).filterMap id, byw := u.starter c.g (maskOf i.lanes) c.pc }
/-- The task enters its die's table, ready or waiting, with the image's data address in its descriptor. -/
def State.submit (u : State) (k : Task) (pa dataVa : Nat) : State :=
  let v := u.writePa (pa + 64) (bytesOfNat 8 dataVa)
  ({ v with tasks := v.tasks ++ [{ k with state := if (u.predsOf k).all Task.finished then 1 else 0 }], nextTask := u.nextTask + 1 } : State).sched
    (u.clock + 1) (.taskStart k.die k.id)

theorem AtIssue.enterTask_eq (h : AtIssue s .tsubmit w c i core) (desc pa : Nat) (raw : List Byte) (dataVa : Nat) :
    enterTask i u desc pa raw ((descReads raw).filterMap id) ((descWrites raw).filterMap id) dataVa = u.submit (submitted u c i desc raw) pa dataVa := by
  unfold enterTask
  extract_lets die k k' v
  have task : k = submitted u c i desc raw := by
    unfold k submitted
    rw [h.g, h.pc]
  have written : v.nextTask = u.nextTask ∧ v.clock = u.clock := ⟨State.writePa_nextTask .., State.writePa_clock ..⟩
  unfold k' State.submit
  rw [task, ← written.1, ← written.2]
  rfl
end

/-- Settles O22: with its checks passed the word enters its task, whose range words are read six in a row; the write of the data address wakes
groups and leaves the clock and the tasks' numbers. -/
theorem tasksAreEntered : Obligations.tasksAreEntered := by
  intro s w c i core h hw u a hr released a8 ac x hx rd wr sound raw f join rs ws l m k hl hm found cw ch qcap j8 jc nr nw reserved ranges spareR spareW room
  obtain rfl := h.w_eq
  have body := h.bodyTsubmit_of_pass hr released a8 ac hx rd wr sound hl hm ⟨found, cw, ch, qcap⟩ ⟨j8, jc, nr, nw, reserved, ranges, spareR, spareW⟩ room
  rw [h.enterTask_eq] at body
  exact execFull_ok h hw (body := bodyTsubmit) (body.trans rfl) (f := fun u => _)
end Sys2Proof.Machine
end

section
/-! SUPPORT. RGET, RPUT and RFREE as they issue (R266 to R268; O23). -/
namespace Sys2Proof.Machine

section
variable {s u : State} {op : Op} {w : Full} {c : Cur} {i : Iss} {core : Core}

/-- The ring and the stage that a word names, and the stage as it issues. -/
def ringOf (i : Iss) : Nat := (i.rdOnce i.w.a).toNat
def stageNo (i : Iss) : Nat := (i.rdOnce i.w.b).toNat
def stageNow (i : Iss) : Stage := spGet {} i.t.stages (16 * ringOf i + stageNo i)
/-- No earlier RPUT or RFREE of the group on the ring is to take effect. -/
def ringQuiet (u : State) (c : Cur) (i : Iss) : Prop := ∀ e ∈ u.path, ¬ (e.byw.g = c.g ∧ e.kind = .ring ∧ e.addr / 16 = ringOf i)
/-- A word on a stage of the team passes its holds. -/
structure RingPasses (u : State) (c : Cur) (i : Iss) : Prop where
  ready : engineReady u c i
  stage : i.t.hasStage (ringOf i) (stageNo i) = true
  quiet : ringQuiet u c i
/-- What an RGET waits for: a full stage, or an empty one, in the phase that it names. -/
def ringMet (i : Iss) : Prop :=
  (if 8 ≤ i.w.sub.toNat then (stageNow i).full = false ∧ (stageNow i).count = 0 else (stageNow i).full = true) ∧
    (stageNow i).phase.toNat = (i.rdOnce i.w.c).toNat % 2
/-- The effect of an RPUT or an RFREE goes into the path, to wait for its release. -/
def State.leaveRing (u : State) (c : Cur) (i : Iss) (free : Bool) (data : Nat) : State :=
  ({ u with nextId := u.nextId + 1, path := u.path ++
    [{ id := u.nextId, coord := i.t.coord, byw := u.starter c.g (maskOf i.lanes) c.pc, lane := 64, kind := .ring, space := 1, addr := 16 * ringOf i + stageNo i, pa := 0,
       size := 0, data := data, cmp := 0, op := free.toNat, ty := .n32, reg := 256, rel := none }] } : State).sched u.clock
    (if free then .rfreeEffect u.nextId else .rputEffect u.nextId)

theorem AtIssue.ringHold_eq (h : AtIssue s op w c i core) (hq : ringQuiet u c i) : ringHold u i.g (ringOf i) = false := by
  unfold ringHold
  rw [List.any_eq_false, h.g]
  intro e he
  simpa [and_assoc] using hq e he

theorem AtIssue.pushRing_eq (h : AtIssue s op w c i core) (free : Bool) (data : Nat) :
    pushRing i u free (16 * ringOf i + stageNo i) data = u.leaveRing c i free data := by
  unfold pushRing
  rw [h.g, h.pc]
  rfl

/-- What a word on a stage comes to when it passes its holds. -/
theorem AtIssue.ringChecks (h : AtIssue s op w c i core) (hp : RingPasses u c i) (x : Body) :
    (if i.lanes.isEmpty = true then .ok u else if engHold i u = true then .stall
      else if (!i.t.hasStage (ringOf i) (stageNo i)) = true then guardThrow i eQueue (0x100 + 16 * ringOf i + stageNo i)
      else if ringHold u i.g (ringOf i) = true then .stall else x) = x := by
  obtain ⟨ready, stage, quiet⟩ := hp
  rw [if_neg ready.lanes, h.engHold_eq ready, if_neg Bool.false_ne_true, stage, Bool.not_true, if_neg Bool.false_ne_true, h.ringHold_eq quiet, if_neg Bool.false_ne_true]

theorem ringMet_iff :
    ((if 8 ≤ i.w.sub.toNat then !(stageNow i).full && decide ((stageNow i).count = 0) else (stageNow i).full) &&
      (stageNow i).phase.toNat == (i.rdOnce i.w.c).toNat % 2) = true ↔ ringMet i := by
  unfold ringMet
  split <;> simp

/-- RGET, its holds passed, by its stage. -/
theorem AtIssue.bodyRget_eq (h : AtIssue s .rget w c i core) (hp : RingPasses u c i) :
    bodyRget i u =
      if ((if 8 ≤ i.w.sub.toNat then !(stageNow i).full && decide ((stageNow i).count = 0) else (stageNow i).full) &&
          (stageNow i).phase.toNat == (i.rdOnce i.w.c).toNat % 2) = true then
        if (!decide (8 ≤ i.w.sub.toNat) && (stageNow i).poison) = true then guardThrow i eCopyfail (0x100 + 16 * ringOf i + stageNo i)
        else .ok (u.acquire i.g (i.w.sub.toNat % 8))
      else .ok (u.park i.g (.ring (ringOf i) (stageNo i) ((i.rdOnce i.w.c).toNat % 2) (decide (8 ≤ i.w.sub.toNat)) (i.w.sub.toNat % 8))
        (u.starter i.g (maskOf i.lanes) i.cur.pc)) :=
  h.ringChecks hp _

theorem AtIssue.bodyRput_eq (h : AtIssue s .rput w c i core) (hp : RingPasses u c i) :
    bodyRput i u = .ok (u.leaveRing c i false ((i.rdOnce i.w.c).toNat % 2 ^ 32)) :=
  (h.ringChecks hp _).trans (congrArg Body.ok (h.pushRing_eq _ _))

theorem AtIssue.bodyRfree_eq (h : AtIssue s .rfree w c i core) (hp : RingPasses u c i) :
    bodyRfree i u =
      if (!(stageNow i).full) = true then guardThrow i eQueue (0x100 + 16 * ringOf i + stageNo i) else .ok (u.leaveRing c i true 0) := by
  rw [← h.pushRing_eq]
  exact h.ringChecks hp _
end

/-- Settles O23: a word on a stage that passes its holds, by its stage: RGET by whether it is met and poisoned, RFREE by whether it is full. -/
theorem ringWordsAcquireAndRelease : Obligations.ringWordsAcquireAndRelease := by
  intro s w c i core u r st x sc empty ph met quiet left
  refine ⟨fun h hw hr hs hq => ?get, fun h hw hr hs hq => ?put, fun h hw hr hs hq => ?free⟩
  case get =>
    obtain rfl := h.w_eq
    have body := h.bodyRget_eq ⟨hr, hs, hq⟩
    refine ⟨fun hm sound => ?_, fun hm full poison => ?_, fun hm => ?_⟩
    · have fine : ¬ (!decide (8 ≤ i.w.sub.toNat) && (stageNow i).poison) = true := by
        have whole : i.w.sub.toNat < 8 → (stageNow i).poison = false := fun full => sound (Nat.not_le.2 full)
        simpa using whole
      rw [if_pos (ringMet_iff.2 hm), if_neg fine, h.g] at body
      exact execFull_ok h hw (body := bodyRget) (body.trans rfl) (f := fun u => _)
    · have bad : (!decide (8 ≤ i.w.sub.toNat) && (stageNow i).poison) = true := by
        simpa using ⟨Nat.not_le.1 full, poison⟩
      rw [if_pos (ringMet_iff.2 hm), if_pos bad, h.guardThrow_eq] at body
      exact h.execFull_throws hw (body := bodyRget) body
    · rw [if_neg (mt ringMet_iff.1 hm), h.g, h.pc] at body
      exact execFull_ok h hw (body := bodyRget) (body.trans rfl) (f := fun u => _)
  case put =>
    obtain rfl := h.w_eq
    exact execFull_ok h hw (body := bodyRput) ((h.bodyRput_eq ⟨hr, hs, hq⟩).trans rfl) (f := fun u => _)
  case free =>
    obtain rfl := h.w_eq
    have body := h.bodyRfree_eq ⟨hr, hs, hq⟩
    refine ⟨fun full => ?_, fun notFull => ?_⟩
    · have held : (stageNow i).full = true := full
      rw [held, Bool.not_true, if_neg Bool.false_ne_true] at body
      exact execFull_ok h hw (body := bodyRfree) (body.trans rfl) (f := fun u => _)
    · have clear : (stageNow i).full = false := notFull
      rw [clear, Bool.not_false, if_pos rfl, h.guardThrow_eq] at body
      exact h.execFull_throws hw (body := bodyRfree) body
end Sys2Proof.Machine
end

section
/-! SUPPORT. Queue rings, steals and the effects of RPUT and RFREE (R263, R268 to R271; O36). -/
namespace Sys2Proof.Machine

section
variable {s : State} {o : EOp} {q : Nat} (ho : s.op? o.id = some o)
include ho

theorem queueSpillStart_becomes {first : Nat} {t : Team} (hk : o.kind = .spill q first) (ht : s.team? o.team = some t) (waits : o.started = false)
    (runs : s.frozen o.ctx = false) (released : s.released o.byw.g o.coord 3 o.id = true) (room : s.lockRoom o.coord 1 = true) :
    becomes (.queueSpillStart o.id) s
      ((({ s with locks := s.locks ++ ringLock o true (t.queue q).base (t.queue q).cap first o.recs.length } : State).modOp o.id fun x => { x with started := true }).enterEngine o) := by
  show execQueueSpillStart o.id s = _
  simp only [execQueueSpillStart, ho, hk, ht, waits, runs, released, room, Bool.not_true, Bool.or_self, Bool.false_eq_true, if_false]

variable (busy : 0 ∈ o.running) (whole : s.chunkReady o 0 = none)
include busy whole

theorem queueSpillPerformed_becomes {first : Nat} (hk : o.kind = .spill q first) :
    let u := (s.engWrite o o.team (s.chunkWrites o 0) (o.recs.flatMap recBytes)).modQueue o.team q fun x =>
      { x with performed := x.performed ++ numsFrom first o.recs.length }
    becomes (.queueSpillPerformed o.id) s ((u.dropOp o).sched u.clock (.queueRefillStart o.team q)) := by
  intro u
  show execQueueSpillPerformed o.id s = _
  simp only [execQueueSpillPerformed, ho, hk, List.contains_iff_mem.2 busy, whole, Bool.not_true, Bool.false_eq_true, if_false]
  rfl

theorem queueRefillLanding_becomes {n : Nat} (hk : o.kind = .refill q n) :
    let recs := (splitRecs n (s.engRead o (s.chunkReads o 0))).map parseQRec
    becomes (.queueRefillLanding o.id) s (((s.modQueue o.team q fun x => HwQ.skip
      { x with
        chip := x.chip ++ recs.map fun w => { words := w }
        head := x.head + n
        performed := x.performed.filter fun i => x.head + n ≤ i
        reserved := x.reserved - n
        refill := none }).dropOp o).serve o.team q) := by
  intro recs
  show execQueueRefillLanding o.id s = _
  simp only [execQueueRefillLanding, ho, hk, List.contains_iff_mem.2 busy, whole, Bool.not_true, Bool.false_eq_true, if_false]
  rfl
end

section
variable {s : State} {t : Team} {q : Nat}

/-- The refill of a queue by n records, as the engine holds it. -/
def refillOp (s : State) (t : Team) (q n : Nat) : EOp :=
  { id := s.nextId, kind := .refill q n, coord := t.coord, team := t.id, ctx := t.ctx, launch := t.launch, cls := 2, target := .none,
    started := true, todo := [0] }

theorem queueRefillStart_becomes (ht : s.team? t.id = some t) (hr : t.place = .resident) (hq : q < t.queues.length) (idle : (t.queue q).skip.refill = none)
    {n : Nat} (hn : min (t.queue q).skip.free (runFrom (t.queue q).skip.performed 32 (t.queue q).skip.head) = n) (some' : 0 < n)
    (runs : s.frozen t.ctx = false) (room : s.lockRoom t.coord 1 = true) :
    let x := (t.queue q).skip
    becomes (.queueRefillStart t.id q) s
      ((({ s with ops := s.ops ++ [refillOp s t q n], nextId := s.nextId + 1, locks := s.locks ++ ringLock (refillOp s t q n) false x.base x.cap x.head n } : State).modQueue t.id q
        fun _ => { x with reserved := x.reserved + n, refill := some s.nextId }).enterEngine (refillOp s t q n)) := by
  intro x
  have goes : (decide (t.place ≠ .resident) || decide (q ≥ t.queues.length) || x.refill.isSome || decide (n = 0)) = false := by
    simp only [Bool.or_eq_false_iff, decide_eq_false_iff_not, Option.isSome_eq_false_iff, Option.isNone_iff_eq_none]
    exact ⟨⟨⟨not_not.2 hr, Nat.not_le.2 hq⟩, idle⟩, some'.ne'⟩
  show execQueueRefillStart t.id q s = _
  unfold execQueueRefillStart
  rw [ht]
  dsimp only
  rw [hn, goes, runs, room]
  rfl
end

/-- R269 to R271. -/
theorem queueRingsSpillAndRefill : Claims.queueRingsSpillAndRefill := by
  intro s
  refine ⟨fun o q first t ho hk ht => ⟨?_, ?_⟩, fun t q ht hr hq => ?_, fun o q n ho hk busy whole => ?_⟩
  · exact fun waits runs released room => queueSpillStart_becomes ho hk ht waits runs released room
  · exact fun busy whole => queueSpillPerformed_becomes ho busy whole hk
  · exact fun idle some' runs room => queueRefillStart_becomes ht hr hq idle rfl some' runs room
  · exact queueRefillLanding_becomes ho busy whole hk

/-! Steals (R263). -/

section
variable {s : State} {st : Steal}

/-- The least time of a steal's message, by where its parties are. -/
def stealTime (thief victim : Option Nat) : Nat :=
  (thief.bind fun a => victim.map fun b => Config.meshCc (Config.meshWay a b + 1)).getD (Config.meshCc 3)

theorem State.stealLeast_eq (s : State) (st : Steal) :
    s.stealLeast st = stealTime ((s.team? st.byw.g.team).map fun t => t.coord) ((s.team? st.victim).map fun t => t.coord) := by
  unfold State.stealLeast
  cases s.team? st.byw.g.team with
  | none => rfl
  | some a => cases s.team? st.victim <;> rfl

theorem State.stealLeast_modTeam (s : State) (n : Nat) {f : Team → Team} (hf : ∀ t, (f t).id = t.id ∧ (f t).coord = t.coord) (st : Steal) :
    (s.modTeam n f).stealLeast st = s.stealLeast st := by
  have place (m : Nat) : ((s.modTeam n f).team? m).map (fun t => t.coord) = (s.team? m).map fun t => t.coord := by
    rw [State.team?_modTeam s n f (fun t => (hf t).1), Option.map_map]
    refine Option.map_congr fun t _ => ?_
    dsimp only [Function.comp]
    split
    · exact (hf t).2
    · rfl
  rw [State.stealLeast_eq, State.stealLeast_eq, place, place]

@[simp] theorem State.stealLeast_modQueue (s : State) (n q : Nat) (f : HwQ → HwQ) (st : Steal) : (s.modQueue n q f).stealLeast st = s.stealLeast st :=
  s.stealLeast_modTeam n (f := fun t => { t with queues := modNth t.queues q f }) (fun _ => ⟨rfl, rfl⟩) st
@[simp] theorem State.stealLeast_modGroup (s : State) (g : GRef) (f : Group → Group) (st : Steal) : (s.modGroup g f).stealLeast st = s.stealLeast st :=
  s.stealLeast_modTeam g.team (f := fun t => t.modGroup g.slot f) (fun _ => ⟨rfl, rfl⟩) st
@[simp] theorem State.stealLeast_modSteal (s : State) (n : Nat) (f : Steal → Steal) (st : Steal) : (s.modSteal n f).stealLeast st = s.stealLeast st := rfl
@[simp] theorem State.stealLeast_acquire (s : State) (g : GRef) (scope : Nat) (st : Steal) : (s.acquire g scope).stealLeast st = s.stealLeast st := by
  unfold State.acquire
  split
  · split <;> rfl
  · rfl

/-- The reply leaves for the thief, with a record or without. -/
def State.answerSteal (s : State) (least : Nat) (st : Steal) (w : Option (List W32)) : State :=
  (s.modSteal st.id fun x => { x with state := 1, got := w }).after least (.stealReplyLanding st.id)
/-- The victim's oldest record that is not lent is lent to the steal. -/
def State.lendRecord (s : State) (t : Team) (st : Steal) : State :=
  let i := ((t.queue st.q).chip.findIdx? fun x => x.lent.isNone).getD 0
  s.modQueue t.id st.q fun x => { x with chip := modNth x.chip i fun y => { y with lent := some st.id } }

theorem stealRequestServe_becomes {t : Team} (hs : (s.steals.find? fun x => x.id == st.id && decide (x.state = 0)) = some st) (lives : st.dead = false)
    (first : ∀ x ∈ s.steals, ¬ (x.id < st.id ∧ x.byw = st.byw ∧ x.victim = st.victim ∧ x.state = 0)) (ht : s.team? st.victim = some t) (hp : t.place ≠ .ended) :
    ((t.queue st.q).avail = [] → becomes (.stealRequestServe st.id) s (s.answerSteal (s.stealLeast st) st none)) ∧
    (∀ r rest, (t.queue st.q).avail = r :: rest → (∀ g n, r.rel = some (g, n) → s.released g t.coord 3 n = true) →
      becomes (.stealRequestServe st.id) s ((s.lendRecord t st).answerSteal (s.stealLeast st) st (some r.words))) := by
  have order : (s.steals.any fun x => decide (x.id < st.id) && x.byw == st.byw && x.victim == st.victim && decide (x.state = 0)) = false := by
    simpa [and_assoc] using first
  have there : (s.team? st.victim).filter (fun t => t.place != .ended) = some t := by
    rw [ht, Option.filter_some, if_pos (bne_iff_ne.2 hp)]
  refine ⟨fun empty => ?_, fun r rest some' released => ?_⟩
  · show execStealRequestServe st.id s = _
    simp only [execStealRequestServe, hs, order, lives, there, empty, Bool.false_eq_true, if_false]
    rfl
  · have stays : (s.lendRecord t st).stealLeast st = s.stealLeast st := s.stealLeast_modQueue ..
    show execStealRequestServe st.id s = _
    rw [← stays]
    cases hrel : r.rel with
    | none =>
      simp only [execStealRequestServe, hs, order, lives, there, some', hrel, Bool.false_eq_true, if_false]
      rfl
    | some x =>
      simp only [execStealRequestServe, hs, order, lives, there, some', hrel, released x.1 x.2 hrel, Bool.not_true, Bool.false_eq_true, if_false]
      rfl

theorem stealReplyLanding_becomes (hs : (s.steals.find? fun x => x.id == st.id && decide (x.state = 1)) = some st) (lives : st.dead = false)
    (live : (s.liveBy st.byw).getLsbD st.lane = true) :
    becomes (.stealReplyLanding st.id) s
      ((((s.modGroup st.byw.g fun y =>
        y.putAll st.byw.cc (recRegs st.lane st.reg (st.got.getD []) ++ [(.k st.kreg (1#64 <<< st.lane), if st.got.isSome then 1#64 <<< st.lane else 0)])).acquire
          st.byw.g 3).modSteal st.id fun x => { x with state := 2 }).after (s.stealLeast st) (.stealAck st.id)) := by
  show execStealReplyLanding st.id s = _
  simp only [execStealReplyLanding, hs, lives, live, State.stealLeast_modSteal, State.stealLeast_acquire, State.stealLeast_modGroup, Bool.not_true, Bool.or_self, Bool.false_eq_true, if_false]

theorem stealAck_becomes (hs : (s.steals.find? fun x => x.id == st.id && decide (x.state = 2)) = some st) :
    becomes (.stealAck st.id) s
      ((({ s with steals := s.steals.filter fun x => x.id != st.id } : State).modQueue st.victim st.q fun x =>
        { x with chip := x.chip.filter fun r => r.lent != some st.id }).sched s.clock (.queueRefillStart st.victim st.q)) := by
  show execStealAck st.id s = _
  unfold execStealAck
  rw [hs]
  rfl
end

/-- R263. -/
theorem stealsAreServed : Claims.stealsAreServed := by
  intro s st
  refine ⟨fun hs lives first t ht hp => ?_, fun hs lives live => ?_, fun hs => ?_⟩
  · exact stealRequestServe_becomes hs lives first ht hp
  · exact stealReplyLanding_becomes hs lives live
  · exact stealAck_becomes hs

/-! The effects of RPUT and RFREE (R268). -/

theorem ringEffectsFollowTheirRelease : Claims.ringEffectsFollowTheirRelease := by
  intro s e he hk ready
  have ring : (e.kind != .ring) = false := bne_eq_false_iff_eq.2 hk
  refine ⟨fun put => ?_, fun free => ?_⟩
  · show execRputEffect e.id s = _
    simp only [execRputEffect, he, ring, put, ready, ne_eq, not_true, decide_false, Bool.or_self, Bool.false_eq_true, if_false, if_true]
  · show execRfreeEffect e.id s = _
    simp only [execRfreeEffect, he, ring, free, ready, ne_eq, not_true, decide_false, Bool.or_self, Bool.false_eq_true, if_false, if_true]

/-- Settles O36: each event of a queue's ring, of a steal and of a ring word's effect, by the checks that it passes. -/
theorem ringsAndStealsAreServed : Obligations.ringsAndStealsAreServed := ⟨queueRingsSpillAndRefill, stealsAreServed, ringEffectsFollowTheirRelease⟩
end Sys2Proof.Machine
end

section
/-! SUPPORT. Tasks start on renamed tiles, commit, leave the table and are discarded (R264, R279 to R283; O37). -/
namespace Sys2Proof.Machine

/-- The pages that a task's fill moves: from what a tile reads as to its renamed frames (R281). -/
def fillPages (s : State) (k : Task) (st : List (Nat × List Nat)) : List (Nat × Nat) :=
  (k.tiles.zip st).flatMap fun x => ((s.tileNow k x.1).zip x.2.2).filterMap fun y => y.1.map fun p => (p * 4096, y.2 * 4096)
/-- The fill as the engine holds it, under number n. -/
def fillOp (k : Task) (n : Nat) (pages : List (Nat × Nat)) : EOp :=
  { id := n, kind := .fill k.die k.id, coord := k.die * 64, team := 0, ctx := k.ctx, launch := k.launch, cls := 2, target := .none,
    pages := pages, started := true, todo := List.range (2 * pages.length) }

/-- The pages of a task's renamed tiles with their frames, and the lowest and the highest of its tiles. -/
def Task.newPages (k : Task) : List (Nat × Nat) := k.staged.flatMap fun x => x.2.mapIdx fun j f => (x.1 * 65536 + j * 4096, f)
def Task.lowTile (k : Task) : Nat := (k.staged.map fun x => x.1).foldl min ((k.staged.headD (0, [])).1)
def Task.highTile (k : Task) : Nat := (k.staged.map fun x => x.1).foldl max 0
def Tr.frame? : Tr → Option Nat
  | .ok x => some (x.pa / 4096)
  | _ => none
/-- The frames that the context has for these pages before the commit, and the state once it has the task's (R282). -/
def Task.oldFrames (k : Task) (s : State) : List Nat := k.newPages.filterMap fun p => (s.walkCtx k.ctx p.1).frame?
def Task.writeFrames (k : Task) (s : State) : Option State :=
  k.newPages.foldl (fun (a : Option State) p => a.bind fun s' => s'.setFrame (((s.ctx? k.ctx).map fun c => c.root).getD 0) p.1 p.2 (s'.walkCtx k.ctx p.1)) (some s)

section
variable {s : State} {k : Task} (hk : s.task? k.die k.id = some k)
include hk

theorem taskStart_queues (ready : k.state = 1) (fresh : k.staged = []) (plain : k.tiles = []) (idle : ∀ o ∈ s.ops, o.kind ≠ .fill k.die k.id) :
    becomes (.taskStart k.die k.id) s (s.queueTask k) := by
  have quiet : (s.ops.any fun o => o.kind == .fill k.die k.id) = false := by simpa using idle
  show execTaskStart k.die k.id s = _
  simp only [execTaskStart, hk, ready, fresh, plain, quiet, ne_eq, not_true, List.isEmpty_nil, Bool.not_true, Bool.or_true, Bool.false_eq_true, if_false, if_true]

theorem taskStart_fills {st : List (Nat × List Nat)} {u : State} (ready : k.state = 1) (fresh : k.staged = []) (tiles : k.tiles ≠ [])
    (room : 16 * k.tiles.length ≤ s.poolLeft k.ctx) (renames : State.renameTiles k.tiles s k.die = some (st, u)) (pages : fillPages s k st ≠ []) :
    let o := fillOp k u.nextId (fillPages s k st)
    let v := u.modTask k.die k.id fun x => { x with staged := st }
    becomes (.taskStart k.die k.id) s (({ v with ops := v.ops ++ [o], nextId := v.nextId + 1 } : State).enterEngine o) := by
  intro o v
  have some' : k.tiles.isEmpty = false := List.isEmpty_eq_false_iff.2 tiles
  have moves : (fillPages s k st).isEmpty = false := List.isEmpty_eq_false_iff.2 pages
  unfold fillPages at moves
  show execTaskStart k.die k.id s = _
  simp only [execTaskStart, hk, ready, fresh, some', renames, moves, Nat.not_lt.2 room, ne_eq, not_true, List.isEmpty_nil, Bool.not_true, Bool.or_self, Bool.false_eq_true, if_false]
  rfl

section
variable (finished : k.state = 3) (may : s.mayCommit k = true) (idle : s.taskBusy k.die k.id = false)
include finished may idle

theorem taskCommit_ends (plain : k.staged = []) : becomes (.taskCommit k.die k.id) s (s.endCommit k.die k.id) := by
  show execTaskCommit k.die k.id s = _
  simp only [execTaskCommit, hk, finished, may, idle, plain, ne_eq, not_true, decide_false, Bool.not_true, Bool.or_self, List.isEmpty_nil, Bool.false_eq_true, if_false, if_true]

theorem taskCommit_shoots (tiles : k.staged ≠ []) {u : State} (written : k.writeFrames s = some u) :
    becomes (.taskCommit k.die k.id) s
      (((u.modCtx k.ctx fun c => { c with p := { c.p with pool := c.p.pool - (k.newPages.length - (k.oldFrames s).length) } }).modTask k.die k.id
        fun x => { x with state := 6 }).shoot k.ctx (k.lowTile * 65536) ((k.highTile + 1 - k.lowTile) * 65536) none (k.oldFrames s) (some (k.die, k.id))) := by
  have some' : k.staged.isEmpty = false := List.isEmpty_eq_false_iff.2 tiles
  unfold Task.writeFrames Task.newPages at written
  show execTaskCommit k.die k.id s = _
  simp only [execTaskCommit, hk, finished, may, idle, some', written, ne_eq, not_true, decide_false, Bool.not_true, Bool.or_self, Bool.false_eq_true, if_false]
  rfl
end
end

/-- R279 to R282. -/
theorem tasksAreFilledAndCommitted : Claims.tasksAreFilledAndCommitted := by
  intro s k hk
  refine ⟨fun ready fresh plain idle => ?_, fun st u ready fresh tiles room renames => ?_, fun finished may idle plain => ?_, fun finished may idle tiles => ?_⟩
  · exact taskStart_queues hk ready fresh plain idle
  · exact fun pages => taskStart_fills hk ready fresh tiles room renames pages
  · exact taskCommit_ends hk finished may idle plain
  · exact fun u written => taskCommit_shoots hk finished may idle tiles written

section
variable {s : State} {k : Task}

/-! The die's list (R264, R280). -/

theorem State.queueTask_of_waiting (waits : ∃ w ∈ s.dieList, w.task = some (k.die, k.id)) : s.queueTask k = s := by
  obtain ⟨w, hw, task⟩ := waits
  have there : (s.dieList.any fun w => w.task == some (k.die, k.id)) = true := List.any_eq_true.2 ⟨w, hw, beq_iff_eq.2 task⟩
  exact if_pos there

theorem State.queueTask_of_absent (absent : ∀ w ∈ s.dieList, w.task ≠ some (k.die, k.id)) :
    s.queueTask k = ({ s with dieList := s.dieList ++
      [{ launch := k.launch, cluster := 65536 * (k.id + 1), die := k.die, urgent := isUrgent s k.ctx, task := some (k.die, k.id) }] } : State).sched
        (s.clock + 1) (.clusterDispatch k.die) := by
  have there : ¬ (s.dieList.any fun w => w.task == some (k.die, k.id)) = true := by simpa using absent
  exact if_neg there

/-! The end of a commit (R264, R282). -/

/-- The task leaves the table, and the cores forget that they ran it, with its renamed pages. -/
def State.forget (s : State) (k : Task) : State :=
  { s with
    tasks := s.tasks.filter fun y => !(y.die == k.die && y.id == k.id)
    cores := s.cores.map fun (c : Core) => { c with tlb := c.tlb.filter fun e => e.task ≠ some (k.die, k.id), tasksRun := c.tasksRun.filter fun y => y ≠ (k.die, k.id) } }
/-- Ready tasks may start and finished ones commit, and the launch may be over. -/
def State.goOn (s : State) (k : Task) : State := s.tryTasks.sched (s.clock + 1) (.launchComplete k.launch)

theorem State.forget_eq (s : State) (k : Task) :
    { s.dropTaskTlb k.die k.id with
      tasks := s.tasks.filter fun y => !(y.die == k.die && y.id == k.id)
      cores := (s.dropTaskTlb k.die k.id).cores.map fun (c : Core) => { c with tasksRun := c.tasksRun.filter fun y => y != (k.die, k.id) } } = s.forget k := by
  unfold State.forget State.dropTaskTlb
  rw [List.map_map]
  simp only [Function.comp_def, bne, beq_eq_decide, ne_eq, decide_not]

theorem State.endCommit_eq (hk : s.task? k.die k.id = some k) :
    s.endCommit k.die k.id = (if k.join = 0 then s.forget k else (s.forget k).addAt k.ctx k.join 1 true [k.byw] k.launch true).goOn k := by
  unfold State.endCommit
  rw [hk, ← s.forget_eq k]
  rfl

/-- The join addition of a task is made at once on a page that may be written and a sound counter, with no addition waiting before it. -/
theorem State.addAt_join {y : Trans} (alone : ∀ a ∈ s.adds, ¬ (a.ctx = k.ctx ∧ a.va = k.join)) (walk : s.walkCtx k.ctx k.join = .ok y)
    (wr : pteWr y.leaf = true) (sound : s.dram.poisoned y.pa 8 = false) :
    s.addAt k.ctx k.join 1 true [k.byw] k.launch true = s.writePa y.pa (bytesOfNat 8 ((s.dram.readN y.pa 8 + 1) % 2 ^ 64)) := by
  have none' : (s.adds.find? fun a => a.ctx == k.ctx && a.va == k.join) = none := by
    rw [List.find?_eq_none]
    intro a ha
    simpa using alone a ha
  unfold State.addAt
  extract_lets fail wait
  rw [none']
  simp only [if_true, walk, wr, sound, Bool.not_true, Bool.false_eq_true, if_false]
  rfl

/-! Readiness and discard (R280, R283). -/

theorem State.readyTasks_eq (s : State) :
    s.readyTasks = ({ s with tasks := s.tasks.map fun (x : Task) => if x.state = 0 ∧ ∀ p ∈ s.predsOf x, p.finished = true then { x with state := 1 } else x } : State).tryTasks := by
  unfold State.readyTasks
  simp only [Bool.and_eq_true, decide_eq_true_eq, List.all_eq_true]
end

/-- R264, R280, R282, R283. -/
theorem tasksEnterAndLeaveTheTable : Claims.tasksEnterAndLeaveTheTable := by
  intro s k
  refine ⟨State.queueTask_of_waiting, State.queueTask_of_absent, fun hk => ⟨fun plain => ?_, fun joins => ?_, fun y joins alone walk wr sound => ?_⟩, rfl, rfl,
    s.readyTasks_eq⟩
  · rw [State.endCommit_eq hk, if_pos plain]
    rfl
  · rw [State.endCommit_eq hk, if_neg joins]
    rfl
  · exact State.addAt_join (s := s.forget k) alone walk wr sound

/-- Settles O37: a task's start and commit by the checks that each passes, and what the table, the die's list and the cores hold of it after them. -/
theorem tasksStartAndCommit : Obligations.tasksStartAndCommit := ⟨tasksAreFilledAndCommitted, tasksEnterAndLeaveTheTable⟩
end Sys2Proof.Machine
end

section
/-! SUPPORT. What the machine holds right after reset, and its first step (O57). -/
namespace Sys2Proof.Machine

/-- Nothing is due at reset: the first ember visits come one cc later (R317, R350). -/
theorem nothingDue_reset : dueEntry State.reset.clock State.reset.agenda = none := by decide

theorem step_reset : step State.reset = .next State.reset.tick := by
  have quiet : dueEntry State.reset.clock (State.reset.agenda.filter fun x => !isAnswer x.2) = none := by decide
  have noDeadline : State.reset.deadlineDue = none := rfl
  have noEviction : State.reset.evictDue = none := rfl
  show stepLit State.reset = _
  unfold stepLit
  rw [quiet, nothingDue_reset, noDeadline, noEviction]
  rfl

/-- Settles O57: the fields of the reset state, and its first step, which is the next cc. -/
theorem resetIsQuiet : Obligations.resetIsQuiet := by
  refine ⟨⟨rfl, fun _ ht => absurd ht List.not_mem_nil⟩, Tests.wit_everyStepGoesOn, ⟨_, step_reset⟩, fun _ => rfl, rfl, rfl, rfl, rfl, rfl, rfl, fun _ => ⟨rfl, rfl⟩, ?_⟩
  rintro r rfl
  exact ⟨fun _ _ => rfl, fun _ => rfl⟩
end Sys2Proof.Machine
end

section
/-! SUPPORT. Sessions, and what every command of a context meets before its own checks (R333, R334, R344; O43). -/
namespace Sys2Proof.Machine

section
variable {s : State} {h : Hdr}

/-! Sessions (R334). -/

theorem openS_becomes {port : Nat} (power : s.power = true) (header : Config.hdrOk h = true) (live : s.livePort port = true) (room : s.sessions.length < 64) :
    becomes (.openS h port) s
      { s with sessions := s.sessions ++ [⟨s.nextSession, port, Config.nonce s.nextSession, none⟩], nextSession := s.nextSession + 1,
               outbox := s.outbox ++ [{ code := 0x8001, form := h.form, session := some s.nextSession, ctx := h.ctx, tag := h.tag,
                                        body := pad8 (bytesOfNat 4 0 ++ Config.nonce s.nextSession), at_ := s.clock }] } := by
  show execOpenS h port s = _
  simp only [execOpenS, power, live, header, Nat.not_le.2 room, replyCode_of_hdrOk header (code := 1) (by decide), Bool.not_true, Bool.or_self, Bool.false_eq_true, if_false]

section
variable {x : Session} (power : s.power = true) (header : Config.hdrOk h = true) (session : s.session? h.session = some x)
include power header session

/-- AUTH without a new key goes by its MAC alone. -/
theorem authS_becomes {p : Nat} (mac : List Byte) (hp : p < 16) :
    becomes (.authS h p mac none) s
      (if mac ≠ hmacSha256 (spGet [] s.flash.keys p) x.nonce then s.reply h 2 2 []
       else (({ s with sessions := s.sessions.map fun (y : Session) => if y.id = x.id then { y with principal := some p } else y } : State).reply h 2 0 []).deliver x.id p) := by
  show execAuthS h p mac none s = _
  simp only [execAuthS, session, power, header, decide_eq_false (Nat.not_le.2 hp), Option.isSome_none, Bool.not_true, Bool.false_and, Bool.or_false, Bool.false_eq_true,
    if_false, decide_eq_true_eq]

theorem closeS_becomes : becomes (.closeS h) s ((s.reply h 3 0 []).endSession h.session) := by
  show execCloseS h s = _
  simp only [execCloseS, session, power, header, Bool.not_true, Bool.false_eq_true, if_false]
end
end

/-- R334. -/
theorem sessionsOpenAuthenticateClose : Claims.sessionsOpenAuthenticateClose := by
  intro s h power header
  refine ⟨fun port live room => openS_becomes power header live room, fun x p mac session hp => ?_, fun x session => closeS_becomes power header session, fun n => rfl⟩
  have authenticated := authS_becomes power header session mac hp
  exact ⟨fun same => by rwa [if_neg (not_not.2 same)] at authenticated, fun other => by rwa [if_pos other] at authenticated⟩

/-! What a command of a context meets (R333, R334). -/

section
variable {s : State} {h : Hdr} {code : Nat} {f : Ctx → State}

section
variable (power : s.power = true)
include power

theorem State.ctxCommand_of_noSession (session : s.session? h.session = none) : s.ctxCommand h code f = s := by
  simp only [State.ctxCommand, State.command, power, session, Bool.not_true, Bool.false_eq_true, if_false]

theorem State.ctxCommand_of_badHeader {y : Session} (session : s.session? h.session = some y) (header : Config.hdrOk h = false) :
    s.ctxCommand h code f = s.reply h code 1 [] := by
  simp only [State.ctxCommand, State.command, power, session, header, Bool.not_true, Bool.not_false, Bool.false_eq_true, if_false, if_true]

theorem State.ctxCommand_of_noPrincipal {y : Session} (session : s.session? h.session = some y) (header : Config.hdrOk h = true) (principal : y.principal = none) :
    s.ctxCommand h code f = s.reply h code 2 [] := by
  simp only [State.ctxCommand, State.command, power, session, header, principal, Bool.not_true, Bool.false_eq_true, if_false]
end

section
variable {p : Nat} (ok : commandOk s h code p) (hc : code < 0x8000)
include ok hc

theorem State.ctxCommand_of_noContext (context : s.ctx? h.ctx = none) : s.ctxCommand h code f = s.reply h code 3 [] := by
  rw [State.ctxCommand, State.command_of_ok ok hc, context]

theorem State.ctxCommand_of_otherPrincipal {c : Ctx} (context : s.ctx? h.ctx = some c) (other : c.principal ≠ p) : s.ctxCommand h code f = s.reply h code 2 [] := by
  simp only [State.ctxCommand, State.command_of_ok ok hc, context, if_pos other]
end
end

/-- The step is a command of a context, under a code of the host's. -/
def IsCtxCommand (s : State) (h : Hdr) (i : Instr) (code : Nat) : Prop := ∃ f, exec i s = .next (s.ctxCommand h code f) ∧ code < 0x8000
/-- It asks besides for a debug session (R344). -/
def IsDebugCommand (s : State) (h : Hdr) (i : Instr) (code : Nat) : Prop := ∃ f, exec i s = .next (s.debugCommand h code f) ∧ code < 0x8000

section
variable {s : State} {h : Hdr} {i : Instr} {code : Nat}

theorem IsDebugCommand.isCtxCommand : IsDebugCommand s h i code → IsCtxCommand s h i code := fun ⟨_, hi, hc⟩ => ⟨_, hi, hc⟩

theorem IsDebugCommand.becomes_of_noDebug {c : Ctx} (hi : IsDebugCommand s h i code) (on : onContext s h code c) (debug : c.debug = none) :
    becomes i s (s.reply h code 3 []) := by
  obtain ⟨f, hf, hc⟩ := hi
  exact becomes_of_ctxCommand hf on (by simp only [debug]) hc

theorem IsCtxCommand.meets (hi : IsCtxCommand s h i code) (power : s.power = true) :
    (s.session? h.session = none → becomes i s s) ∧
    (∀ y, s.session? h.session = some y →
      (Config.hdrOk h = false → becomes i s (s.reply h code 1 [])) ∧ (Config.hdrOk h = true → y.principal = none → becomes i s (s.reply h code 2 []))) ∧
    (∀ p, commandOk s h code p →
      (s.ctx? h.ctx = none → becomes i s (s.reply h code 3 [])) ∧ (∀ c, s.ctx? h.ctx = some c → c.principal ≠ p → becomes i s (s.reply h code 2 []))) := by
  obtain ⟨f, hf, hc⟩ := hi
  have ends {t : State} (ht : s.ctxCommand h code f = t) : becomes i s t := hf.trans (congrArg _ ht)
  exact ⟨fun session => ends (State.ctxCommand_of_noSession power session),
    fun y session => ⟨fun header => ends (State.ctxCommand_of_badHeader power session header),
      fun header principal => ends (State.ctxCommand_of_noPrincipal power session header principal)⟩,
    fun p ok => ⟨fun context => ends (State.ctxCommand_of_noContext ok hc context),
      fun c context other => ends (State.ctxCommand_of_otherPrincipal ok hc context other)⟩⟩
end

/-- R333, R334, R344. -/
theorem commandsAreChecked : Claims.commandsAreChecked := by
  intro s h power va n k m r w b bytes map img l rk wr hl g at_ debug plain
  have debugs : ∀ x ∈ debug, IsDebugCommand s h x.1 x.2 := by
    simp only [debug, List.mem_cons, List.not_mem_nil, or_false]
    rintro x (rfl | rfl | rfl | rfl | rfl)
    all_goals exact ⟨_, rfl, by dsimp only; decide⟩
  have plains : ∀ x ∈ plain, IsCtxCommand s h x.1 x.2 := by
    simp only [plain, List.mem_cons, List.not_mem_nil, or_false]
    rintro x (rfl | rfl | rfl | rfl | rfl | rfl | rfl | rfl | rfl | rfl | rfl | rfl | rfl | rfl | rfl | rfl | rfl | rfl)
    all_goals exact ⟨_, rfl, by dsimp only; decide⟩
  refine ⟨fun x hx c on => (debugs x hx).becomes_of_noDebug on, fun x hx => ?_⟩
  rcases List.mem_append.1 hx with own | own
  · exact (plains x own).meets power
  · exact (debugs x own).isCtxCommand.meets power

/-- Settles O43: sessions by the checks of each of their commands, and every command of a context by the checks that it shares with the others. -/
theorem sessionsAndHeaders : Obligations.sessionsAndHeaders := ⟨sessionsOpenAuthenticateClose, commandsAreChecked⟩
end Sys2Proof.Machine
end

section
/-! SUPPORT. Contexts, mappings, the host's reads and writes, and keys by command (R241, R243, R336, R338, R339; O44). -/
namespace Sys2Proof.Machine

section
variable {s : State} {h : Hdr}

/-! Contexts (R336, R346). -/

/-- CTX_CREATE with a ring in range and a free number goes by the frames that it finds for its root table. -/
theorem ctxCreate_becomes {x : CtxParams} {p n : Nat} (ok : commandOk s h 0x0010 p) (free : ((List.range 256).find? fun n => (s.ctx? n).isNone) = some n)
    (lo : 64 ≤ (if h.form = 0 then Config.basicCtx else x).ring) (hi : (if h.form = 0 then Config.basicCtx else x).ring ≤ 65536) :
    becomes (.ctxCreate h x) s (match s.takeAny (n % 4) 512 with
      | none => s.reply h 0x0010 4 []
      | some (f, u) => ({ u with contexts := u.contexts ++ [{ id := n, principal := p, p := if h.form = 0 then Config.basicCtx else x, root := f }] } : State).reply h 0x0010 0
          (bytesOfNat 4 n)) := by
  have ring : ¬ (decide ((if h.form = 0 then Config.basicCtx else x).ring < 64) || decide (65536 < (if h.form = 0 then Config.basicCtx else x).ring)) = true := by
    simp [lo, hi]
  refine becomes_of_command rfl ok ((if_neg ring).trans ?_)
  rw [free] <;> rfl

/-- A context that is to go (R346): its launches are cancelled, and ended by force after 1 ms. -/
theorem ctxDestroy_becomes {c : Ctx} (on : onContext s h 0x0011 c) (lives : c.dying = none) :
    let u := s.modCtx c.id fun y => { y with dying := some (Hdr.of h c.principal) }
    becomes (.ctxDestroy h) s
      (((u.launches.filter fun l => l.ctx == c.id && !l.completed).foldl (fun v l => (v.cancelLaunch l).sched (v.clock + Config.ccPerMs) (.forcedEnd l.grid)) u).endContext c.id) := by
  refine becomes_of_ctxCommand rfl on ?_
  rw [lives]
  rfl

/-! Mappings (R241, R243, R338). -/

section
variable {x : MapBody} {c : Ctx} (on : onContext s h 0x0020 c) (good : mapBad h x = false)
  (key : x.key = 0 ∨ (spGet {} s.keys x.key).used = true ∧ (spGet {} s.keys x.key).owner = c.id)
include on good key

/-- MAP by its own checks: old pages without REMAP are refused, else firmware drops what is old and maps, or lacks frames. -/
theorem mapVa_becomes :
    let va := x.va % 2 ^ 57
    let old := s.overlaps c va x.len
    becomes (.mapVa h x) s
      (if old = true ∧ x.remap = false then s.reply h 0x0020 7 []
       else match (if old then s.dropRange c va x.len else some (s, [])).bind fun d => (State.mapPages x c.root (x.len / x.page) va d.1).map fun y => (y, d.2) with
        | none => s.reply h 0x0020 4 []
        | some (u, gone) =>
          if old then (u.serveRange c.id va x.len).shoot c.id va x.len (some (Hdr.of h c.principal, 0x0020)) gone none
          else (u.serveRange c.id va x.len).reply h 0x0020 0 []) := by
  intro va old
  have owned : ¬ (decide (x.key ≠ 0) && !((spGet {} s.keys x.key).used && decide ((spGet {} s.keys x.key).owner = c.id))) = true := by
    rcases key with none' | ⟨used, owner⟩
    · simp [none']
    · simp [used, owner]
  refine becomes_of_ctxCommand rfl on ?_
  rw [good, if_neg Bool.false_ne_true, if_neg owned]
  simp only [Bool.and_eq_true, Bool.not_eq_true']
  rfl

theorem mapVa_new_becomes (new : s.overlaps c (x.va % 2 ^ 57) x.len = false) {u : State}
    (maps : State.mapPages x c.root (x.len / x.page) (x.va % 2 ^ 57) s = some u) :
    becomes (.mapVa h x) s ((u.serveRange c.id (x.va % 2 ^ 57) x.len).reply h 0x0020 0 []) := by
  have mapped := mapVa_becomes on good key
  simpa only [new, maps, Bool.false_eq_true, false_and, if_false, Option.bind_some, Option.map_some] using mapped

theorem mapVa_old_becomes (old : s.overlaps c (x.va % 2 ^ 57) x.len = true) (remap : x.remap = true) {d : State × List Nat} {u : State}
    (drops : s.dropRange c (x.va % 2 ^ 57) x.len = some d) (maps : State.mapPages x c.root (x.len / x.page) (x.va % 2 ^ 57) d.1 = some u) :
    becomes (.mapVa h x) s
      ((u.serveRange c.id (x.va % 2 ^ 57) x.len).shoot c.id (x.va % 2 ^ 57) x.len (some (Hdr.of h c.principal, 0x0020)) d.2 none) := by
  have mapped := mapVa_becomes on good key
  simpa only [old, remap, drops, maps, Bool.true_eq_false, and_false, if_false, if_true, Option.bind_some, Option.map_some] using mapped

theorem mapVa_refused_becomes (old : s.overlaps c (x.va % 2 ^ 57) x.len = true) (remap : x.remap = false) :
    becomes (.mapVa h x) s (s.reply h 0x0020 7 []) := by
  have mapped := mapVa_becomes on good key
  simpa only [old, remap, and_self, if_true] using mapped
end

section
variable {c : Ctx} {va : Nat}

theorem unmap_becomes {len : Nat} (on : onContext s h 0x0021 c) (va4 : va % 4096 = 0) (len4 : len % 4096 = 0) (some' : 0 < len) (first : canonical va = true)
    (last : canonical (va + len - 1) = true) (old : s.overlaps c (va % 2 ^ 57) len = true) :
    becomes (.unmap h va len) s (match s.dropRange c (va % 2 ^ 57) len with
      | none => s.reply h 0x0021 4 []
      | some (u, gone) => u.shoot c.id (va % 2 ^ 57) len (some (Hdr.of h c.principal, 0x0021)) gone none) := by
  refine becomes_of_ctxCommand rfl on ?_
  simp only [va4, len4, Nat.ne_of_gt some', first, last, old, ne_eq, not_true, decide_false, Bool.not_true, Bool.or_self, Bool.false_eq_true, if_false] <;>
    rfl

/-! The host's reads and writes (R198, R336). -/

theorem memRead_becomes {len : Nat} (on : onContext s h 0x0022 c) (short : len ≤ 1048576) (first : canonical va = true) (last : canonical (va + len - 1) = true)
    (there : s.mappedAll c.id va len (fun _ => true) = true) : becomes (.memRead h va len) s (s.reply h 0x0022 0 (s.ctxBytes c.id va len)) := by
  refine becomes_of_ctxCommand rfl on ?_
  simp only [Nat.not_lt.2 short, first, last, there, decide_false, Bool.not_true, Bool.or_self, Bool.false_eq_true, if_false]

theorem memWrite_becomes {b : List Byte} (on : onContext s h 0x0023 c) (short : b.length ≤ 1048576) (first : canonical va = true)
    (last : canonical (va + b.length - 1) = true) (there : s.mappedAll c.id va b.length (fun _ => true) = true) :
    becomes (.memWrite h va b) s ((s.ctxStore c.id va b).reply h 0x0023 0 []) := by
  refine becomes_of_ctxCommand rfl on ?_
  simp only [Nat.not_lt.2 short, first, last, there, decide_false, Bool.not_true, Bool.or_self, Bool.false_eq_true, if_false]
end

/-! Keys (R339). -/

section
variable {c : Ctx} {slot : Nat} (lo : 1 ≤ slot) (hi : slot ≤ 8191)
include lo hi

theorem keySet_becomes {m : List Byte} (on : onContext s h 0x0024 c) (hm : m.length = 64)
    (mine : (spGet {} s.keys slot).used = true → (spGet {} s.keys slot).owner = c.id ∧ s.namesKey c slot = false) :
    becomes (.keySet h slot m) s (({ s with keys := spPut {} s.keys slot { owner := c.id, used := true, material := m } } : State).reply h 0x0024 0 []) := by
  have free : ¬ ((spGet {} s.keys slot).used && (decide ((spGet {} s.keys slot).owner ≠ c.id) || s.namesKey c slot)) = true := by
    rw [Bool.and_eq_true]
    rintro ⟨used, taken⟩
    simp [mine used] at taken
  refine becomes_of_ctxCommand rfl on ((if_neg ?_).trans (if_neg free))
  simp [hm, hi, Nat.ne_of_gt lo]

theorem keyClear_becomes (on : onContext s h 0x0025 c) (used : (spGet {} s.keys slot).used = true) (owner : (spGet {} s.keys slot).owner = c.id)
    (unnamed : ∀ x ∈ s.contexts, s.namesKey x slot = false) :
    becomes (.keyClear h slot) s (({ s with keys := spPut {} s.keys slot {} } : State).reply h 0x0025 0 []) := by
  have idle : (s.contexts.any fun x => s.namesKey x slot) = false := List.any_eq_false.2 fun x hx => ne_true_of_eq_false (unnamed x hx)
  refine becomes_of_ctxCommand rfl on ((if_neg ?_).trans ?_)
  · simp [hi, Nat.ne_of_gt lo]
  · simp only [used, owner, idle, Bool.not_true, Bool.false_eq_true, if_false, ne_eq, not_true]
end
end

/-- Settles O44: each command passes its header's checks once, and is then told by the branches of its own. -/
theorem contextCommands : Obligations.contextCommands := by
  intro s h
  refine ⟨fun x p n ok free lo hi => ?create, fun c on lives => ctxDestroy_becomes on lives, fun x c on good key => ?map,
    fun va len c on va4 len4 some' first last old => ?unmap, fun va len c on short first last there => memRead_becomes on short first last there,
    fun va b c on short first last there => memWrite_becomes on short first last there,
    fun slot m c on lo hi hm mine => keySet_becomes lo hi on hm mine, fun slot c on lo hi used owner unnamed => keyClear_becomes lo hi on used owner unnamed⟩
  case create =>
    have created := ctxCreate_becomes ok free lo hi
    exact ⟨fun f u frames => by rwa [frames] at created, fun none' => by rwa [none'] at created⟩
  case map =>
    exact ⟨fun new u maps => mapVa_new_becomes on good key new maps, fun old remap d u drops maps => mapVa_old_becomes on good key old remap drops maps,
      fun old remap => mapVa_refused_becomes on good key old remap⟩
  case unmap =>
    have unmapped := unmap_becomes on va4 len4 some' first last old
    exact ⟨fun d drops => by rwa [drops] at unmapped, fun none' => by rwa [none'] at unmapped⟩
end Sys2Proof.Machine
end

section
/-! SUPPORT. Reservations, matrix operations, drains and MFENCE as they issue (R293 to R310; O24). -/
namespace Sys2Proof.Machine

theorem decide_and_decide_eq_false {p q : Prop} [Decidable p] [Decidable q] (h : p → ¬ q) : (decide p && decide q) = false := by simpa using h

section
variable {s u : State} {op : Op} {w : Full} {c : Cur} {i : Iss} {core : Core}

/-! What every word of the range meets. -/

theorem AtIssue.cur_g (h : AtIssue s op w c i core) : i.cur.g = c.g := by rw [(preIssue_view h.checks).2.2.2.2.2.1]; split <;> rfl

theorem AtIssue.matHold_eq (h : AtIssue s op w c i core) (ready : matrixReady u c i) : matHold i u = false := by
  have driven : followerHeld u i.t.coord = false := by simpa [followerHeld] using ready.2
  rw [matHold, h.engHold_eq ready.1, driven]
  rfl

theorem AtIssue.matrixThrow_eq (h : AtIssue s op w c i core) :
    matrixThrow i = .throws (i.lanes.map fun l => ⟨l, 0x11, c.pc, BitVec.ofNat 64 op.code⟩) := by
  rw [matrixThrow, h.guardThrow_eq, h.op_eq]
  rfl

theorem tileBad_eq_none {t : Team} {x : Nat} (tile : tileOk t x) : tileBad t x = none := by
  rw [tileBad, if_neg (not_not.2 tile.1), if_neg (Nat.not_lt.2 tile.2)]

theorem State.starter_pc_of_atIssue (h : AtIssue s op w c i core) : u.starter i.g (maskOf i.lanes) i.cur.pc = u.starter c.g (maskOf i.lanes) c.pc := by
  rw [h.g, h.pc]

/-- An operation with room for itself and its locks enters its core's queue (R294, R307). -/
theorem enterMat_of_room {o : MOp} {locks : List Lock} {ev : Instr} (room : (u.core i.t.coord).mq.length < 8) (free : u.lockRoom i.t.coord locks.length = true) :
    enterMat i u o locks none ev = .ok (intoQueue u i o locks ev) := by
  simp only [enterMat, mqRoom, room, free, decide_true, Bool.and_true, Bool.not_true, Bool.or_self, Bool.false_eq_true, if_false, List.append_nil]
  rfl

/-- A pair-wide one enters the follower's queue in the same cc (R304). -/
theorem enterMat_of_rooms {o : MOp} {own theirs : List Lock} {f : Team} {ev : Instr} (room : (u.core i.t.coord).mq.length < 8) (free : u.lockRoom i.t.coord own.length = true)
    (room' : (u.core f.coord).mq.length < 8) (free' : u.lockRoom f.coord theirs.length = true) :
    enterMat i u o own (some (f, theirs)) ev =
      .ok (((({ u with locks := u.locks ++ (own ++ theirs), nextId := u.nextId + 1 } : State).modCore i.t.coord fun y => { y with mq := y.mq ++ [o] }).modCore
        f.coord fun y => { y with mq := y.mq ++ [o] }).sched (u.clock + 1) ev) := by
  simp only [enterMat, mqRoom, room, free, room', free', decide_true, Bool.and_true, Bool.not_true, Bool.or_self, Bool.false_eq_true, if_false]
  rfl

/-! Reservations (R297 to R300). -/

section
variable (h : AtIssue s .rsv w c i core) (ready : matrixReady u c i) (quiet : ∀ e ∈ u.path, e.byw.g = c.g → e.space = 0 ∧ e.rel = none)
include h ready quiet

theorem AtIssue.rsvHold_eq : rsvHold i u = false := by
  have performed : (u.path.any fun e => e.byw.g == i.g && (decide (e.space ≠ 0) || e.rel.isSome)) = false := by
    rw [List.any_eq_false, h.g]
    intro e he
    rw [Bool.and_eq_true, beq_iff_eq]
    rintro ⟨own, left⟩
    simp [quiet e he own] at left
  rw [rsvHold, h.matHold_eq ready, performed]
  rfl

/-- RSV is refused by its slot first. -/
theorem AtIssue.bodyRsv_of_taken (taken : 15 < (i.rdOnce i.w.a).toNat ∨ spGet none i.t.rsvs (i.rdOnce i.w.a).toNat ≠ none) : bodyRsv i u = matrixThrow i := by
  have refused : (decide (15 < (i.rdOnce i.w.a).toNat) || (spGet none i.t.rsvs (i.rdOnce i.w.a).toNat).isSome) = true := by
    rwa [Bool.or_eq_true, decide_eq_true_eq, Option.isSome_iff_ne_none]
  unfold bodyRsv
  extract_lets slot a raw r
  rw [if_neg ready.1.lanes, h.rsvHold_eq ready quiet, if_neg Bool.false_ne_true, if_pos refused]

theorem AtIssue.bodyRsv_of_pass (low : (i.rdOnce i.w.a).toNat ≤ 15) (free : spGet none i.t.rsvs (i.rdOnce i.w.a).toNat = none)
    (aligned : (i.rdOnce i.w.b).toNat % 64 = 0) (inside : chkTeam i.t (i.rdOnce i.w.b).toNat 64 true = none)
    (sound : i.t.tm.mem.poisoned (i.rdOnce i.w.b).toNat 64 = false) {r : Rsv} (hr : parseRsv (i.t.tmBytes (i.rdOnce i.w.b).toNat 64) = r)
    (valid : rsvOk (i.t.tmBytes (i.rdOnce i.w.b).toNat 64) r = true) (fits : rsvInside r (i.t.buf (rsvSpace r)).size = true) :
    bodyRsv i u = .ok (u.modTeam i.t.id fun t => { t with rsvs := spPut none t.rsvs (i.rdOnce i.w.a).toNat (some r) }) := by
  subst hr
  simp only [bodyRsv, ready.1.lanes, h.rsvHold_eq ready quiet, Nat.not_lt.2 low, free, aligned, inside, sound, valid, fits, decide_false, Option.isSome_none, ne_eq,
    not_true, Bool.not_true, Bool.or_self, Bool.false_eq_true, if_false]
end

/-- RLS by its slot, once what the group's releases order is performed. -/
theorem AtIssue.bodyRls_eq (h : AtIssue s .rls w c i core) (ready : matrixReady u c i) (quiet : ∀ e ∈ u.path, e.byw.g = c.g → e.rel = none) :
    bodyRls i u =
      if 15 < (i.rdOnce i.w.a).toNat ∨ spGet none i.t.rsvs (i.rdOnce i.w.a).toNat = none then matrixThrow i
      else .ok (u.modTeam i.t.id fun t => { t with rsvs := spPut none t.rsvs (i.rdOnce i.w.a).toNat none }) := by
  have performed : (u.path.any fun e => e.byw.g == i.g && e.rel.isSome) = false := by
    rw [List.any_eq_false, h.g]
    intro e he
    rw [Bool.and_eq_true, beq_iff_eq]
    rintro ⟨own, left⟩
    simp [quiet e he own] at left
  unfold bodyRls
  extract_lets slot
  rw [if_neg ready.1.lanes, h.matHold_eq ready, performed, Bool.or_self, if_neg Bool.false_ne_true]
  simp only [Bool.or_eq_true, decide_eq_true_eq, Option.isNone_iff_eq_none]
  rfl

/-! Array operations (R301 to R305, R307). -/

/-- MZERO as the queue holds it. -/
def mzeroOp (u : State) (c : Cur) (i : Iss) : MOp :=
  { id := u.nextId, kind := 0, coord := i.t.coord, byw := u.starter c.g (maskOf i.lanes) c.pc, tile := (i.rdOnce i.w.d).toNat, first := firstOf u c.g }

theorem AtIssue.bodyMzero_eq (h : AtIssue s .mzero w c i core) (ready : matrixReady u c i) (tile : tileOk i.t (i.rdOnce i.w.d).toNat) :
    bodyMzero i u = enterMat i u (mzeroOp u c i) (mkLock u.nextId i.t.coord 3 true i.t.ctx i.t.id (i.rdOnce i.w.d).toNat 16384) none (.matrixOpStart i.t.coord) := by
  simp only [bodyMzero, ready.1.lanes, h.matHold_eq ready, tileBad_eq_none tile, h.g, h.pc, Bool.false_eq_true, if_false]
  rfl

/-- The operand words of an MMA word: its tile, the words that name its operands' blocks, the length, and the two reservations (R301). -/
structure MmaReads (i : Iss) (x lw rw' k : Nat) (l r : Rsv) : Prop where
  tile : (i.rdOnce i.w.d).toNat = x
  lword : (i.rdOnce i.w.a).toNat % 2 ^ 32 = lw
  rword : (i.rdOnce i.w.b).toNat % 2 ^ 32 = rw'
  klen : (i.rdOnce i.w.c).toNat % 2 ^ 32 = k
  left : spGet none i.t.rsvs (lw % 16) = some l
  right : spGet none i.t.rsvs (rw' % 16) = some r

section
variable {x lw rw' k kind : Nat} {l r : Rsv} (h : AtIssue s op w c i core) (ready : matrixReady u c i) (reads : MmaReads i x lw rw' k l r)
  (good : mmaOk l r lw rw' k (kind == 3)) (tile : tileOk i.t x)
include h ready reads good tile

/-- A word whose operand words are good enters this core's queue, or as MMAP goes by its follower (R301 to R305). -/
theorem AtIssue.mmaBody_eq :
    mmaBody kind i u =
      let o := mmaOp u c i kind x lw rw' k l r
      let own := mmaLocks u i.t [(l, lw / 2 ^ 16), (r, rw' / 2 ^ 16)] k x
      if kind ≠ 2 then enterMat i u o own none (.matrixOpStart i.t.coord)
      else match u.followerOf i.t with
        | none => matrixThrow i
        | some f =>
          if !rsvInside r (f.buf (rsvSpace r)).size || (tileBad f x).isSome then guardThrow i eBounds x
          else if f.place = .away then
            .hold fun s => ((s.modGroup i.g fun y => { y with called := some (y.lastIssue, y.catchAt) }).sched s.clock (.teamRestore f.id)).issueStalls i.cur i.t.coord i.gr.quarter
          else enterMat i u { o with follower := some f.coord } own (some (f, mmaLocks u f [(r, rw' / 2 ^ 16)] k x)) (.matrixOpStart i.t.coord) := by
  obtain ⟨rfl, rfl, rfl, rfl, left, right⟩ := reads
  obtain ⟨lz, rz, types, kb, kmin, kmax, lb, rb, lin, rin, dense, sparse⟩ := good
  have narrow : (decide (11 ≤ l.ty) != decide (11 ≤ r.ty)) = false := by rw [bne_eq_false_iff_eq, decide_eq_decide]; exact types
  have one : (rsvSparse r != (kind == 3)) = false := by rw [bne_eq_false_iff_eq]; exact sparse
  simp only [mmaBody, ready.1.lanes, h.matHold_eq ready, left, right, lz, rz, narrow, kb, Nat.not_lt.2 kmin, Nat.not_lt.2 kmax, lb, rb, Nat.not_lt.2 lin, Nat.not_lt.2 rin,
    dense, one, tileBad_eq_none tile, ne_eq, not_true, decide_false, Bool.or_self, Bool.false_eq_true, if_false, mmaOp, mmaLocks, List.flatMap_cons, List.flatMap_nil,
    List.append_nil, ← h.g, ← h.pc] <;>
    rfl

theorem AtIssue.mmaBody_solo (solo : kind ≠ 2) (room : (u.core i.t.coord).mq.length < 8)
    (free : u.lockRoom i.t.coord (mmaLocks u i.t [(l, lw / 2 ^ 16), (r, rw' / 2 ^ 16)] k x).length = true) :
    mmaBody kind i u = .ok (intoQueue u i (mmaOp u c i kind x lw rw' k l r) (mmaLocks u i.t [(l, lw / 2 ^ 16), (r, rw' / 2 ^ 16)] k x) (.matrixOpStart i.t.coord)) :=
  (h.mmaBody_eq ready reads good tile).trans ((if_pos solo).trans (enterMat_of_room room free))

theorem AtIssue.mmaBody_pair (pair : kind = 2) {f : Team} (follower : u.followerOf i.t = some f) (inside : rsvInside r (f.buf (rsvSpace r)).size = true) (tile' : tileOk f x)
    (there : f.place ≠ .away) :
    mmaBody kind i u = enterMat i u { mmaOp u c i kind x lw rw' k l r with follower := some f.coord } (mmaLocks u i.t [(l, lw / 2 ^ 16), (r, rw' / 2 ^ 16)] k x)
      (some (f, mmaLocks u f [(r, rw' / 2 ^ 16)] k x)) (.matrixOpStart i.t.coord) := by
  refine (h.mmaBody_eq ready reads good tile).trans ((if_neg (not_not.2 pair)).trans ?_)
  simp only [follower, inside, tileBad_eq_none tile', there, Option.isSome_none, Bool.not_true, Bool.or_self, Bool.false_eq_true, if_false]
end

/-! Drains (R308, R309). -/

/-- A drain as the queue holds it, before its destination is named. -/
def drainOp (u : State) (c : Cur) (i : Iss) : MOp :=
  { id := u.nextId, kind := 4, coord := i.t.coord, byw := u.starter c.g (maskOf i.lanes) c.pc, tile := (i.rdOnce i.w.a).toNat, ty := i.w.ty, opt := i.w.sub.toNat / 4, first := firstOf u c.g }
def drainTileLock (u : State) (i : Iss) : List Lock := mkLock u.nextId i.t.coord 3 false i.t.ctx i.t.id (i.rdOnce i.w.a).toNat 16384

section
variable (h : AtIssue s .mdrain w c i core) (ready : matrixReady u c i) (tile : tileOk i.t (i.rdOnce i.w.a).toNat)
include h ready tile

/-- A drain into registers marks those of its lanes empty, and enters (R308). -/
theorem AtIssue.bodyMdrain_of_regs {p : Nat} {d : Fin 248} (hp : (i.rdOnce i.w.b).toNat = p) (hd : i.w.d = .v d) (regs : i.w.sub.toNat % 4 = 0) (row : p / 64 % 4 = 0)
    (top : p / 2 ^ 14 = 0) (col : p / 256 % 64 % 8 = 0) (even : d.val % drainRegs i.w.ty = 0) (rows : ∀ l ∈ i.lanes, p % 64 + l < 64) :
    bodyMdrain i u =
      enterMat i (u.modGroup c.g fun y =>
          { y with regs := i.lanes.foldl (fun r l => (List.range (drainRegs i.w.ty)).foldl (fun r j => r.markV RegSt.emptied l (d.val + j)) r) y.regs })
        { drainOp u c i with dst := d.val, row0 := p % 64, c0 := p / 256 % 64 } (drainTileLock u i) none (.mdrainStart i.t.coord) := by
  subst hp
  have all : (i.lanes.filter fun l => decide (64 ≤ (i.rdOnce i.w.b).toNat % 64 + l)) = [] :=
    List.filter_eq_nil_iff.2 fun l hl out => absurd (rows l hl) (Nat.not_lt.2 (of_decide_eq_true out))
  simp only [bodyMdrain, ready.1.lanes, h.matHold_eq ready, tileBad_eq_none tile, h.g, h.pc, regs, row, top, col, regD_of_v hd, even, all, ne_eq, not_true, decide_false,
    Bool.or_self, List.isEmpty_nil, Bool.not_true, Bool.false_eq_true, if_false, if_true]
  rfl

/-- A drain into memory, or with triples, clears its destination's lines, and enters (R309). -/
theorem AtIssue.bodyMdrain_of_memory {p d trip : Nat} (hp : (i.rdOnce i.w.b).toNat = p) (hd : (i.rdOnce i.w.d).toNat = d) (ht : (i.rdOnce i.w.c).toNat = trip)
    (mem : i.w.sub.toNat % 4 ≠ 0) (top : p / 2 ^ 22 = 0) (opts : p / 2 ^ 16 % 64 ≠ 0 → i.w.sub.toNat / 4 = 2) (apart : 64 * (i.w.ty.bits / 8) ≤ p % 2 ^ 16)
    (d16 : d % 16 = 0) (st16 : p % 2 ^ 16 % 16 = 0) (trip16 : i.w.sub.toNat / 4 ≠ 0 → trip % 16 = 0) :
    let sp := if i.w.sub.toNat % 4 = 1 then 2 else 1
    let wide := i.w.sub.toNat / 4 ≠ 0
    let span := 63 * (p % 2 ^ 16) + 64 * (i.w.ty.bits / 8)
    let lines := ((linesOf d span).map fun l => (sp, l)) ++ if wide then (linesOf trip 1024).map fun l => (1, l) else []
    d + span ≤ (i.t.buf sp).size → (wide → trip + 1024 ≤ i.t.tm.size) →
    bodyMdrain i u =
      enterMat i (u.modTeam i.t.id fun t => lines.foldl (fun t l => t.modBuf l.1 fun b => b.clearLines [l.2]) t)
        { drainOp u c i with space := sp, dst := d, stride := p % 2 ^ 16, e := p / 2 ^ 16 % 64, trip := trip,
                             cleared := (lines.filter fun l => !(i.t.buf l.1).absent.contains l.2 || (i.t.buf l.1).orphan.contains l.2).eraseDups }
        (drainTileLock u i ++ mkLock u.nextId i.t.coord sp true i.t.ctx i.t.id d span ++
          if wide then mkLock u.nextId i.t.coord 1 true i.t.ctx i.t.id trip 1024 else []) none (.mdrainStart i.t.coord) := by
  intro sp wide span lines inside insideTrip
  subst hp hd ht
  have shape : (decide ((i.rdOnce i.w.b).toNat / 2 ^ 22 ≠ 0) || (decide ((i.rdOnce i.w.b).toNat / 2 ^ 16 % 64 ≠ 0) && decide (i.w.sub.toNat / 4 ≠ 2)) ||
      decide ((i.rdOnce i.w.b).toNat % 2 ^ 16 < 64 * (i.w.ty.bits / 8))) = false := by
    rw [decide_and_decide_eq_false fun some' => not_not.2 (opts some'), top, decide_eq_false (Nat.not_lt.2 apart)]
    rfl
  unfold bodyMdrain
  extract_lets sub space opt x p' b base tileLock
  rw [if_neg ready.1.lanes, h.matHold_eq ready, if_neg Bool.false_ne_true, if_neg mem]
  rw [if_neg (ne_true_of_eq_false shape), if_neg (not_not.2 tile.1), if_neg (not_not.2 d16), if_neg (not_not.2 st16),
    if_neg (ne_true_of_eq_false (decide_and_decide_eq_false fun w => not_not.2 (trip16 w))),
    if_neg (Nat.not_lt.2 tile.2), if_neg (Nat.not_lt.2 inside), if_neg (ne_true_of_eq_false (decide_and_decide_eq_false fun w => Nat.not_lt.2 (insideTrip w)))]
  unfold base b
  rw [h.g, h.pc]
  rfl
end

/-! MFENCE (R310). -/

/-- The operations of an MFENCE's scope that were issued before it. -/
def fenced (u : State) (c : Cur) (i : Iss) (o : MOp) : Prop :=
  o.id < i.gr.mfenceFrom u.nextId ∧ if i.w.sub = 0 then o.byw.g = c.g ∧ o.byw.uid = i.gr.uid else o.byw.g.team = i.t.id

theorem AtIssue.bodyMfence_eq (h : AtIssue s .mfence w c i core) (some' : i.lanes ≠ []) (ready : engHold i u = false) :
    ((∀ o ∈ (u.core i.t.coord).mq, ¬ fenced u c i o) → bodyMfence i u = .ok u) ∧
    ((∃ o ∈ (u.core i.t.coord).mq, fenced u c i o) → bodyMfence i u =
      .hold fun s => (s.modGroup i.g fun y => { y with mfence := some (y.lastIssue, y.catchAt, i.gr.mfenceFrom u.nextId) }).issueStalls i.cur i.t.coord i.gr.quarter) := by
  unfold bodyMfence
  extract_lets n mine
  have mine_iff (o : MOp) : mine o = true ↔ fenced u c i o := by
    unfold mine fenced
    rw [h.g]
    split <;> simp [n]
  rw [if_neg (mt List.isEmpty_iff.1 some'), ready, if_neg Bool.false_ne_true]
  refine ⟨fun none' => if_neg ?_, fun some' => if_pos ?_⟩
  · rw [List.any_eq_true]
    rintro ⟨o, ho, hm⟩
    exact none' o ho ((mine_iff o).1 hm)
  · obtain ⟨o, ho, hm⟩ := some'
    exact List.any_eq_true.2 ⟨o, ho, (mine_iff o).2 hm⟩

/-- A word that is held is asked again (R36, R39). -/
theorem AtIssue.execFull_holds {body : Iss → State → Body} {f : State → State} (h : AtIssue s op w c i core) (hw : ¬ onlyWaits op w c i)
    (hb : body i (s.entered c i core) = .hold f) : execFull op (issueKind op w) body w s = .next { f s with cur := none } := by
  rw [execFull_next h.cur, h.issueFull_holds hw hb]

theorem State.issueStalls_of_g {c c' : Cur} (hg : c'.g = c.g) (v : State) (coord q : Nat) :
    ({ v.issueStalls c' coord q with cur := none } : State) = v.issueStalls c coord q := by
  unfold State.issueStalls
  rw [hg]
end

/-- R297, R298, R300. -/
theorem reservationsAreHeldAndReleased : Claims.reservationsAreHeldAndReleased := by
  intro s w c i core u slot held bad
  refine ⟨fun h hw ready quiet => ?rsv, fun h hw ready quiet => ?rls⟩ <;> obtain rfl := h.w_eq
  case rsv =>
    refine ⟨fun low free aligned inside sound valid fits => ?_, fun taken => ?_⟩
    · exact execFull_ok h hw (body := bodyRsv) (h.bodyRsv_of_pass ready quiet low free aligned inside sound rfl valid fits) (f := held _)
    · exact h.execFull_throws hw (body := bodyRsv) ((h.bodyRsv_of_taken ready quiet taken).trans h.matrixThrow_eq)
  case rls =>
    have body := h.bodyRls_eq ready quiet
    refine ⟨fun low full => ?_, fun wrong => ?_⟩
    · rw [if_neg (not_or.2 ⟨Nat.not_lt.2 low, full⟩)] at body
      exact execFull_ok h hw (body := bodyRls) body (f := held none)
    · rw [if_pos wrong] at body
      exact h.execFull_throws hw (body := bodyRls) (body.trans h.matrixThrow_eq)

/-- R301 to R305, R307. -/
theorem matrixWordsEnterTheQueue : Claims.matrixWordsEnterTheQueue := by
  intro s w c i core u x lw rw' k ev
  refine ⟨fun h hw ready tile room free => ?mzero, fun o ho h hw ready l r left right good tile room free => ?mma,
    fun h hw ready l r f left right good tile follower inside tile' there room room' free free' => ?mmap⟩ <;> obtain rfl := h.w_eq
  case mzero =>
    exact execFull_ok h hw (body := bodyMzero) ((h.bodyMzero_eq ready tile).trans (enterMat_of_room room free)) (f := fun u => _)
  case mma =>
    have reads : MmaReads i x lw rw' k l r := ⟨rfl, rfl, rfl, rfl, left, right⟩
    simp only [List.mem_cons, List.not_mem_nil, or_false] at ho
    rcases ho with rfl | rfl
    · exact execFull_ok h hw (body := bodyMma) (h.mmaBody_solo (kind := 1) ready reads good tile (by decide) room free) (f := fun u => _)
    · exact execFull_ok h hw (body := bodyMmas) (h.mmaBody_solo (kind := 3) ready reads good tile (by decide) room free) (f := fun u => _)
  case mmap =>
    have reads : MmaReads i x lw rw' k l r := ⟨rfl, rfl, rfl, rfl, left, right⟩
    have body := (h.mmaBody_pair (kind := 2) ready reads good tile rfl follower inside tile' there).trans (enterMat_of_rooms room free room' free')
    exact execFull_ok h hw (body := bodyMmap) body (f := fun u => _)

/-- R308 to R310. -/
theorem drainsAndMatrixFence : Claims.drainsAndMatrixFence := by
  intro s w c i core u x p sub base tile n'
  refine ⟨fun h hw ready room good => ⟨?regs, ?memory⟩, fun h hw some' ready => ?fence⟩ <;> obtain rfl := h.w_eq
  case regs =>
    intro d regs hd row top col even rows free
    exact execFull_ok h hw (body := bodyMdrain) ((h.bodyMdrain_of_regs ready good rfl hd regs row top col even rows).trans (enterMat_of_room room free)) (f := fun u => _)
  case memory =>
    intro mem sp d trip st e size span wide locks lines top opts apart d16 st16 trip16 inside insideTrip free
    exact execFull_ok h hw (body := bodyMdrain)
      ((h.bodyMdrain_of_memory ready good rfl rfl rfl mem top opts apart d16 st16 trip16 inside insideTrip).trans (enterMat_of_room room free)) (f := fun u => _)
  case fence =>
    obtain ⟨passes, waits⟩ := h.bodyMfence_eq some' ready
    refine ⟨fun none' => execFull_ok h hw (body := bodyMfence) (passes none') (f := fun u => u), fun held => ?_⟩
    refine (h.execFull_holds hw (body := bodyMfence) (waits held)).trans (congrArg _ ?_)
    rw [State.issueStalls_of_g h.cur_g, h.g]

/-- Settles O24: each word's meaning once its holds and checks are passed, and the queue that it enters. -/
theorem matrixWords : Obligations.matrixWords := ⟨reservationsAreHeldAndReleased, matrixWordsEnterTheQueue, drainsAndMatrixFence⟩
end Sys2Proof.Machine
end

section
/-! SUPPORT. A unit's record in the almanac after a change of one (R315). -/
namespace Sys2Proof.Machine

section
variable {s : State} {u x : UnitId} {f : AlmRec → AlmRec}

/-- A record is what flash lists of the unit first. -/
theorem State.alm_eq_of_find {t : State} (same : (t.flash.alm.find? fun y => y.1 == x) = s.flash.alm.find? fun y => y.1 == x) : t.alm x = s.alm x := by
  unfold State.alm
  rw [same]

@[simp] theorem State.alm_setAlm_self (s : State) (u : UnitId) (f : AlmRec → AlmRec) : (s.setAlm u f).alm u = f (s.alm u) := by
  have first : ((s.setAlm u f).flash.alm.find? fun y => y.1 == u) = some (u, f (s.alm u)) := List.find?_cons_of_pos (beq_self_eq_true u)
  rw [State.alm, first]

theorem State.alm_setAlm_other (hx : x ≠ u) : (s.setAlm u f).alm x = s.alm x := by
  have rest : ((s.flash.alm.filter fun y => y.1 != u).find? fun y => y.1 == x) = s.flash.alm.find? fun y => y.1 == x := by
    rw [List.find?_filter]
    congr 1
    funext y
    by_cases hy : y.1 = x
    · simp [hy, hx]
    · simp [hy]
  exact State.alm_eq_of_find ((List.find?_cons_of_neg (by simpa using Ne.symm hx)).trans rest)
end
end Sys2Proof.Machine
end

section
/-! SUPPORT. Margin readings, re-plans and the windows of corrected errors (R316, R329; O40). -/
namespace Sys2Proof.Machine

/-! The plan of a unit (R316). -/

/-- The lowest offset up to VMAX whose slack is 20 ps above FLOOR, or VMAX (log 76). -/
def State.plan (s : State) (u : UnitId) : Nat :=
  ((List.range ((s.alm u).vmax + 1)).find? fun v => (s.alm u).floor + 20 ≤ s.slackAt u v).getD (s.alm u).vmax

/-- An offset that leaves enough slack. -/
def State.enough (s : State) (u : UnitId) (v : Nat) : Prop := v ≤ (s.alm u).vmax ∧ (s.alm u).floor + 20 ≤ s.slackAt u v

theorem State.plan_of_enough {s : State} {u : UnitId} (some' : ∃ v, s.enough u v) : s.enough u (s.plan u) ∧ ∀ v, s.enough u v → s.plan u ≤ v := by
  obtain ⟨w, low, slack⟩ := some'
  unfold State.plan
  cases found : (List.range ((s.alm u).vmax + 1)).find? fun v => decide ((s.alm u).floor + 20 ≤ s.slackAt u v) with
  | none => exact absurd (decide_eq_true slack) (List.find?_eq_none.1 found w (List.mem_range.2 (Nat.lt_succ_of_le low)))
  | some v =>
    obtain ⟨good, inRange, first⟩ := List.find?_range_eq_some.1 found
    refine ⟨⟨Nat.lt_succ_iff.1 (List.mem_range.1 inRange), of_decide_eq_true good⟩, fun y ⟨_, hy⟩ => Nat.le_of_not_lt fun less => ?_⟩
    simpa [hy] using first y less

theorem State.plan_of_none {s : State} {u : UnitId} (none' : ∀ v, ¬ s.enough u v) : s.plan u = (s.alm u).vmax := by
  unfold State.plan
  rw [List.find?_eq_none.2 fun v hv good => none' v ⟨Nat.lt_succ_iff.1 (List.mem_range.1 hv), of_decide_eq_true good⟩]
  rfl

/-! What the re-plan of one unit changes. -/

/-- A unit's record as its re-plan leaves it. -/
def State.replanned (s : State) (u : UnitId) (x : AlmRec) : AlmRec :=
  let a := s.alm u
  let trend := Config.freeTrend ((s.flash.margins.filter fun m => m.1 == unitKey u && s.day ≤ m.2.1 + 180).map fun m => m.2)
  { x with vstep := s.plan u, trend := trend
           exhaust := if 0 ≤ trend then 0xFFFF else min 0xFFFF ((s.slackAt u a.vmax - a.floor) * 30 / (-trend).toNat)
           day := if s.plan u = x.vstep then x.day else s.day }

section
variable {s : State} {u x : UnitId}

theorem State.replanUnit_of_retired (hs : (s.alm u).state = 2) : s.replanUnit u = s := if_pos hs

/-- A core's new offset waits for its next ember drain: what was in effect stays until then (R316). -/
def State.holdOffset (v : State) (u : UnitId) (new now : Nat) : State :=
  match u with
  | .core c => v.modCore c fun k => { k with vstepDue := if new = now then none else some now }
  | _ => v

theorem State.holdOffset_core (v : State) (c new now : Nat) :
    v.holdOffset (.core c) new now = v.modCore c fun k => { k with vstepDue := if new = now then none else some now } := rfl

theorem State.replanUnit_of_live (hs : (s.alm u).state ≠ 2) :
    s.replanUnit u = (s.setAlm u (s.replanned u)).holdOffset u (s.plan u) (s.inEffect u) := if_neg hs

theorem State.alm_replanUnit_self (hs : (s.alm u).state ≠ 2) : (s.replanUnit u).alm u = s.replanned u (s.alm u) := by
  rw [State.replanUnit_of_live hs]
  cases u <;> exact State.alm_setAlm_self ..

theorem State.alm_replanUnit_other (hx : x ≠ u) : (s.replanUnit u).alm x = s.alm x := by
  by_cases hs : (s.alm u).state = 2
  · rw [State.replanUnit_of_retired hs]
  · rw [State.replanUnit_of_live hs]
    cases u <;> exact State.alm_setAlm_other hx

theorem State.inEffect_replanUnit_other (hx : x ≠ u) : (s.replanUnit u).inEffect x = s.inEffect x := by
  have record := s.alm_replanUnit_other hx
  cases x with
  | core a =>
    have core : (s.replanUnit u).core a = s.core a := by
      by_cases hs : (s.alm u).state = 2
      · rw [State.replanUnit_of_retired hs]
      · rw [State.replanUnit_of_live hs]
        cases u with
        | core c => exact State.core_modCore_other _ _ (fun _ => rfl) fun same => hx (congrArg UnitId.core same)
        | _ => rfl
    simp only [State.inEffect, record, core]
  | _ => simp only [State.inEffect, record]

/-- What the re-plan of a unit leaves of the machine: all but its record and what its core has in effect. -/
theorem State.replanUnit_frame {γ : Type} {π : State → γ} (record : ∀ (v : State) a f, π (v.setAlm a f) = π v) (core : ∀ (v : State) c f, π (v.modCore c f) = π v) :
    π (s.replanUnit u) = π s := by
  by_cases hs : (s.alm u).state = 2
  · rw [State.replanUnit_of_retired hs]
  · rw [State.replanUnit_of_live hs]
    cases u with
    | core c => rw [State.holdOffset_core, core, record]
    | _ => exact record ..

theorem State.day_replanUnit : (s.replanUnit u).day = s.day := State.replanUnit_frame (fun _ _ _ => rfl) (fun _ _ _ => rfl)

theorem State.plan_replanUnit_other (hx : x ≠ u) : (s.replanUnit u).plan x = s.plan x := by
  have slack : (s.replanUnit u).slackAt x = s.slackAt x := by
    funext v
    rw [State.slackAt, State.inEffect_replanUnit_other hx, State.alm_replanUnit_other hx, State.day_replanUnit]
    rfl
  rw [State.plan, slack, State.alm_replanUnit_other hx]
  rfl
end

/-! The re-plan of all of them. -/

theorem State.alm_foldl_replanUnit_of_not_mem {x : UnitId} {l : List UnitId} (hx : x ∉ l) (s : State) : (l.foldl State.replanUnit s).alm x = s.alm x := by
  induction l generalizing s with
  | nil => rfl
  | cons a l ih =>
    rw [List.mem_cons, not_or] at hx
    rw [List.foldl_cons, ih hx.2, State.alm_replanUnit_other hx.1]

/-- Each unit gets the plan that it had at the start: the re-plan of another leaves it. -/
theorem State.vstep_foldl_replanUnit {l : List UnitId} (hl : l.Nodup) {x : UnitId} (hx : x ∈ l) (s : State) (live : (s.alm x).state ≠ 2) :
    ((l.foldl State.replanUnit s).alm x).vstep = s.plan x := by
  induction l generalizing s with
  | nil => exact absurd hx List.not_mem_nil
  | cons a l ih =>
    obtain ⟨new, rest⟩ := List.nodup_cons.1 hl
    rw [List.foldl_cons]
    by_cases ha : x = a
    · subst ha
      rw [State.alm_foldl_replanUnit_of_not_mem new, State.alm_replanUnit_self live]
      rfl
    · have later : x ∈ l := (List.mem_cons.1 hx).resolve_left ha
      rw [ih rest later _ (by rwa [State.alm_replanUnit_other ha]), State.plan_replanUnit_other ha]

theorem dieCoords_nodup (d : Nat) : (Config.dieCoords d).Nodup := by
  refine List.nodup_flatMap.2 ⟨fun r _ => List.nodup_range.map fun a b same => ?_, List.nodup_range.pairwise_of_forall_ne fun r _ r' _ apart => ?_⟩
  · exact Nat.add_left_cancel same
  · intro x hx hx'
    obtain ⟨c, hc, rfl⟩ := List.mem_map.1 hx
    obtain ⟨c', hc', same⟩ := List.mem_map.1 hx'
    rw [List.mem_range] at hc hc'
    omega

theorem div_of_mem_dieCoords {d x : Nat} (hx : x ∈ Config.dieCoords d) : x / 64 = d := by
  obtain ⟨r, hr, hx⟩ := List.mem_flatMap.1 hx
  obtain ⟨c, hc, rfl⟩ := List.mem_map.1 hx
  rw [List.mem_range] at hr hc
  omega

theorem allCoords_nodup : Config.allCoords.Nodup := by
  refine List.nodup_flatMap.2 ⟨fun d _ => dieCoords_nodup d, List.nodup_range.pairwise_of_forall_ne fun d _ d' _ apart x hx hx' => apart ?_⟩
  rw [← div_of_mem_dieCoords hx, div_of_mem_dieCoords hx']

theorem marginUnits_nodup : marginUnits.Nodup := by
  have cores : (Config.allCoords.map UnitId.core).Nodup := allCoords_nodup.map fun _ _ same => UnitId.core.inj same
  have quadrants : ((List.range 4).flatMap fun d => (List.range 4).map fun q => UnitId.quadrant d q).Nodup := by decide
  refine cores.append quadrants ?_
  intro u core quadrant
  obtain ⟨c, -, rfl⟩ := List.mem_map.1 core
  simp at quadrant

/-- The end of a re-plan: readings older than the fit are dropped, and the next one is due (R316). -/
def State.endReplan (v : State) : State :=
  ({ v with flash := { v.flash with margins := v.flash.margins.filter fun m => v.day ≤ m.2.1 + 180 } } : State).sched (v.clock + v.flash.replanDays * Config.ccPerDay) .replan

@[simp] theorem State.alm_endReplan (v : State) (u : UnitId) : v.endReplan.alm u = v.alm u := rfl
theorem State.agenda_endReplan (v : State) : v.endReplan.agenda = v.agenda ++ [(v.clock + v.flash.replanDays * Config.ccPerDay, .replan)] := rfl
theorem State.endReplan_frame (v : State) : v.endReplan.power = v.power ∧ v.endReplan.dram = v.dram ∧ v.endReplan.teams = v.teams := ⟨rfl, rfl, rfl⟩

theorem replan_becomes {s : State} (power : s.power = true) : becomes .replan s (marginUnits.foldl State.replanUnit s).endReplan := by
  have on : ¬ (!s.power) = true := by simp [power]
  show execReplan s = .next _
  rw [execReplan, if_neg on, State.endReplan]

section
variable (s : State) (l : List UnitId)

theorem State.foldl_replanUnit_frame {γ : Type} {π : State → γ} (record : ∀ (v : State) a f, π (v.setAlm a f) = π v) (core : ∀ (v : State) c f, π (v.modCore c f) = π v) :
    π (l.foldl State.replanUnit s) = π s := foldl_keeps (fun _ _ => State.replanUnit_frame record core) l s

theorem State.foldl_replanUnit_keeps :
    (l.foldl State.replanUnit s).power = s.power ∧ (l.foldl State.replanUnit s).dram = s.dram ∧ (l.foldl State.replanUnit s).teams = s.teams ∧
      (l.foldl State.replanUnit s).endReplan.agenda = s.agenda ++ [(s.clock + s.flash.replanDays * Config.ccPerDay, .replan)] := by
  have agenda := s.foldl_replanUnit_frame l (π := State.agenda) (fun _ _ _ => rfl) fun _ _ _ => rfl
  have clock := s.foldl_replanUnit_frame l (π := State.clock) (fun _ _ _ => rfl) fun _ _ _ => rfl
  have days := s.foldl_replanUnit_frame l (π := fun v => v.flash.replanDays) (fun _ _ _ => rfl) fun _ _ _ => rfl
  refine ⟨s.foldl_replanUnit_frame l (π := State.power) (fun _ _ _ => rfl) fun _ _ _ => rfl,
    s.foldl_replanUnit_frame l (π := State.dram) (fun _ _ _ => rfl) fun _ _ _ => rfl,
    s.foldl_replanUnit_frame l (π := State.teams) (fun _ _ _ => rfl) fun _ _ _ => rfl, ?_⟩
  rw [State.agenda_endReplan, agenda, clock, days]
end

/-! Readings (R316, R329). -/

/-- A reading is recorded, and acts where it lies below FLOOR at the highest offset. -/
theorem marginReading_becomes {s : State} (power : s.power = true) {coord : Nat} (m : Nat) (domain : Bool) (ok : Config.coordOk coord = true) :
    let x : UnitId := if domain then .quadrant (Config.coordDie coord) (quadrantOf coord) else .core coord
    let u := s.setAlm x fun a => { a with margin := m % 65536 }
    let v : State := { u with flash := { u.flash with margins := u.flash.margins ++ [(unitKey x, u.day, (m : Int))] } }
    becomes (.marginReading coord m domain) s
      (if (v.alm x).floor ≤ (v.alm x).margin ∨ v.inEffect x < (v.alm x).vmax then v
       else if domain then v.retireQuadrant (Config.coordDie coord) (quadrantOf coord) 3 else v.startRetire coord 3) := by
  intro x u v
  show execMarginReading coord m domain s = _
  simp only [execMarginReading, power, ok, Bool.not_true, Bool.or_self, Bool.false_eq_true, if_false, Bool.or_eq_true, decide_eq_true_eq]
  rfl

/-- Settles O40: a reading by its two outcomes, a re-plan by what it does with one unit and leaves of the others, and a new window. -/
theorem marginsAndWindows : Obligations.marginsAndWindows := by
  intro s power
  refine ⟨fun coord m domain ok => ?reading, ⟨_, replan_becomes power, ?replan⟩, ?window⟩
  case reading =>
    intro die x u v
    have read := marginReading_becomes power m domain ok
    refine ⟨fun enough => ?_, fun low top => ?_⟩
    · exact read.trans (congrArg _ (if_pos enough))
    · exact read.trans (congrArg _ (if_neg (not_or.2 ⟨Nat.not_le.2 low, Nat.not_lt.2 top⟩)))
  case replan =>
    obtain ⟨on, dram, teams, agenda⟩ := s.foldl_replanUnit_keeps marginUnits
    obtain ⟨on', dram', teams'⟩ := (marginUnits.foldl State.replanUnit s).endReplan_frame
    refine ⟨on'.trans (on.trans power), agenda, dram'.trans dram, teams'.trans teams, fun u hu live => ?_⟩
    rw [State.alm_endReplan, State.vstep_foldl_replanUnit marginUnits_nodup hu s live]
    exact ⟨State.plan_of_enough, State.plan_of_none⟩
  case window =>
    show execCecWindowEnd s = _
    simp only [execCecWindowEnd, power, Bool.not_true, Bool.false_eq_true, if_false]
end Sys2Proof.Machine
end

section
/-! SUPPORT. What a scrub read finds, and the ends of repairs (R180, R322, R324 to R326; O41). -/
namespace Sys2Proof.Machine

/-! A corrected error is counted (R322, R325, R326). -/

/-- The line, or in DRAM the row, that an error is counted for. -/
def errPlace (u : UnitId) (line : Nat) : Nat :=
  match u with
  | .bank _ _ _ => Config.freeRowOf (unitKey u) line
  | _ => line

/-- The place's count with the error. -/
def State.errCount (s : State) (u : UnitId) (place : Nat) : Nat := ((s.flash.lineCec.find? fun x => x.1 == u && x.2.1 == place).map fun x => x.2.2).getD 0 + 1

/-- The error is counted for its unit and its place; at the third the place's count starts anew. -/
def State.counted (s : State) (u : UnitId) (place : Nat) : State :=
  let rest := s.flash.lineCec.filter fun x => !(x.1 == u && x.2.1 == place)
  let v := s.setAlm u fun a => { a with cec := (a.cec + 1) % 2 ^ 32 }
  { v with flash := { v.flash with lineCec := if s.errCount u place < 3 then (u, place, s.errCount u place) :: rest else rest } }

/-- What gives a place up for another. -/
def State.giveUp (s : State) (u : UnitId) (place : Nat) : State :=
  match u with
  | .slice c => s.disableLine c place
  | .teamMem c => s.spareTmLine c place
  | .bank _ _ _ => s.spareRow u place
  | _ => s

/-- Corrected errors of all banks of a die's tile. -/
def vaultBanks (c : Nat) : List UnitId := (List.range 8).flatMap fun l => (List.range 32).map fun b => UnitId.bank c l b

/-- Firmware raises a slice or a vault at 64 corrected errors in one window. -/
def State.raiseEcc (s : State) (u : UnitId) : State :=
  match u with
  | .slice _ => if 64 ≤ (s.alm u).cec then s.startEcc u else s
  | .bank c _ _ => if 64 ≤ ((vaultBanks c).map fun b => (s.alm b).cec).sum then (vaultBanks c).foldl (fun s b => s.startEcc b) s else s
  | _ => s

theorem State.corrected_eq (s : State) (u : UnitId) (line : Nat) :
    s.corrected u line =
      let v := s.counted u (errPlace u line)
      (if s.errCount u (errPlace u line) < 3 then v else v.giveUp u (errPlace u line)).raiseEcc u := rfl

/-- No re-encoding starts: neither the slice nor the vault has 64 errors. -/
def State.calm (s : State) (u : UnitId) : Prop :=
  (∀ c, u = .slice c → (s.alm u).cec < 64) ∧ ∀ c l b, u = .bank c l b → ((vaultBanks c).map fun b => (s.alm b).cec).sum < 64

theorem State.raiseEcc_slice (s : State) (c : Nat) : s.raiseEcc (.slice c) = if 64 ≤ (s.alm (.slice c)).cec then s.startEcc (.slice c) else s := rfl
theorem State.raiseEcc_bank (s : State) (c l b : Nat) :
    s.raiseEcc (.bank c l b) = if 64 ≤ ((vaultBanks c).map fun b => (s.alm b).cec).sum then (vaultBanks c).foldl (fun s b => s.startEcc b) s else s := rfl

theorem State.raiseEcc_of_calm {s : State} {u : UnitId} (calm : s.calm u) : s.raiseEcc u = s := by
  cases u with
  | slice c => rw [State.raiseEcc_slice, if_neg (Nat.not_le.2 (calm.1 c rfl))]
  | bank c l b => rw [State.raiseEcc_bank, if_neg (Nat.not_le.2 (calm.2 c l b rfl))]
  | _ => rfl

section
variable {s : State} {u : UnitId} {line : Nat}

theorem State.corrected_of_few (few : s.errCount u (errPlace u line) < 3) : s.corrected u line = (s.counted u (errPlace u line)).raiseEcc u := by
  rw [State.corrected_eq]
  exact congrArg (State.raiseEcc · u) (if_pos few)

theorem State.corrected_of_third (third : 3 ≤ s.errCount u (errPlace u line)) :
    s.corrected u line = ((s.counted u (errPlace u line)).giveUp u (errPlace u line)).raiseEcc u := by
  rw [State.corrected_eq]
  exact congrArg (State.raiseEcc · u) (if_neg (Nat.not_lt.2 third))

/-! An uncorrectable error poisons what it lies in (R322, R324). -/

/-- The count of uncorrectable errors. -/
def State.uncorrected (s : State) (u : UnitId) : State := s.setAlm u fun a => { a with uec := (a.uec + 1) % 65536 }
/-- A block of DRAM is poisoned, and the page's contexts are told. -/
def State.poisonBlock (s : State) (b : Nat) : State :=
  ({ s with dram := { s.dram with poison := if s.dram.poison.contains b then s.dram.poison else s.dram.poison ++ [b] } } : State).pageNotice 1 0 (b / 64)

theorem State.poisonLine_core (s : State) (c line : Nat) : s.poisonLine (.core c) line = (s.uncorrected (.core c)).spoilRegister c line := rfl
theorem State.poisonLine_slice (s : State) (c line : Nat) :
    s.poisonLine (.slice c) line = (s.uncorrected (.slice c)).poisonBlock (Config.freeLineBlock (unitKey (.slice c)) line) := rfl
theorem State.poisonLine_bank (s : State) (c l b line : Nat) :
    s.poisonLine (.bank c l b) line = (s.uncorrected (.bank c l b)).poisonBlock (Config.freeLineBlock (unitKey (.bank c l b)) line) := rfl

theorem State.poisonLine_teamMem {c : Nat} {t : Team} (there : ((s.uncorrected (.teamMem c)).resident c)[(Config.freeTeamBlock (unitKey (.teamMem c)) line).1]? = some t) :
    let b := (Config.freeTeamBlock (unitKey (.teamMem c)) line).2
    s.poisonLine (.teamMem c) line = (s.uncorrected (.teamMem c)).modTeam t.id fun x =>
      { x with tm := { x.tm with mem := { x.tm.mem with poison := if x.tm.mem.poison.contains b then x.tm.mem.poison else x.tm.mem.poison ++ [b] } } } := by
  unfold State.uncorrected at there
  simp only [State.poisonLine, there]
  rfl
end

/-! Scrub reads. -/

/-- The unit has an array that is scrubbed, at a tile. -/
def scrubOk (u : UnitId) : Bool :=
  match u with
  | .core _ | .slice _ | .teamMem _ | .bank _ _ _ => Config.coordOk (Config.unitCoord u)
  | _ => false

/-- A bank's row that cannot be corrected is spared (R326). -/
def State.spareHit (s : State) (u : UnitId) (line : Nat) : State :=
  match u with
  | .bank _ _ _ => s.spareRow u (Config.freeRowOf (unitKey u) line)
  | _ => s

theorem exec_scrubRead (s : State) (u : UnitId) (line : Nat) (outcome : ScrubOutcome) :
    exec (.scrubRead u line outcome) s = .next
      (if !s.power then s
       else match scrubOk u, outcome with
        | false, _ | _, .clean => s
        | true, .corrected => s.corrected u line
        | true, .uncorrectable => (s.poisonLine u line).spareHit u line) := rfl

section
variable {s : State} {u : UnitId} {line : Nat} (power : s.power = true) (ok : scrubOk u = true)
include power ok

theorem scrubRead_clean_becomes : becomes (.scrubRead u line .clean) s s := by
  rw [becomes, exec_scrubRead, power, ok]
  rfl

theorem scrubRead_corrected_becomes : becomes (.scrubRead u line .corrected) s (s.corrected u line) := by
  rw [becomes, exec_scrubRead, power, ok]
  rfl

/-- The first two errors of a place are counted. -/
theorem scrubRead_few_becomes (few : s.errCount u (errPlace u line) < 3) (quiet : (s.counted u (errPlace u line)).calm u) :
    becomes (.scrubRead u line .corrected) s (s.counted u (errPlace u line)) := by
  have read := scrubRead_corrected_becomes (line := line) power ok
  rwa [State.corrected_of_few few, State.raiseEcc_of_calm quiet] at read

/-- At the third the place is given up. -/
theorem scrubRead_third_becomes (third : 3 ≤ s.errCount u (errPlace u line)) (quiet : ((s.counted u (errPlace u line)).giveUp u (errPlace u line)).calm u) :
    becomes (.scrubRead u line .corrected) s ((s.counted u (errPlace u line)).giveUp u (errPlace u line)) := by
  have read := scrubRead_corrected_becomes (line := line) power ok
  rwa [State.corrected_of_third third, State.raiseEcc_of_calm quiet] at read

theorem scrubRead_uncorrectable_becomes : becomes (.scrubRead u line .uncorrectable) s ((s.poisonLine u line).spareHit u line) := by
  rw [becomes, exec_scrubRead, power, ok]
  rfl
end

/-- A slice with 64 errors in the window is raised to DEC-TED (R322). -/
theorem scrubRead_raises_becomes {s : State} {c line : Nat} (power : s.power = true) (ok : scrubOk (.slice c) = true) (few : s.errCount (.slice c) line < 3)
    (many : 64 ≤ ((s.counted (.slice c) line).alm (.slice c)).cec) :
    becomes (.scrubRead (.slice c) line .corrected) s ((s.counted (.slice c) line).startEcc (.slice c)) := by
  have read := scrubRead_corrected_becomes (line := line) power ok
  rw [State.corrected_of_few (u := .slice c) (line := line) few] at read
  exact read.trans (congrArg Host.Outcome.next (if_pos many))

/-! The ends of repairs (R180, R322, R326). -/

section
variable {s : State} {u : UnitId}

/-- A slice that gave ways up for its new code may have too few left (R325). -/
def State.checkWays (s : State) (u : UnitId) : State :=
  match u with
  | .slice c => if s.fewWays c then s.retireSlice c 6 else s
  | _ => s

theorem eccReencode_becomes (raising : (s.alm u).ecc = 2) :
    becomes (.eccReencode u) s ((s.setAlm u fun a => { a with ecc := 1, day := s.day }).checkWays u) :=
  congrArg Host.Outcome.next (if_neg (not_not.2 raising))

theorem repairRowCopyComplete_becomes {row : Nat} (copies : (u, row) ∈ s.rowCopies) :
    becomes (.repairRowCopyComplete u row) s
      (({ s with rowCopies := s.rowCopies.filter fun x => x != (u, row), flash := { s.flash with rows := s.flash.rows ++ [(u, row)] } } : State).setAlm u
        fun a => { a with spare := a.spare - 1 }) :=
  congrArg Host.Outcome.next (if_neg (by simpa using copies))

theorem sliceRehomeComplete_becomes {coord : Nat} {x : Nat × Nat} (rehomes : (s.rehoming.find? fun y => y.1 == coord) = some x) :
    becomes (.sliceRehomeComplete coord) s (({ s with rehoming := s.rehoming.filter fun y => y.1 != coord } : State).setUnit (.slice coord) 2 x.2) := by
  show execSliceRehomeComplete coord s = _
  rw [execSliceRehomeComplete, rehomes]
end

/-- Settles O41: a scrub read by its outcome and the unit's kind, and the ends of repairs by what each waits for. -/
theorem errorsAreCountedAndRepaired : Obligations.errorsAreCountedAndRepaired := by
  intro s u
  refine ⟨fun power ok line => ?scrub, fun raising => eccReencode_becomes raising, fun row => repairRowCopyComplete_becomes, fun coord x => sliceRehomeComplete_becomes⟩
  intro place n rest v w calm d hit
  have scrubs : scrubOk u = true := by
    cases u with
    | port _ | bridge _ | quadrant _ _ | mgmt _ => exact ok.elim
    | _ => exact ok
  have at_ : place = errPlace u line := by cases u <;> rfl
  clear_value place
  subst at_
  have uncorrectable := scrubRead_uncorrectable_becomes (line := line) power scrubs
  refine ⟨scrubRead_clean_becomes power scrubs, fun few quiet => scrubRead_few_becomes power scrubs few quiet, fun c few hc many => ?raised,
    fun third => ⟨?thirdCore, ?thirdTeamMem, ?thirdSlice, ?thirdBank⟩, ?spoils, ?poisonsTeam, ?poisonsSlice, ?poisonsBank⟩
  case raised =>
    subst hc
    exact scrubRead_raises_becomes power scrubs few many
  case thirdCore =>
    rintro c rfl
    exact scrubRead_third_becomes power scrubs third ⟨nofun, nofun⟩
  case thirdTeamMem =>
    rintro c rfl
    exact scrubRead_third_becomes power scrubs third ⟨nofun, nofun⟩
  case thirdSlice =>
    rintro c rfl quiet
    exact scrubRead_third_becomes power scrubs third quiet
  case thirdBank =>
    rintro c l b rfl quiet
    exact scrubRead_third_becomes power scrubs third quiet
  case spoils =>
    rintro c rfl
    exact uncorrectable
  case poisonsTeam =>
    rintro c t rfl there
    rw [State.poisonLine_teamMem there] at uncorrectable
    exact uncorrectable
  case poisonsSlice =>
    rintro c rfl
    exact uncorrectable
  case poisonsBank =>
    rintro c l b rfl
    exact uncorrectable
end Sys2Proof.Machine
end

section
/-! SUPPORT. Lanes, links, heat, the leader, forced ends and power (R327, R335, R346, R349, R350; O42). -/
namespace Sys2Proof.Machine

/-! Messages to every session (R337). -/

section
variable {s : State}

theorem State.notifyTo_flash (s : State) (p : Option Nat) (ctx code : Nat) (body : List Byte) : (s.notifyTo p ctx code body).flash = s.flash := by
  unfold State.notifyTo
  dsimp only
  split
  · rfl
  · split <;> rfl

@[simp] theorem State.notifyAll_flash (s : State) (code : Nat) (body : List Byte) : (s.notifyAll code body).flash = s.flash := by
  unfold State.notifyAll
  dsimp only
  split
  · exact s.notifyTo_flash ..
  · rfl

/-- Each authenticated session gets the notice. -/
theorem State.mem_outbox_notifyAll {x : Session} (hx : x ∈ s.sessions) (principal : x.principal.isSome = true) (code : Nat) (body : List Byte) :
    ∃ m ∈ (s.notifyAll code body).outbox, m.session = some x.id ∧ m.code = code ∧ m.body = pad8 body := by
  have told : x ∈ s.sessions.filter fun y => y.principal.isSome := List.mem_filter.2 ⟨hx, principal⟩
  have some' : ¬ (s.sessions.filter fun y => y.principal.isSome).isEmpty = true := fun none' => List.ne_nil_of_mem told (List.isEmpty_iff.1 none')
  rw [State.notifyAll, if_neg some']
  exact ⟨_, List.mem_append_right _ (List.mem_map_of_mem told), rfl, rfl, rfl⟩

/-! Heat (R349). -/

/-- A row's change is recorded; the sensor 8 is the hottest junction. -/
def State.recordRow (s : State) (die sensor row : Nat) : State := { s with flash := { s.flash with thermal := s.flash.thermal ++ [(die, sensor, row)] } }

/-- A junction's row, recorded, in effect and told; a DRAM layer's, with the refresh that it sets. -/
def State.junctionTold (s : State) (die row : Nat) (temp : Int) : State :=
  ((s.recordRow die 8 row).setIssueRow die row).notifyAll 0xC007 (heatNotice die 1 0 row temp)
def State.layerTold (s : State) (die l row : Nat) (temp : Int) : State :=
  ({ s.recordRow die l row with refreshRow := spPut 0 s.refreshRow (8 * die + l) row } : State).notifyAll 0xC007 (heatNotice die 0 l row temp)

section
variable {die : Nat} {temp : Int} (power : s.power = true) (hd : die < 4)
include power hd

/-- A junction's row is recorded and told; at row 3 power goes, at row 2 the die is emptied, below it its teams stay. -/
theorem junctionRowChange_becomes (l : Nat) {row : Nat} (hrow : thermalRow none temp = row) (new : spGet 0 s.issueRow die ≠ row) :
    becomes (.thermalRowChange die true l temp) s
      (if row = 3 then (s.junctionTold die row temp).dark
       else if 2 ≤ row then (Config.dieCoords die).foldl (fun s c => s.pushOut c) (s.junctionTold die row temp)
       else ((Config.dieCoords die).foldl (fun s c => s.stay c) (s.junctionTold die row temp)).kick) := by
  subst hrow
  have acts : ¬ (!s.power || decide (4 ≤ die) || (none : Option Nat).any (fun l => decide (8 ≤ l)) || decide (thermalRow none temp = spGet 0 s.issueRow die)) = true := by
    simp [power, hd, Ne.symm new]
  exact congrArg Host.Outcome.next (if_neg acts)

/-- So is a DRAM layer's, with the refresh that it sets. -/
theorem layerRowChange_becomes {l row : Nat} (hl : l < 8) (hrow : thermalRow (some l) temp = row) (new : spGet 0 s.refreshRow (8 * die + l) ≠ row) :
    becomes (.thermalRowChange die false l temp) s (if row = 3 then (s.layerTold die l row temp).dark else s.layerTold die l row temp) := by
  subst hrow
  have acts : ¬ (!s.power || decide (4 ≤ die) || (some l).any (fun l => decide (8 ≤ l)) ||
      decide (thermalRow (some l) temp = spGet 0 s.refreshRow (8 * die + l))) = true := by
    simp [power, hd, hl, Ne.symm new]
  exact congrArg Host.Outcome.next (if_neg acts)
end

theorem thermalRow_junction {temp : Int} :
    (temp ≤ 100 → thermalRow none temp = 0) ∧ (100 < temp ∧ temp ≤ 110 → thermalRow none temp = 1) ∧ (110 < temp ∧ temp ≤ 120 → thermalRow none temp = 2) ∧
      (120 < temp → thermalRow none temp = 3) := by
  unfold thermalRow
  simp only [Option.isSome_none, Bool.false_eq_true, if_false]
  refine ⟨?_, ?_, ?_, ?_⟩ <;> intro range <;> split_ifs <;> omega

theorem thermalRow_layer {l : Nat} {temp : Int} :
    (temp ≤ 85 → thermalRow (some l) temp = 0) ∧ (85 < temp ∧ temp ≤ 95 → thermalRow (some l) temp = 1) ∧ (95 < temp ∧ temp ≤ 105 → thermalRow (some l) temp = 2) ∧
      (105 < temp → thermalRow (some l) temp = 3) := by
  unfold thermalRow
  simp only [Option.isSome_some, if_true]
  refine ⟨?_, ?_, ?_, ?_⟩ <;> intro range <;> split_ifs <;> omega

/-- Two folds agree that take the same steps where an invariant of the first holds. -/
theorem foldl_eq_of_invariant {β : Type} {P : State → Prop} {f g : State → β → State} (keeps : ∀ u x, P u → P (f u x)) (same : ∀ u x, P u → f u x = g u x) (l : List β)
    (u : State) (hu : P u) : l.foldl f u = l.foldl g u := by
  induction l generalizing u with
  | nil => rfl
  | cons x l ih => rw [List.foldl_cons, List.foldl_cons, ih _ (keeps u x hu), same u x hu]

/-- A team's parked groups look at their eviction. -/
def State.lookParked (u : State) (t : Team) : State :=
  t.groups.foldl (fun u g => if g.phase = .parked then u.sched (u.clock + 1) (.groupEvict ⟨t.id, g.slot⟩) else u) u

theorem State.lookParked_clock (u : State) (t : Team) : (u.lookParked t).clock = u.clock :=
  foldl_keeps (π := State.clock) (fun v g => by split <;> rfl) ..

theorem State.pushOut_eq (s : State) (coord : Nat) :
    s.pushOut coord = (s.resident coord).foldl (fun u t => (u.lookParked t).sched (s.clock + 1) (.teamLeave t.id)) s := by
  refine foldl_eq_of_invariant (P := fun u => u.clock = s.clock) (f := fun u t => (u.lookParked t).sched ((u.lookParked t).clock + 1) (.teamLeave t.id))
    (fun u t hu => (u.lookParked_clock t).trans hu) (fun u t hu => ?_) _ s rfl
  have clock : (u.lookParked t).clock = s.clock := (u.lookParked_clock t).trans hu
  exact congrArg (fun n => (u.lookParked t).sched (n + 1) (.teamLeave t.id)) clock
end

/-! The leader (R335). -/

/-- What a new leader keeps of the held messages is held already. -/
theorem mem_of_mem_capHeld {m : Msg} {l : List Msg} (hm : m ∈ capHeld l) : m ∈ l := by
  induction l with
  | nil => exact hm
  | cons a l ih =>
    have step : capHeld (a :: l) = if ((capHeld l).filter a.with).length < 4096 then a :: capHeld l else capHeld l := rfl
    rw [step] at hm
    split at hm
    · rcases List.mem_cons.1 hm with rfl | rest
      · exact List.mem_cons_self
      · exact List.mem_cons_of_mem a (ih rest)
    · exact List.mem_cons_of_mem a (ih hm)

/-- The unsolicited messages of the last second, which the new leader sends again. -/
def State.lateMsgs (s : State) : List Msg :=
  (s.outbox.filter fun m => 0xC000 ≤ m.code && s.clock ≤ m.at_ + Config.ccPerSec).map fun (m : Msg) => { m with session := none }

theorem leaderTakeover_becomes {s : State} {d : Nat} (next : (s.mgmtOk.filter fun x => x != s.leader).head? = some d) :
    becomes .leaderTakeover s
      { s with leader := d, mgmtOk := s.mgmtOk.filter fun x => x != s.leader, sessions := [], heldMsgs := capHeld (s.lateMsgs ++ s.heldMsgs), replayable := s.replies,
               era := s.nextSession } := by
  show execLeaderTakeover s = _
  rw [execLeaderTakeover, next]
  rfl

theorem State.session_of_held {s : State} {m : Msg} (hm : m ∈ capHeld (s.lateMsgs ++ s.heldMsgs)) : m.session = none ∨ m ∈ s.heldMsgs := by
  rcases List.mem_append.1 (mem_of_mem_capHeld hm) with late | held
  · obtain ⟨_, -, rfl⟩ := List.mem_map.1 late
    exact .inl rfl
  · exact .inr held

/-! Forced ends (R346). -/

theorem forcedEnd_becomes {s : State} {lid : Nat} {l : Launch} (hl : s.launch? lid = some l) (runs : l.completed = false) (cancelled : l.cancelled = true) :
    let u := s.modLaunch lid fun y => { y with fate := 3 }
    let cs := ((u.teams.filter fun t => t.launch == lid && t.place == .resident).map fun t => t.coord).eraseDups
    becomes (.forcedEnd lid) s ((cs.foldl (fun s c => s.resetCore c) u).failLaunch lid) := by
  show execForcedEnd lid s = _
  simp only [execForcedEnd, hl, runs, cancelled, Bool.not_true, Bool.or_self, Bool.false_eq_true, if_false]

/-! Power (R350). -/

/-- The machine as it comes up: all but flash, and what is outside of it, is as at reset. -/
def State.comesUp (s : State) : State :=
  { State.reset with flash := s.flash, leader := 0, mgmtOk := [0, 1, 2, 3], inbox := s.inbox, outbox := s.outbox, free := s.free, nextSession := s.nextSession }
/-- A step of bring-up has failed. -/
def Flash.failed (f : Flash) (n : Nat) : Flash := { f with failures := f.failures ++ [n] }
/-- The state after step 6, in which the offered cores have passed. -/
def State.passed (s : State) (fails : List Nat) : State := s.comesUp.applyAlmanac.bringUpPasses fails

/-- Step 7 or 8 has failed: the passes of step 6 stay in flash. -/
def State.lateFailure (s : State) (n : Nat) : State := { s with flash := (s.passed [n]).flash.failed n, free := (s.passed [n]).free }

theorem State.lateFailure_power (s : State) (n : Nat) : (s.lateFailure n).power = s.power := by simp only [State.lateFailure]

theorem State.lateFailure_failures (s : State) (n : Nat) : (s.lateFailure n).flash.failures = (s.passed [n]).flash.failures ++ [n] := by
  simp only [State.lateFailure, Flash.failed]

/-- The machine after a bring-up without failures. -/
def State.broughtUp (s : State) : State := ({ s.passed [] with links := almLinks (s.passed []) } : State).resume

theorem powerOn_becomes {s : State} (off : s.power = false) :
    becomes (.powerOn []) s s.broughtUp := by
  have all : ((List.range 4).filter fun d => !(([] : List Nat).contains (16 + d))) = [0, 1, 2, 3] := by decide
  have none' : ((List.range 9).find? fun k =>
      decide (1 ≤ k) && (([] : List Nat).contains k || (decide (k = 2) && ([0, 1, 2, 3] : List Nat).isEmpty))) = none := by decide
  show execPowerOn [] s = _
  unfold execPowerOn
  rw [if_neg (by simp [off])]
  simp only [all, none', State.broughtUp, State.passed, State.comesUp, List.headD_cons]

/-- A step that fails is recorded, over what the steps before it wrote to flash. -/
theorem powerOn_failed_becomes {s : State} (off : s.power = false) {n : Nat} (lo : 1 ≤ n) (hi : n ≤ 8) :
    becomes (.powerOn [n]) s
      (if n ≤ 4 then { s with flash := s.flash.failed n }
       else if n ≤ 6 then { s with flash := s.comesUp.applyAlmanac.flash.failed n }
       else s.lateFailure n) := by
  have all : ((List.range 4).filter fun d => !([n].contains (16 + d))) = [0, 1, 2, 3] := by
    refine List.filter_eq_self.2 fun d _ => ?_
    simp only [List.contains_cons, List.contains_nil, Bool.or_false, Bool.not_eq_true', beq_eq_false_iff_ne]
    omega
  have first : ((List.range 9).find? fun k => decide (1 ≤ k) && ([n].contains k || (decide (k = 2) && ([0, 1, 2, 3] : List Nat).isEmpty))) = some n := by
    refine List.find?_range_eq_some.2 ⟨by simp [lo], List.mem_range.2 (by omega), fun j hj => ?_⟩
    simp [Nat.ne_of_lt hj]
  show execPowerOn [n] s = _
  unfold execPowerOn
  rw [if_neg (by simp [off])]
  simp only [all, first, State.lateFailure, State.passed, State.comesUp, Flash.failed, List.headD_cons]

/-! What bring-up leaves of the machine (R317, R325, R329, R350). -/

/-- Step 6 with no core that fails counts the passes (R315, R317). -/
theorem State.bringUpPasses_of_sound (s : State) (fails : List Nat) (sound : ∀ c, fails.contains (256 + c) = false) :
    s.bringUpPasses fails = (Config.allCoords.filter fun c => s.offered c).foldl (fun s c => s.setAlm (.core c) fun a => { a with passes := (a.passes + 1) % 2 ^ 32 }) s := by
  simp only [State.bringUpPasses, sound, Bool.false_eq_true, if_false]

section
variable {γ : Type} {π : State → γ} (record : ∀ (v : State) a f, π (v.setAlm a f) = π v) (s : State)
include record

theorem State.applyAlmanac_frame : π s.applyAlmanac = π s :=
  foldl_keeps (fun u c => by
    have gone (v : State) (x : UnitId) (cause : Nat) : π (if (v.alm x).state = 2 then v else v.setUnit x 2 cause) = π v := by
      split
      · rfl
      · exact record ..
    split
    · exact (gone ..).trans (gone ..)
    · split
      · exact gone ..
      · rfl) ..

theorem State.bringUpPasses_frame {fails : List Nat} (sound : ∀ c, fails.contains (256 + c) = false) : π (s.bringUpPasses fails) = π s := by
  rw [State.bringUpPasses_of_sound s fails sound]
  exact foldl_keeps (fun _ _ => record ..) ..

theorem State.passed_frame {fails : List Nat} (sound : ∀ c, fails.contains (256 + c) = false) : π (s.passed fails) = π s.comesUp :=
  (State.bringUpPasses_frame record _ sound).trans (State.applyAlmanac_frame record _)
end

/-- No unit is being re-encoded. -/
def State.noReencode (s : State) : Prop := ∀ x ∈ s.flash.alm, x.2.ecc ≠ 2

theorem State.noReencode.withLinks {s : State} (h : s.noReencode) (l : List Link) : ({ s with links := l } : State).noReencode := h

theorem State.noReencode.alm_ecc {s : State} (h : s.noReencode) (u : UnitId) : (s.alm u).ecc ≠ 2 := by
  unfold State.alm
  cases found : s.flash.alm.find? fun x => x.1 == u with
  | some x => exact h x (List.mem_of_find?_eq_some found)
  | none => cases u <;> exact nofun

theorem State.noReencode.setAlm {s : State} (h : s.noReencode) {u : UnitId} {f : AlmRec → AlmRec} (hf : ∀ a, (f a).ecc = a.ecc) : (s.setAlm u f).noReencode := by
  intro x hx
  rcases List.mem_cons.1 hx with rfl | old
  · rw [hf]
    exact h.alm_ecc u
  · exact h x (List.mem_of_mem_filter old)

theorem State.noReencode.foldl {β : Type} {f : State → β → State} (hf : ∀ u x, u.noReencode → (f u x).noReencode) (l : List β) {s : State} (h : s.noReencode) :
    (l.foldl f s).noReencode := by
  induction l generalizing s with
  | nil => exact h
  | cons x l ih => exact ih (hf s x h)

theorem State.noReencode.applyAlmanac {s : State} (h : s.noReencode) : s.applyAlmanac.noReencode := by
  have gone {v : State} (hv : v.noReencode) (x : UnitId) (cause : Nat) : (if (v.alm x).state = 2 then v else v.setUnit x 2 cause).noReencode := by
    split
    · exact hv
    · exact hv.setAlm fun _ => rfl
  refine State.noReencode.foldl (fun u c hu => ?_) _ h
  dsimp only
  split
  · exact gone (gone hu _ _) _ _
  · split
    · exact gone hu _ _
    · exact hu

theorem State.noReencode.countPasses {s : State} (h : s.noReencode) (l : List Nat) :
    (l.foldl (fun s c => s.setAlm (.core c) fun a => { a with passes := (a.passes + 1) % 2 ^ 32 }) s).noReencode :=
  State.noReencode.foldl (fun _ _ hu => State.noReencode.setAlm (f := fun a => { a with passes := (a.passes + 1) % 2 ^ 32 }) hu fun _ => rfl) l h

theorem State.noReencode.passed {s : State} (h : s.noReencode) {fails : List Nat} (sound : ∀ c, fails.contains (256 + c) = false) : (s.passed fails).noReencode := by
  have up : s.comesUp.noReencode := h
  rw [State.passed, State.bringUpPasses_of_sound _ fails sound]
  exact State.noReencode.countPasses up.applyAlmanac _

/-- The re-plan keeps flash's period; without re-encodings nothing else is scheduled (R316). -/
theorem State.agenda_resume {s : State} (h : s.noReencode) :
    s.resume.agenda = s.agenda.map fun x => if x.2 == .replan then (s.clock + s.flash.replanDays * Config.ccPerDay, x.2) else x := by
  have none' : (s.flash.alm.filter fun x => decide (x.2.ecc = 2)) = [] := List.filter_eq_nil_iff.2 fun x hx raising => h x hx (of_decide_eq_true raising)
  rw [State.resume, none']
  rfl

theorem State.resume_frame {γ : Type} {π : State → γ} (agenda : ∀ (v : State) l, π { v with agenda := l } = π v) (after : ∀ (v : State) n i, π (v.after n i) = π v)
    (s : State) : π s.resume = π s :=
  (foldl_keeps (fun _ _ => after ..) ..).trans (agenda ..)

section
variable (s : State)

theorem State.broughtUp_frame {γ : Type} {π : State → γ} (record : ∀ (v : State) a f, π (v.setAlm a f) = π v) (links : ∀ (v : State) l, π { v with links := l } = π v)
    (agenda : ∀ (v : State) l, π { v with agenda := l } = π v) (after : ∀ (v : State) n i, π (v.after n i) = π v) : π s.broughtUp = π s.comesUp :=
  (State.resume_frame agenda after _).trans ((links ..).trans (State.passed_frame record s fun _ => rfl))

theorem State.broughtUp_fields :
    s.broughtUp.power = true ∧ s.broughtUp.leader = 0 ∧ s.broughtUp.mgmtOk = [0, 1, 2, 3] ∧ s.broughtUp.clock = 0 ∧ s.broughtUp.dram = {} ∧ s.broughtUp.contexts = [] ∧
      s.broughtUp.sessions = [] ∧ s.broughtUp.teams = [] ∧ s.broughtUp.flash.keys = s.flash.keys := by
  have kept := s.broughtUp_frame (π := fun v => (v.power, v.leader, v.mgmtOk, v.clock, v.dram, v.contexts, v.sessions, v.teams, v.flash.keys)) (fun _ _ _ => rfl)
    (fun _ _ => rfl) (fun _ _ => rfl) fun _ _ _ => rfl
  simp only [Prod.mk.injEq] at kept
  exact kept

theorem State.broughtUp_agenda (calm : s.noReencode) :
    s.broughtUp.agenda = [(1, .emberVisit 0), (1, .emberVisit 1), (1, .emberVisit 2), (1, .emberVisit 3), (s.flash.replanDays * Config.ccPerDay, .replan),
      (30 * Config.ccPerDay, .cecWindowEnd)] := by
  have passed := State.passed_frame (fails := []) (π := fun v => (v.agenda, v.clock, v.flash.replanDays)) (fun _ _ _ => rfl) s fun _ => rfl
  obtain ⟨agenda, clock, days⟩ : (s.passed []).agenda = State.reset.agenda ∧ (s.passed []).clock = 0 ∧ (s.passed []).flash.replanDays = s.flash.replanDays := by
    simp only [Prod.mk.injEq] at passed
    exact passed
  have sound (c : Nat) : ([] : List Nat).contains (256 + c) = false := List.contains_nil
  have calm' : (s.passed []).noReencode := calm.passed sound
  have resumed := State.agenda_resume (calm'.withLinks (almLinks (s.passed [])))
  rw [State.broughtUp, resumed, agenda, clock, days, Nat.zero_add]
  rfl
end

/-- Settles O42: each input by the checks that it passes, and what it leaves of the machine. -/
theorem linksHeatAndPower : Obligations.linksHeatAndPower := by
  intro s
  refine ⟨fun l power => ?lane, fun l training => ?retrain, fun die l temp row power hd range new => ?mild, fun die l temp power hd lo hi new => ?hot,
    fun die l temp power hd hl lo new => ?layerDark, fun coord => s.pushOut_eq coord, fun die row => ⟨rfl, rfl, rfl, rfl⟩, fun die l temp power hd lo new => ?junctionDark,
    fun die l temp row power hd hl range new => ?layer, fun d next => ?leader, fun lid l hl runs cancelled => forcedEnd_becomes hl runs cancelled,
    ⟨_, rfl, rfl, rfl, rfl, rfl, rfl, rfl⟩, fun off => ?on, fun n off lo hi => ?late, fun n off lo hi => ?early, fun n off hn => ?middle, rfl⟩
  case lane => exact congrArg Host.Outcome.next (if_pos power)
  case retrain => exact congrArg Host.Outcome.next (if_pos training)
  case mild =>
    have hrow : thermalRow none temp = row := by
      rcases range with ⟨rfl, low⟩ | ⟨rfl, warm⟩
      · exact thermalRow_junction.1 low
      · exact thermalRow_junction.2.1 warm
    have mild : row < 2 := by omega
    have changed := junctionRowChange_becomes power hd l hrow new
    rw [if_neg (by omega), if_neg (by omega)] at changed
    exact changed
  case hot =>
    have changed := junctionRowChange_becomes power hd l (thermalRow_junction.2.2.1 ⟨lo, hi⟩) new
    rw [if_neg (by decide), if_pos (by decide)] at changed
    exact changed
  case layerDark =>
    have changed := layerRowChange_becomes power hd hl (thermalRow_layer.2.2.2 lo) new
    rw [if_pos rfl] at changed
    refine ⟨_, changed, rfl, ?_, rfl, fun x hx principal => ?_⟩
    · exact congrArg Flash.thermal (State.notifyAll_flash ..)
    · exact State.mem_outbox_notifyAll (s := { s.recordRow die l 3 with refreshRow := spPut 0 s.refreshRow (8 * die + l) 3 }) hx principal ..
  case junctionDark =>
    have changed := junctionRowChange_becomes power hd l (thermalRow_junction.2.2.2 lo) new
    rw [if_pos rfl] at changed
    refine ⟨_, changed, rfl, ?_, fun x hx principal => ?_⟩
    · exact congrArg Flash.thermal (State.notifyAll_flash ..)
    · exact State.mem_outbox_notifyAll (s := (s.recordRow die 8 3).setIssueRow die 3) hx principal ..
  case layer =>
    have hrow : thermalRow (some l) temp = row := by
      rcases range with ⟨rfl, low⟩ | ⟨rfl, warm⟩ | ⟨rfl, hot⟩
      · exact thermalRow_layer.1 low
      · exact thermalRow_layer.2.1 warm
      · exact thermalRow_layer.2.2.1 hot
    have changed := layerRowChange_becomes power hd hl hrow new
    rw [if_neg (by omega)] at changed
    exact changed
  case leader =>
    exact ⟨_, leaderTakeover_becomes next, rfl, rfl, rfl, rfl, rfl, fun m => State.session_of_held, rfl, rfl, rfl⟩
  case on =>
    obtain ⟨power, leader, mgmt, clock, dram, contexts, sessions, teams, keys⟩ := s.broughtUp_fields
    exact ⟨_, powerOn_becomes off, power, leader, mgmt, clock, dram, contexts, sessions, teams, keys, s.broughtUp_agenda⟩
  case late =>
    have failed := powerOn_failed_becomes off (by omega : 1 ≤ n) hi
    rw [if_neg (by omega), if_neg (by omega)] at failed
    have sound (c : Nat) : [n].contains (256 + c) = false := by
      simp only [List.contains_cons, List.contains_nil, Bool.or_false, beq_eq_false_iff_ne]
      omega
    have failures : (s.passed [n]).flash.failures = s.flash.failures := State.passed_frame (π := fun v => v.flash.failures) (fun _ _ _ => rfl) s sound
    exact ⟨s.lateFailure n, failed, (s.lateFailure_power n).trans off, by rw [s.lateFailure_failures n, failures]⟩
  case early =>
    have failed := powerOn_failed_becomes off lo (by omega : n ≤ 8)
    rwa [if_pos hi] at failed
  case middle =>
    have failed := powerOn_failed_becomes off (by omega : 1 ≤ n) (by omega)
    rw [if_neg (by omega), if_pos (by omega)] at failed
    unfold State.comesUp at failed
    exact failed
end Sys2Proof.Machine
end

section
/-! SUPPORT. Ember passes, and what a failed pass and a reset core do (R278, R283, R315 to R319, R321, R328; O39). -/
namespace Sys2Proof.Machine

/-! The passes (R315 to R319). -/

section
variable {s : State} {coord : Nat}

/-- The visit of a die's next core, as `execEmberVisit` writes it out. -/
def State.visit (s : State) (die c : Nat) : State :=
  let cs := (Config.dieCoords die).filter fun c => s.offered c
  let out := (s.core c).visitNext
  let cur := spGet 0 s.ember die
  let skipped := if out then [] else cs.filter fun x => s.coreHalted x && cur ≤ emberIndex x && emberIndex x < emberIndex c
  let s := skipped.foldl (fun s x => s.modCore x fun k => { k with visitNext := true }) s
  let s := if out then s else { s with ember := spPut 0 s.ember die (emberIndex c + 1) }
  let s := s.modCore c fun k => { k with visitNext := false }
  if (s.core c).draining then s else s.drain c

/-- A powered die none of whose offered cores is in a pass visits its next core. -/
theorem emberVisit_becomes {die : Nat} (power : s.power = true) (hd : die < 4)
    (idle : ∀ c ∈ Config.dieCoords die, s.offered c = true → (s.core c).testing = false ∧ ((s.core c).draining = true → (s.core c).retireAfter ≠ none))
    (next : s.emberNext die = some coord) : becomes (.emberVisit die) s (s.visit die coord) := by
  have free : (((Config.dieCoords die).filter fun c => s.offered c).any fun c =>
      (s.core c).testing || ((s.core c).draining && (s.core c).retireAfter.isNone)) = false := by
    refine List.any_eq_false.2 fun c hc => ?_
    obtain ⟨on, offered⟩ := List.mem_filter.1 hc
    obtain ⟨quiet, retires⟩ := idle c on offered
    cases draining : (s.core c).draining with
    | false => simp [quiet]
    | true => simp [quiet, retires draining]
  have guard : ¬ (!s.power || decide (4 ≤ die) || ((Config.dieCoords die).filter fun c => s.offered c).any fun c =>
      (s.core c).testing || ((s.core c).draining && (s.core c).retireAfter.isNone)) = true := by
    rw [free, power, decide_eq_false (by omega)]
    exact Bool.false_ne_true
  show execEmberVisit die s = _
  rw [execEmberVisit, if_neg guard, next]
  rfl

theorem State.draining_unmarked (still : (s.core coord).draining = false) : ((s.modCore coord fun k => { k with visitNext := false }).core coord).draining = false := by
  rw [s.core_modCore_self coord (fun k => { k with visitNext := false }) fun _ => rfl]
  exact still

/-- A core visited out of turn leaves the order as it is. -/
theorem State.visit_of_visitNext {die : Nat} (still : (s.core coord).draining = false) (out : (s.core coord).visitNext = true) :
    s.visit die coord = (s.modCore coord fun k => { k with visitNext := false }).drain coord := by
  simp only [State.visit, out, if_true, List.foldl_nil, State.draining_unmarked still, Bool.false_eq_true, if_false]

/-- In turn, without Halted groups on the die, none is skipped. -/
theorem State.visit_of_turn {die : Nat} (still : (s.core coord).draining = false) (turn : (s.core coord).visitNext = false)
    (runs : ∀ c ∈ Config.dieCoords die, s.offered c = true → s.coreHalted c = false) :
    s.visit die coord =
      (({ s with ember := spPut 0 s.ember die (emberIndex coord + 1) } : State).modCore coord fun k => { k with visitNext := false }).drain coord := by
  have skipped : (((Config.dieCoords die).filter fun c => s.offered c).filter fun x =>
      s.coreHalted x && decide (spGet 0 s.ember die ≤ emberIndex x) && decide (emberIndex x < emberIndex coord)) = [] := by
    refine List.filter_eq_nil_iff.2 fun c hc => ?_
    obtain ⟨on, offered⟩ := List.mem_filter.1 hc
    simp [runs c on offered]
  have still' := State.draining_unmarked (s := { s with ember := spPut 0 s.ember die (emberIndex coord + 1) }) still
  simp only [State.visit, turn, Bool.false_eq_true, if_false, skipped, List.foldl_nil, still']

/-- A core whose patterns start now. -/
def State.testingFrom (s : State) (coord : Nat) : State :=
  s.modCore coord fun k => { k with testing := true, passStart := s.clock, passLeft := 52000, passMark := s.clock, vstepDue := none }

/-- All of the patterns are still to run, at the die's issue rate. -/
theorem State.passCc_testingFrom : (s.testingFrom coord).passCc coord = if spGet 0 s.issueRow (Config.coordDie coord) = 0 then 52000 else 104000 := by
  have core : (s.testingFrom coord).core coord =
      { s.core coord with testing := true, passStart := s.clock, passLeft := 52000, passMark := s.clock, vstepDue := none } :=
    s.core_modCore_self coord _ fun _ => rfl
  have rate : (s.testingFrom coord).issueRate (Config.coordDie coord) = if spGet 0 s.issueRow (Config.coordDie coord) = 0 then 1 else 2 := rfl
  have clock : (s.testingFrom coord).clock = s.clock := rfl
  rw [State.passCc, State.passNow, core, rate, clock]
  split <;> simp

theorem emberPatternsStart_becomes (draining : (s.core coord).draining = true) (idle : (s.core coord).testing = false) (runs : s.coreHalted coord = false)
    (empty : s.resident coord = []) (stays : (s.core coord).retireAfter = none) :
    let fail := if Config.freeBit s.free then some ((Config.freeByte (s.free + 1)).toNat % if (s.core coord).kaFirst = 0 then 5 else 6) else none
    becomes (.emberPatternsStart coord) s
      (({ s.testingFrom coord with free := s.free + 2 } : State).sched (s.clock + (s.testingFrom coord).passCc coord) (.emberPassEnd coord fail)) := by
  show execEmberPatternsStart coord s = _
  simp only [execEmberPatternsStart, draining, idle, runs, empty, stays, Bool.not_true, Bool.or_self, Bool.false_and, List.isEmpty_nil, Bool.false_eq_true, if_false]
  rfl

/-- The pass of a core that is to stay has succeeded. -/
def State.passedCore (s : State) (coord : Nat) : State :=
  (s.setAlm (.core coord) fun a =>
    { a with passes := (a.passes + 1) % 2 ^ 32, cec := if (s.core coord).kaFirst = 0 then a.cec else (a.cec + 1) % 2 ^ 32 }).modCore coord
    fun k => { k with testing := false, draining := false, lastPass := s.clock, kaFirst := 0, launches := [], tasksRun := [] }

theorem State.tryTasks_sameButAgenda (s : State) : SameButAgenda s s.tryTasks := by
  refine .foldl (fun u k => ?_) _ s
  split_ifs
  · exact u.sched_sameButAgenda _ _
  · exact u.sched_sameButAgenda _ _
  · exact .refl u

theorem SameButAgenda.clock_eq {u v : State} (h : SameButAgenda u v) : v.clock = u.clock := by
  obtain ⟨l, rfl⟩ := h
  rfl

theorem emberPassEnd_becomes_of_failed (testing : (s.core coord).testing = true) (finished : s.passNow coord = 0) (k : Nat) :
    becomes (.emberPassEnd coord (some k)) s (s.failCore coord k 2) := by
  show execEmberPassEnd coord (some k) s = _
  simp only [execEmberPassEnd, testing, finished, Bool.not_true, ne_eq, not_true_eq_false, decide_false, Bool.or_self, Bool.false_eq_true, if_false]

theorem emberPassEnd_becomes_of_passed (testing : (s.core coord).testing = true) (finished : s.passNow coord = 0) (stays : (s.core coord).retireAfter = none) :
    let v := (((s.passedCore coord).launches.foldl (fun s l => s.clearLaunch l) (s.passedCore coord)).tryTasks).kick
    becomes (.emberPassEnd coord none) s (v.sched (v.clock + 1) (.emberVisit (Config.coordDie coord))) := by
  have clock (u : State) : u.tryTasks.kick.clock = u.clock := (u.tryTasks_sameButAgenda.trans u.tryTasks.kick_sameButAgenda).clock_eq
  show execEmberPassEnd coord none s = _
  simp only [execEmberPassEnd, testing, finished, stays, reduceCtorEq, Bool.not_true, ne_eq, not_true_eq_false, decide_false, Bool.or_self,
    Bool.false_eq_true, if_false, clock]
  rfl

theorem drainTimeout_becomes (draining : (s.core coord).draining = true) (idle : (s.core coord).testing = false) (full : s.resident coord ≠ [])
    (late : (s.core coord).drainFrom + Config.ccPerMs ≤ s.clock) :
    becomes (.drainTimeout coord) s
      (if s.coreHalted coord then (s.modCore coord fun k => { k with drainFrom := s.clock }).sched (s.clock + Config.ccPerMs) (.drainTimeout coord)
       else s.resetCore coord) := by
  have guard : ¬ (!(s.core coord).draining || (s.core coord).testing || (s.resident coord).isEmpty ||
      decide (s.clock < (s.core coord).drainFrom + Config.ccPerMs)) = true := by
    simp [draining, idle, full, late]
  exact congrArg Host.Outcome.next (if_neg guard)
end

theorem passesRun : Claims.passesRun := by
  intro s coord
  refine ⟨fun die power hd idle next still => ⟨fun out => ?outOfTurn, fun turn runs => ?inTurn⟩, fun draining idle runs empty stays => ?starts,
    fun k testing finished => emberPassEnd_becomes_of_failed testing finished k, fun testing finished stays => emberPassEnd_becomes_of_passed testing finished stays,
    fun draining idle full late => ⟨fun runs => ?reset, fun halted => ?held⟩⟩
  case outOfTurn =>
    rw [← State.visit_of_visitNext (die := die) still out]
    exact emberVisit_becomes power hd idle next
  case inTurn =>
    rw [← State.visit_of_turn still turn runs]
    exact emberVisit_becomes power hd idle next
  case starts =>
    have started := emberPatternsStart_becomes draining idle runs empty stays
    rw [State.passCc_testingFrom] at started
    exact started
  case reset =>
    have late' := drainTimeout_becomes draining idle full late
    rwa [runs] at late'
  case held =>
    have late' := drainTimeout_becomes draining idle full late
    rwa [halted] at late'

/-! A failed pass (R319). -/

section
variable (s : State) (coord : Nat)

/-- The tasks that ran on a core since its last pass, and the launches that had a team there. -/
def State.ranOn : List Task := s.tasks.filter fun k => (k.die, k.id) ∈ (s.core coord).tasksRun ∧ (k.state = 2 ∨ k.state = 3)
def State.namedOn : List Launch := (s.rollback (s.ranOn coord)).2.launches.filter fun l => l.grid ∈ (s.core coord).launches

/-- A launch named by a report is cancelled if its context asks for it. -/
def State.asksCancel (u : State) (l : Launch) : Prop := (∃ x, u.ctx? l.ctx = some x ∧ x.p.cancelOnFail = true) ∧ l.completed = false
def State.cancelIfAsked (u : State) (l : Launch) : State :=
  let asks := match u.ctx? l.ctx with
    | some x => x.p.cancelOnFail
    | none => false
  if asks && !l.completed then u.cancelLaunch l else u
/-- Nothing waits any more for the clearing of the launches that a report names. -/
def State.clearNamed (u : State) (named : List Launch) : State := named.foldl (fun u l => u.modLaunch l.grid fun y => { y with cleared := true, heldBody := none }) u

theorem State.failCore_eq (group cause : Nat) :
    s.failCore coord group cause =
      ((((s.namedOn coord).foldl State.cancelIfAsked
        (((s.rollback (s.ranOn coord)).2.report coord group (s.rollback (s.ranOn coord)).1.length (s.namedOn coord)).clearNamed (s.namedOn coord))).modCore coord
          fun x => { x with launches := [], tasksRun := [] })).gate coord cause := by
  have ran : (s.tasks.filter fun k => (s.core coord).tasksRun.contains (k.die, k.id) && (decide (k.state = 2) || decide (k.state = 3))) = s.ranOn coord :=
    List.filter_congr fun k _ => by simp
  have named (u : State) : (u.launches.filter fun l => (s.core coord).launches.contains l.grid) = u.launches.filter fun l => l.grid ∈ (s.core coord).launches :=
    List.filter_congr fun l _ => by simp
  rw [State.failCore, ran, named]
  rfl

theorem State.cancelIfAsked_eq (u : State) (l : Launch) [Decidable (u.asksCancel l)] : u.cancelIfAsked l = if u.asksCancel l then u.cancelLaunch l else u := by
  refine if_congr ?_ rfl rfl
  cases found : u.ctx? l.ctx with
  | none => simp [State.asksCancel, found]
  | some x => simp [State.asksCancel, found]

theorem State.foldl_cancelIfAsked_of_none {u : State} {l : List Launch} (none' : ∀ x ∈ l, ¬ u.asksCancel x) : l.foldl State.cancelIfAsked u = u := by
  classical
  induction l with
  | nil => rfl
  | cons x l ih =>
    rw [List.foldl_cons, State.cancelIfAsked_eq, if_neg (none' x List.mem_cons_self)]
    exact ih fun y hy => none' y (List.mem_cons_of_mem x hy)

theorem State.foldl_cancelIfAsked_singleton {u : State} {l : Launch} (asks : u.asksCancel l) : [l].foldl State.cancelIfAsked u = u.cancelLaunch l := by
  classical
  exact (u.cancelIfAsked_eq l).trans (if_pos asks)

/-- The body of the provisional-window report, for a context's launches. -/
def State.reportBody (group rolled off : Nat) (l : List Launch) : List Byte :=
  bytesOfNat 1 coord ++ bytesOfNat 1 group ++ bytesOfNat 2 l.length ++ bytesOfNat 4 rolled ++ bytesOfNat 8 ((s.core coord).lastPass - off) ++
    bytesOfNat 8 ((s.core coord).passStart - off) ++ (sortBy (fun (x : Launch) => x.grid) l).flatMap fun x => bytesOfNat 8 x.grid

theorem State.report_eq (group rolled : Nat) (named : List Launch) :
    s.report coord group rolled named =
      if named = [] then s.notifyAll 0xC003 (s.reportBody coord group rolled 0 [])
      else (named.map fun l => (l.ctx, l.principal)).eraseDups.foldl (fun u x =>
        u.notifyTo (some x.2) x.1 0xC003
          (s.reportBody coord group rolled (((u.ctx? x.1).map fun y => y.clockOff).getD 0) (named.filter fun l => l.ctx = x.1 ∧ l.principal = x.2))) s := by
  have own (x : Nat × Nat) : (named.filter fun l => l.ctx == x.1 && l.principal == x.2) = named.filter fun l => l.ctx = x.1 ∧ l.principal = x.2 :=
    List.filter_congr fun l _ => by simp [beq_eq_decide]
  simp only [← own]
  exact if_congr List.isEmpty_iff rfl rfl

/-! Rollback (R283). -/

theorem Task.not_all_finished {l : List Task} : (!l.all Task.finished) = true ↔ ∃ p ∈ l, p.finished = false := by
  simp

/-! A core that is reset, a launch that fails (R278). -/

/-- What becomes of an operation of a reset core. -/
def State.resetOp (u : State) (o : EOp) : State :=
  match o.kind with
  | .spill _ _ => (if u.engBad o (u.chunkWrites o 0) true = none then u.engWrite o o.team (u.chunkWrites o 0) (o.recs.flatMap recBytes) else u).dropOp o
  | .refill q n => (u.modQueue o.team q fun x => { x with reserved := x.reserved - n, refill := none }).dropOp o
  | _ => u

theorem State.resetCore_eq :
    s.resetCore coord = ((s.resident coord).map fun t => t.launch).eraseDups.foldl (fun u l => u.failLaunch l)
      ((s.ops.filter fun o => (s.resident coord).any fun t => t.id == o.team).foldl State.resetOp s) := by
  have same : (fun (u : State) (o : EOp) => match o.kind with
      | .spill _ _ =>
        (if (u.engBad o (u.chunkWrites o 0) true).isNone then u.engWrite o o.team (u.chunkWrites o 0) (o.recs.flatMap recBytes) else u).dropOp o
      | .refill q n => (u.modQueue o.team q fun x => { x with reserved := x.reserved - n, refill := none }).dropOp o
      | _ => u) = State.resetOp := by
    funext u o
    unfold State.resetOp
    split
    · exact congrArg (State.dropOp · o) (if_congr Option.isNone_iff_eq_none rfl rfl)
    · rfl
    · rfl
  rw [← same]
  rfl

/-- The end of a launch in failure, given its teams and the steerings that go on. -/
def State.failWith (s : State) (l : Launch) (mine : List Team) (steers : List Steering) : State :=
  let d := (({ s with steers := steers } : State).stopWaiting l.grid).dropTasks l.grid
  let stop := d.2.cancelInside (d.2.inside (.grid l.grid)) (fun t => t.launch == l.grid) (isMember (.grid l.grid))
  let out := mine.foldl (fun u t => match u.team? t.id with
    | some y => u.exitTeam y
    | none => u) stop
  let c := cancelRec (out.ctxClock l.ctx)
  (out.modLaunch l.grid fun y =>
    { y with
      exceptions := match y.exceptions with
        | some e => some { e.merge c with clock := c.clock, level := 2 }
        | none => some c
      fate := if y.fate = 3 then 3 else 1 }).sched (out.clock + 1) (.launchComplete l.grid)

def State.teamsOf (s : State) (l : Launch) : List Team := s.teams.filter fun t => t.launch = l.grid ∧ t.place ≠ .ended
/-- The steerings outside of a launch. -/
def State.steersBut (s : State) (l : Launch) : List Steering :=
  s.steers.filter fun y => match y.region with
    | .group t _ _ | .team t _ => (s.teamsOf l).all fun x => x.id != t
    | .grid a => a != l.grid

variable {s} {l : Launch}

theorem State.failLaunch_of_completed (hl : s.launch? l.grid = some l) (ended : l.completed = true) : s.failLaunch l.grid = s := by
  rw [State.failLaunch, hl]
  exact if_pos ended

theorem State.failLaunch_eq (hl : s.launch? l.grid = some l) (runs : l.completed = false) : s.failLaunch l.grid = s.failWith l (s.teamsOf l) (s.steersBut l) := by
  have mine : (s.teams.filter fun t => t.launch == l.grid && t.place != .ended) = s.teamsOf l := List.filter_congr fun t _ => by simp [beq_eq_decide, bne]
  have steers : (s.steers.filter fun y => !(match y.region with
      | .group t _ _ | .team t _ => (s.teamsOf l).any fun x => x.id == t
      | .grid a => a == l.grid)) = s.steersBut l := by
    refine List.filter_congr fun y _ => ?_
    cases y.region with
    | group t g k => exact List.not_any_eq_all_not
    | team t k => exact List.not_any_eq_all_not
    | grid a => rfl
  rw [← steers, ← mine, State.failLaunch, hl]
  exact if_neg (by simp [runs])
end

theorem failedCoresAreActedOn : Claims.failedCoresAreActedOn := by
  intro s coord
  refine ⟨fun group cause => ?failed, fun _ => rfl, fun l => ?rolled, s.resetCore_eq coord, fun l hl => ⟨State.failLaunch_of_completed hl, State.failLaunch_eq hl⟩⟩
  case failed =>
    intro c r named k body told clear asks v hv
    have reported : r.2.report coord group r.1.length named = told := r.2.report_eq coord group r.1.length named
    have acted : named.foldl State.cancelIfAsked clear = v := by
      rcases hv with ⟨none', rfl⟩ | ⟨l, one, asked, rfl⟩
      · exact State.foldl_cancelIfAsked_of_none none'
      · rw [one]
        exact State.foldl_cancelIfAsked_singleton asked
    rw [s.failCore_eq coord group cause, ← acted]
    show ((named.foldl State.cancelIfAsked ((r.2.report coord group r.1.length named).clearNamed named)).modCore coord _).gate coord cause = _
    rw [reported]
    rfl
  case rolled =>
    intro all u
    have waits : (u.tasks.map fun (k : Task) => if k.state = 1 ∧ ∃ p ∈ u.predsOf k, p.finished = false then { k with state := 0 } else k) =
        u.tasks.map fun (k : Task) => if k.state = 1 && !(u.predsOf k).all Task.finished then { k with state := 0 } else k :=
      List.map_congr_left fun k _ => if_congr (by rw [Bool.and_eq_true, decide_eq_true_iff, Task.not_all_finished]) rfl rfl
    rw [waits]
    rfl

/-- Settles O39: the passes by the checks that each step passes; a failed pass, a rollback and a reset by the equations of their definitions. -/
theorem emberPassesRun : Obligations.emberPassesRun := ⟨passesRun, failedCoresAreActedOn⟩
end Sys2Proof.Machine
end
